-- ==== Sys2Proof/Word.lean ====
section
/-! DEFINITION. The machine's words and their plainest arithmetic: 64-bit control-plane values, 512-bit
data-plane values, 1,024-bit accumulator rows, bytes (R6, R40, R193). -/
namespace Sys2Proof

/-- A control-plane value, 64 bits (R40). -/
abbrev W64 := BitVec 64
/-- A data-plane value, 512 bits (R40). -/
abbrev W512 := BitVec 512
/-- An accumulator row, 1,024 bits (R193). -/
abbrev Row := BitVec 1024
/-- One byte of memory (R6). -/
abbrev Byte := BitVec 8

/-- The bits m down to n of x, both inclusive, as a natural number: `fld` of R107. -/
def fld {w : Nat} (x : BitVec w) (m n : Nat) : Nat := (x.toNat >>> n) % 2 ^ (m + 1 - n)

/-- One bit of x (R3). -/
def bit {w : Nat} (x : BitVec w) (n : Nat) : Bool := x.getLsbD n

end Sys2Proof
end

