-- ==== Sys2Proof/Syntax.lean ====
section
/-! DEFINITION. The abstract instructions and steps of the part: one constructor per row of spec/opcode_table.json.
The first 220 constructors are the instructions of the opcode map (R102) with the operand fields of the instruction word
(R87): y, w, g and s are the type, width, format and scope codes, a and b the source selects, d and e the destination
selects DA and DB, t the tag action. The literal and the trigger word of the slot are read from the firing (State). The
other 136 are the indivisible steps of the engines (95_what_each_step_holds.md); each names the element it happens at. -/
namespace Sys2Proof

/-- A unit that can be fenced (R30), with its number in the package: tiles as die·2048 + tile number, memory tiles as
die·256 + number, clusters and BTEs as die·128 + cluster, AGTs and pseudo-channels as die·64 + k. -/
inductive Unit0 where
  | tile (n : Nat)
  | mtile (n : Nat)
  | router (n : Nat)
  | bte (n : Nat)
  | agt (n : Nat)
  | pchan (g : Nat)
  | strait (n : Nat)
  | link (n : Nat)
  | controller (die : Nat)
  deriving DecidableEq, Repr

/-- The instructions and steps of the part, one constructor per row of the opcode table. -/
inductive Instr where
  /-- add.t (R136): Adds two integers of the type t8 names, wrapping or saturating under SAT, and extends the result to 64 bits. -/
  | add (y : BitVec 3) (a : BitVec 5) (b : BitVec 5) (d : BitVec 4) (e : BitVec 4) (t : BitVec 4)
  /-- sub.t (R136): Subtracts two integers of the type t8 names, wrapping or saturating under SAT. -/
  | sub (y : BitVec 3) (a : BitVec 5) (b : BitVec 5) (d : BitVec 4) (e : BitVec 4) (t : BitVec 4)
  /-- mul.lo.t (R136): Gives the low W bits of the integer product, wrapping or saturating under SAT. -/
  | mulLo (y : BitVec 3) (a : BitVec 5) (b : BitVec 5) (d : BitVec 4) (e : BitVec 4) (t : BitVec 4)
  /-- mul.hi.t (R136): Gives the high W bits of the exact integer product; it never saturates. -/
  | mulHi (y : BitVec 3) (a : BitVec 5) (b : BitVec 5) (d : BitVec 4) (e : BitVec 4) (t : BitVec 4)
  /-- div.t (R136): Gives the integer quotient, truncated towards zero, on the PE's single divider, with the division-by-zero rule of idiv. -/
  | div (y : BitVec 3) (a : BitVec 5) (b : BitVec 5) (d : BitVec 4) (e : BitVec 4) (t : BitVec 4)
  /-- rem.t (R136): Gives the integer remainder, which takes the sign of the dividend, on the PE's single divider. -/
  | rem (y : BitVec 3) (a : BitVec 5) (b : BitVec 5) (d : BitVec 4) (e : BitVec 4) (t : BitVec 4)
  /-- min.t (R136): Gives the smaller of two integers of the type; the flag says whether A was chosen. -/
  | min (y : BitVec 3) (a : BitVec 5) (b : BitVec 5) (d : BitVec 4) (e : BitVec 4) (t : BitVec 4)
  /-- max.t (R136): Gives the larger of two integers of the type; the flag says whether A was chosen. -/
  | max (y : BitVec 3) (a : BitVec 5) (b : BitVec 5) (d : BitVec 4) (e : BitVec 4) (t : BitVec 4)
  /-- cmp.eq.t (R137): Compares two integers for equality and gives 0 or 1. -/
  | cmpEq (y : BitVec 2) (a : BitVec 5) (b : BitVec 5) (d : BitVec 4) (e : BitVec 4) (t : BitVec 4)
  /-- cmp.ne.t (R137): Compares two integers for inequality and gives 0 or 1. -/
  | cmpNe (y : BitVec 2) (a : BitVec 5) (b : BitVec 5) (d : BitVec 4) (e : BitVec 4) (t : BitVec 4)
  /-- cmp.lt.t (R137): Gives 1 when A is less than B under the type, else 0. -/
  | cmpLt (y : BitVec 2) (a : BitVec 5) (b : BitVec 5) (d : BitVec 4) (e : BitVec 4) (t : BitVec 4)
  /-- cmp.le.t (R137): Gives 1 when A is less than or equal to B under the type, else 0. -/
  | cmpLe (y : BitVec 2) (a : BitVec 5) (b : BitVec 5) (d : BitVec 4) (e : BitVec 4) (t : BitVec 4)
  /-- abs.iW (R138): Gives the signed absolute value, wrapping or saturating the most negative value. -/
  | abs (w : BitVec 2) (a : BitVec 5) (d : BitVec 4) (e : BitVec 4) (t : BitVec 4)
  /-- neg.iW (R138): Gives the signed negation, wrapping or saturating the most negative value. -/
  | neg (w : BitVec 2) (a : BitVec 5) (d : BitVec 4) (e : BitVec 4) (t : BitVec 4)
  /-- sel (R139): Gives A when predicate pI is set and B otherwise; both heads are dequeued. -/
  | sel (a : BitVec 5) (b : BitVec 5) (d : BitVec 4) (e : BitVec 4) (t : BitVec 4)
  /-- and (R140): Gives the bitwise AND of two 64-bit values. -/
  | and (a : BitVec 5) (b : BitVec 5) (d : BitVec 4) (e : BitVec 4) (t : BitVec 4)
  /-- or (R140): Gives the bitwise OR of two 64-bit values. -/
  | or (a : BitVec 5) (b : BitVec 5) (d : BitVec 4) (e : BitVec 4) (t : BitVec 4)
  /-- xor (R140): Gives the bitwise XOR of two 64-bit values. -/
  | xor (a : BitVec 5) (b : BitVec 5) (d : BitVec 4) (e : BitVec 4) (t : BitVec 4)
  /-- andn (R140): Gives A AND NOT B. -/
  | andn (a : BitVec 5) (b : BitVec 5) (d : BitVec 4) (e : BitVec 4) (t : BitVec 4)
  /-- not (R140): Gives the bitwise complement of A. -/
  | not (a : BitVec 5) (d : BitVec 4) (e : BitVec 4) (t : BitVec 4)
  /-- shl (R140): Shifts A left by B[5:0]. -/
  | shl (a : BitVec 5) (b : BitVec 5) (d : BitVec 4) (e : BitVec 4) (t : BitVec 4)
  /-- shr (R140): Shifts A right logically by B[5:0]. -/
  | shr (a : BitVec 5) (b : BitVec 5) (d : BitVec 4) (e : BitVec 4) (t : BitVec 4)
  /-- sar (R140): Shifts A right arithmetically by B[5:0]. -/
  | sar (a : BitVec 5) (b : BitVec 5) (d : BitVec 4) (e : BitVec 4) (t : BitVec 4)
  /-- rol (R140): Rotates A left by B[5:0]. -/
  | rol (a : BitVec 5) (b : BitVec 5) (d : BitVec 4) (e : BitVec 4) (t : BitVec 4)
  /-- ror (R140): Rotates A right by B[5:0]. -/
  | ror (a : BitVec 5) (b : BitVec 5) (d : BitVec 4) (e : BitVec 4) (t : BitVec 4)
  /-- extr (R140): Extracts a bit field of A, zero-extended, with position and width from B. -/
  | extr (a : BitVec 5) (b : BitVec 5) (d : BitVec 4) (e : BitVec 4) (t : BitVec 4)
  /-- extr.s (R140): Extracts a bit field of A, sign-extended, with position and width from B. -/
  | extrS (a : BitVec 5) (b : BitVec 5) (d : BitVec 4) (e : BitVec 4) (t : BitVec 4)
  /-- ins (R140): Replaces a bit field of A, given by the literal, with the low bits of B. -/
  | ins (a : BitVec 5) (b : BitVec 5) (d : BitVec 4) (e : BitVec 4) (t : BitVec 4)
  /-- popc (R140): Counts the 1 bits of A. -/
  | popc (a : BitVec 5) (d : BitVec 4) (e : BitVec 4) (t : BitVec 4)
  /-- clz (R140): Counts the zero bits above the highest 1 bit of A. -/
  | clz (a : BitVec 5) (d : BitVec 4) (e : BitVec 4) (t : BitVec 4)
  /-- ctz (R140): Counts the zero bits below the lowest 1 bit of A. -/
  | ctz (a : BitVec 5) (d : BitVec 4) (e : BitVec 4) (t : BitVec 4)
  /-- bswap (R140): Reverses the byte order of A. -/
  | bswap (a : BitVec 5) (d : BitVec 4) (e : BitVec 4) (t : BitVec 4)
  /-- pset (R141): Sets each predicate pi that B selects to A[i]. -/
  | pset (a : BitVec 5) (b : BitVec 5) (t : BitVec 4)
  /-- pget (R141): Reads the four predicates as a 4-bit value. -/
  | pget (d : BitVec 4) (e : BitVec 4) (t : BitVec 4)
  /-- pand (R142): Sets predicate pD to pX AND pY through the condition-flag update. -/
  | pand (t : BitVec 4)
  /-- por (R142): Sets predicate pD to pX OR pY through the condition-flag update. -/
  | por (t : BitVec 4)
  /-- pxor (R142): Sets predicate pD to pX XOR pY through the condition-flag update. -/
  | pxor (t : BitVec 4)
  /-- pnot (R142): Sets predicate pD to NOT pX through the condition-flag update. -/
  | pnot (t : BitVec 4)
  /-- deq (R145): Dequeues the head of a control-plane input port and writes its payload as DATA, or discards it. -/
  | deq (a : BitVec 5) (d : BitVec 4) (e : BitVec 4) (t : BitVec 4)
  /-- peek (R145): Reads the head payload of a control-plane input port without dequeuing it. -/
  | peek (a : BitVec 5) (d : BitVec 4) (e : BitVec 4) (t : BitVec 4)
  /-- fwd (R145): Dequeues the head of a control-plane input port and writes it with its kind kept. -/
  | fwd (a : BitVec 5) (d : BitVec 4) (e : BitVec 4) (t : BitVec 4)
  /-- emit.null (R146): Writes a NULL token to control-plane output ports. -/
  | emitNull (d : BitVec 4) (e : BitVec 4) (t : BitVec 4)
  /-- emit.mark (R146): Writes a MARK of rank A[2:0] to control-plane outputs, or ERR MARK_RANK when the rank is 0. -/
  | emitMark (a : BitVec 5) (d : BitVec 4) (e : BitVec 4) (t : BitVec 4)
  /-- emit.err (R146): Writes an ERR token whose payload is A to control-plane outputs. -/
  | emitErr (a : BitVec 5) (d : BitVec 4) (e : BitVec 4) (t : BitVec 4)
  /-- retag (R147): Changes the tag of a control-plane input port's head in place. -/
  | retag (a : BitVec 5) (b : BitVec 5) (t : BitVec 4)
  /-- pos.reset (R147): Sets a control-plane input port's HPOS count to 0. -/
  | posReset (a : BitVec 5) (t : BitVec 4)
  /-- deq.d (R145): Dequeues the head of a data-plane input port and writes its payload as DATA, or discards it. -/
  | deqD (a : BitVec 5) (d : BitVec 4) (e : BitVec 4) (t : BitVec 4)
  /-- peek.d (R145): Reads the head payload of a data-plane input port without dequeuing it. -/
  | peekD (a : BitVec 5) (d : BitVec 4) (e : BitVec 4) (t : BitVec 4)
  /-- fwd.d (R145): Dequeues the head of a data-plane input port and writes it with its kind kept. -/
  | fwdD (a : BitVec 5) (d : BitVec 4) (e : BitVec 4) (t : BitVec 4)
  /-- emit.null.d (R146): Writes a NULL token to data-plane output ports. -/
  | emitNullD (d : BitVec 4) (e : BitVec 4) (t : BitVec 4)
  /-- emit.mark.d (R146): Writes a MARK whose rank is taken from lane 0 of A to data-plane outputs. -/
  | emitMarkD (a : BitVec 5) (d : BitVec 4) (e : BitVec 4) (t : BitVec 4)
  /-- emit.err.d (R146): Writes an ERR token with lane 0 of A as payload to data-plane outputs. -/
  | emitErrD (a : BitVec 5) (d : BitVec 4) (e : BitVec 4) (t : BitVec 4)
  /-- retag.d (R147): Changes the tag of a data-plane input port's head in place. -/
  | retagD (a : BitVec 5) (b : BitVec 5) (t : BitVec 4)
  /-- pos.reset.d (R147): Sets a data-plane input port's HPOS count to 0. -/
  | posResetD (a : BitVec 5) (t : BitVec 4)
  /-- dl.get (R148): Reads a stage of a control-plane delay line that this tile feeds. -/
  | dlGet (a : BitVec 5) (d : BitVec 4) (e : BitVec 4) (t : BitVec 4)
  /-- dl.put (R148): Writes a stage of a control-plane delay line that this tile feeds. -/
  | dlPut (a : BitVec 5) (b : BitVec 5) (t : BitVec 4)
  /-- dl.get.d (R148): Reads a stage of a data-plane delay line that this tile feeds. -/
  | dlGetD (a : BitVec 5) (d : BitVec 4) (e : BitVec 4) (t : BitVec 4)
  /-- dl.put.d (R148): Writes a stage of a data-plane delay line that this tile feeds. -/
  | dlPutD (a : BitVec 5) (b : BitVec 5) (t : BitVec 4)
  /-- q.cnt (R150): Reads the occupancy of q0 or q1 without popping it. -/
  | qCnt (a : BitVec 5) (d : BitVec 4) (e : BitVec 4) (t : BitVec 4)
  /-- q.clr (R150): Empties q0 or q1. -/
  | qClr (a : BitVec 5) (t : BitVec 4)
  /-- q.depth (R150): Sets the depth of q0 or q1 to 1-16, discarding the newer values that no longer fit. -/
  | qDepth (a : BitVec 5) (b : BitVec 5) (t : BitVec 4)
  /-- mode.rd (R151): Reads the bank's mode word once every earlier operation of the bank has written its result. -/
  | modeRd (d : BitVec 4) (e : BitVec 4) (t : BitVec 4)
  /-- mode.wr (R151): Writes the bank's mode word. -/
  | modeWr (a : BitVec 5) (t : BitVec 4)
  /-- mode.set (R151): ORs A into the bank's mode word. -/
  | modeSet (a : BitVec 5) (t : BitVec 4)
  /-- mode.clr (R151): Clears the bits of A in the bank's mode word. -/
  | modeClr (a : BitVec 5) (t : BitVec 4)
  /-- sw.idx (R152): Writes the index A + B as a DATA token to a switch element's index input. -/
  | swIdx (a : BitVec 5) (b : BitVec 5) (d : BitVec 4) (e : BitVec 4) (t : BitVec 4)
  /-- ml.on (R154): Turns on the maintenance loop-counter rotation of k registers, or traps with MAINT_ONLY outside maintenance mode. -/
  | mlOn (a : BitVec 5) (b : BitVec 5) (t : BitVec 4)
  /-- ml.off (R154): Turns the bank's maintenance loop off. -/
  | mlOff (t : BitVec 4)
  /-- ml.rd (R154): Reads the bank's loop word: on bit, ring size and counter. -/
  | mlRd (d : BitVec 4) (e : BitVec 4) (t : BitVec 4)
  /-- fadd.f (R172): Adds floating-point lanes of the group's format, each rounded once under RM. -/
  | fadd (g : BitVec 2) (a : BitVec 5) (b : BitVec 5) (d : BitVec 4) (e : BitVec 4) (t : BitVec 4)
  /-- fsub.f (R172): Subtracts floating-point lanes, each rounded once. -/
  | fsub (g : BitVec 2) (a : BitVec 5) (b : BitVec 5) (d : BitVec 4) (e : BitVec 4) (t : BitVec 4)
  /-- fmul.f (R172): Multiplies floating-point lanes, each rounded once. -/
  | fmul (g : BitVec 2) (a : BitVec 5) (b : BitVec 5) (d : BitVec 4) (e : BitVec 4) (t : BitVec 4)
  /-- fma.f (R173): Computes A times B plus vC per lane with a single rounding into vC. -/
  | fma (g : BitVec 2) (a : BitVec 5) (b : BitVec 5) (d : BitVec 4) (e : BitVec 4) (t : BitVec 4)
  /-- fms.f (R173): Computes A times B minus vC per lane with a single rounding into vC. -/
  | fms (g : BitVec 2) (a : BitVec 5) (b : BitVec 5) (d : BitVec 4) (e : BitVec 4) (t : BitVec 4)
  /-- fnma.f (R173): Computes vC minus A times B per lane with a single rounding into vC. -/
  | fnma (g : BitVec 2) (a : BitVec 5) (b : BitVec 5) (d : BitVec 4) (e : BitVec 4) (t : BitVec 4)
  /-- fmin.f (R174): Takes the smaller of each lane pair, with the NaN and signed-zero rules. -/
  | fmin (g : BitVec 2) (a : BitVec 5) (b : BitVec 5) (d : BitVec 4) (e : BitVec 4) (t : BitVec 4)
  /-- fmax.f (R174): Takes the larger of each lane pair, with the NaN and signed-zero rules. -/
  | fmax (g : BitVec 2) (a : BitVec 5) (b : BitVec 5) (d : BitVec 4) (e : BitVec 4) (t : BitVec 4)
  /-- fabs.f (R175): Gives the absolute value of each lane. -/
  | fabs (g : BitVec 2) (a : BitVec 5) (d : BitVec 4) (e : BitVec 4) (t : BitVec 4)
  /-- fneg.f (R175): Reverses the sign of each lane. -/
  | fneg (g : BitVec 2) (a : BitVec 5) (d : BitVec 4) (e : BitVec 4) (t : BitVec 4)
  /-- fcmp.eq.f (R176): Sets a lane mask where the lanes compare equal. -/
  | fcmpEq (g : BitVec 2) (a : BitVec 5) (b : BitVec 5) (d : BitVec 4) (e : BitVec 4) (t : BitVec 4)
  /-- fcmp.lt.f (R176): Sets a lane mask where A is less than B. -/
  | fcmpLt (g : BitVec 2) (a : BitVec 5) (b : BitVec 5) (d : BitVec 4) (e : BitVec 4) (t : BitVec 4)
  /-- fcmp.le.f (R176): Sets a lane mask where A is less than or equal to B. -/
  | fcmpLe (g : BitVec 2) (a : BitVec 5) (b : BitVec 5) (d : BitVec 4) (e : BitVec 4) (t : BitVec 4)
  /-- fcmp.un.f (R176): Sets a lane mask where either lane is a NaN. -/
  | fcmpUn (g : BitVec 2) (a : BitVec 5) (b : BitVec 5) (d : BitVec 4) (e : BitVec 4) (t : BitVec 4)
  /-- fclass.f (R177): Gives a one-hot class mask for each lane. -/
  | fclass (g : BitVec 2) (a : BitVec 5) (d : BitVec 4) (e : BitVec 4) (t : BitVec 4)
  /-- fsqrt.f (R178): Gives the correctly rounded square root of each lane on the shared divide-and-root unit. -/
  | fsqrt (g : BitVec 2) (a : BitVec 5) (d : BitVec 4) (e : BitVec 4) (t : BitVec 4)
  /-- frcpe.f (R179): Gives an 8-bit reciprocal estimate of each lane. -/
  | frcpe (g : BitVec 2) (a : BitVec 5) (d : BitVec 4) (e : BitVec 4) (t : BitVec 4)
  /-- fdiv.f (R172): Divides floating-point lanes, each rounded once, on the shared divide-and-root unit. -/
  | fdiv (g : BitVec 2) (a : BitVec 5) (b : BitVec 5) (d : BitVec 4) (e : BitVec 4) (t : BitVec 4)
  /-- vadd.t (R180): Adds integer lanes of the type, wrapping or saturating. -/
  | vadd (y : BitVec 3) (a : BitVec 5) (b : BitVec 5) (d : BitVec 4) (e : BitVec 4) (t : BitVec 4)
  /-- vsub.t (R180): Subtracts integer lanes, wrapping or saturating. -/
  | vsub (y : BitVec 3) (a : BitVec 5) (b : BitVec 5) (d : BitVec 4) (e : BitVec 4) (t : BitVec 4)
  /-- vmul.t (R180): Multiplies integer lanes and keeps the low half, wrapping or saturating. -/
  | vmul (y : BitVec 3) (a : BitVec 5) (b : BitVec 5) (d : BitVec 4) (e : BitVec 4) (t : BitVec 4)
  /-- vmulh.t (R180): Multiplies integer lanes and keeps the high half. -/
  | vmulh (y : BitVec 3) (a : BitVec 5) (b : BitVec 5) (d : BitVec 4) (e : BitVec 4) (t : BitVec 4)
  /-- vmin.t (R180): Takes the smaller of each integer lane pair. -/
  | vmin (y : BitVec 3) (a : BitVec 5) (b : BitVec 5) (d : BitVec 4) (e : BitVec 4) (t : BitVec 4)
  /-- vmax.t (R180): Takes the larger of each integer lane pair. -/
  | vmax (y : BitVec 3) (a : BitVec 5) (b : BitVec 5) (d : BitVec 4) (e : BitVec 4) (t : BitVec 4)
  /-- vshr.t (R180): Shifts integer lanes right by per-lane counts, arithmetically for signed types. -/
  | vshr (y : BitVec 3) (a : BitVec 5) (b : BitVec 5) (d : BitVec 4) (e : BitVec 4) (t : BitVec 4)
  /-- vcmp.lt.t (R180): Sets a lane mask where A is less than B under the type. -/
  | vcmpLt (y : BitVec 3) (a : BitVec 5) (b : BitVec 5) (d : BitVec 4) (e : BitVec 4) (t : BitVec 4)
  /-- vshl.nW (R181): Shifts lanes left by per-lane counts. -/
  | vshl (w : BitVec 2) (a : BitVec 5) (b : BitVec 5) (d : BitVec 4) (e : BitVec 4) (t : BitVec 4)
  /-- vcmp.eq.nW (R181): Sets a lane mask where the lanes are equal bit for bit. -/
  | vcmpEq (w : BitVec 2) (a : BitVec 5) (b : BitVec 5) (d : BitVec 4) (e : BitVec 4) (t : BitVec 4)
  /-- vabs.iW (R181): Gives the signed absolute value of each lane. -/
  | vabs (w : BitVec 2) (a : BitVec 5) (d : BitVec 4) (e : BitVec 4) (t : BitVec 4)
  /-- vand (R182): ANDs two 512-bit values. -/
  | vand (a : BitVec 5) (b : BitVec 5) (d : BitVec 4) (e : BitVec 4) (t : BitVec 4)
  /-- vor (R182): ORs two 512-bit values. -/
  | vor (a : BitVec 5) (b : BitVec 5) (d : BitVec 4) (e : BitVec 4) (t : BitVec 4)
  /-- vxor (R182): XORs two 512-bit values. -/
  | vxor (a : BitVec 5) (b : BitVec 5) (d : BitVec 4) (e : BitVec 4) (t : BitVec 4)
  /-- vnot (R182): Complements a 512-bit value. -/
  | vnot (a : BitVec 5) (d : BitVec 4) (e : BitVec 4) (t : BitVec 4)
  /-- cvt.f32.f64 (R184): Narrows eight FP64 lanes to FP32 lanes in the half that B selects. -/
  | cvtF32F64 (a : BitVec 5) (b : BitVec 5) (d : BitVec 4) (e : BitVec 4) (t : BitVec 4)
  /-- cvt.f64.f32 (R184): Widens eight FP32 lanes of the selected half to FP64. -/
  | cvtF64F32 (a : BitVec 5) (b : BitVec 5) (d : BitVec 4) (e : BitVec 4) (t : BitVec 4)
  /-- cvt.bf16.f32 (R184): Narrows sixteen FP32 lanes to BF16 lanes in the selected half. -/
  | cvtBf16F32 (a : BitVec 5) (b : BitVec 5) (d : BitVec 4) (e : BitVec 4) (t : BitVec 4)
  /-- cvt.f32.bf16 (R184): Widens sixteen BF16 lanes of the selected half to FP32. -/
  | cvtF32Bf16 (a : BitVec 5) (b : BitVec 5) (d : BitVec 4) (e : BitVec 4) (t : BitVec 4)
  /-- cvt.i32.f32 (R184): Converts FP32 lanes to i32 with clamping under RM. -/
  | cvtI32F32 (a : BitVec 5) (d : BitVec 4) (e : BitVec 4) (t : BitVec 4)
  /-- cvt.f32.i32 (R184): Converts i32 lanes to FP32 under RM. -/
  | cvtF32I32 (a : BitVec 5) (d : BitVec 4) (e : BitVec 4) (t : BitVec 4)
  /-- cvt.n32.f32 (R184): Converts FP32 lanes to n32 with clamping under RM. -/
  | cvtN32F32 (a : BitVec 5) (d : BitVec 4) (e : BitVec 4) (t : BitVec 4)
  /-- cvt.f32.n32 (R184): Converts n32 lanes to FP32 under RM. -/
  | cvtF32N32 (a : BitVec 5) (d : BitVec 4) (e : BitVec 4) (t : BitVec 4)
  /-- cvt.i64.f64 (R184): Converts FP64 lanes to i64 with clamping under RM. -/
  | cvtI64F64 (a : BitVec 5) (d : BitVec 4) (e : BitVec 4) (t : BitVec 4)
  /-- cvt.f64.i64 (R184): Converts i64 lanes to FP64 under RM. -/
  | cvtF64I64 (a : BitVec 5) (d : BitVec 4) (e : BitVec 4) (t : BitVec 4)
  /-- vperm (R185): Gathers the bytes of A by the byte indices in B. -/
  | vperm (a : BitVec 5) (b : BitVec 5) (d : BitVec 4) (e : BitVec 4) (t : BitVec 4)
  /-- vshuf (R186): Interleaves or de-interleaves the elements of A and B by the literal's pattern. -/
  | vshuf (a : BitVec 5) (b : BitVec 5) (d : BitVec 4) (e : BitVec 4) (t : BitVec 4)
  /-- vrot (R187): Rotates the token towards lane 0 by a byte count. -/
  | vrot (a : BitVec 5) (b : BitVec 5) (d : BitVec 4) (e : BitVec 4) (t : BitVec 4)
  /-- vbcast (R188): Replicates one element of A across the token. -/
  | vbcast (a : BitVec 5) (b : BitVec 5) (d : BitVec 4) (e : BitVec 4) (t : BitVec 4)
  /-- vred.fadd.f64 (R189): Sums eight FP64 lanes in a fixed pairwise tree. -/
  | vredFaddF64 (a : BitVec 5) (d : BitVec 4) (e : BitVec 4) (t : BitVec 4)
  /-- vred.fadd.f32 (R189): Sums sixteen FP32 lanes in a fixed pairwise tree. -/
  | vredFaddF32 (a : BitVec 5) (d : BitVec 4) (e : BitVec 4) (t : BitVec 4)
  /-- vred.fadd.bf16 (R189): Sums thirty-two BF16 lanes in a fixed pairwise tree to an FP32 result. -/
  | vredFaddBf16 (a : BitVec 5) (d : BitVec 4) (e : BitVec 4) (t : BitVec 4)
  /-- vred.fmax.f32 (R190): Gives the largest of sixteen FP32 lanes. -/
  | vredFmaxF32 (a : BitVec 5) (d : BitVec 4) (e : BitVec 4) (t : BitVec 4)
  /-- vred.fmin.f32 (R190): Gives the smallest of sixteen FP32 lanes. -/
  | vredFminF32 (a : BitVec 5) (d : BitVec 4) (e : BitVec 4) (t : BitVec 4)
  /-- vred.add.i32 (R190): Sums sixteen i32 lanes, wrapping or saturating. -/
  | vredAddI32 (a : BitVec 5) (d : BitVec 4) (e : BitVec 4) (t : BitVec 4)
  /-- vred.add.i64 (R190): Sums eight i64 lanes, wrapping or saturating. -/
  | vredAddI64 (a : BitVec 5) (d : BitVec 4) (e : BitVec 4) (t : BitVec 4)
  /-- vred.max.i32 (R190): Gives the largest of sixteen i32 lanes. -/
  | vredMaxI32 (a : BitVec 5) (d : BitVec 4) (e : BitVec 4) (t : BitVec 4)
  /-- compress.n32 (R191): Keeps the N largest-magnitude BF16 values of 32 with their positions, or writes ERR COMPRESS_N. -/
  | compressN32 (a : BitVec 5) (b : BitVec 5) (d : BitVec 4) (e : BitVec 4) (t : BitVec 4)
  /-- rep (R153): Replicates a control-plane value into all eight 64-bit lanes of a data-plane token. -/
  | rep (a : BitVec 5) (d : BitVec 4) (e : BitVec 4) (t : BitVec 4)
  /-- ext (R153): Extracts one 64-bit lane of a data-plane value to the control plane. -/
  | ext (a : BitVec 5) (b : BitVec 5) (d : BitVec 4) (e : BitVec 4) (t : BitVec 4)
  /-- mma.bf16 (R205): Enqueues a dense BF16 multiply-accumulate of one operand row against a panel into an accumulator row. -/
  | mmaBf16 (a : BitVec 5) (d : BitVec 4) (e : BitVec 4) (t : BitVec 4)
  /-- mma.f32 (R205): Enqueues a dense FP32 multiply-accumulate into an accumulator row. -/
  | mmaF32 (a : BitVec 5) (d : BitVec 4) (e : BitVec 4) (t : BitVec 4)
  /-- mma.f64 (R205): Enqueues a dense FP64 multiply-accumulate into an accumulator row. -/
  | mmaF64 (a : BitVec 5) (d : BitVec 4) (e : BitVec 4) (t : BitVec 4)
  /-- mma.cb4 (R205): Enqueues a dense CB4 multiply-accumulate using the product table. -/
  | mmaCb4 (a : BitVec 5) (d : BitVec 4) (e : BitVec 4) (t : BitVec 4)
  /-- mma.sp.bf16 (R206): Enqueues a structured-sparse BF16 multiply-accumulate into two rows. -/
  | mmaSpBf16 (a : BitVec 5) (b : BitVec 5) (d : BitVec 4) (e : BitVec 4) (t : BitVec 4)
  /-- mma.sp.cb4 (R206): Enqueues a structured-sparse CB4 multiply-accumulate into one row. -/
  | mmaSpCb4 (a : BitVec 5) (b : BitVec 5) (d : BitVec 4) (e : BitVec 4) (t : BitVec 4)
  /-- mpl (R203): Enqueues a load of one panel column. -/
  | mpl (a : BitVec 5) (d : BitVec 4) (e : BitVec 4) (t : BitVec 4)
  /-- mcb (R204): Enqueues a codebook load that rebuilds the 256-entry product table. -/
  | mcb (a : BitVec 5) (b : BitVec 5) (d : BitVec 4) (e : BitVec 4) (t : BitVec 4)
  /-- acc.zero (R208): Enqueues the zeroing of a run of accumulator rows. -/
  | accZero (d : BitVec 4) (e : BitVec 4) (t : BitVec 4)
  /-- acc.rd (R209): Enqueues a read of one or both halves of an accumulator row, optionally clearing them. -/
  | accRd (a : BitVec 5) (d : BitVec 4) (e : BitVec 4) (t : BitVec 4)
  /-- acc.wr (R208): Enqueues a write of 512 bits into half of an accumulator row. -/
  | accWr (a : BitVec 5) (d : BitVec 4) (e : BitVec 4) (t : BitVec 4)
  /-- acc.cp (R208): Enqueues a copy of one accumulator row to another, optionally clearing the source. -/
  | accCp (d : BitVec 4) (e : BitVec 4) (t : BitVec 4)
  /-- sacc (R210): Enqueues the application of block scales that adds a partial row into a main row and clears the partial. -/
  | sacc (a : BitVec 5) (b : BitVec 5) (d : BitVec 4) (e : BitVec 4) (t : BitVec 4)
  /-- ss.set (R224): Loads a stream descriptor, or traps with SS_FORMAT. -/
  | ssSet (a : BitVec 5) (b : BitVec 5) (t : BitVec 4)
  /-- ss.go (R224): Starts a stream from its descriptor. -/
  | ssGo (a : BitVec 5) (t : BitVec 4)
  /-- ss.stop (R224): Stops a stream and empties its read-ahead. -/
  | ssStop (a : BitVec 5) (t : BitVec 4)
  /-- ss.stat (R224): Reads a stream's state, ERRIN and position. -/
  | ssStat (a : BitVec 5) (d : BitVec 4) (e : BitVec 4) (t : BitVec 4)
  /-- lm.ld (R225): Loads a 64-bit word from local memory. -/
  | lmLd (a : BitVec 5) (d : BitVec 4) (e : BitVec 4) (t : BitVec 4)
  /-- lm.st (R225): Stores a 64-bit word to local memory. -/
  | lmSt (a : BitVec 5) (b : BitVec 5) (t : BitVec 4)
  /-- ring.bind (R236): Binds a handle to a ring and fetches its view. -/
  | ringBind (t : BitVec 4)
  /-- ring.waitf (R236): Waits until n slots are filled, then acquires and gives the consumer head slot. -/
  | ringWaitf (d : BitVec 4) (e : BitVec 4) (t : BitVec 4)
  /-- ring.waite (R236): Waits until n slots are empty, then acquires and gives the producer head slot. -/
  | ringWaite (d : BitVec 4) (e : BitVec 4) (t : BitVec 4)
  /-- ring.advp (R236): Sends a producer advance of n slots to the ring's memory tile as a release. -/
  | ringAdvp (t : BitVec 4)
  /-- ring.advc (R236): Sends a consumer advance of n slots to the ring's memory tile as a release. -/
  | ringAdvc (t : BitVec 4)
  /-- ring.rd (R236): Reads 8 bytes at an offset in the consumer head slot. -/
  | ringRd (a : BitVec 5) (d : BitVec 4) (e : BitVec 4) (t : BitVec 4)
  /-- ring.wr (R236): Writes 8 bytes at an offset in the producer head slot. -/
  | ringWr (a : BitVec 5) (b : BitVec 5) (t : BitVec 4)
  /-- ring.rdv (R236): Reads 64 bytes at an offset in the consumer head slot into a data-plane destination. -/
  | ringRdv (a : BitVec 5) (d : BitVec 4) (e : BitVec 4) (t : BitVec 4)
  /-- ring.wrv (R236): Writes 64 bytes of data-plane value at an offset in the producer head slot. -/
  | ringWrv (a : BitVec 5) (b : BitVec 5) (t : BitVec 4)
  /-- agt.set (R247): Sends an AGT a set token carrying control fields of walker word 0. -/
  | agtSet (a : BitVec 5) (d : BitVec 4) (e : BitVec 4) (t : BitVec 4)
  /-- agt.base (R247): Sends an AGT a base token carrying a new BASE address. -/
  | agtBase (a : BitVec 5) (d : BitVec 4) (e : BitVec 4) (t : BitVec 4)
  /-- agt.dim (R247): Sends an AGT a dim token carrying a level's count and stride. -/
  | agtDim (a : BitVec 5) (b : BitVec 5) (d : BitVec 4) (e : BitVec 4) (t : BitVec 4)
  /-- agt.go (R247): Sends an AGT a go token. -/
  | agtGo (d : BitVec 4) (e : BitVec 4) (t : BitVec 4)
  /-- agt.stop (R247): Sends an AGT a stop token. -/
  | agtStop (d : BitVec 4) (e : BitVec 4) (t : BitVec 4)
  /-- agt.cfg (R247): Sends an AGT a CFG token naming one layout field. -/
  | agtCfg (a : BitVec 5) (d : BitVec 4) (e : BitVec 4) (t : BitVec 4)
  /-- agt.hand (R247): Sends an AGT a hand token. -/
  | agtHand (d : BitVec 4) (e : BitVec 4) (t : BitVec 4)
  /-- agt.resume (R247): Sends an AGT a resume token. -/
  | agtResume (d : BitVec 4) (e : BitVec 4) (t : BitVec 4)
  /-- agt.stat (R247): Sends an AGT a stat token. -/
  | agtStat (d : BitVec 4) (e : BitVec 4) (t : BitVec 4)
  /-- amo.add.s (R305): Atomically adds B at the address at its home and returns the old value; a release and an acquire at scope s. -/
  | amoAdd (s : BitVec 2) (a : BitVec 5) (b : BitVec 5) (d : BitVec 4) (e : BitVec 4) (t : BitVec 4)
  /-- amo.fadd.s (R305): Atomically adds a floating-point value with RNE and returns the old value. -/
  | amoFadd (s : BitVec 2) (a : BitVec 5) (b : BitVec 5) (d : BitVec 4) (e : BitVec 4) (t : BitVec 4)
  /-- amo.min.s (R305): Atomically keeps the smaller value and returns the old value. -/
  | amoMin (s : BitVec 2) (a : BitVec 5) (b : BitVec 5) (d : BitVec 4) (e : BitVec 4) (t : BitVec 4)
  /-- amo.max.s (R305): Atomically keeps the larger value and returns the old value. -/
  | amoMax (s : BitVec 2) (a : BitVec 5) (b : BitVec 5) (d : BitVec 4) (e : BitVec 4) (t : BitVec 4)
  /-- amo.and.s (R305): Atomically ANDs B into memory and returns the old value. -/
  | amoAnd (s : BitVec 2) (a : BitVec 5) (b : BitVec 5) (d : BitVec 4) (e : BitVec 4) (t : BitVec 4)
  /-- amo.or.s (R305): Atomically ORs B into memory and returns the old value. -/
  | amoOr (s : BitVec 2) (a : BitVec 5) (b : BitVec 5) (d : BitVec 4) (e : BitVec 4) (t : BitVec 4)
  /-- amo.xor.s (R305): Atomically XORs B into memory and returns the old value. -/
  | amoXor (s : BitVec 2) (a : BitVec 5) (b : BitVec 5) (d : BitVec 4) (e : BitVec 4) (t : BitVec 4)
  /-- amo.exch.s (R305): Atomically exchanges B with memory and returns the old value. -/
  | amoExch (s : BitVec 2) (a : BitVec 5) (b : BitVec 5) (d : BitVec 4) (e : BitVec 4) (t : BitVec 4)
  /-- amo.cas.s (R306): Atomically compares kC with memory, stores B if equal, and returns the old value in kC. -/
  | amoCas (s : BitVec 2) (a : BitVec 5) (b : BitVec 5) (d : BitVec 4) (e : BitVec 4) (t : BitVec 4)
  /-- fence.s (R304): Waits until the bank's earlier in-scope accesses and issued BTE commands are performed, then acts as a release and an acquire at scope s. -/
  | fence (s : BitVec 2) (t : BitVec 4)
  /-- st.rel.s (R302): Stores a value as a release at scope s. -/
  | stRel (s : BitVec 2) (a : BitVec 5) (b : BitVec 5) (t : BitVec 4)
  /-- ld.acq.s (R303): Loads a value as an acquire, holding the bank's later memory-issuing instructions until it returns. -/
  | ldAcq (s : BitVec 2) (a : BitVec 5) (d : BitVec 4) (e : BitVec 4) (t : BitVec 4)
  /-- ld (R301): Loads 2^SZ bytes from a virtual or memory-tile address. -/
  | ld (a : BitVec 5) (d : BitVec 4) (e : BitVec 4) (t : BitVec 4)
  /-- st (R301): Stores 2^SZ bytes to a virtual or memory-tile address. -/
  | st (a : BitVec 5) (b : BitVec 5) (t : BitVec 4)
  /-- bte.copy (R283): Issues a direct copy on a BTE channel and gives its sequence number and promise. -/
  | bteCopy (a : BitVec 5) (b : BitVec 5) (d : BitVec 4) (e : BitVec 4) (t : BitVec 4)
  /-- bte.copy.mx (R283): Issues a direct copy into a tile's local memory that carries a follow-on matrix task. -/
  | bteCopyMx (a : BitVec 5) (b : BitVec 5) (d : BitVec 4) (e : BitVec 4) (t : BitVec 4)
  /-- bte.append (R284): Appends a chain entry to a chain-mode channel and gives its sequence number. -/
  | bteAppend (a : BitVec 5) (d : BitVec 4) (e : BitVec 4) (t : BitVec 4)
  /-- bte.tail (R285): Publishes chain entries up to a sequence number, as a release. -/
  | bteTail (a : BitVec 5) (t : BitVec 4)
  /-- bte.prom (R286): Gives the promised completion time of a command. -/
  | bteProm (a : BitVec 5) (d : BitVec 4) (e : BitVec 4) (t : BitVec 4)
  /-- sleep.until (R287): Holds until the package cycle counter reaches a value; it orders nothing. -/
  | sleepUntil (a : BitVec 5) (t : BitVec 4)
  /-- bte.seq (R288): Holds until the channel's DONE reaches n, then acquires the completed commands. -/
  | bteSeq (a : BitVec 5) (d : BitVec 4) (e : BitVec 4) (t : BitVec 4)
  /-- bte.stat (R289): Reads a channel's DONE and ISSUED without holding or acquiring. -/
  | bteStat (d : BitVec 4) (e : BitVec 4) (t : BitVec 4)
  /-- tsend (R334): Sends a one- or two-word task packet to a label of a tile, or traps with TASK_ROUTE. -/
  | tsend (a : BitVec 5) (b : BitVec 5) (t : BitVec 4)
  /-- hbind (R334): Binds a route label to a task-port slot and bank. -/
  | hbind (t : BitVec 4)
  /-- hunbind (R334): Clears a label's binding and drops its waiting packets. -/
  | hunbind (t : BitVec 4)
  /-- fut.new (R347): Allocates a future with a resolution count. -/
  | futNew (d : BitVec 4) (e : BitVec 4) (t : BitVec 4)
  /-- fut.reg (R347): Registers a packet or chain action on a future. -/
  | futReg (a : BitVec 5) (b : BitVec 5) (d : BitVec 4) (e : BitVec 4) (t : BitVec 4)
  /-- fut.res (R347): Resolves a future with a value, as a release. -/
  | futRes (a : BitVec 5) (b : BitVec 5) (t : BitVec 4)
  /-- fut.fault (R347): Faults a future with a code, as a release. -/
  | futFault (a : BitVec 5) (b : BitVec 5) (t : BitVec 4)
  /-- fut.wait (R347): Holds until the future leaves PENDING, then gives its state word as an acquire. -/
  | futWait (a : BitVec 5) (d : BitVec 4) (e : BitVec 4) (t : BitVec 4)
  /-- fut.rd (R347): Reads a future's state word and optionally frees it. -/
  | futRd (a : BitVec 5) (d : BitVec 4) (e : BitVec 4) (t : BitVec 4)
  /-- launch (R342): Reads a launch descriptor and launches it, or traps with LAUNCH_EXHAUSTED. -/
  | launch (a : BitVec 5) (d : BitVec 4) (e : BitVec 4) (t : BitVec 4)
  /-- launch.try (R342): Reads a launch descriptor and launches it, or gives 0 when no entry is free. -/
  | launchTry (a : BitVec 5) (d : BitVec 4) (e : BitVec 4) (t : BitVec 4)
  /-- join (R349): Adds the firing context to a group and gives its rank. -/
  | join (a : BitVec 5) (d : BitVec 4) (e : BitVec 4) (t : BitVec 4)
  /-- leave (R349): Removes the firing context from a group. -/
  | leave (a : BitVec 5) (t : BitVec 4)
  /-- barrier (R350): Arrives at a barrier instance of a group. -/
  | barrier (a : BitVec 5) (b : BitVec 5) (d : BitVec 4) (e : BitVec 4) (t : BitVec 4)
  /-- reduce (R350): Arrives at a reduce instance with a buffer. -/
  | reduce (a : BitVec 5) (b : BitVec 5) (d : BitVec 4) (e : BitVec 4) (t : BitVec 4)
  /-- allreduce (R350): Arrives at an allreduce instance with a buffer. -/
  | allreduce (a : BitVec 5) (b : BitVec 5) (d : BitVec 4) (e : BitVec 4) (t : BitVec 4)
  /-- bcast (R350): Arrives at a broadcast instance with a buffer. -/
  | bcast (a : BitVec 5) (b : BitVec 5) (d : BitVec 4) (e : BitVec 4) (t : BitVec 4)
  /-- grp.new (R349): Creates a group and gives its id. -/
  | grpNew (d : BitVec 4) (e : BitVec 4) (t : BitVec 4)
  /-- grp.size (R349): Gives a group's member count. -/
  | grpSize (a : BitVec 5) (d : BitVec 4) (e : BitVec 4) (t : BitVec 4)
  /-- xd.dispatch (R394): Routes a two-word packet to a replica of an expert by its die's adopted table version. -/
  | xdDispatch (a : BitVec 5) (b : BitVec 5) (d : BitVec 4) (e : BitVec 4) (t : BitVec 4)
  /-- xd.load (R400): Reads an expert's count, or the number of the last completed interval. -/
  | xdLoad (a : BitVec 5) (d : BitVec 4) (e : BitVec 4) (t : BitVec 4)
  /-- xd.tab (R400): Reads a word of a published replica table, or a slot's INF. -/
  | xdTab (a : BitVec 5) (d : BitVec 4) (e : BitVec 4) (t : BitVec 4)
  /-- xd.ver (R400): Reads the adopted version, ends a step, or waits for MERGED, as OP selects. -/
  | xdVer (a : BitVec 5) (d : BitVec 4) (e : BitVec 4) (t : BitVec 4)
  /-- xd.stat (R400): Reads the placement engine's current operation and rollback count. -/
  | xdStat (d : BitVec 4) (e : BitVec 4) (t : BitVec 4)
  /-- trap (R156): Completes its firing and stops the PE with cause PROGRAM. -/
  | trap (a : BitVec 5) (t : BitVec 4)
  /-- yield (R157): Makes the firing bank's slots not ready for the next cycle so another bank can run. -/
  | yield (t : BitVec 4)
  /-- cfg.sel (R158): Selects context Cc for every bank of the PE, with three cycles of switch. -/
  | cfgSel (a : BitVec 5) (t : BitVec 4)
  /-- rgn.stat (R159): Reads a value of the firing's region instance by selector. -/
  | rgnStat (a : BitVec 5) (d : BitVec 4) (e : BitVec 4) (t : BitVec 4)
  /-- dbg.brk (R423): Starts a halt of its region when BRKEN is set. -/
  | dbgBrk (a : BitVec 5) (t : BitVec 4)
  /-- nop (R160): Does nothing beyond its predicate update. -/
  | nop (t : BitVec 4)
  /-- clk.rd (R327): Reads the firing holder's clock state by selector. -/
  | clkRd (a : BitVec 5) (d : BitVec 4) (e : BitVec 4) (t : BitVec 4)
  /-- race.mode (R328): Reads the partition's race mode and optionally requests a new one. -/
  | raceMode (a : BitVec 5) (d : BitVec 4) (e : BitVec 4) (t : BitVec 4)
  /-- race.log (R329): Reads the race log's PI, DROPPED, base or size. -/
  | raceLog (a : BitVec 5) (d : BitVec 4) (e : BitVec 4) (t : BitVec 4)
  /-- race.gen (R330): Reads a scope instance's generation and optionally binds its generation group. -/
  | raceGen (a : BitVec 5) (d : BitVec 4) (e : BitVec 4) (t : BitVec 4)
  /-- RESULT_WRITE (R131): At the end of a fired instruction's latency its results are written to registers, outputs or the lm stream, and its flags are ORed into the mode word. -/
  | resultWrite (tile : Nat) (job : Nat)
  /-- BANK_SWITCH (R58): In a cycle where the current bank has no ready slot and another has, the arbiter selects the next ready bank in a bubble. -/
  | bankSwitch (tile : Nat)
  /-- TOKEN_ARRIVAL (R47): A requested token enters an input port's queue, raising n and lowering o. -/
  | tokenArrival (chan : Nat) (cons : Nat)
  /-- PORT_REQUEST (R47): Once per cycle an input port that wants a token and holds fewer than four sends a request upstream. -/
  | portRequest (chan : Nat) (cons : Nat)
  /-- REQUEST_ARRIVAL (R48): A request reaches an output port and raises that consumer's pending count. -/
  | requestArrival (chan : Nat) (cons : Nat)
  /-- DELAY_LINE_DEPART (R46): A consumer request is answered from the head of a delay line, which then sends one request to the producer. -/
  | delayLineDepart (chan : Nat)
  /-- INDEX_DELIVERY (R39): The index source port delivers the next index token or its rank-1 or rank-7 marker. -/
  | indexDelivery (rgn : Nat)
  /-- SWITCH_GATHER (R52): A gather switch element takes an index token and moves the selected value head to its output. -/
  | switchGather (tile : Nat)
  /-- SWITCH_SCATTER (R52): A scatter switch element takes an index token and a value token and moves the value to the selected output. -/
  | switchScatter (tile : Nat)
  /-- MULTICAST_DETACH (R50): A detach-on-timeout consumer that has lacked a request for W cycles is detached. -/
  | multicastDetach (chan : Nat) (cons : Nat)
  /-- DETACHED (R50): The ERR DETACHED token enters the detached consumer's queue once a place is free. -/
  | detached (chan : Nat) (cons : Nat)
  /-- LAGGARD (R51): A lockstep stall reaching W cycles writes a threshold LAGGARD record. -/
  | laggard (chan : Nat) (cons : Nat)
  /-- LAGGARD_END (R51): The end of a lockstep stall writes the final LAGGARD record with its length. -/
  | laggardEnd (chan : Nat) (cons : Nat)
  /-- REGION_COMPLETION (R60): When every sink and every issued engine operation has reported, the region controller writes the completion and marks the region reusable. -/
  | regionCompletion (rgn : Nat)
  /-- TRAP_RECORD (R162): After the trapped tile's earlier results are written, the PE writes its trap record to the fault ring. -/
  | trapRecord (tile : Nat)
  /-- REGION_STOP (R162): The region controller stops every other element of a trapped region within 64 cycles. -/
  | regionStop (rgn : Nat)
  /-- UNIT_FENCE (R31): A unit reporting an uncorrectable error in service is fenced, its in-flight operations report FENCED and its regions trap. -/
  | unitFence (u : Unit0)
  /-- MATRIX_ENTRY_START (R198): A matrix command-queue entry starts on the array when its path is free, leaving the queue. -/
  | matrixEntryStart (tile : Nat)
  /-- MATRIX_ENTRY_DONE (R198): At cycle s+T+2 an entry's accumulator effects and done tokens are written, or a follow-on hands its status to the BTE. -/
  | matrixEntryDone (tile : Nat)
  /-- FOLLOW_ON_ENTER (R196): A delivered follow-on enters the target tile's command queue in the first cycle an entry is free. -/
  | followOnEnter (tile : Nat)
  /-- STREAM_FETCH (R222): A running read stream fetches its next element into the read-ahead. -/
  | streamFetch (tile : Nat)
  /-- MT_REQUEST (R227): A memory-tile bank serves a request from a port's queue in rotating order. -/
  | mtRequest (mt : Nat) (port : Nat)
  /-- FIFO_ENQUEUE (R230): A token FIFO memory tile takes a token at its consuming port. -/
  | fifoEnqueue (mt : Nat) (port : Nat)
  /-- FIFO_DEQUEUE (R230): A token FIFO answers its consumer's request from its head. -/
  | fifoDequeue (mt : Nat) (port : Nat)
  /-- RING_ADVANCE (R236): The memory tile performs or refuses an advance once the bank's earlier writes are performed, and sends the answer. -/
  | ringAdvance (id : Nat)
  /-- ADVANCE_ANSWER (R236): The advance's answer returns to the PE and releases later ring instructions on the handle. -/
  | advanceAnswer (id : Nat)
  /-- HANDLE_VIEW_UPDATE (R234): A handle bound to a ring receives the new P and C after an advance. -/
  | handleViewUpdate (tile : Nat) (hdl : Nat)
  /-- AGT_TAKE_SET (R248): The AGT takes a set token and writes DIR, ESZ, LV, MRK and FR into word 0. -/
  | agtTakeSet (agt : Nat)
  /-- AGT_TAKE_BASE (R248): The AGT takes a base token and writes word 1. -/
  | agtTakeBase (agt : Nat)
  /-- AGT_TAKE_DIM (R248): The AGT takes a dim token and writes a level word. -/
  | agtTakeDim (agt : Nat)
  /-- AGT_TAKE_GO (R248): The AGT takes a go token, applies pending CFG tokens, zeroes counters and enters RUN or WAIT. -/
  | agtTakeGo (agt : Nat)
  /-- AGT_TAKE_STOP (R248): The AGT takes a stop token, completes accesses, flushes and enters IDLE. -/
  | agtTakeStop (agt : Nat)
  /-- AGT_TAKE_HAND (R255): The AGT takes a hand token and begins giving up its window. -/
  | agtTakeHand (agt : Nat)
  /-- HANDOVER_SEND (R255): After its writes are performed, the AGT clears HOLD and writes the hand-over token on port 4. -/
  | handoverSend (agt : Nat)
  /-- HANDOVER_RECEIVE (R255): An AGT dequeues a hand-over token at port 5, sets HOLD and leaves WAIT for RUN. -/
  | handoverReceive (agt : Nat)
  /-- AGT_TAKE_RESUME (R263): The AGT takes a resume token and retranslates the stalled element. -/
  | agtTakeResume (agt : Nat)
  /-- AGT_TAKE_STAT (R249): The AGT takes a stat token and writes a status token on port 3. -/
  | agtTakeStat (agt : Nat)
  /-- AGT_TAKE_CFG (R250): The AGT takes a CFG token as pending until the next boundary. -/
  | agtTakeCfg (agt : Nat)
  /-- AGT_TAKE_DISCARD (R248): The AGT discards a NULL or MARK token at port 0. -/
  | agtTakeDiscard (agt : Nat)
  /-- AGT_TAKE_ERR (R248): The AGT takes an ERR token at port 0 and enters FAULTED. -/
  | agtTakeErr (agt : Nat)
  /-- AGT_TAKE_RESERVED (R248): The AGT takes a token with a reserved code or bit. -/
  | agtTakeReserved (agt : Nat)
  /-- AGT_ELEMENT (R254): The walker checks alignment, window and translation of its next element and issues its access. -/
  | agtElement (agt : Nat)
  /-- AGT_TOKEN_OUT (R245): A read walk writes a complete data token, or a MARK, on port 1 as a request arrives. -/
  | agtTokenOut (agt : Nat)
  /-- AGT_WALK_REPORT (R252): A walk that reached DONE or was stopped reports once its writes are performed, and writes an unsolicited status token. -/
  | agtWalkReport (agt : Nat)
  /-- PAGE_WALK (R257): A page walker completes a translation, allocating from the pool in hardware mode, or fails it. -/
  | pageWalk (id : Nat)
  /-- BTE_COMMAND_BEGIN (R270): A channel begins its next command after the previous one's writes are performed, checking and translating every page first. -/
  | bteCommandBegin (bte : Nat) (ch : Nat)
  /-- CHAIN_TAKE (R280): A chain-mode channel takes its next published entry and computes its promise. -/
  | chainTake (bte : Nat) (ch : Nat)
  /-- FOLLOW_ON_HANDOFF (R281): When a copy's last byte lands, the BTE hands the follow-on descriptor to the target array. -/
  | followOnHandoff (bte : Nat) (ch : Nat)
  /-- BTE_COMMAND_REPORT (R276): A command writes its completion record and then its sequence word once its writes and follow-on effects are performed. -/
  | bteCommandReport (bte : Nat) (ch : Nat)
  /-- PROMISE_MISSED (R275): A STRICT direct command not reported by its promise plus one traps the issuing PE. -/
  | promiseMissed (bte : Nat) (ch : Nat) (seq : Nat)
  /-- ACCESS_PERFORM (R296): A home performs an access to its bytes, checking it against the line's race metadata in the same step. -/
  | accessPerform (id : Nat)
  /-- RELEASE_PERFORM (R302): A waiting release store is performed once the bank's earlier in-scope accesses are performed. -/
  | releasePerform (id : Nat)
  /-- LOAD_RETURN (R301): A load's or atomic's value returns and writes its pending destination. -/
  | loadReturn (id : Nat)
  /-- RACE_SWEEP (R321): A holder's clock reaching F plus 2^18 starts a sweep that clears old clocks and raises the floor. -/
  | raceSweep (part : Nat)
  /-- RACE_MODE_CLEAR (R323): The clear started by a change from off finishes and the new race mode takes effect. -/
  | raceModeClear (part : Nat)
  /-- TASK_PACKET_ARRIVAL (R331): A task packet reaches a PE's task buffer under its label. -/
  | taskPacketArrival (id : Nat)
  /-- PACKET_PRESENT (R332): The picker presents the oldest packet of the next label, which the bound slot may consume or return. -/
  | packetPresent (tile : Nat)
  /-- LAUNCH_ACCEPT (R342): A launch descriptor read returns and the launch is accepted into the queue or spill, or refused as exhausted. -/
  | launchAccept (id : Nat)
  /-- SPILL_MOVE (R341): A spilled launch moves into a free device launch queue entry in acceptance order. -/
  | spillMove (part : Nat)
  /-- LAUNCH_DISTRIBUTION (R336): A queued launch is checked and its blocks are handed out to dies. -/
  | launchDistribution (part : Nat)
  /-- TILE_RECORD_READ (R339): A tile record read returns and expands into tasks, or into a bad-record error. -/
  | tileRecordRead (part : Nat) (seq : Nat)
  /-- TASK_BIND (R337): A dispatcher binds the next task to a free or bound instance, resetting a reusable instance and sending its argument token. -/
  | taskBind (part : Nat) (die : Nat)
  /-- LAUNCH_COMPLETION (R338): Once every bound instance not lost has reported, the launch's completion word is written. -/
  | launchCompletion (part : Nat) (seq : Nat)
  /-- FUTURE_OPERATION (R347): The dispatcher performs a future operation and runs any registrations it triggers. -/
  | futureOperation (id : Nat)
  /-- FUTURE_ANSWER (R347): A future operation's answer returns to the PE and writes its destination. -/
  | futureAnswer (id : Nat)
  /-- WATCH_REPORT (R347): A PE's watch on a future reports a state other than PENDING, readying its fut.wait. -/
  | watchReport (tile : Nat) (fut : Nat)
  /-- COLLECTIVE_ARRIVAL (R350): A collective arrival reaches the group's dispatcher and enters or opens an instance. -/
  | collectiveArrival (id : Nat)
  /-- COLLECTIVE_COMPLETE (R351): When every snapshot member has arrived, the instance checks and runs, then releases and acquires every participant. -/
  | collectiveComplete (grp : Nat)
  /-- BAROMETER_WINDOW (R357): At each 4,096-cycle window end, barometers are written and cleared and rewire candidates are chosen. -/
  | barometerWindow (rgn : Nat)
  /-- PROPOSAL_LAPSE (R377): A proposal not approved before the next window end lapses. -/
  | proposalLapse (rgn : Nat)
  /-- PLAN_ARM (R383): A region's next plan is armed, failing as LATE if its cut has passed. -/
  | planArm (rgn : Nat)
  /-- GATING (R371): At the cut's token boundary the gate closes on the rewired operator's input channel. -/
  | gating (rgn : Nat)
  /-- UNGATE (R371): When draining ends, the controller installs, moves state, raises the version, writes the descriptor and opens the gate. -/
  | ungate (rgn : Nat)
  /-- REWIRE_FAIL (R372): A drain exceeding DLIM·64 cycles, a refused install or a trap fails the rewire with a REWIRE_FAIL record. -/
  | rewireFail (rgn : Nat)
  /-- STEER_TOKEN (R364): The steering unit passes a token to the copy of its chunk. -/
  | steerToken (chan : Nat)
  /-- MERGE_OUTPUT (R366): The merge unit passes a copy's output to the consumer, combining DATA with the chunk's carry. -/
  | mergeOutput (chan : Nat)
  /-- RETIREMENT (R368): When the last chunk is merged, clones are retired, the carry is loaded and the version rises. -/
  | retirement (rgn : Nat)
  /-- ELEMENT_DRAINED (R376): An element whose other inputs hold DRAIN and which has nothing pending writes DRAIN on its outputs and stops. -/
  | elementDrained (elem : Nat)
  /-- SAVE_DONE (R376): When DRAIN has left every exit port, the controller saves the region state and the region becomes SAVED. -/
  | saveDone (rgn : Nat)
  /-- DRAIN_TIMEOUT (R376): A region not drained within DLIM·64 cycles is stopped and fully saved. -/
  | drainTimeout (rgn : Nat)
  /-- SHADOW_EXCHANGE (R381): Once firings have no pending results, live and shadow state are exchanged in every armed tile. -/
  | shadowExchange (part : Nat)
  /-- LOAD_SEND (R389): Every 256 cycles a die's dispatcher sends its expert counts to the placement engine. -/
  | loadSend (die : Nat)
  /-- REPLICATION_COPY_DONE (R391): When a replica's weight copy and gradient zeroing are performed, the slot is written LIVE and the new version is published. -/
  | replicationCopyDone (tab : Nat)
  /-- ROLLBACK (R398): A faulted replication rolls back, marks the spare failed and writes a ROLLBACK record. -/
  | rollback (tab : Nat)
  /-- VERSION_ADOPT (R392): A die's dispatcher adopts a published table version when it arrives. -/
  | versionAdopt (tab : Nat) (die : Nat)
  /-- TABLE_ADOPT (R386): A die adopts a newly registered table when its copy arrives. -/
  | tableAdopt (tab : Nat) (die : Nat)
  /-- PACKET_REDIRECT (R393): A retiring replica's tile redirects an unconsumed packet to slot 0 with REDIR set. -/
  | packetRedirect (tile : Nat)
  /-- GRADIENT_MERGE (R397): The merge of a step adds replica gradients into slot 0, zeroes them, frees retired slots and writes MERGED. -/
  | gradientMerge (tab : Nat)
  /-- PART_SET (R411): Host request writing a partition's descriptor. -/
  | partSet (e : BitVec 512)
  /-- INSTALL (R410): Host request installing a region image at an origin after checking every word. -/
  | install (e : BitVec 512)
  /-- RELEASE (R374): Host request releasing a region instance after its walks end and its BTE commands report. -/
  | release (e : BitVec 512)
  /-- SHRINK (R375): Host request vacating a set of a region's tiles by retirement and folding. -/
  | shrink (e : BitVec 512)
  /-- DRAIN_SAVE (R376): Host request injecting DRAIN at every source to save a region. -/
  | drainSave (e : BitVec 512)
  /-- FULL_SAVE (R379): Host request stopping a region and streaming its whole state to the pinned save area. -/
  | fullSave (e : BitVec 512)
  /-- SWAP (R381): Host request starting a shadow swap of the partition's armed tiles. -/
  | swap (e : BitVec 512)
  /-- RESUME (R378): Host request resuming a FROZEN region whose traps are all recoverable. -/
  | resume (e : BitVec 512)
  /-- RESTORE (R380): Host request installing a saved image at an origin and loading its state. -/
  | restore (e : BitVec 512)
  /-- APPROVE (R377): Host request starting the rewire of a proposal. -/
  | approve (e : BitVec 512)
  /-- PLAN (R382): Host request planning a rewire at an exact cut position. -/
  | plan (e : BitVec 512)
  /-- ARM (R379): Host request arming a partition and pinning its save area. -/
  | arm (e : BitVec 512)
  /-- AGT_RESUME_REQUEST (R407): Host request resuming a STALLED AGT. -/
  | agtResumeRequest (e : BitVec 512)
  /-- INVAL (R407): Host request invalidating translations over a range, completing after earlier walks finish. -/
  | inval (e : BitVec 512)
  /-- QLINK (R412): Host request linking two gateway FIFOs into an inter-partition queue. -/
  | qlink (e : BitVec 512)
  /-- QLINK_UNLINK (R412): Host request with the unlink flag, stopping a gateway port once crossing tokens arrive. -/
  | qlinkUnlink (e : BitVec 512)
  /-- XD_TABLE (R386): Host request registering a replica table and sending it to every live die. -/
  | xdTable (e : BitVec 512)
  /-- XD_TABLE_REMOVE (R386): Host request with the remove flag, ending all use of a replica table. -/
  | xdTableRemove (e : BitVec 512)
  /-- XD_PUBLISH (R390): Host request publishing a host-written table version in host-assisted mode. -/
  | xdPublish (e : BitVec 512)
  /-- XD_STEP (R396): Host request ending a training step, which schedules its gradient merge. -/
  | xdStep (e : BitVec 512)
  /-- ATTEST (R416): Host request building a signed attestation report with a fresh one-time leaf. -/
  | attest (e : BitVec 512)
  /-- HOST_LAUNCH_PACKET (R408): A launch descriptor is taken from a work queue into the device launch queue. -/
  | hostLaunchPacket (queue : Nat)
  /-- REGISTER_WRITE (R403): A host write to a register of the window that has no behaviour of its own stores the value. -/
  | registerWrite (off : Nat) (val : BitVec 64)
  /-- GATEWAY_CROSSING (R412): A token crosses an inter-partition queue from a producing gateway FIFO to the consuming one. -/
  | gatewayCrossing (mt : Nat)
  /-- FLIT_RETRY (R413): A Welgepra flit failing its CRC is retried. -/
  | flitRetry (link : Nat)
  /-- LINK_RETRY_EXHAUSTED (R413): After 16 failed retries the link is fenced. -/
  | linkRetryExhausted (link : Nat)
  /-- RESET (R415): At reset the boot block verifies firmware, firmware runs boot tests, writes the maps and sets BOOTDONE. -/
  | reset
  /-- CURRENT_SAMPLE (R418): Every 1,050 cycles each die samples its rails and writes CURRENT records. -/
  | currentSample (die : Nat)
  /-- PATH_WALK (R420): A sink dequeue after each path period starts a critical-path walk that writes PATH records. -/
  | pathWalk (part : Nat)
  /-- HALT (R426): Debug command halting a LIVE region at its next lull. -/
  | halt (cmd : BitVec 512)
  /-- STEP (R421): Debug command passing k more tokens from every source, then draining to a lull. -/
  | step (cmd : BitVec 512)
  /-- STOP (R422): A stepping or halting region reaches a lull, becomes FROZEN and a STOP record is written. -/
  | stop (rgn : Nat)
  /-- STEP_TIMEOUT (R421): A step not reaching a lull within DLIM·64 cycles stops the region with status STEP_TIMEOUT. -/
  | stepTimeout (rgn : Nat)
  /-- SLOT_BREAKPOINT (R424): The c-th firing of a breakpoint's slot starts a halt and clears the breakpoint. -/
  | slotBreakpoint (rgn : Nat) (brk : Nat)
  /-- BRK_SET (R426): Debug command setting a slot breakpoint. -/
  | brkSet (cmd : BitVec 512)
  /-- BRK_CLR (R426): Debug command clearing a slot breakpoint. -/
  | brkClr (cmd : BitVec 512)
  /-- REG_RD (R426): Debug command reading a bank's register, predicates, mode word, queue or loop word of a FROZEN region. -/
  | regRd (cmd : BitVec 512)
  /-- REG_WR (R426): Debug command writing a bank's state of a FROZEN region at a lull. -/
  | regWr (cmd : BitVec 512)
  /-- MEM_RD (R426): Debug command reading memory as the debug-port holder. -/
  | memRd (cmd : BitVec 512)
  /-- MEM_WR (R427): Debug command writing memory, performed before DONE and race-logged. -/
  | memWr (cmd : BitVec 512)
  /-- DBG_RESUME (R426): Debug command resuming a region as the host RESUME does, as a release. -/
  | dbgResume (cmd : BitVec 512)
  /-- THROTTLE (R428): A die exceeding its temperature limit throttles its PEs to every second cycle. -/
  | throttle (die : Nat)
  /-- THROTTLE_END (R428): A throttled die 5 °C below its limit stops throttling. -/
  | throttleEnd (die : Nat)
  /-- CLOCK_GATE (R428): A compute tile idle for 256 cycles gates its clock. -/
  | clockGate (tile : Nat)
  /-- MTILE_CLOCK_GATE (R428): A memory tile with no request for 256 cycles gates its clock. -/
  | mtileClockGate (mt : Nat)
  /-- SELF_REFRESH (R428): An HBM stack with no request for 10 µs enters self-refresh. -/
  | selfRefresh (stack : Nat)
  /-- LANES_IDLE (R428): A Welgepra link with no flit for 100 µs idles its lanes. -/
  | lanesIdle (link : Nat)
  /-- CONSUMER_INDEX_ADVANCE (R405): A part-written ring's writer, waiting because PI − CI = 2^LOG2 on a fault ring or the management queue, writes its held record once the host's consumer index frees a slot. -/
  | consumerIndexAdvance (ring : Nat)
  deriving DecidableEq, Repr

end Sys2Proof
end

