-- ==== Sys2Proof/Config.lean ====
section
/-! DEFINITION. What an implementation fixes and the free values: constants without a body, so that nothing can be proved
of their values. A free value is applied to a counter of State that each use advances, or to the operands it depends on. -/
namespace Sys2Proof

/-- The state class of an operator (R116). -/
inductive OpClass where
  | sequential
  | stateless
  | reducible (exact : Bool) (comb : Instr) (identity : W512)
  | keyed (port m n : Nat)
  deriving DecidableEq, Repr, Inhabited

/-- Extra cycles of an operation whose time the spec bounds only from below (R45, R229, R301): networks, contention,
page walks, engines. -/
opaque Config.delay : Nat → Nat
/-- A choice the spec leaves open between events of one cycle (R42, R162, R228), as an index. -/
opaque Config.choice : Nat → Nat
/-- The virtual address at which a region instance's layout descriptor stands (R37): partition and region id. -/
opaque Config.layoutVA : Nat → Nat → Nat
/-- The state class of an operator of a configuration: image address, image endpoint of the written tile. `.state` declares it
(R116), and no word of the image carries it (R100). -/
opaque Config.opClass : Nat → Nat → OpClass
/-- The literal and the predicate under which a merge unit applies a combine instruction that reads one: `.state` gives none
(R116, R363). -/
opaque Config.combineLit : BitVec 64
opaque Config.combinePred : Bool
/-- Whether the firmware image passes the boot block's verification (R415). -/
opaque Config.bootOk : Bool
/-- The firmware version that BOOTST shows (R403). -/
opaque Config.fwVersion : BitVec 8
/-- The units that fail their boot test (R30, R415). -/
opaque Config.bootFails : List Unit0
/-- Byte n of the device identity and of the hashes of firmware and boot block (R416); byte n of the signature of a leaf over the
report's bytes; and the signature's length. -/
opaque Config.attestByte : Nat → Byte
opaque Config.signByte : Nat → List Byte → Nat → Byte
opaque Config.attestLen : Nat
/-- The physical address at which the producer index of a partition's race log is kept (R326). -/
opaque Config.racePI : Nat → Nat
/-- The version in the one-time-programmable counter: an older firmware image is refused (R415). -/
opaque Config.otpVersion : Nat
/-- The number of uncorrectable errors that a unit may report in service before it is fenced (R30, R218, R227). -/
opaque Config.fenceAt : Nat
/-- Mean current of a rail at a sample (R418): die, rail, cycle. -/
opaque Config.rail : Nat → Nat → Nat → BitVec 16
/-- The identity a partition's engine takes as clock holder where the host assigns one and no field of a request carries
it (R311): kind (0 host queue, 1 placement engine, 2 debug port), partition, number. -/
opaque Config.holder : Nat → Nat → Nat → BitVec 10
/-- The record of an element in a save image (R380), by use and by the element's endpoint: its length, and byte n of it. -/
opaque Config.saveLen : Nat → Nat → Nat
opaque Config.saveByte : Nat → Nat → Nat → Byte

end Sys2Proof
end

