-- ==== Sys2Proof/Machine/Event.lean ====
section
/-! DEFINITION. The steps of the engines as the model's schedule holds them: one constructor for each row of the opcode
table that is a step and no encoded instruction, with the arguments of the constructor of `Instr` of the same name. They are a
type of their own so that what a cycle proposes is plain data that runs: a value of `Instr` past its 244th constructor cannot be
built by compiled code. -/
namespace Sys2Proof.Machine

/-- A step of an engine: see the constructor of `Instr` of the same name. -/
inductive Event where
  | resultWrite (tile : Nat) (job : Nat)
  | bankSwitch (tile : Nat)
  | tokenArrival (chan : Nat) (cons : Nat)
  | portRequest (chan : Nat) (cons : Nat)
  | requestArrival (chan : Nat) (cons : Nat)
  | delayLineDepart (chan : Nat)
  | indexDelivery (rgn : Nat)
  | switchGather (tile : Nat)
  | switchScatter (tile : Nat)
  | multicastDetach (chan : Nat) (cons : Nat)
  | detached (chan : Nat) (cons : Nat)
  | laggard (chan : Nat) (cons : Nat)
  | laggardEnd (chan : Nat) (cons : Nat)
  | regionCompletion (rgn : Nat)
  | trapRecord (tile : Nat)
  | regionStop (rgn : Nat)
  | unitFence (u : Unit0)
  | matrixEntryStart (tile : Nat)
  | matrixEntryDone (tile : Nat)
  | followOnEnter (tile : Nat)
  | streamFetch (tile : Nat)
  | mtRequest (mt : Nat) (port : Nat)
  | fifoEnqueue (mt : Nat) (port : Nat)
  | fifoDequeue (mt : Nat) (port : Nat)
  | ringAdvance (id : Nat)
  | advanceAnswer (id : Nat)
  | handleViewUpdate (tile : Nat) (hdl : Nat)
  | agtTakeSet (agt : Nat)
  | agtTakeBase (agt : Nat)
  | agtTakeDim (agt : Nat)
  | agtTakeGo (agt : Nat)
  | agtTakeStop (agt : Nat)
  | agtTakeHand (agt : Nat)
  | handoverSend (agt : Nat)
  | handoverReceive (agt : Nat)
  | agtTakeResume (agt : Nat)
  | agtTakeStat (agt : Nat)
  | agtTakeCfg (agt : Nat)
  | agtTakeDiscard (agt : Nat)
  | agtTakeErr (agt : Nat)
  | agtTakeReserved (agt : Nat)
  | agtElement (agt : Nat)
  | agtTokenOut (agt : Nat)
  | agtWalkReport (agt : Nat)
  | pageWalk (id : Nat)
  | bteCommandBegin (bte : Nat) (ch : Nat)
  | chainTake (bte : Nat) (ch : Nat)
  | followOnHandoff (bte : Nat) (ch : Nat)
  | bteCommandReport (bte : Nat) (ch : Nat)
  | promiseMissed (bte : Nat) (ch : Nat) (seq : Nat)
  | accessPerform (id : Nat)
  | releasePerform (id : Nat)
  | loadReturn (id : Nat)
  | raceSweep (part : Nat)
  | raceModeClear (part : Nat)
  | taskPacketArrival (id : Nat)
  | packetPresent (tile : Nat)
  | launchAccept (id : Nat)
  | spillMove (part : Nat)
  | launchDistribution (part : Nat)
  | tileRecordRead (part : Nat) (seq : Nat)
  | taskBind (part : Nat) (die : Nat)
  | launchCompletion (part : Nat) (seq : Nat)
  | futureOperation (id : Nat)
  | futureAnswer (id : Nat)
  | watchReport (tile : Nat) (fut : Nat)
  | collectiveArrival (id : Nat)
  | collectiveComplete (grp : Nat)
  | barometerWindow (rgn : Nat)
  | proposalLapse (rgn : Nat)
  | planArm (rgn : Nat)
  | gating (rgn : Nat)
  | ungate (rgn : Nat)
  | rewireFail (rgn : Nat)
  | steerToken (chan : Nat)
  | mergeOutput (chan : Nat)
  | retirement (rgn : Nat)
  | elementDrained (elem : Nat)
  | saveDone (rgn : Nat)
  | drainTimeout (rgn : Nat)
  | shadowExchange (part : Nat)
  | loadSend (die : Nat)
  | replicationCopyDone (tab : Nat)
  | rollback (tab : Nat)
  | versionAdopt (tab : Nat) (die : Nat)
  | tableAdopt (tab : Nat) (die : Nat)
  | packetRedirect (tile : Nat)
  | gradientMerge (tab : Nat)
  | partSet (e : BitVec 512)
  | install (e : BitVec 512)
  | release (e : BitVec 512)
  | shrink (e : BitVec 512)
  | drainSave (e : BitVec 512)
  | fullSave (e : BitVec 512)
  | swap (e : BitVec 512)
  | resume (e : BitVec 512)
  | restore (e : BitVec 512)
  | approve (e : BitVec 512)
  | plan (e : BitVec 512)
  | arm (e : BitVec 512)
  | agtResumeRequest (e : BitVec 512)
  | inval (e : BitVec 512)
  | qlink (e : BitVec 512)
  | qlinkUnlink (e : BitVec 512)
  | xdTable (e : BitVec 512)
  | xdTableRemove (e : BitVec 512)
  | xdPublish (e : BitVec 512)
  | xdStep (e : BitVec 512)
  | attest (e : BitVec 512)
  | hostLaunchPacket (queue : Nat)
  | registerWrite (off : Nat) (val : BitVec 64)
  | gatewayCrossing (mt : Nat)
  | flitRetry (link : Nat)
  | linkRetryExhausted (link : Nat)
  | reset
  | currentSample (die : Nat)
  | pathWalk (part : Nat)
  | halt (cmd : BitVec 512)
  | step (cmd : BitVec 512)
  | stop (rgn : Nat)
  | stepTimeout (rgn : Nat)
  | slotBreakpoint (rgn : Nat) (brk : Nat)
  | brkSet (cmd : BitVec 512)
  | brkClr (cmd : BitVec 512)
  | regRd (cmd : BitVec 512)
  | regWr (cmd : BitVec 512)
  | memRd (cmd : BitVec 512)
  | memWr (cmd : BitVec 512)
  | dbgResume (cmd : BitVec 512)
  | throttle (die : Nat)
  | throttleEnd (die : Nat)
  | clockGate (tile : Nat)
  | mtileClockGate (mt : Nat)
  | selfRefresh (stack : Nat)
  | lanesIdle (link : Nat)
  | consumerIndexAdvance (ring : Nat)
  deriving DecidableEq, Repr

end Sys2Proof.Machine
end

