-- ==== Sys2Proof/Machine/Flags.lean ====
section
/-! DEFINITION. The mode word of a bank and its sticky flags (R71 to R75), and the set of flags an operation raises. -/
namespace Sys2Proof.Machine

/-- A set of sticky flags, in the order of mode-word bits [13:8]: bit 0 NX, 1 UF, 2 OF, 3 NV, 4 DZ, 5 SV (R71, R75). -/
abbrev Raise := BitVec 6

/-- No flag raised. -/
def raiseNone : Raise := 0
/-- Inexact (R75). -/
def raiseNX : Raise := 1
/-- Underflow (R75). -/
def raiseUF : Raise := 2
/-- Overflow (R75). -/
def raiseOF : Raise := 4
/-- Invalid operation (R75). -/
def raiseNV : Raise := 8
/-- Division by zero (R75). -/
def raiseDZ : Raise := 16
/-- An integer result was saturated (R75). -/
def raiseSV : Raise := 32

/-- The bits of the mode word that are not reserved: [13:8] and [4:0] (R71). -/
def modeMask : W64 := 0x3F1F

/-- RM, the rounding field of the mode word (R71). -/
def modeRM (m : W64) : BitVec 2 := m.extractLsb' 0 2
/-- FTZI (R71). -/
def modeFtzi (m : W64) : Bool := m.getLsbD 2
/-- FTZO (R71). -/
def modeFtzo (m : W64) : Bool := m.getLsbD 3
/-- SAT (R71). -/
def modeSat (m : W64) : Bool := m.getLsbD 4
/-- The six sticky flags of the mode word (R71). -/
def modeSticky (m : W64) : Raise := m.extractLsb' 8 6

/-- Flags ORed into the mode word (R73). -/
def modeRaise (m : W64) (r : Raise) : W64 := m ||| ((r.setWidth 64) <<< 8)

/-- A write of the mode word ignores its reserved bits (R71, R151). -/
def modeWrite (x : W64) : W64 := x &&& modeMask

end Sys2Proof.Machine
end

