-- ==== Sys2Proof/Machine/Num.lean ====
section
/-! DEFINITION. Number formats and exact arithmetic (03_numbers.md): the integer helpers of R78, the decoding, rounding
and encoding of R66 to R77, and the exact matrix sum of R79. A real number is held exactly as a signed dyadic
m * 2^e; where a quotient or a square root is not dyadic, enough of its leading bits are kept and a sticky mark says
that the exact value lies strictly above them, so that every rounding decides as it would on the exact real. -/
namespace Sys2Proof.Machine

/-! ### Integers (R70, R78) -/

/-- The width in bits of integer type code t8 (R102): 0 i8, 1 i16, 2 i32, 3 i64, 4 n8, 5 n16, 6 n32, 7 n64. -/
def t8Width (t : BitVec 3) : Nat := 8 * 2 ^ (t.toNat % 4)
/-- Whether t8 names a signed type (R102). -/
def t8Signed (t : BitVec 3) : Bool := t.toNat < 4
/-- The width in bits of width code w4 (R102). -/
def w4Width (w : BitVec 2) : Nat := 8 * 2 ^ w.toNat

/-- `sx` of R78: the low w bits of x as a two's-complement integer. -/
def sxN (x w : Nat) : Int := if 2 * (x % 2 ^ w) < 2 ^ w then (x % 2 ^ w : Nat) else (x % 2 ^ w : Nat) - (2 ^ w : Nat)
/-- `zx` of R78: the low w bits of x as an unsigned integer. -/
def zxN (x w : Nat) : Int := (x % 2 ^ w : Nat)
/-- `wrap` of R78: t mod 2^w. -/
def wrapN (t : Int) (w : Nat) : Nat := (t % (2 ^ w : Nat)).toNat
/-- The integer of the low w bits of x, by the type's signedness. -/
def intOf (sg : Bool) (x w : Nat) : Int := if sg then sxN x w else zxN x w
/-- The least value of a type (R70). -/
def intLo (sg : Bool) (w : Nat) : Int := if sg then -(2 ^ (w - 1) : Nat) else 0
/-- The greatest value of a type (R70). -/
def intHi (sg : Bool) (w : Nat) : Int := if sg then (2 ^ (w - 1) : Nat) - 1 else (2 ^ w : Nat) - 1
/-- Whether t lies outside the range of the type (R70). -/
def outOfRange (sg : Bool) (w : Nat) (t : Int) : Bool := t < intLo sg w || intHi sg w < t
/-- `sat_i` and `sat_n` of R78: clamp to the range, raising SV when it clamps. -/
def satN (sg : Bool) (t : Int) (w : Nat) : Nat × Raise :=
  if intHi sg w < t then (wrapN (intHi sg w) w, raiseSV)
  else if t < intLo sg w then (wrapN (intLo sg w) w, raiseSV)
  else (wrapN t w, raiseNone)
/-- `ires` of R78: wrap or saturate under SAT. -/
def ires (sat : Bool) (t : Int) (w : Nat) (sg : Bool) : Nat × Raise :=
  if sat then satN sg t w else (wrapN t w, raiseNone)
/-- `idiv` of R78: quotient towards zero, remainder with the sign of the dividend; a zero divisor gives all ones and the
dividend; the least value by -1 gives ires(2^(w-1)) and 0. -/
def idiv (sat sg : Bool) (a b w : Nat) : (Nat × Nat) × Raise :=
  let x := intOf sg a w
  let y := intOf sg b w
  if y = 0 then ((2 ^ w - 1, a % 2 ^ w), raiseDZ)
  else if sg && x == intLo true w && y == -1 then
    let (q, r) := ires sat (2 ^ (w - 1) : Nat) w true
    ((q, 0), r)
  else ((wrapN (Int.tdiv x y) w, wrapN (Int.tmod x y) w), raiseNone)
/-- Extension of a w-bit result to 64 bits: sign-extended for i types, zero-extended for n types (R136). -/
def ext64 (sg : Bool) (x w : Nat) : W64 := BitVec.ofInt 64 (intOf sg x w)

/-! ### Floating-point formats (R65 to R68) -/

/-- The three floating-point formats (R65). -/
inductive Fmt where
  | f64 | f32 | bf16
  deriving DecidableEq, Repr

/-- Width of a format in bits (R65). -/
def fmtWidth : Fmt → Nat
  | .f64 => 64 | .f32 => 32 | .bf16 => 16
/-- Exponent field width (R65). -/
def fmtExp : Fmt → Nat
  | .f64 => 11 | .f32 => 8 | .bf16 => 8
/-- Fraction field width (R65). -/
def fmtFrac : Fmt → Nat
  | .f64 => 52 | .f32 => 23 | .bf16 => 7
/-- Precision p (R65). -/
def fmtP (f : Fmt) : Nat := fmtFrac f + 1
/-- Bias (R65). -/
def fmtBias : Fmt → Int
  | .f64 => 1023 | .f32 => 127 | .bf16 => 127
/-- emin (R65). -/
def fmtEmin (f : Fmt) : Int := 1 - fmtBias f
/-- Lanes of the format in a data-plane token (R65). -/
def fmtLanes (f : Fmt) : Nat := 512 / fmtWidth f

/-- Sign bit of an encoding. -/
def encSign (f : Fmt) (x : Nat) : Bool := x.testBit (fmtWidth f - 1)
/-- Biased exponent of an encoding. -/
def encExp (f : Fmt) (x : Nat) : Nat := (x >>> fmtFrac f) % 2 ^ fmtExp f
/-- Fraction of an encoding. -/
def encFrac (f : Fmt) (x : Nat) : Nat := x % 2 ^ fmtFrac f
/-- The all-ones exponent. -/
def expOnes (f : Fmt) : Nat := 2 ^ fmtExp f - 1
/-- An encoding is a NaN (R66). -/
def isNaN (f : Fmt) (x : Nat) : Bool := encExp f x == expOnes f && encFrac f x != 0
/-- A NaN is signaling when the fraction's top bit is 0 (R66). -/
def isSNaN (f : Fmt) (x : Nat) : Bool := isNaN f x && !(encFrac f x).testBit (fmtFrac f - 1)
/-- An encoding is an infinity (R66). -/
def isInf (f : Fmt) (x : Nat) : Bool := encExp f x == expOnes f && encFrac f x == 0
/-- An encoding is a zero (R66). -/
def isZero (f : Fmt) (x : Nat) : Bool := encExp f x == 0 && encFrac f x == 0
/-- An encoding is subnormal (R66). -/
def isSub (f : Fmt) (x : Nat) : Bool := encExp f x == 0 && encFrac f x != 0

/-- Encoding from sign, biased exponent and fraction. -/
def encOf (f : Fmt) (s : Bool) (e fr : Nat) : Nat :=
  (if s then 2 ^ (fmtWidth f - 1) else 0) + e * 2 ^ fmtFrac f + fr
/-- The canonical NaN (R67). -/
def cnan (f : Fmt) : Nat := encOf f false (expOnes f) (2 ^ (fmtFrac f - 1))
/-- A signed zero encoding. -/
def encZero (f : Fmt) (s : Bool) : Nat := encOf f s 0 0
/-- A signed infinity encoding. -/
def encInf (f : Fmt) (s : Bool) : Nat := encOf f s (expOnes f) 0
/-- The largest finite encoding of a sign (R67). -/
def encMax (f : Fmt) (s : Bool) : Nat := encOf f s (expOnes f - 1) (2 ^ fmtFrac f - 1)

/-- A decoded value (R76): NAN, an infinity, a signed zero, or a non-zero real of magnitude m * 2^e, or, when `st` is
set, a real strictly between m * 2^e and (m+1) * 2^e. -/
inductive FVal where
  | nan
  | inf (neg : Bool)
  | zero (neg : Bool)
  | fin (neg : Bool) (m : Nat) (e : Int) (st : Bool)
  deriving DecidableEq, Repr

/-- Whether an operand was a NaN. -/
def fvNan : FVal → Bool
  | .nan => true
  | _ => false
/-- The sign of a decoded value. -/
def fvNeg : FVal → Bool
  | .nan => false
  | .inf n => n
  | .zero n => n
  | .fin n _ _ _ => n

/-- Decoding without the flush or the NV of `fin`: the value of R66. -/
def fval (f : Fmt) (x : Nat) : FVal :=
  if isNaN f x then .nan
  else if isInf f x then .inf (encSign f x)
  else if isZero f x then .zero (encSign f x)
  else if encExp f x = 0 then .fin (encSign f x) (encFrac f x) (fmtEmin f - (fmtFrac f : Nat)) false
  else .fin (encSign f x) (2 ^ fmtFrac f + encFrac f x) ((encExp f x : Nat) - fmtBias f - (fmtFrac f : Nat)) false

/-- `fin` of R76: decoding with input flush, raising NV on a signaling NaN. -/
def finF (ftzi : Bool) (f : Fmt) (x : Nat) : FVal × Raise :=
  if isNaN f x then (.nan, if isSNaN f x then raiseNV else raiseNone)
  else if isSub f x && ftzi then (.zero (encSign f x), raiseNone)
  else (fval f x, raiseNone)

/-- Rounding of a magnitude m * 2^e (plus a sticky part) to a multiple of 2^q, as the multiple (`rnd` of R76). rm is RM
of R71: 0 RNE, 1 RTZ, 2 RDN, 3 RUP. -/
def rndMag (neg : Bool) (m : Nat) (e : Int) (st : Bool) (q : Int) (rm : BitVec 2) : Nat :=
  if q ≤ e then m * 2 ^ (e - q).toNat
  else
    let k := (q - e).toNat
    let t := m >>> k
    let r := m % 2 ^ k
    let half := 2 ^ (k - 1)
    let inexact := r != 0 || st
    let up := match rm.toNat with
      | 0 => half < r || (r == half && (st || t % 2 == 1))
      | 1 => false
      | 2 => neg && inexact
      | _ => !neg && inexact
    if up then t + 1 else t
/-- Whether rounding to a multiple of 2^q changes the value. -/
def rndInexact (m : Nat) (e : Int) (st : Bool) (q : Int) : Bool :=
  st || (decide (e < q) && m % 2 ^ (q - e).toNat != 0)
/-- The exponent of the quantum that leaves a precision of p for a magnitude: floor(log2 (m*2^e)) - p + 1. -/
def quantum (m : Nat) (e : Int) (p : Nat) : Int := (Nat.log2 m : Nat) + e - (p : Nat) + 1
/-- m * 2^e compared with 2^k, as m*2^e < 2^k. -/
def ltPow (m : Nat) (e k : Int) : Bool := m != 0 && decide ((Nat.log2 m : Nat) + e < k) || m == 0

/-- The overflow result of R77. -/
def ovf (f : Fmt) (s : Bool) (rm : BitVec 2) : Nat :=
  match rm.toNat with
  | 0 => encInf f s
  | 1 => encMax f s
  | 2 => if s then encInf f s else encMax f s
  | _ => if s then encMax f s else encInf f s

/-- Encoding of a magnitude t * 2^q of at most p significant bits with q at least emin - p + 1. -/
def encMag (f : Fmt) (s : Bool) (t : Nat) (q : Int) : Nat :=
  if t = 0 then encZero f s
  else
    let e := (Nat.log2 t : Nat) + q
    if e < fmtEmin f then encOf f s 0 (t * 2 ^ (q - (fmtEmin f - (fmtFrac f : Nat))).toNat)
    else
      let sh : Int := (Nat.log2 t : Nat) - (fmtFrac f : Nat)
      let fr := if 0 ≤ sh then t >>> sh.toNat else t * 2 ^ (-sh).toNat
      encOf f s (e + fmtBias f).toNat (fr % 2 ^ fmtFrac f)

/-- `fout` of R76: encoding of an exact result; tininess is detected after rounding with an unbounded exponent. -/
def fout (ftzo : Bool) (v : FVal) (zs : Bool) (f : Fmt) (rm : BitVec 2) : Nat × Raise :=
  match v with
  | .nan => (cnan f, raiseNone)
  | .inf s => (encInf f s, raiseNone)
  | .zero _ => (encZero f zs, raiseNone)
  | .fin s m e st =>
    if m = 0 && !st then (encZero f zs, raiseNone) else
    let q := quantum m e (fmtP f)
    let t := rndMag s m e st q rm
    if !(ltPow t q (fmtBias f + 1)) then (ovf f s rm, raiseOF ||| raiseNX)
    else
      let tiny := ltPow t q (fmtEmin f)
      if tiny && ftzo then (encZero f s, raiseUF ||| raiseNX)
      else
        let q2 := max q (fmtEmin f - (fmtFrac f : Nat))
        let t2 := rndMag s m e st q2 rm
        let inx := rndInexact m e st q2
        (encMag f s t2 q2, if inx then (if tiny then raiseNX ||| raiseUF else raiseNX) else raiseNone)

/-- `f2i` of R78: float to integer under rm; NaN gives 0 and NV, an out-of-range value is clamped with NV. -/
def f2i (v : FVal) (w : Nat) (sg : Bool) (rm : BitVec 2) : Nat × Raise :=
  match v with
  | .nan => (0, raiseNV)
  | .zero _ => (0, raiseNone)
  | .inf s => (wrapN (if s then intLo sg w else intHi sg w) w, raiseNV)
  | .fin s m e st =>
    let mag : Int := (rndMag s m e st 0 rm : Nat)
    let t := if s then -mag else mag
    if t < intLo sg w then (wrapN (intLo sg w) w, raiseNV)
    else if intHi sg w < t then (wrapN (intHi sg w) w, raiseNV)
    else (wrapN t w, if rndInexact m e st 0 then raiseNX else raiseNone)

/-- The decoded value of an integer. -/
def ofInt (t : Int) : FVal := if t = 0 then .zero false else .fin (decide (t < 0)) t.natAbs 0 false

/-! ### Exact real arithmetic on decoded values -/

/-- The signed integer multiple of 2^q that a finite value without sticky part is, for q at most its exponent. -/
def fvScaled (q : Int) : FVal → Int
  | .fin s m e _ => let x : Int := (m * 2 ^ (e - q).toNat : Nat); if s then -x else x
  | _ => 0
/-- The exponent of a value, none for a zero, an infinity or NAN. -/
def fvExp : FVal → Option Int
  | .fin _ _ e _ => some e
  | _ => none
/-- The value t * 2^q, the real 0 being `zero false`. -/
def fvOfScaled (t q : Int) : FVal := if t = 0 then .zero false else .fin (decide (t < 0)) t.natAbs q false
/-- Negation of a decoded value. -/
def fvNegate : FVal → FVal
  | .nan => .nan
  | .inf n => .inf !n
  | .zero n => .zero !n
  | .fin n m e st => .fin (!n) m e st
/-- The exact sum of a list of finite values (zeros enter as 0). -/
def fvSum (l : List FVal) : FVal :=
  let q := l.foldl (fun q v => match fvExp v with
    | some e => (match q with | some q0 => some (min q0 e) | none => some e)
    | none => q) (none : Option Int)
  match q with
  | none => .zero false
  | some q => fvOfScaled (l.foldl (fun t v => t + fvScaled q v) 0) q

/-- `prod` of R79: NaN operands give NAN, infinity times zero raises NV, a zero product is the unsigned real 0. -/
def prodF (a b : FVal) : FVal × Raise :=
  match a, b with
  | .nan, _ => (.nan, raiseNone)
  | _, .nan => (.nan, raiseNone)
  | .inf _, .zero _ => (.nan, raiseNV)
  | .zero _, .inf _ => (.nan, raiseNV)
  | .inf s, b => (.inf (s ^^ fvNeg b), raiseNone)
  | a, .inf s => (.inf (s ^^ fvNeg a), raiseNone)
  | .zero _, _ => (.zero false, raiseNone)
  | _, .zero _ => (.zero false, raiseNone)
  | .fin s m e st, .fin s' m' e' st' => (.fin (s ^^ s') (m * m') (e + e') (st || st'), raiseNone)

/-- `msum` of R79: the exact sum of the accumulator and the products, rounded once by RNE; an exact zero is +0. -/
def msum (ftzo : Bool) (acc : FVal) (ps : List FVal) (f : Fmt) : Nat × Raise :=
  if fvNan acc || ps.any fvNan then (cnan f, raiseNone)
  else
    let isP : FVal → Bool := fun v => v == .inf false
    let isN : FVal → Bool := fun v => v == .inf true
    let pinf := isP acc || ps.any isP
    let ninf := isN acc || ps.any isN
    if pinf && ninf then (cnan f, raiseNV)
    else if pinf then (encInf f false, raiseNone)
    else if ninf then (encInf f true, raiseNone)
    else fout ftzo (fvSum (acc :: ps)) false f 0

/-- `sacc_elem` of R83 on the main, partial and scale encodings; the partial becomes +0 in every case. -/
def saccElem (ftzi ftzo : Bool) (main part sa sb : Nat) : Nat × Raise :=
  let (m, r1) := finF ftzi .f32 main
  let (q, r2) := finF ftzi .f32 part
  let (a, r3) := finF ftzi .f32 sa
  let (b, r4) := finF ftzi .f32 sb
  let (ab, r5) := prodF a b
  let (t, r6) := prodF ab q
  let (x, r7) := msum ftzo m [t] .f32
  (x, r1 ||| r2 ||| r3 ||| r4 ||| r5 ||| r6 ||| r7)

end Sys2Proof.Machine
end

