-- ==== Sys2Proof/Machine/State.lean ====
section
/-! DEFINITION. The state of the part: plain data holding every piece of state the spec gives the machine, the
reasons a step can stop, and the state right after reset. Elements of which the package has thousands (tiles, ports,
channels, bytes of memory) are held as sparse maps: lists of key and value in strictly rising key order. -/
namespace Sys2Proof.Machine

/-- A sparse map: keys strictly rising. -/
abbrev SMap (α : Type) := List (Nat × α)

/-! ### Tokens, ports and channels (02_execution_model.md) -/

/-- The kind of a token (R40). -/
inductive Kind where
  | data | null | mark | err | drain | cfg
  deriving DecidableEq, Repr

/-- A token: kind, tag (BANK in [3:2], SUB in [1:0]) and payload; a control-plane payload stands in the low 64 bits. -/
structure Token where
  kind : Kind
  tag : BitVec 4
  pay : W512
  deriving DecidableEq, Repr

/-- An input port (R47, R88, R82, R50). -/
structure InPort where
  chan : Option Nat        -- the channel it consumes from (R44)
  queue : List (Nat × Token) -- head first, at most four (R44), with the cycle each arrived
  o : Nat                  -- requests sent and not answered (R47)
  hpos : Nat               -- HPOS (R88)
  hrank : BitVec 3         -- HRANK (R88)
  run : Nat                -- DATA and NULL tokens of the present block (R82)
  errs : List Token        -- ERR DETACHED waiting for a free place (R50)
  deriving DecidableEq, Repr

/-- A token that a firing has put in line for an output port: `none` until its result is written (R133). At the port of a
copy of a cloned operator, the place among the copy's chunks of the chunk that it counts towards (R366, R367). -/
structure OutTok where
  job : Nat
  tok : Option Token
  ord : Nat
  deriving DecidableEq, Repr

/-- An output port: its channel and the tokens waiting to enter it, in firing order (R133). -/
structure OutPort where
  chan : Option Nat
  outq : List OutTok
  last : Option (Nat × Nat) -- last-arrival entry (R419): input port and LAG
  deriving DecidableEq, Repr

/-- One consumer of a channel, as the channel sees it (R47 to R51). -/
structure Cons where
  ep : Nat                 -- consumer endpoint (R93)
  pf : Nat                 -- prefetch depth d (R95)
  attached : Bool          -- still in the attached set (R50)
  pend : Nat               -- pending requests at the output port (R48)
  reqs : List Nat          -- requests in transit: the cycle each arrives (R45)
  toks : List (Nat × Token) -- tokens in transit, oldest first, with the cycle each arrives (R45)
  stall : Nat              -- consecutive cycles without a request while another consumer has one (R49)
  lag : Bool               -- a threshold LAGGARD record is written and its stall has not ended (R51)
  copy : Option Nat := none -- the cloned operator, by written tile, whose copy's port this is (R364)
  deriving DecidableEq, Repr

/-- A channel (R44 to R51, R94 to R96). -/
structure Chan where
  rgn : Nat                -- region key
  data : Bool              -- plane: data or control
  detach : Bool            -- policy detach-on-timeout
  w : Nat                  -- watchdog count W
  blk : Nat                -- block length L
  d : Nat                  -- delay stages D
  init : List W512         -- initial values
  line : List W512         -- values in the delay line, stage 0 first (R148)
  lpend : Nat              -- requests of the delay line not yet used: the output port counts the first four (R46, R48)
  prod : Nat               -- producer endpoint
  cons : List Cons
  steer : List (Nat × List Token) -- steering units of the cloned operators among the consumers, by written tile, with the tokens each holds, at most four (R364)
  merge : Option Nat       -- merge unit of a cloned operator (R366)
  closed : Bool            -- the gate of a rewire is closed (R371)
  gateq : List Token       -- tokens held at the gate, at most four
  owed : Nat               -- tokens in line at the output port whose requests are taken at the gate, not at their firing
  passed : Nat             -- tokens that have passed the output port since install (R371, R383)
  deriving DecidableEq, Repr

/-! ### The processing element (06_pe_instructions.md) -/

/-- The state of one bank (R130). -/
structure Bank where
  k : Vector W64 8
  v : Vector W512 8
  q0 : List W64            -- oldest first
  q1 : List W64
  qd0 : Nat                -- depth of q0, 1 to 16
  qd1 : Nat
  p : BitVec 4
  mode : W64
  mlOn : Bool              -- maintenance loop on bit
  rs : Nat                 -- ring size
  lc : Nat                 -- loop counter LC
  deriving DecidableEq, Repr

/-- A slot of the context store (R84). -/
structure Slot where
  trig : BitVec 32
  word : BitVec 32
  lit : W64
  deriving DecidableEq, Repr

/-- A resolved destination of a firing (R89): a register by number, an output port with the tag its token takes, or a
reserved position of the lm write stream with the run it belongs to and its byte address (R223). -/
inductive Dst where
  | none
  | k (i : Nat)
  | v (i : Nat)
  | q (i : Nat)
  | out (j : Nat) (tag : BitVec 4)
  | lm (pos : Nat) (gen : Nat) (addr : Nat)
  deriving DecidableEq, Repr

/-- Units a bank of firings shares within a tile: the PE's divider (R131), the vector unit's divide-and-root unit
(R168). -/
inductive JobUnit where
  | none | divider | root
  deriving DecidableEq, Repr

/-- What a firing waits on before its result is known: nothing, an answer of another engine, a matrix entry. -/
inductive Wait where
  | none                   -- result known; written at the end of cycle `due`
  | answer                 -- an engine's answer makes it known
  | matrix                 -- a matrix entry
  deriving DecidableEq, Repr

/-- A firing whose results are not all written (R131 to R133): destinations, results, flags and predicate update. -/
structure Job where
  id : Nat
  bank : Nat
  slot : Nat
  ctx : Nat
  wait : Wait
  due : Nat                -- the cycle at whose end the results are written, once known
  da : Dst
  db : Dst
  r1 : Kind × W512
  r2 : Kind × W512
  raise : Raise
  pred : Option (Nat × Bool) -- predicate update pending until the result is written (R132)
  unit : JobUnit
  mem : Bool               -- the firing issued memory accesses (R304: a fence waits for them)
  acq : Bool               -- the bank's later memory instructions wait for it (R303)
  deriving DecidableEq, Repr

/-- A scratchpad-ring handle (R234): the bound ring (memory tile number, ring number) and the view of P and C. -/
structure Handle where
  ring : Option (Nat × Nat)
  p : Nat
  c : Nat
  busy : Bool              -- a bind or an advance waits for the tile's answer (R235, R236)
  binding : Bool           -- it is a bind that waits
  ups : List (Nat × Nat × Nat) -- views on their way, oldest first: cycle, P and C (R234)
  deriving DecidableEq, Repr

/-- State of a stream (R219). -/
inductive StreamSt where
  | idle | run | done
  deriving DecidableEq, Repr

/-- One stream of the stream sequencer (R219). -/
structure Stream where
  w0 : W64                 -- descriptor words as last loaded
  w1 : W64
  a0 : W64                 -- active copy
  a1 : W64
  st : StreamSt
  j : Nat                  -- elements delivered, or positions reserved and not returned
  next : Nat               -- read: elements fetched; write: positions never reserved begin here
  free : List Nat          -- write: returned positions, rising (R223)
  errin : Bool
  ahead : List (Nat × Option W512) -- read-ahead: cycle from which it can be taken, value (none: uncorrectable)
  own : Option Nat         -- the bank of the folded-in operator that set or started it last; none: the tile's own (R370)
  gen : Nat                -- number of ss.go and ss.stop so far: tells reservations of an earlier run apart (R224)
  start : Nat              -- cycle of the last ss.go
  deriving DecidableEq, Repr

/-- An entry of the matrix command queue (R196). -/
structure MatCmd where
  op : Nat                 -- opcode (R102); a follow-on has 0
  spec : W64               -- spec literal, with AUTO already resolved into row
  row : Nat                -- resolved row or column
  two : Bool               -- `acc.rd` with DB other than DA
  a : W512
  b : W512
  ftzi : Bool
  ftzo : Bool
  skip : Option Token      -- a non-DATA head: the entry computes nothing (R199)
  job : Nat                -- the firing's job
  bank : Nat
  fon : Option (BitVec 256 × Nat × Nat × Nat) -- follow-on descriptor, BTE, channel, sequence number (R211)
  deriving DecidableEq, Repr

/-- An entry running on the array (R198): start cycle and run time, and whether a follow-on failed its check (R213). -/
structure MatRun where
  cmd : MatCmd
  start : Nat
  t : Nat
  bad : Bool
  deriving DecidableEq, Repr

/-- A route-label binding of the task port (R333). -/
structure Binding where
  slot : Nat
  bank : Nat
  deriving DecidableEq, Repr

/-- A synchronisation object of the race checker (R314). -/
inductive ObjId where
  | line (loc : Nat)                 -- the 128-byte line at a location key
  | ring (mt : Nat) (n : Nat)
  | issue (bte : Nat) (ch : Nat)     -- a BTE channel's issue object
  | future (id : Nat)
  | launch (seq : Nat)
  | coll (grp : Nat) (n : Nat)
  | table (t : Nat)
  | step (t : Nat)                   -- the steps of a replica table (R396)
  | queue (mt : Nat)                 -- inter-partition queue, by producing gateway
  | fence (scope : Nat) (inst : Nat) -- the fence object of a scope instance
  | resume (rgn : Nat)               -- a debug-port RESUME of a region (R427)
  | door (ring pi : Nat)             -- a doorbell write of a host-written ring (R405), until the entries below it are taken
  | overflow
  deriving DecidableEq, Repr

/-- A task packet (R331): label, words, and what its consumer acquires (R348, R395). -/
structure Packet where
  label : Nat
  two : Bool
  w0 : W64
  w1 : W64
  acq : Option ObjId
  slot : Option (Nat × Nat × Nat) -- table, expert and replica slot of a dispatched packet (R393)
  deriving DecidableEq, Repr

/-- A packet on the die mesh: the destination tile and the cycle from which it can arrive (R331). -/
structure NetPacket where
  id : Nat
  src : Nat                -- sending context (tile * 4 + bank), or 2^20 + die for a dispatcher
  dst : Nat                -- destination tile
  due : Nat
  pkt : Packet
  deriving DecidableEq, Repr

/-- A trap of a PE (R161, R163), with what a resume presents again (R324, R353). -/
structure Trap where
  cause : Nat
  detail : W64
  bank : Nat
  slot : Nat
  ctx : Nat
  trig : BitVec 32
  word : BitVec 32
  lit : W64
  preds : BitVec 4
  loopOn : Bool
  bare : Bool              -- FENCED_ELEMENT: slot, words and heads are zero (R163)
  time : Nat
  ver : BitVec 16          -- layout version
  race : Option (BitVec 512) -- the RACE_TRAP record written in place of R163's (R324)
  again : Option (Nat × W64 × Bool) -- job and address of a launch presented again, and whether it is `launch.try` (R353)
  job : Option Nat         -- the job whose answer the trap followed
  written : Bool           -- its record has been written
  deriving DecidableEq, Repr

/-- A watch of a PE on a future (R347): the future id and, once reported, its state word. -/
structure Watch where
  fut : Nat
  seen : Option W64
  due : Nat
  deriving DecidableEq, Repr

/-- A failed translation reported to a PE: page, whether for a write, and the reason bits of R260. -/
structure XlatFail where
  page : Nat
  write : Bool
  reason : Nat
  cyc : Nat                -- when it was reported
  deriving DecidableEq, Repr

/-- A compute tile (R16, R130, R193, R219, R234, R333). -/
structure Tile where
  rgn : Option Nat         -- the region instance that holds it
  banks : Vector Bank 4
  slots : SMap Slot        -- context store: key 64 * context + slot; absent slots are all zero
  ctx : Nat                -- selected context
  bank : Nat               -- current bank of the arbiter
  resume : Nat             -- cycle from which slots fire again after cfg.sel (R158)
  yielded : Option (Nat × Nat) -- bank that yielded and the cycle in which it is not ready (R157)
  lastFire : Nat           -- cycle of the last firing
  lastBank : Nat           -- bank of the last firing of the tile's own operator (R363)
  jobs : List Job          -- oldest first
  njob : Nat               -- id of the next job
  handles : Vector Handle 8
  lm : SMap Byte           -- local memory, 128 KiB
  bad : List Nat           -- 64-bit words of local memory with an uncorrectable error (R218)
  lmsts : List (Nat × BitVec 64) -- `lm.st` fired in this cycle and performed in the next (R225): address and value
  rd : Stream              -- read stream
  wr : Stream              -- write stream
  acc : SMap Row           -- accumulator store
  panels : SMap W512       -- key 32 * panel + column
  table : List FVal        -- product table; empty stands for 256 zeros (R193)
  mcbRan : Bool            -- an mcb has run (R213)
  cmdq : List MatCmd       -- command queue, at most 8
  runs : List MatRun       -- entries running
  fons : List MatCmd       -- follow-ons delivered and waiting for a queue place (R196)
  sw : W64                 -- switch-element word (R97)
  bind : SMap Binding      -- binding table, by label
  tbuf : List Packet       -- task buffer, at most 32, in order of arrival
  present : Option Packet  -- the packet presented in this cycle (R332)
  lastLabel : Nat          -- label last presented
  watches : List Watch     -- at most 8
  xfails : List XlatFail
  traps : List Trap
  stopped : Bool           -- no firing: trapped, frozen, saved or drained
  drained : Bool           -- the element has passed DRAIN on (R376)
  half : Option Bool       -- armed for shadow swap: which half of local memory is live (R217)
  moveIn : SMap Nat        -- input ports of operators folded in, with their bank (R369)
  moveBanks : List Nat     -- banks that folded-in operators run in
  idle : Nat               -- cycles without work (R428)
  gated : Bool
  wake : Nat               -- cycle from which a gated block works again
  deriving DecidableEq, Repr

/-! ### Memory tiles (09_local_memory_and_rings.md) -/

/-- A scratchpad ring (R232, R233). -/
structure Ring where
  word : W64
  p : Nat
  c : Nat
  deriving DecidableEq, Repr

/-- A line held by a cache bank (R230): its number and its dirty sectors. -/
structure CLine where
  line : Nat
  dirty : BitVec 2
  deriving DecidableEq, Repr

/-- A memory tile (R227 to R233, R412). -/
structure MTile where
  rgn : Option Nat
  role : W64               -- role word (R98)
  mem : SMap Byte          -- 1 MiB
  bad : List Nat           -- 64-bit words with an uncorrectable error
  lmeta : SMap (BitVec 64) -- line metadata of an addressed buffer (R317)
  rings : SMap Ring
  fifo : List Token        -- token FIFO, head first
  fifoPos : Nat            -- place of the head among the FIFO's entries
  fifoBad : List Nat       -- positions counted from the head with an uncorrectable error (R238)
  sets : SMap (List CLine) -- cache bank: most recently accessed first
  pq : SMap (List Nat)     -- request queues of the four ports: access ids (R227)
  served : List Nat        -- banks that have performed an access in this cycle, and 16 + each port served
  rot : SMap Nat           -- by bank: port served last
  link : Option Nat        -- gateway: the memory tile its port 2 feeds (R412)
  feeder : Option Nat      -- gateway: the memory tile that feeds its port 3, or last did
  unlinking : Bool
  relAt : Option Nat       -- gateway: accesses with a lower id come before the enqueue of the token at port 0 (R307)
  crossing : List (Nat × Token)
  half : Option Bool       -- armed: which 512 KiB half is live (R381)
  idle : Nat
  gated : Bool
  wake : Nat
  deriving DecidableEq, Repr

/-! ### Address-generator tiles (11_address_generators.md) -/

/-- Walker states (R242). -/
inductive AgtSt where
  | idle | run | wait | stalled | done | faulted
  deriving DecidableEq, Repr

/-- A line of the coalescing buffer (R251): line number, bytes written and their mask. -/
structure CoLine where
  line : Nat
  data : BitVec 1024
  mask : BitVec 128
  pos : Nat                -- element whose write opened the entry
  deriving DecidableEq, Repr

/-- An AGT (R241 to R264). -/
structure Agt where
  rgn : Option Nat
  w : Vector W64 9         -- walker words
  st : AgtSt
  cnt : Vector Nat 5       -- counters i_0 to i_4
  pos : Nat                -- elements issued since go, or the stopping element
  ended : Bool             -- the walk's last element has been issued
  part : W512              -- lanes of the token being filled
  npart : Nat              -- lanes filled
  taken : Nat              -- write walk: lanes of the head token already issued
  out1 : List Token        -- complete tokens and marks waiting for port 1
  out3 : List Token        -- unsolicited status tokens waiting for port 3
  cfgs : List W64          -- pending CFG payloads, at most 8
  sect : Option (Nat × Option W512 × Bool) -- sector being read or held: number, data once returned, uncorrectable
  issued : Bool            -- read walk: the present element is translated and its sector's read is issued (R258)
  buf : List CoLine        -- coalescing buffer, oldest first, at most 16
  goes : Nat               -- implicit go commands not yet taken (R248)
  hand : Bool              -- a hand-over waits for its writes (R255, steps 1 to 3)
  handTok : Bool           -- HOLD is cleared and its token is not yet written to port 4 (R255, step 4)
  stopping : Bool          -- agt.stop is under way (R248)
  reported : Bool          -- the walk has reported (R252)
  frozen : Bool            -- the walk has stopped at a token boundary and DRAIN is passed on (R376)
  xl : Option (Nat × Option (Nat × Nat)) -- page whose walk the element waits for; reason and entry once it has failed
  tlbAt : Option (Nat × Nat) -- page that the die TLB holds, and the cycle from which its hit serves (R257)
  trail : List (Nat × Vector Nat 5) -- element and counters that opened each line not yet performed (R324)
  raced : Option (Nat × Vector Nat 5 × Bool) -- STALLED by a race trap (R324): position, counters and end of the walk to go on from
  uncorr : Option Nat      -- the partial token holds an element with an uncorrectable error: its address
  leftTok : Option Nat     -- read walk: tokens still to pass before DRAIN (R376, R421)
  deriving DecidableEq, Repr

/-- A translation held by a TLB (R257): partition, virtual page, physical page, writes permitted. -/
structure TlbEnt where
  part : Nat
  vp : Nat
  pp : Nat
  w : Bool
  deriving DecidableEq, Repr

/-- Who waits for a page walk. -/
inductive Walker where
  | pe (tile : Nat)
  | agt (n : Nat)
  deriving DecidableEq, Repr

/-- A page walk in progress (R257). -/
structure Walk where
  id : Nat
  die : Nat
  part : Nat
  vp : Nat
  who : List (Walker × Bool) -- each with whether it writes
  due : Nat
  deriving DecidableEq, Repr

/-! ### Block transfers (13_block_transfer.md) -/

/-- The follow-on of a copy: none, the descriptor itself, or its offset in the target's local memory (R281). -/
inductive Fon where
  | none
  | desc (d : BitVec 256)
  | lmAt (off : Nat)
  deriving DecidableEq, Repr

/-- A command of a BTE channel (R270 to R283). -/
structure BteCmd where
  seq : Nat
  src : W64
  dst : W64
  len : Nat
  mcast : BitVec 16
  fon : Fon
  strict : Option (Nat × Nat × Nat × Nat) -- tile, bank, slot, context of a STRICT issue (R275)
  promise : Nat
  chain : Bool
  pre : Nat × Nat × Nat    -- a failure known at the take: status (0 none), address, detail
  after : Nat              -- accesses of the issuing bank with a lower id come first (R290)
  bank : Nat               -- issuing context (tile * 4 + bank)
  deriving DecidableEq, Repr

/-- A 64-byte unit of a copy whose reads have begun: reads still out, the bytes read, whether one met an error. -/
structure BteUnit where
  unit : Nat
  left : Nat
  data : W512
  bad : Bool
  deriving DecidableEq, Repr

/-- A command that its channel has begun. -/
structure BteRun where
  cmd : BteCmd
  units : Nat              -- 64-byte units in all
  next : Nat               -- units begun
  hold : Bool              -- source and destination overlap: every read comes before every write (R271)
  live : List BteUnit
  smap : SMap Nat          -- physical pages of the source by virtual page
  dmap : SMap Nat          -- and of the destination
  status : Nat
  bytes : Nat
  addr : Nat               -- first failing address
  target : Nat
  detail : Nat
  handed : List Nat        -- target tiles whose follow-on has been handed to its array
  fonLeft : List Nat       -- target tiles whose follow-on has not reported
  fonSt : List (Nat × Nat × Nat) -- tile, status, detail
  deriving DecidableEq, Repr

/-- A BTE channel (R267, R268). -/
structure BteCh where
  rgn : Option Nat
  w0 : W64
  w1 : W64
  holder : Nat
  issued : Nat
  taken : Nat
  done : Nat
  tail : Nat
  pprev : Nat
  last : Option Nat        -- LAST: address of the entry with sequence number ISSUED
  first : Option Nat       -- address of the first entry appended
  takenAt : Option Nat     -- address of the entry taken last
  nextAt : Option W64      -- NEXT of that entry as the take read it (R280); none where it named no entry then
  q : List BteCmd          -- accepted and not begun
  run : Option BteRun      -- begun last
  rep : List BteRun        -- copied and not reported, oldest first
  proms : SMap Nat         -- promises by sequence number
  view : Nat × Nat         -- the PEs' view of TAKEN and DONE (R282)
  views : List (Nat × Nat × Nat) -- updates on their way: cycle, TAKEN, DONE
  rels : List (Nat × Nat × Nat) -- publications: highest entry, context, accesses with a lower id come first (R285)
  linkRaces : List (Nat × Nat × Nat) -- entries whose append a race kept from writing NEXT: sequence number, racing line, the entry's address (R324)
  deriving DecidableEq, Repr

/-! ### Accesses to memory (14_memory_model.md) -/

/-- Agents with a program order (R292). -/
inductive Agent where
  | bank (tile : Nat) (b : Nat)
  | walk (agt : Nat)
  | bte (n : Nat) (ch : Nat)
  | disp (die : Nat)
  | ctl (die : Nat)
  | place
  | host (q : Nat)
  | debug
  | port                   -- the host port as it writes its records
  deriving DecidableEq, Repr

/-- Where a byte lives (R294, R406, R269): HBM or host memory by physical address, a memory tile with an offset, a linked
package with its address, a tile's local memory with an offset. -/
inductive Loc where
  | phys (pa : Nat)
  | mtile (mt : Nat) (off : Nat)
  | remote (pkg : Nat) (pa : Nat)
  | lm (tile : Nat) (off : Nat)
  deriving DecidableEq, Repr

/-- What an access does. -/
inductive AccOp where
  | read
  | write (mask : BitVec 128)
  | amo (op : Nat) (signed : Bool)
  | cas (expect : W64)
  | ringRead               -- address resolved from the ring's C when performed (R236)
  | ringWrite              -- address resolved from the ring's P when performed
  | ringAdv (prod : Bool) (n : Nat)
  deriving DecidableEq, Repr

/-- Who receives the answer of an access. -/
inductive AccTo where
  | none
  | job (tile : Nat) (id : Nat)
  | agt (n : Nat)
  | bte (n : Nat) (ch : Nat)
  | launch (id : Nat)
  | record (part : Nat) (seq : Nat) (n : Nat)
  deriving DecidableEq, Repr

/-- An access in flight (R296). Accesses are kept in the order in which they were issued, with rising ids. -/
structure Acc where
  id : Nat
  agent : Agent
  holder : Nat
  part : Nat
  rgn : Nat
  op : AccOp
  addr : W64               -- the address in the form issued (R269)
  loc : Loc
  size : Nat
  data : BitVec 1024
  ring : Option (Nat × Nat × Nat) -- handle, memory tile and ring of a ring access
  rel : Option Nat         -- release at this scope
  acq : Option Nat         -- acquire at this scope
  due : Nat                -- earliest cycle in which it is performed
  port : Option Nat        -- memory-tile port whose queue holds it
  done : Bool              -- performed
  val : BitVec 1024        -- value read
  ok : Bool                -- not stopped by a race, an uncorrectable error or a refusal
  cause : Nat              -- cause of the trap when it is not ok
  back : Nat               -- cycle in which the answer returns
  toward : AccTo
  signed : Bool
  pos : Nat                -- AGT element or BTE sequence number
  who : Nat × Nat × Nat    -- bank, slot and context of the firing
  race : Option (BitVec 512)
  deriving DecidableEq, Repr

/-! ### Clocks of the race checker (15_race_checker.md) -/

/-- The clock state of a holder (R312): vector clock (entries not listed are 0) and passed generations. -/
structure Holder where
  v : SMap Nat
  pg : Vector Nat 4
  deriving DecidableEq, Repr

/-- The clock of a synchronisation object, with the scope and place of its last release (R315). -/
structure Obj where
  id : ObjId
  v : SMap Nat
  scope : Nat
  die : Nat
  cluster : Nat
  deriving DecidableEq, Repr

/-! ### Tasks, futures, groups and launches (16_tasks_and_launch.md) -/

/-- A future (R344 to R347). -/
structure Fut where
  gen : Nat
  st : Nat                 -- 0 PENDING, 1 RESOLVED, 2 FAULTED, 3 FREE (R345)
  cnt : Nat
  value : Nat
  regs : List W64          -- registrations, oldest first
  retired : Bool
  part : Nat
  deriving DecidableEq, Repr

/-- An operation travelling to the dispatcher of a future or group (R347, R349). -/
structure FutOp where
  id : Nat
  op : Nat                 -- 0 new, 1 reg, 2 res, 3 fault, 4 rd; on a group 5 join, 6 leave, 7 new, 8 size
  fut : Nat
  arg : W64
  tile : Nat
  job : Nat
  bank : Nat
  part : Nat
  due : Nat
  after : Nat              -- accesses of the bank with a lower id come first (R348)
  who : Nat × Nat × Nat    -- bank, slot and context of the firing
  src : Option Nat         -- a chain's source future (R346)
  done : Bool
  val : W64
  flag : Bool
  trap : Nat               -- 0, or the cause of the trap its answer brings
  back : Nat
  deriving DecidableEq, Repr

/-- An arrival at a collective (R350). -/
structure Arrival where
  id : Nat
  op : Nat                 -- opcode
  spec : W64
  grp : Nat
  buf : W64
  hasBuf : Bool
  tile : Nat
  bank : Nat
  job : Nat
  part : Nat
  holder : Nat             -- the participant's clock holder and region
  rgn : Nat
  due : Nat
  after : Nat
  deriving DecidableEq, Repr

/-- An open collective instance (R350): its number, its snapshot of contexts (tile * 4 + bank) and the arrivals. -/
structure Inst where
  num : Nat
  snap : List Nat
  arr : List Arrival
  deriving DecidableEq, Repr

/-- A group (R349). -/
structure Grp where
  gen : Nat
  live : Bool
  retired : Bool
  part : Nat
  members : List Nat
  next : Nat               -- number of the next instance
  insts : List Inst
  deriving DecidableEq, Repr

/-- A task ready on a die (R337, R339). -/
structure Task where
  seq : Nat                -- launch
  num : Nat                -- task number, for age: block * 2^27 + task of the block
  blk : Nat                -- block it belongs to
  first : Nat              -- first index, or ROWBASE + 32 t, not reduced (R340)
  count : Nat              -- indices, or rows that are not NULL
  trl : Option (Nat × Nat) -- tile-record mode: FLAGS and ITEM
  bypass : Nat             -- R340
  deriving DecidableEq, Repr

/-- A launch (R335 to R342, R409). -/
structure Launch where
  seq : Nat
  part : Nat
  desc : BitVec 512
  holder : Nat
  agent : Agent
  checked : Bool
  bad : Bool               -- failed its check
  whole : Bool             -- its configuration has no index source port (R240)
  blocks : Nat             -- blocks in all
  out : Nat                -- elected: next block; replicated: blocks handed out
  outs : SMap Nat          -- replicated: blocks handed out, by die
  dies : List Nat          -- D of R409, ascending
  recs : List (Nat × Nat)  -- blocks handed out whose record is to be read, with their die (R339)
  ready : List (Nat × Task) -- tasks ready, with their die
  bound : List Nat         -- regions bound
  reported : List Nat      -- regions that have reported
  lost : List Nat          -- regions lost to a fenced die
  last : Nat               -- die of the instance that reported last
  given : List (Nat × Nat × Option Nat) -- block, die, region that took it: handed out and not finished
  redo : List Nat          -- blocks to hand out again (elected)
  gone : List Nat          -- dies of D whose instances are all lost, though the die is live
  flags : Nat              -- bits 61 and 62 of the completion word (R338), as 1 and 2
  stuck : Bool             -- a bound instance that is not lost was released and will never report: the launch does not complete (R338)
  deriving DecidableEq, Repr

/-! ### Regions (02, 04, 18, 19, 23) -/

/-- A channel record of an image, with absolute endpoints (R94 to R96). -/
structure ChRec where
  hdr : W64
  cons : List W64
  init : List W512
  deriving DecidableEq, Repr

/-- A PE entry (R100). -/
structure PeEnt where
  ep : Nat
  sw : W64
  slots : SMap Slot
  deriving DecidableEq, Repr

/-- A fold variant (R100, R384). -/
structure FoldEnt where
  src : Nat                -- source operator's endpoint
  dst : Nat
  bank : Nat
  ctx : Nat
  slots : SMap Slot        -- the variant's context, slots 0 to 63
  remap : List (Nat × Nat × Bool) -- moved port, port on the target, output
  deriving DecidableEq, Repr

/-- A configuration image with every endpoint translated (R100). -/
structure Image where
  rows : Nat
  cols : Nat
  pes : List PeEnt
  chs : List ChRec
  mts : List (Nat × W64 × List W64)
  agts : List (Nat × List W64)
  btes : List (Nat × List (W64 × W64))
  sinks : List W64
  folds : List FoldEnt
  hdls : List W64
  deriving DecidableEq, Repr

/-- A sink and the marks counted so far (R60). -/
structure Sink where
  ep : Nat
  rank : Nat
  count : Nat
  seen : Nat
  deriving DecidableEq, Repr

/-- A barometer (R357) with its history of windows that passed the gale and calm tests (R359). -/
structure Baro where
  tok : Nat
  se : Nat
  sd : Nat
  gale : Nat               -- consecutive windows with SD > GALE
  calm : Nat               -- consecutive windows with TOK < CALM
  last : Nat × Nat × Nat   -- TOK, SE and SD of the last completed window, as the layout descriptor shows them (R360)
  deriving DecidableEq, Repr

/-- States of a region instance (R374). -/
inductive RgnSt where
  | live | frozen | saved | shadow
  deriving DecidableEq, Repr

/-- What an index source port still has to deliver for the present task (R39, R337). -/
structure Feed where
  seq : Nat
  lead : Bool              -- the rank 1 marker after the task before is still to be sent
  next : Nat               -- tokens already sent
  total : Nat              -- tokens of the task
  task : Task
  marked : Bool            -- the closing marker is sent
  deriving DecidableEq, Repr

/-- A drain under way (R376, R421): 0 DRAIN_SAVE, 1 STEP, 2 HALT. -/
structure Drain where
  kind : Nat
  start : Nat
  k : Nat                  -- tokens each source still passes before DRAIN
  area : Nat
  keep : Bool
  cause : Nat              -- STOP cause (R422)
  value : W64
  elem : Nat
  part : Nat
  tag : Nat                -- TAG of the request to answer
  resp : Bool
  left : SMap Nat          -- per source: tokens still to pass
  gone : List Nat          -- sources that have injected DRAIN
  deriving DecidableEq, Repr

/-- A slot breakpoint (R424). -/
structure Brk where
  tile : Nat
  ctx : Nat
  slot : Nat
  left : Nat
  hit : Option Nat         -- the firing that reached the count, as the element field of R163
  deriving DecidableEq, Repr

/-- A planned or proposed rewire (R377, R382). -/
structure Plan where
  action : Nat             -- 1 clone, 2 retire, 3 fold, 4 unfold
  op : Nat                 -- written tile endpoint of the operator
  target : Nat
  cut : Option Nat         -- exact cut of a plan; none for a barometer's rewire
  num : Nat                -- proposal number
  armed : Bool
  held : Bool              -- its cut has come: its gate is closed (R383)
  window : Nat             -- window in which it was proposed
  deriving DecidableEq, Repr

/-- A rewire under way (R371). -/
structure Rewire where
  plan : Plan
  step : Nat               -- 1 GATING, 2 DRAINING, 3 INSTALL and MOVE, which end with UNGATE
  chan : Nat               -- the operator's input channel
  cut : Nat
  start : Nat              -- cycle in which draining began; in step 3, the cycle in which its writes have ended
  writes : List Nat        -- step 3: tiles whose context store is written (R158)
  moves : List Nat         -- step 3: contexts (tile * 4 + bank) of the operator that moves, whose state stands still
  ports : List Nat         -- step 3: its input ports, at which no token arrives
  deriving DecidableEq, Repr

/-- A chunk of a steered channel (R364): its copies, with its place among each copy's chunks and whether that copy has
finished it; its tokens; whether a MARK ends it and whether it has ended; whether it holds the values that stood in the
delay line at the cut, which go to the original before chunk 0. -/
structure Chunk where
  num : Nat
  toward : List (Nat × Nat × Bool)
  len : Nat
  mark : Bool
  ended : Bool
  pre : Bool
  deriving DecidableEq, Repr

/-- A copy's progress: the place of its present chunk among its chunks, the tokens it has dequeued of that chunk, and the
firing that dequeued last. -/
structure CopyAt where
  ord : Nat
  deq : Nat
  job : Nat
  deriving DecidableEq, Repr

/-- What the steering unit gives a copy's port at the first token of a chunk (R364, R365): HPOS and HRANK as the original's
port would hold them, the count of the edge's block (R82), and whether the state registers take the identity. -/
structure Fresh where
  hpos : Nat
  hrank : BitVec 3
  run : Nat
  ident : Bool
  deriving DecidableEq, Repr

/-- The copies of a cloned operator, with the steering and merge state (R364 to R368). -/
structure Clone where
  op : Nat                 -- written tile
  copies : List Nat        -- tiles, copy 0 the original
  inch : Nat               -- steered channel
  outch : Nat              -- merged channel
  inPort : Nat             -- the operator's input port number
  outPort : Nat
  size : Nat               -- C
  cls : OpClass
  mergeBank : Nat
  mode : W64               -- mode word of the merge bank at the cut
  regs : List Nat          -- state registers (k by number, v by 8 + number)
  skip : Nat               -- values of the delay line at the cut, which go to the original
  next : Nat               -- number of the next chunk to begin
  hpos : Nat               -- HPOS and HRANK of the original's port at the next token (R364)
  hrank : BitVec 3
  run : Nat                -- and the edge's block count (R82)
  fresh : SMap Fresh       -- per copy: what its port takes with the next token
  chunks : List Chunk      -- begun and not merged whole, oldest first
  carry : W512
  last : Option W512       -- last merged DATA output of the oldest chunk
  outs : SMap (List (Nat × Nat × Token)) -- per copy: outputs waiting, each with the place of its chunk among the copy's chunks and the cycle it arrives
  at_ : SMap CopyAt        -- per copy
  given : SMap Nat         -- per copy: chunks given to it so far
  calm : Nat               -- consecutive windows whose summed TOK is below CALM (R359)
  deriving DecidableEq, Repr

/-- A fold in force (R369). -/
structure FoldOn where
  idx : Nat                -- index among the image's variants
  prev : Nat               -- context the target held before
  ctx : Nat                -- context the operator's own tile had selected
  slots : SMap Slot        -- and that tile's context store (R370)
  rd : Stream              -- the target's read stream at the fold, which the operator's takes the place of (R370)
  wr : Stream              -- and its write stream
  deriving DecidableEq, Repr

/-- A region instance. -/
structure Region where
  id : Nat
  part : Nat
  conf : Nat
  row0 : Nat
  col0 : Nat
  imgVA : Nat
  img : Image
  holder : Nat
  maint : Bool
  shadow : Bool
  idx : Option Nat         -- channel of the index source port
  arg : Option Nat         -- channel of the argument source port
  policy : W64
  st : RgnSt
  version : BitVec 16
  sinks : List Sink
  launch : Option (Nat × Nat × Nat × Nat) -- present launch: sequence number, base, count, argument
  started : Bool           -- a launch has bound it: its elements fire
  reusable : Bool
  feed : Option Feed
  argTok : Option W64      -- argument token not yet sent
  stopAt : Option Nat      -- cycle by which the other elements stop (R162)
  drain : Option Drain
  wasFrozen : Bool
  brks : SMap Brk
  plans : List Plan
  proposals : List Plan
  nprop : Nat
  rewire : Option Rewire
  clones : List Clone
  folds : List FoldOn      -- in order of application
  baros : SMap Baro        -- by consumer endpoint
  chans : List Nat         -- channels, in record order
  win : Nat                -- WIN (R360): windows completed since install
  winDue : Bool            -- the last window's counters are not yet written
  releasing : Option Nat   -- a RELEASE waits: TAG of its request
  unitGone : Bool          -- a FENCED_ELEMENT record has been written for the region, which has no compute tile to hold its trap (R161)
  image : Option Nat       -- save image address
  deriving DecidableEq, Repr

/-- What a save has taken of a region instance (R376, R379, R380): the record of the instance and the state of its elements,
with channels by id. The bytes that stand for it in the save area have a form the spec does not give. -/
structure Snap where
  rgn : Region
  full : Bool
  drained : Bool
  keep : Bool
  frozen : Bool
  tiles : SMap Tile
  inPorts : SMap InPort
  outPorts : SMap OutPort
  chans : SMap Chan
  mtiles : SMap MTile
  agts : SMap Agt
  btes : SMap BteCh
  accs : List Acc          -- accesses that a race has stopped and a resume presents again (R324)
  body : List Byte         -- the bytes of the image as stored, its header among them
  deriving DecidableEq, Repr

/-! ### Expert placement (20_expert_placement.md) -/

/-- A replica table as a die has adopted it (R386, R392): version, expert count, slot words. -/
structure Adopted where
  part : Nat
  tab : Nat
  ver : Nat
  nexp : Nat
  slots : SMap W64         -- key 8 * expert + slot
  deriving DecidableEq, Repr

/-- A registered table as the engine holds it (R386 to R400). -/
structure XTab where
  part : Nat
  tab : Nat
  va : Nat
  hdr : SMap W64           -- header words 0 to 63 as the engine holds them
  recs : SMap W64          -- expert records: key 16 * expert + word
  ver : Nat
  counts : SMap Nat        -- counts received in the present interval, each saturated
  got : Nat                -- their total, not saturated
  lastCounts : SMap Nat    -- counts of the last completed interval
  interval : Nat           -- intervals completed
  nextEnd : Nat            -- cycle mode: the multiple of N that ends the present interval
  inf : SMap Nat           -- key 8 * expert + slot (R393)
  step : Nat               -- steps ended
  merged : Nat
  steps : List (Nat × Nat × Nat) -- steps waiting for their merge: number, requesting context, accesses before it
  adopting : List (Nat × Nat) -- dies that have not adopted the version published, with the cycle it arrives
  regOf : Option (Nat × Nat) -- registration's response: partition, TAG
  pubs : Option (Nat × Nat) -- XD_PUBLISH's response
  target : Option (Nat × Nat × Nat) -- the operation's expert, slot and spare
  copied : Nat             -- bytes copied and zeroed
  op : Nat                 -- 0 none, 1 replicating, 2 retiring, 3 merging
  fail : Option (Nat × Nat) -- status and address of a fault
  deriving DecidableEq, Repr

/-! ### Dies, partitions and the host -/

/-- A die: throttling, dispatcher state, TLB. -/
structure Die where
  throttle : Bool
  futs : SMap Fut
  grps : SMap Grp
  tabs : List Adopted
  counts : List (Nat × Nat × Nat × Nat) -- counts not yet sent: partition, table, expert, count
  tlb : List TlbEnt        -- most recent first, at most 16,384
  selfRef : List Nat       -- stacks in self-refresh
  stackAt : SMap Nat       -- by stack: cycle of the last request
  bteRot : SMap Nat        -- by cluster: the channel whose 64-byte unit its BTE moved last (R270)
  deriving DecidableEq, Repr

/-- A partition (R411) and the state the part keeps for it. -/
structure Part where
  desc : BitVec 2048       -- the 256-byte descriptor
  isSet : Bool
  seq : Nat                -- launches accepted
  devq : List Launch       -- device launch queue and launches not yet complete
  spill : List Launch
  busy : Option Nat        -- TAG of the request under way (R407)
  faultPI : Nat
  heldFault : List (Agent × BitVec 512) -- records waiting for a free slot, with the engine that waits (R405)
  raceMode : Nat
  raceNext : Option (Nat × Nat) -- mode that a change from off brings, and the cycle
  racePI : Nat
  raceDropped : Nat
  sweep : Option (SMap Nat × List (Nat × Nat)) -- sweep under way (R321): targets, and the lines still to be visited: 0 HBM or 1 + memory tile, line
  holders : SMap Holder
  floor : SMap Nat         -- F, 1 where absent (R312)
  objs : List Obj
  gens : SMap Nat          -- GEN by scope instance key
  genGrp : SMap Nat        -- generation group by scope instance key
  poolNext : Nat           -- pool pages used
  armed : Option (Nat × Nat) -- save area pinned: base, pages (R379)
  isArmed : Bool
  rot : Nat                -- work queue served last
  rollbacks : Nat
  traceCtl : W64
  tracePI : Nat
  traceDropped : Nat
  pathDue : Nat            -- cycle from which the next sink dequeue starts a walk
  pathAt : Option (Nat × Nat) -- a walk starts: region, port endpoint
  swap : Option (Nat × Nat) -- SWAP accepted: cycle and TAG
  deriving DecidableEq, Repr

/-- A host request under way (R407): its entry, what it has still to do, and walks that must finish first (R407, INVAL). -/
structure Req where
  entry : BitVec 512
  todo : List Nat
  deriving DecidableEq, Repr

/-- A release that waits to be performed (R296 item 3): for the accesses of its agent with an id below `before` and their homes in
scope, and for its holder's clock (R321). -/
structure Owed where
  agent : Agent
  before : Nat
  part : Nat
  holder : Nat
  obj : ObjId
  scope : Nat
  deriving DecidableEq, Repr

/-- The firing that is being performed: which slot of which tile, and the words it fires with. -/
structure Firing where
  tile : Nat
  bank : Nat
  slot : Nat
  ctx : Nat
  trig : BitVec 32
  word : BitVec 32
  lit : W64
  deriving DecidableEq, Repr

/-- An input from outside the part: an event of a unit, the link or the host's registers; a write of the host to
memory through the port, or a read of n bytes, issued through a work queue; an uncorrectable error at a 64-bit word of a memory (0 HBM or host memory by physical
address, 1 a tile's local memory, 2 a memory tile). -/
inductive Input where
  | event (e : Event)
  | hostWrite (queue pa : Nat) (data : List Byte)
  | hostRead (queue pa n : Nat)
  | memErr (space : Nat) (unit : Nat) (addr : Nat)
  deriving DecidableEq, Repr

/-- The model's own scheduling data: what is still to be done in the present cycle. A PE's turn, a step that is proposed
once, an input from outside, or a stage that proposes the steps of its kinds. -/
inductive Turn where
  | pe (tile : Nat)
  | act (e : Event)
  | input (x : Input)
  | stage (n : Nat)
  deriving DecidableEq, Repr

/-- A Welgepra link (R413, R428): retries of the present flit, cycle of the last flit, lanes idle. -/
structure Link where
  retries : Nat
  last : Nat
  lanesIdle : Bool
  deriving DecidableEq, Repr

/-- Registers, rings and unit maps of the host port, and boot state (R32, R403 to R416, R425). -/
structure HostPort where
  booted : Bool            -- BOOTDONE
  boot : Nat               -- steps of R415 behind it: 0 none, 1 the image is verified, 2 the tests are run
  failed : Bool            -- the firmware image was refused: the part stays in reset
  fwver : Nat
  attested : Bool
  leaf : Nat               -- next leaf of the attestation key
  fenced : List Unit0      -- units out of service
  errs : SMap Nat          -- uncorrectable errors reported, which count towards fencing (R30, R218, R227), by `homeErrKey`
  reqRing : W64
  reqPI : Nat
  reqCI : Nat
  mgmtRing : W64
  mgmtCIAddr : W64
  mgmtPI : Nat
  heldMgmt : List (Agent × BitVec 512)
  route : SMap W64         -- LINKROUTE
  wq : SMap (W64 × Nat × W64 × W64) -- work queues: ring word, PI, CI address, owner
  wqCI : SMap Nat
  doors : SMap (List Nat)  -- producer indices that doorbell writes of a work queue, or (8,192) of the request ring, have brought and whose entries are not all taken
  reqs : List Req          -- requests under way
  dbgCmd : BitVec 512
  dbgGo : Bool
  dbgDone : Bool
  dbgStatus : Nat
  dbgVal : BitVec 512
  dbgHold : Option Nat     -- a HALT or STEP under way: region key
  raw : SMap W64           -- other registers as written
  traceRing : SMap (W64 × W64) -- TRRING, TRCI by partition
  links : SMap Link
  deriving DecidableEq, Repr

/-- The state of the part. -/
structure State where
  cyc : Nat                -- the package cycle counter (R18)
  free : Nat               -- the model's counter for free values
  turns : List Turn        -- the model's: what is left to do in this cycle
  inbox : List Input       -- the model's: inputs from outside, oldest first
  cur : Firing             -- the firing being performed
  nid : Nat                -- next id of accesses and messages
  tiles : SMap Tile
  shadows : SMap Tile      -- shadow state of armed tiles (R381)
  shadowPorts : SMap InPort
  shadowOuts : SMap OutPort
  shadowMts : SMap MTile
  mtiles : SMap MTile
  inPorts : SMap InPort    -- by endpoint number (R93)
  outPorts : SMap OutPort
  chans : SMap Chan
  rgns : SMap Region       -- by partition * 2^32 + region id
  agts : SMap Agt          -- by die * 64 + k
  agtTlb : SMap (List TlbEnt)
  btes : SMap BteCh        -- by (die * 128 + cluster) * 16 + channel
  mem : SMap Byte          -- physical memory: HBM and host memory
  memBad : List Nat        -- 64-bit words with an uncorrectable error
  lmeta : SMap (BitVec 64) -- metadata of the HBM lines in cache banks (R317)
  sums : SMap (Nat × Nat)  -- page summaries: writer id and clock (R322)
  accs : List Acc
  owed : List Owed         -- releases towards an object that are still to be performed
  walks : List Walk
  packets : List NetPacket
  futOps : List FutOp
  arrivals : List Arrival
  dies : Vector Die 4
  parts : Vector Part 16
  xtabs : List XTab
  saves : SMap Snap        -- save images by partition * 2^52 + virtual address (R380)
  host : HostPort
  deriving DecidableEq, Repr

/-- Why the machine stops for good. -/
inductive Fault where
  /-- Raised by a PE turn whose slot holds a word that decodes to nothing. Safe: the install refuses such a word (R103,
  R104), so no state the install reaches has one; a state that holds one stops. -/
  | undecodable (w : BitVec 32)
  deriving DecidableEq, Repr

/-- Why a step has no meaning. -/
inductive Refusal where
  /-- Raised by an arm of `exec` whose instruction is not modelled yet. Safe: the machine stops. -/
  | notModelled (mnemonic : String)
  deriving DecidableEq, Repr

/-! ### Values at install and at reset -/

/-- A bank at install (R130, R71). -/
def bank0 : Bank :=
  { k := Vector.replicate 8 0, v := Vector.replicate 8 0, q0 := [], q1 := [], qd0 := 1, qd1 := 1, p := 0, mode := 0,
    mlOn := false, rs := 1, lc := 0 }
/-- A slot whose every bit is zero (R84). -/
def slot0 : Slot := { trig := 0, word := 0, lit := 0 }
/-- An unbound handle (R234). -/
def handle0 : Handle := { ring := none, p := 0, c := 0, busy := false, binding := false, ups := [] }
/-- A stream at install (R219). -/
def stream0 : Stream :=
  { w0 := 0, w1 := 0, a0 := 0, a1 := 0, st := .idle, j := 0, next := 0, free := [], errin := false, ahead := [], own := none,
    gen := 0, start := 0 }
/-- A compute tile no region holds, with local memory and accumulators all zero. -/
def tile0 : Tile :=
  { rgn := none, banks := Vector.replicate 4 bank0, slots := [], ctx := 0, bank := 0, resume := 0, yielded := none,
    lastFire := 0, lastBank := 0, jobs := [], njob := 0, handles := Vector.replicate 8 handle0, lm := [], bad := [], lmsts := [], rd := stream0, wr := stream0, acc := [], panels := [], table := [], mcbRan := false, cmdq := [], runs := [],
    fons := [], sw := 0, bind := [], tbuf := [], present := none, lastLabel := 127, watches := [], xfails := [],
    traps := [], stopped := false, drained := false, half := none, moveIn := [], moveBanks := [], idle := 0,
    gated := false, wake := 0 }
/-- An input port at install (R130). -/
def inPort0 : InPort := { chan := none, queue := [], o := 0, hpos := 0, hrank := 0, run := 0, errs := [] }
/-- An output port at install. -/
def outPort0 : OutPort := { chan := none, outq := [], last := none }
/-- A memory tile no region holds. -/
def mtile0 : MTile :=
  { rgn := none, role := 0, mem := [], bad := [], lmeta := [], rings := [], fifo := [], fifoPos := 0, fifoBad := [], sets := [],
    pq := [], served := [], rot := [], link := none, feeder := none, unlinking := false, relAt := none, crossing := [], half := none, idle := 0,
    gated := false, wake := 0 }
/-- An AGT no region holds. -/
def agt0 : Agt :=
  { rgn := none, w := Vector.replicate 9 0, st := .idle, cnt := Vector.replicate 5 0, pos := 0, ended := false, part := 0, npart := 0,
    taken := 0, out1 := [], out3 := [], cfgs := [], sect := none, issued := false, buf := [], goes := 0, hand := false, handTok := false, stopping := false,
    reported := true, frozen := false, xl := none, tlbAt := none, trail := [], raced := none, uncorr := none,
    leftTok := none }
/-- A BTE channel not in use (R268). -/
def bteCh0 : BteCh :=
  { rgn := none, w0 := 0, w1 := 0, holder := 0, issued := 0, taken := 0, done := 0, tail := 0, pprev := 0, last := none,
    first := none, takenAt := none, nextAt := none, q := [], run := none, rep := [], proms := [], view := (0, 0), views := [], rels := [],
    linkRaces := [] }
/-- A future that no allocation has taken: FREE, generation 0 (R345). -/
def fut0 : Fut := { gen := 0, st := 3, cnt := 0, value := 0, regs := [], retired := false, part := 0 }
/-- A group that does not exist. -/
def grp0 : Grp :=
  { gen := 0, live := false, retired := false, part := 0, members := [], next := 1, insts := [] }
/-- A die with nothing under way. -/
def die0 : Die := { throttle := false, futs := [], grps := [], tabs := [], counts := [], tlb := [], selfRef := [], stackAt := [], bteRot := [] }
/-- The reset value of a partition descriptor: zero but for BYPASS 8 and SPILL 65,536 (R411). -/
def desc0 : BitVec 2048 := (8 : BitVec 2048) <<< 872 ||| (65536 : BitVec 2048) <<< 1184
/-- A partition that has not been set (R411). -/
def part0 : Part :=
  { desc := desc0, isSet := false, seq := 0, devq := [], spill := [], busy := none, faultPI := 0, heldFault := [],
    raceMode := 0, raceNext := none, racePI := 0, raceDropped := 0, sweep := none, holders := [], floor := [], objs := [], gens := [],
    genGrp := [], poolNext := 0, armed := none, isArmed := false, rot := 0, rollbacks := 0, traceCtl := 0, tracePI := 0,
    traceDropped := 0, pathDue := 0, pathAt := none, swap := none }
/-- The host port at reset: BOOTST zero, every register zero (R403, R415). -/
def host0 : HostPort :=
  { booted := false, boot := 0, failed := false, fwver := 0, attested := false, leaf := 0, fenced := [], errs := [], reqRing := 0, reqPI := 0,
    reqCI := 0, mgmtRing := 0, mgmtCIAddr := 0, mgmtPI := 0, heldMgmt := [], route := [], wq := [], wqCI := [], doors := [],
    reqs := [], dbgCmd := 0, dbgGo := false, dbgDone := false, dbgStatus := 0, dbgVal := 0, dbgHold := none, raw := [],
    traceRing := [], links := [] }
/-- A barometer that has counted nothing (R357). -/
def baro0 : Baro := { tok := 0, se := 0, sd := 0, gale := 0, calm := 0, last := (0, 0, 0) }
/-- No firing under way. -/
def firing0 : Firing := { tile := 0, bank := 0, slot := 0, ctx := 0, trig := 0, word := 0, lit := 0 }

/-- The part right after reset, before its boot block has run (R415): the cycle counter at 0 (R18), every register,
queue and memory at the value the spec or the assumption log names, nothing installed, no partition set. -/
def State.reset : State :=
  { cyc := 0, free := 0, turns := [], inbox := [], cur := firing0, nid := 0, tiles := [], shadows := [],
    shadowPorts := [], shadowOuts := [], shadowMts := [], mtiles := [], inPorts := [], outPorts := [], chans := [], rgns := [], agts := [], agtTlb := [],
    btes := [], mem := [], memBad := [], lmeta := [], sums := [], accs := [], owed := [], walks := [], packets := [], futOps := [],
    arrivals := [], dies := Vector.replicate 4 die0,
    parts := Vector.replicate 16 part0, xtabs := [], saves := [], host := host0 }

end Sys2Proof.Machine
end

