-- ==== Sys2Proof/Machine/Ops.lean ====
section
/-! DEFINITION. The named operations over the state: sparse maps, bytes, elements and endpoints, unit maps, partitions,
records and rings, translation tables, and the counters for ids and free values. -/
namespace Sys2Proof.Machine

/-! ### Sparse maps -/

/-- The value at a key, if listed. -/
def mapFind {α : Type} (m : SMap α) (k : Nat) : Option α :=
  match m with
  | [] => none
  | (j, v) :: t => if k < j then none else if k = j then some v else mapFind t k
/-- The value at a key, or a default. -/
def mapGet {α : Type} (m : SMap α) (k : Nat) (d : α) : α := (mapFind m k).getD d
/-- The map with a value at a key; the order of keys is kept. -/
def mapPut {α : Type} (m : SMap α) (k : Nat) (v : α) : SMap α :=
  match m with
  | [] => [(k, v)]
  | (j, w) :: t => if k < j then (k, v) :: (j, w) :: t else if k = j then (k, v) :: t else (j, w) :: mapPut t k v
/-- The map without a key. -/
def mapDel {α : Type} (m : SMap α) (k : Nat) : SMap α :=
  match m with
  | [] => []
  | (j, w) :: t => if k < j then (j, w) :: t else if k = j then t else (j, w) :: mapDel t k
/-- The map in canonical form: a value equal to the default is not listed. -/
def mapSet {α : Type} [DecidableEq α] (m : SMap α) (k : Nat) (v d : α) : SMap α :=
  if v = d then mapDel m k else mapPut m k v
/-- Keys strictly rising, above a bound. -/
def mapSorted {α : Type} (lo : Nat) : SMap α → Bool
  | [] => true
  | (j, _) :: t => decide (lo ≤ j) && mapSorted (j + 1) t

/-! ### Bytes (R6) -/

/-- What an unlisted byte of a memory reads as: zero, in every memory of the part. -/
def emptyByte : Byte := 0
/-- One byte of a memory. -/
def byteGet (m : SMap Byte) (a : Nat) : Byte := mapGet m a emptyByte
/-- A memory with one byte written, in canonical form. -/
def byteSet (m : SMap Byte) (a : Nat) (b : Byte) : SMap Byte := mapSet m a b emptyByte
/-- n bytes from an address, little-endian (R6). -/
def bytesGet (m : SMap Byte) (a : Nat) : Nat → Nat
  | 0 => 0
  | n + 1 => (byteGet m a).toNat + 256 * bytesGet m (a + 1) n
/-- n bytes of x written from an address, little-endian (R6). -/
def bytesSet (m : SMap Byte) (a : Nat) (x : Nat) : Nat → SMap Byte
  | 0 => m
  | n + 1 => bytesSet (byteSet m a (BitVec.ofNat 8 x)) (a + 1) (x / 256) n
/-- Bytes of x written where the mask has a bit, byte i of x at address a + i. -/
def bytesMask (m : SMap Byte) (a : Nat) (x mask : Nat) : Nat → SMap Byte
  | 0 => m
  | n + 1 => bytesMask (if mask % 2 = 1 then byteSet m a (BitVec.ofNat 8 x) else m) (a + 1) (x / 256) (mask / 2) n
/-- The canonical form of a memory: addresses strictly rising and no byte listed that an unlisted address reads as. -/
def memWf (m : SMap Byte) : Bool := mapSorted 0 m && m.all fun c => c.2 != emptyByte

/-- A record or descriptor from fields (byte offset, bytes, value). -/
def recOf (l : List (Nat × Nat × Nat)) : BitVec 512 :=
  BitVec.ofNat 512 (l.foldl (fun x f => x ||| ((f.2.2 % 2 ^ (8 * f.2.1)) <<< (8 * f.1))) 0)
/-- A field of a block of bytes. -/
def recFld {w : Nat} (r : BitVec w) (off len : Nat) : Nat := (r.toNat >>> (8 * off)) % 2 ^ (8 * len)
/-- Two's-complement value of a natural's low w bits, for strides. -/
def sxInt (x w : Nat) : Int := sxN x w

/-! ### Elements and endpoints (R54, R93) -/

/-- An endpoint from its fields. -/
def epOf (die ek en port : Nat) : Nat := die * 2 ^ 17 + ek * 2 ^ 15 + en * 16 + port
/-- DIE of an endpoint. -/
def epDie (e : Nat) : Nat := e / 2 ^ 17 % 4
/-- EK of an endpoint: 0 compute tile, 1 memory tile, 2 AGT, 3 switch element. -/
def epEk (e : Nat) : Nat := e / 2 ^ 15 % 4
/-- EN of an endpoint. -/
def epEn (e : Nat) : Nat := e / 16 % 2048
/-- PORT of an endpoint. -/
def epPort (e : Nat) : Nat := e % 16
/-- The package number of a tile (die * 2048 + tile number) from an endpoint of kind 0 or 3. -/
def epTile (e : Nat) : Nat := epDie e * 2048 + epEn e
/-- The package number of a memory tile (die * 256 + number). -/
def epMt (e : Nat) : Nat := epDie e * 256 + epEn e % 256
/-- The package number of an AGT (die * 64 + k). -/
def epAgt (e : Nat) : Nat := epDie e * 64 + epEn e % 64
/-- Endpoint of a port of a tile. -/
def tileEp (tile port : Nat) : Nat := epOf (tile / 2048) 0 (tile % 2048) port
/-- Endpoint of a port of a tile's switch element. -/
def swEp (tile port : Nat) : Nat := epOf (tile / 2048) 3 (tile % 2048) port
/-- Endpoint of a port of a memory tile. -/
def mtEp (mt port : Nat) : Nat := epOf (mt / 256) 1 (mt % 256) port
/-- Endpoint of a port of an AGT. -/
def agtEp (agt port : Nat) : Nat := epOf (agt / 64) 2 (agt % 64) port
/-- Die of a tile. -/
def tileDie (tile : Nat) : Nat := tile / 2048 % 4
/-- Row of a tile in its die (R43). -/
def tileRow (tile : Nat) : Nat := tile % 2048 / 64
/-- Column of a tile in its die. -/
def tileCol (tile : Nat) : Nat := tile % 64
/-- Cluster of a tile in the package: die * 128 + 16 * crow + ccol (R93). -/
def tileCluster (tile : Nat) : Nat := tileDie tile * 128 + 16 * (tileRow tile / 4) + tileCol tile / 4
/-- Bit of a tile in its cluster (R273). -/
def tileBit (tile : Nat) : Nat := 4 * (tileRow tile % 4) + tileCol tile % 4
/-- The tile of a cluster with a given bit. -/
def clusterTile (cl bit : Nat) : Nat :=
  cl / 128 * 2048 + (4 * (cl % 128 / 16) + bit / 4) * 64 + 4 * (cl % 16) + bit % 4
/-- Cluster of a memory tile: memory tile 2 i + k lies in cluster i (R93). -/
def mtCluster (mt : Nat) : Nat := mt / 256 * 128 + mt % 256 / 2
/-- The trap record's element field (R163). -/
def trapElem (tile bank slot ctx : Nat) : Nat :=
  bank + tile % 2048 * 4 + tileDie tile * 2 ^ 13 + slot * 2 ^ 15 + ctx * 2 ^ 21

/-! ### Access to the parts of the state -/

/-- A compute tile. -/
def tileOf (s : State) (n : Nat) : Tile := mapGet s.tiles n tile0
/-- The state with a tile replaced. -/
def setTile (s : State) (n : Nat) (t : Tile) : State := { s with tiles := mapPut s.tiles n t }
/-- The state with a tile changed. -/
def modTile (s : State) (n : Nat) (f : Tile → Tile) : State := setTile s n (f (tileOf s n))
/-- A bank of a tile. -/
def bankOf (t : Tile) (b : Nat) : Bank := t.banks.getD b bank0
/-- A tile with a bank replaced. -/
def setBank (t : Tile) (b : Nat) (x : Bank) : Tile := { t with banks := t.banks.setIfInBounds b x }
/-- The state with a bank changed. -/
def modBank (s : State) (n b : Nat) (f : Bank → Bank) : State :=
  modTile s n fun t => setBank t b (f (bankOf t b))
/-- An input port by endpoint. -/
def inPortOf (s : State) (e : Nat) : InPort := mapGet s.inPorts e inPort0
/-- The state with an input port replaced. -/
def setInPort (s : State) (e : Nat) (p : InPort) : State := { s with inPorts := mapPut s.inPorts e p }
/-- An output port by endpoint. -/
def outPortOf (s : State) (e : Nat) : OutPort := mapGet s.outPorts e outPort0
/-- The state with an output port replaced. -/
def setOutPort (s : State) (e : Nat) (p : OutPort) : State := { s with outPorts := mapPut s.outPorts e p }
/-- Whether a port of an AGT has a channel. -/
def agtHasOut (s : State) (n port : Nat) : Bool := (outPortOf s (agtEp n port)).chan.isSome
/-- A channel, if it exists. -/
def chanOf (s : State) (c : Nat) : Option Chan := mapFind s.chans c
/-- The state with a channel replaced. -/
def setChan (s : State) (c : Nat) (x : Chan) : State := { s with chans := mapPut s.chans c x }
/-- A memory tile. -/
def mtileOf (s : State) (n : Nat) : MTile := mapGet s.mtiles n mtile0
/-- The state with a memory tile replaced. -/
def setMTile (s : State) (n : Nat) (m : MTile) : State := { s with mtiles := mapPut s.mtiles n m }
/-- An AGT. -/
def agtOf (s : State) (n : Nat) : Agt := mapGet s.agts n agt0
/-- The state with an AGT replaced. -/
def setAgt (s : State) (n : Nat) (a : Agt) : State := { s with agts := mapPut s.agts n a }
/-- A BTE channel, by BTE number and channel. -/
def bteOf (s : State) (n ch : Nat) : BteCh := mapGet s.btes (n * 16 + ch) bteCh0
/-- The state with a BTE channel replaced. -/
def setBte (s : State) (n ch : Nat) (c : BteCh) : State := { s with btes := mapPut s.btes (n * 16 + ch) c }
/-- A command with the status of one of its follow-ons, its detail and the failing address. -/
def fonNote (tile seq status detail addr : Nat) (r : BteRun) : BteRun :=
  if r.cmd.seq = seq then
    { r with fonLeft := r.fonLeft.erase tile, fonSt := r.fonSt ++ [(tile, status, detail)], addr := if r.addr = 0 then addr else r.addr }
  else r
/-- The status of a follow-on handed to its BTE channel (R214). -/
def fonReport (s : State) (tile bte ch seq status detail addr : Nat) : State :=
  let c := bteOf s bte ch
  setBte s bte ch
    { c with run := c.run.map (fonNote tile seq status detail addr), rep := c.rep.map (fonNote tile seq status detail addr) }
/-- A region instance, by key. -/
def rgnOf (s : State) (k : Nat) : Option Region := mapFind s.rgns k
/-- The state with a region instance replaced. -/
def setRgn (s : State) (k : Nat) (r : Region) : State := { s with rgns := mapPut s.rgns k r }
/-- The state with a region instance changed, if it exists. -/
def modRgn (s : State) (k : Nat) (f : Region → Region) : State :=
  match rgnOf s k with
  | some r => setRgn s k (f r)
  | none => s
/-- Whether the elements of a region instance move tokens: it is live and not stopped (R162). -/
def rgnMoves (s : State) (k : Option Nat) : Bool :=
  match k.bind (rgnOf s) with
  | some r => r.st == .live && (match r.stopAt with | some c => decide (s.cyc < c) | none => true)
  | none => false
/-- Key of a region instance: ids are unique within a partition (R410). -/
def rgnKey (part id : Nat) : Nat := part * 2 ^ 32 + id
/-- A partition. -/
def partOf (s : State) (p : Nat) : Part := s.parts.getD p part0
/-- The state with a partition replaced. -/
def setPart (s : State) (p : Nat) (x : Part) : State := { s with parts := s.parts.setIfInBounds p x }
/-- The state with a partition changed. -/
def modPart (s : State) (p : Nat) (f : Part → Part) : State := setPart s p (f (partOf s p))
/-- A die. -/
def dieOf (s : State) (d : Nat) : Die := s.dies.getD d die0
/-- The state with a die changed. -/
def modDie (s : State) (d : Nat) (f : Die → Die) : State :=
  { s with dies := s.dies.setIfInBounds d (f (dieOf s d)) }
/-- The state with the host port changed. -/
def modHost (s : State) (f : HostPort → HostPort) : State := { s with host := f s.host }
/-- A fresh id, with the state that has used it. -/
def freshId (s : State) : Nat × State := (s.nid, { s with nid := s.nid + 1 })
/-- A free delay: the extra cycles of an operation, with the state that has used it (Config.delay). -/
def freeDelay (s : State) : Nat × State := (Config.delay s.free, { s with free := s.free + 1 })
/-- The package cycle counter as a 64-bit value (R18). -/
def cycW (s : State) : W64 := BitVec.ofNat 64 s.cyc

/-! ### Units and routes (R13, R30, R45, R229, R432) -/

/-- Whether a unit is fenced itself. -/
def isFenced (s : State) (u : Unit0) : Bool := s.host.fenced.contains u
/-- Dies joined by strait i: 0-1, 2-3, 0-2, 1-3 (R12, R32). -/
def straitDies (i : Nat) : Nat × Nat :=
  match i with
  | 0 => (0, 1) | 1 => (2, 3) | 2 => (0, 2) | _ => (1, 3)
/-- Strait between two adjacent dies, if they are adjacent. -/
def straitOf (a b : Nat) : Option Nat :=
  (List.range 4).find? fun i => straitDies i == (a, b) || straitDies i == (b, a)
/-- Whether a die is fenced by a failed controller or by losing its routes (R30). -/
def dieFenced (s : State) (d : Nat) : Bool := isFenced s (.controller d)
/-- Whether a strait is live: a fenced die fences its straits (R13). -/
def straitLive (s : State) (i : Nat) : Bool :=
  !isFenced s (.strait i) && !dieFenced s (straitDies i).1 && !dieFenced s (straitDies i).2
/-- Whether the strait between two adjacent dies is live. -/
def joined (s : State) (a b : Nat) : Bool := (straitOf a b).any (straitLive s)
/-- The dies that traffic from one die to another visits (R13): an adjacent pair by its own strait, or the other way round
where that is fenced; a diagonal pair first along its die row, or first along its die column where that way is cut. -/
def dieRoute (s : State) (a b : Nat) : List Nat :=
  if a = b then [a]
  else if (straitOf a b).isSome then (if joined s a b then [a, b] else [a, 3 - b, 3 - a, b])
  else
    let m := if a % 2 = 0 then a + 1 else a - 1
    if joined s a m && joined s m b then [a, m, b] else [a, 3 - m, b]
/-- Straits crossed between two dies (R13). -/
def crossings (s : State) (a b : Nat) : Nat := (dieRoute s a b).length - 1
/-- Whether a cluster is live: neither its router, nor its BTE, nor its die is fenced (R30). -/
def clusterLive (s : State) (cl : Nat) : Bool :=
  !isFenced s (.router cl) && !isFenced s (.bte cl) && !dieFenced s (cl / 128)
/-- Whether a compute tile is live. -/
def tileLive (s : State) (t : Nat) : Bool := clusterLive s (tileCluster t) && !isFenced s (.tile t)
/-- Whether a memory tile is live. -/
def mtileLive (s : State) (m : Nat) : Bool := clusterLive s (mtCluster m) && !isFenced s (.mtile m)
/-- Whether a pseudo-channel, with its AGT and MIU, is live (R30). -/
def pchanLive (s : State) (g : Nat) : Bool :=
  !isFenced s (.pchan g) && !isFenced s (.agt g) && !dieFenced s (g / 64)
/-- The die of a link port (R34). -/
def linkDie (l : Nat) : Nat := if l < 5 then 0 else if l < 9 then 1 else if l < 13 then 2 else 3
/-- Whether a link is live. -/
def linkLive (s : State) (l : Nat) : Bool := !isFenced s (.link l) && !dieFenced s (linkDie l)

/-- Row and column of a port's position on its die (R45, R432): tiles in a grid of 32 by 64, AGTs one step outside it. -/
def epPos (e : Nat) : Int × Int :=
  if epEk e = 2 then (if epDie e < 2 then -1 else 32, (epEn e % 64 : Nat)) else ((epEn e / 64 : Nat), (epEn e % 64 : Nat))
/-- Row and column of a cluster on its die, in a grid of 8 by 16. -/
def clusterPos (cl : Nat) : Int × Int := ((cl % 128 / 16 : Nat), (cl % 16 : Nat))
/-- Steps between two positions. -/
def steps (a b : Int × Int) : Nat := (a.1 - b.1).natAbs + (a.2 - b.2).natAbs
/-- Steps walked on the dies of a route (R45), each a grid of `rows` by `cols`: from one position on the first die to the
edge at each strait in turn, and from the last strait to the other position. A strait is crossed straight, to the place
that faces it on the next die; the crossing itself is no step. -/
def legSteps (rows cols : Int) : List Nat → Int × Int → Int × Int → Nat
  | d :: e :: t, p, q =>
    if d / 2 = e / 2 then
      let edge : Int := if d < e then cols - 1 else 0
      (p.2 - edge).natAbs + legSteps rows cols (e :: t) (p.1, cols - 1 - edge) q
    else
      let edge : Int := if d < e then rows - 1 else 0
      (p.1 - edge).natAbs + legSteps rows cols (e :: t) (rows - 1 - edge, p.2) q
  | _, p, q => steps p q
/-- Round trip between two clusters (R229), by the route of R13. -/
def roundTrip (s : State) (a b : Nat) : Nat :=
  10 + 4 * legSteps 8 16 (dieRoute s (a / 128) (b / 128)) (clusterPos a) (clusterPos b) + 48 * crossings s (a / 128) (b / 128)
/-- Cluster nearest to an endpoint, for round trips. -/
def epCluster (e : Nat) : Nat :=
  if epEk e = 1 then mtCluster (epMt e)
  else if epEk e = 2 then epDie e * 128 + (if epDie e < 2 then 0 else 112) + epEn e % 64 / 4
  else tileCluster (epTile e)
/-- Cycles a token or a request takes between two endpoints (R45). The dispatcher's source ports stand next to their
consumer. -/
def route (s : State) (a b : Nat) : Nat :=
  if 0x7FFFE ≤ a || 0x7FFFE ≤ b then 1
  else if epEk a = 1 || epEk b = 1 then max 1 (roundTrip s (epCluster a) (epCluster b) / 2)
  else max 1 (legSteps 32 64 (dieRoute s (epDie a) (epDie b)) (epPos a) (epPos b) + 24 * crossings s (epDie a) (epDie b))

/-! ### Partitions (R28, R411) -/

/-- A field of a partition's descriptor. -/
def partFld (p : Part) (off len : Nat) : Nat := recFld p.desc off len
/-- Whether a partition holds a cluster. -/
def partCluster (p : Part) (cl : Nat) : Bool := p.isSet && p.desc.getLsbD cl
/-- Whether a partition holds a pseudo-channel. -/
def partPchan (p : Part) (g : Nat) : Bool := p.isSet && p.desc.getLsbD (512 + g)
/-- Whether a partition holds a work queue. -/
def partQueue (p : Part) (q : Nat) : Bool :=
  p.isSet && decide (partFld p 96 4 ≤ q) && decide (q < partFld p 96 4 + partFld p 100 4)
/-- Whether a partition holds a clock-holder id. -/
def partHolder (p : Part) (h : Nat) : Bool :=
  p.isSet && decide (partFld p 104 2 ≤ h) && decide (h < partFld p 104 2 + partFld p 106 2)
/-- The carve-out is on (FLAGS[0]). -/
def partCarve (p : Part) : Bool := p.desc.getLsbD 864
/-- Translation in hardware mode (FLAGS[1], R262). -/
def partHw (p : Part) : Bool := p.desc.getLsbD 865
/-- Elected distribution (FLAGS[2], R409). -/
def partElected (p : Part) : Bool := p.desc.getLsbD 866
/-- Program race-mode changes permitted (FLAGS[3], R328). -/
def partRaceProg (p : Part) : Bool := p.desc.getLsbD 867
/-- Bypass limit B (R340). -/
def partBypass (p : Part) : Nat := partFld p 109 1 % 16
/-- Whether a tile belongs to a partition. -/
def partTile (p : Part) (t : Nat) : Bool := partCluster p (tileCluster t)
/-- Whether a memory tile belongs to a partition. -/
def partMt (p : Part) (m : Nat) : Bool := partCluster p (mtCluster m)
/-- Whether a destination is a live compute tile of the partition (R334, R347). -/
def liveTileEp (s : State) (p : Part) (e : Nat) : Bool :=
  epEk e = 0 && epPort e = 0 && partTile p (epTile e) && tileLive s (epTile e)
/-- The region that holds a tile, with its key. -/
def tileRgn (s : State) (t : Nat) : Option (Nat × Region) :=
  (tileOf s t).rgn.bind fun k => (rgnOf s k).map fun r => (k, r)
/-- The partition of a tile: its region's, else the one that holds its cluster. -/
def tilePart (s : State) (t : Nat) : Nat :=
  match tileRgn s t with
  | some (_, r) => r.part
  | none => ((List.range 16).find? fun p => partTile (partOf s p) t).getD 0

/-! ### Physical memory, rings and records (R404 to R406) -/

/-- Whether a physical address is in HBM. -/
def isHbm (pa : Nat) : Bool := decide (pa < 2 ^ 39)
/-- The key under which a home's uncorrectable errors are counted: a compute tile, a memory tile, a pseudo-channel. -/
def homeErrKey (l : Loc) : Option Nat :=
  match l with
  | .lm t _ => some (4 * t)
  | .mtile m _ => some (4 * m + 1)
  | .phys pa => if isHbm pa then some (4 * (pa / 2 ^ 31 % 256) + 2) else none
  | .remote _ _ => none
/-- An uncorrectable error reported by a home: it counts towards fencing (R30, R218, R227). -/
def errNote (s : State) (l : Loc) : State :=
  match homeErrKey l with
  | some k => modHost s fun h => { h with errs := mapPut h.errs k (mapGet h.errs k 0 + 1) }
  | none => s
/-- n bytes of physical memory. -/
def physGet (s : State) (pa n : Nat) : Nat := bytesGet s.mem pa n
/-- n bytes written to physical memory. -/
def physSet (s : State) (pa x n : Nat) : State := { s with mem := bytesSet s.mem pa x n }
/-- Base of a ring from its ring word. -/
def ringBase (w : W64) : Nat := w.toNat / 4096 % 2 ^ 40 * 4096
/-- Entries of a ring. -/
def ringSize (w : W64) : Nat := 2 ^ (w.toNat % 16)
/-- Address of entry i of a ring. -/
def ringSlot (w : W64) (i : Nat) : Nat := ringBase w + 64 * (i % ringSize w)
/-- Whether a part-written ring is full: PI - CI = 2^LOG2 (R405). -/
def ringFull (s : State) (w : W64) (ciAddr pi : Nat) : Bool :=
  decide (ringSize w ≤ (pi + 2 ^ 64 - physGet s ciAddr 8) % 2 ^ 64)
/-- A record with its time replaced: the cycle in which it is written. -/
def stampRec (r : BitVec 512) (cyc : Nat) : BitVec 512 := recOf [(0, 56, recFld r 0 56), (56, 8, cyc)]
/-- A record that has waited for a free slot, with the time of its writing where its kind shows that: not a PE_TRAP or a STOP, which
show the time of the trap or the stop (R163, R422); of a CFG_ERROR and a LAGGARD in bytes 24 to 31 (R105, R51). -/
def lateRec (r : BitVec 512) (cyc : Nat) : BitVec 512 :=
  match recFld r 0 2 with
  | 0x10 => r
  | 0xB2 => r
  | 0x30 => recOf [(0, 24, recFld r 0 24), (24, 8, cyc), (32, 32, recFld r 32 32)]
  | 0x40 => recOf [(0, 24, recFld r 0 24), (24, 8, cyc), (32, 32, recFld r 32 32)]
  | _ => stampRec r cyc
/-- Whether a partition's fault ring takes a record now: it is not full, and no record waits for it (R405). -/
def faultRoom (s : State) (p : Nat) : Bool :=
  let x := partOf s p
  !ringFull s (BitVec.ofNat 64 (partFld x 152 8)) (partFld x 160 8) x.faultPI && x.heldFault.isEmpty
/-- A record written by an engine to a partition's fault ring; while the ring is full the engine waits with it (R405). -/
def faultRecord (s : State) (p : Nat) (who : Agent) (r : BitVec 512) : State :=
  let x := partOf s p
  let w : W64 := BitVec.ofNat 64 (partFld x 152 8)
  if !faultRoom s p then
    setPart s p { x with heldFault := x.heldFault ++ [(who, r)] }
  else
    setPart (physSet s (ringSlot w x.faultPI) r.toNat 64) p { x with faultPI := x.faultPI + 1 }
/-- A record written by an engine to the host management queue; while it is full the engine waits with it (R405). -/
def mgmtRecord (s : State) (who : Agent) (r : BitVec 512) : State :=
  let h := s.host
  if ringFull s h.mgmtRing h.mgmtCIAddr.toNat h.mgmtPI || !h.heldMgmt.isEmpty then
    { s with host := { h with heldMgmt := h.heldMgmt ++ [(who, r)] } }
  else
    { physSet s (ringSlot h.mgmtRing h.mgmtPI) r.toNat 64 with host := { h with mgmtPI := h.mgmtPI + 1 } }
/-- Whether an engine waits for a ring to take a record that it has to write (R405). -/
def recWaits (s : State) (who : Agent) : Bool :=
  s.host.heldMgmt.any (fun x => x.1 == who) || (List.range 16).any fun p => (partOf s p).heldFault.any fun x => x.1 == who
/-- A record written to a partition's trace ring, or dropped (R417). -/
def traceRecord (s : State) (p : Nat) (r : BitVec 512) : State :=
  let x := partOf s p
  let (w, ci) := mapGet s.host.traceRing p (0, 0)
  if ringFull s w ci.toNat x.tracePI then setPart s p { x with traceDropped := min (x.traceDropped + 1) 0xFFFF }
  else setPart (physSet s (ringSlot w x.tracePI) r.toNat 64) p { x with tracePI := x.tracePI + 1 }
/-- The response to a request (R407). -/
def respond (s : State) (tag status val : Nat) : State :=
  mgmtRecord s .port (recOf [(0, 2, 0xA0), (2, 2, status), (4, 4, tag), (8, 8, val), (56, 8, s.cyc)])

/-! ### Translation (R256 to R258, R262, R406) -/

/-- The table entry that level `lv` reads for a virtual page, given the table's base. -/
def tableEntry (base lv vp : Nat) : Nat := base + 8 * (vp / 2 ^ (9 * (lv - 1)) % 512)
/-- Address field of an entry. -/
def pteAddr (e : Nat) : Nat := e / 4096 % 2 ^ 40 * 4096
/-- Whether a physical address lies in the metadata carve-out of one of a partition's pseudo-channels (R317). -/
def inCarve (p : Part) (pa : Nat) : Bool :=
  partCarve p && pa / 2 ^ 39 == 0 && partPchan p (pa / 2 ^ 31 % 256) && decide (0x5A000000 ≤ pa % 2 ^ 31)
    && decide (pa % 2 ^ 31 < 0x60000000)
/-- Whether a leaf page of a physical address is outside what a partition may map (R406): a hole, form 0b11, the
carve-out, another partition's pseudo-channel. -/
def badLeaf (p : Part) (pa : Nat) : Bool :=
  match pa / 2 ^ 50 with
  | 0 =>
    let g := pa / 2 ^ 31 % 256
    let off := pa % 2 ^ 31
    pa / 2 ^ 39 != 0 || decide (0x60000000 ≤ off) || !partPchan p g || inCarve p pa
  | 1 => false
  | 2 => false
  | _ => true
/-- The outcome of a walk: the translation, or the reason bits of R260 with the level and the entry read. -/
inductive WalkRes where
  | ok (pp : Nat) (w : Bool)
  | fail (reason : Nat) (entry : Nat) (lv : Nat) (at_ : Nat)
  deriving DecidableEq, Repr
/-- Reason bits (R260): write in [0], not valid [1], not writable [2], bad entry [3], pool empty [4], level in [7:5]. -/
def reasonBits (write nv nw bad pool : Bool) (lv : Nat) : Nat :=
  write.toNat + 2 * nv.toNat + 4 * nw.toNat + 8 * bad.toNat + 16 * pool.toNat + 32 * lv
/-- Whether a valid entry is bad by its own bits (R256). -/
def badPte (e lv : Nat) : Bool :=
  let leaf := e.testBit 3
  e / 2 ^ 52 != 0 || e / 32 % 8 != 0 || e.testBit 1
    || (lv == 4 && leaf) || (lv == 1 && !leaf) || (e.testBit 4 && lv != 1)
    || (lv == 3 && leaf && pteAddr e % 2 ^ 30 != 0)
    || (lv == 2 && leaf && pteAddr e % 2 ^ 21 != 0)
    || (lv == 1 && e.testBit 4 && pteAddr e % 2 ^ 16 != 0)
/-- Physical page of a leaf at a level. A 64 KiB page of level 1 has the page's base in each of its sixteen entries. -/
def leafPage (e lv vp : Nat) : Nat :=
  match lv with
  | 1 => if e.testBit 4 then pteAddr e / 4096 + vp % 16 else pteAddr e / 4096
  | 2 => pteAddr e / 4096 + vp % 512
  | _ => pteAddr e / 4096 + vp % 2 ^ 18
/-- The walk from a level down (R256), for a read or a write. -/
def walkFrom (s : State) (p : Part) (base vp : Nat) (write : Bool) : Nat → WalkRes
  | 0 => .fail (reasonBits write false false true false 1) 0 1 0
  | lv + 1 =>
    let a := tableEntry base (lv + 1) vp
    let e := physGet s a 8
    if !e.testBit 0 then .fail (reasonBits write true false false false (lv + 1)) e (lv + 1) a
    else if badPte e (lv + 1) || inCarve p (pteAddr e) then .fail (reasonBits write false false true false (lv + 1)) e (lv + 1) a
    else if e.testBit 3 then
      if badLeaf p (leafPage e (lv + 1) vp * 4096) then
        .fail (reasonBits write false false true false (lv + 1)) e (lv + 1) a
      else if write && !e.testBit 2 then .fail (reasonBits write false true false false (lv + 1)) e (lv + 1) a
      else .ok (leafPage e (lv + 1) vp) (e.testBit 2)
    else walkFrom s p (pteAddr e) vp write lv
/-- Root of a partition's tables (R411). -/
def partRoot (p : Part) : Nat := partFld p 112 8
/-- A walk of a virtual page. -/
def walkTables (s : State) (pn vp : Nat) (write : Bool) : WalkRes :=
  let p := partOf s pn
  walkFrom s p (partRoot p) vp write 4
/-- A page of the device pool, zeroed (R262). -/
def poolPage (s : State) (pn : Nat) : Option (Nat × State) :=
  let p := partOf s pn
  if p.poolNext < partFld p 128 8 then
    let pa := partFld p 120 8 + 4096 * p.poolNext
    some (pa, setPart { s with mem := s.mem.filter fun c => !(decide (pa ≤ c.1) && decide (c.1 < pa + 4096)) } pn
      { p with poolNext := p.poolNext + 1 })
  else none
/-- Hardware-mode service of a walk that failed as not valid: pool pages for the missing tables and the page, entries
written with VLD and W (R262). Fuel is the number of levels. -/
def walkAlloc (s : State) (pn vp : Nat) (write : Bool) : Nat → WalkRes × State
  | 0 => (walkTables s pn vp write, s)
  | n + 1 =>
    match walkTables s pn vp write with
    | .ok pp w => (.ok pp w, s)
    | .fail r e lv a =>
      if r.testBit 1 then
        match poolPage s pn with
        | some (pa, s1) =>
          walkAlloc (physSet s1 a (pa + (if lv = 1 then 1 + 4 + 8 else 1 + 4)) 8) pn vp write n
        | none => (.fail (r + 16) e lv a, s)
      else (.fail r e lv a, s)
/-- A walk under the partition's service mode (R262). -/
def walkServed (s : State) (pn vp : Nat) (write : Bool) : WalkRes × State :=
  if partHw (partOf s pn) then walkAlloc s pn vp write 4 else (walkTables s pn vp write, s)
/-- Whether a physical page lies in another package (form 0b01): only `st` and `st.rel.sys` may reach it (R406). -/
def linkPage (pp : Nat) : Bool := pp / 2 ^ 38 == 1
/-- A TLB entry for a page (R257). -/
def tlbFind (l : List TlbEnt) (pn vp : Nat) : Option TlbEnt := l.find? fun e => e.part == pn && e.vp == vp
/-- A TLB with an entry entered, at most n kept. -/
def tlbEnter (l : List TlbEnt) (e : TlbEnt) (n : Nat) : List TlbEnt :=
  (e :: l.filter fun x => !(x.part == e.part && x.vp == e.vp)).take n
/-- Bytes read at a virtual address by an engine that translates at once (R379, R410): pages one at a time, byte by byte; none
where a page does not translate, or lies in another package (R406). -/
def virtGet (s : State) (pn va : Nat) : Nat → Option Nat
  | 0 => some 0
  | n + 1 =>
    match walkTables s pn (va / 4096) false with
    | .ok pp _ =>
      if linkPage pp then none
      else (virtGet s pn (va + 1) n).map fun x => (byteGet s.mem (pp * 4096 + va % 4096)).toNat + 256 * x
    | .fail _ _ _ _ => none
/-- A write of n bytes at a virtual address by an engine, under the service mode; reason bits where a page fails. -/
def virtSet (s : State) (pn va x : Nat) : Nat → State × Option Nat
  | 0 => (s, none)
  | n + 1 =>
    match walkServed s pn (va / 4096) true with
    | (.ok pp _, s1) =>
      virtSet { s1 with mem := byteSet s1.mem (pp * 4096 + va % 4096) (BitVec.ofNat 8 x) } pn (va + 1) (x / 256) n
    | (.fail r _ _ _, s1) => (s1, some r)

end Sys2Proof.Machine
end

