-- ==== Sys2Proof/Machine/Clocks.lean ====
section
/-! DEFINITION. Scopes and homes (R293, R294) and the clocks of the race checker (15_race_checker.md): releases and
acquires, the check of an access against its line, floors, generations. -/
namespace Sys2Proof.Machine

/-! ### Places and scope instances (R293) -/

/-- Where an agent or a home is: its die (none: outside the package) and its cluster (none: in no cluster instance). -/
structure Place where
  die : Option Nat
  cluster : Option Nat
  deriving DecidableEq, Repr

/-- The place of a tile's banks. -/
def tilePlace (t : Nat) : Place := ⟨some (tileDie t), some (tileCluster t)⟩
/-- The place of a BTE's channels. -/
def btePlace (n : Nat) : Place := ⟨some (n / 128), some n⟩
/-- The place of an engine of a die that is in no cluster. -/
def diePlace (d : Nat) : Place := ⟨some d, none⟩
/-- The place of the host and of host memory: in the system instance only (R293, R406). -/
def hostPlace : Place := ⟨none, none⟩
/-- The place of an agent (R292, R293): the placement engine and the debug port are on die 0 (R21). -/
def agentPlace : Agent → Place
  | .bank t _ => tilePlace t
  | .walk a => diePlace (a / 64)
  | .bte n _ => btePlace n
  | .disp d => diePlace d
  | .ctl d => diePlace d
  | .place => diePlace 0
  | .host _ => hostPlace
  | .debug => diePlace 0
  | .port => hostPlace
/-- The place of a home (R294): an addressed buffer lies in its cluster's instance, a line of HBM in its die's. -/
def locPlace : Loc → Place
  | .mtile m _ => ⟨some (m / 256), some (mtCluster m)⟩
  | .phys pa => if pa < 2 ^ 39 then diePlace (pa / 2 ^ 31 / 64) else hostPlace
  | .remote _ _ => hostPlace
  | .lm t _ => tilePlace t
/-- Whether `b` lies in the instance of a scope around `a` (R293). -/
def inScope (sc : Nat) (a b : Place) : Bool :=
  match sc with
  | 0 => a.cluster.isSome && a.cluster == b.cluster
  | 1 => a.die.isSome && a.die == b.die
  | 2 => a.die.isSome && b.die.isSome
  | _ => true
/-- Key of the instance of a scope around a place. -/
def instKey (sc : Nat) (a : Place) : Nat :=
  sc * 1024 + (match sc with
    | 0 => a.cluster.getD 1023
    | 1 => a.die.getD 1023
    | _ => 0)
/-- The narrowest scope whose instance around the agent contains the home (R317). -/
def accScope (a home : Place) : Nat :=
  if inScope 0 a home then 0 else if inScope 1 a home then 1 else if inScope 2 a home then 2 else 3

/-! ### Vector clocks (R312, R315) -/

/-- An entry of a holder's vector clock: its own entry starts at 1, every other at 0 (R312). -/
def holderV (p : Part) (h i : Nat) : Nat :=
  match mapFind p.holders h with
  | some x => mapGet x.v i (if i = h then 1 else 0)
  | none => if i = h then 1 else 0
/-- A holder's clock state. -/
def holderOf (p : Part) (h : Nat) : Holder :=
  (mapFind p.holders h).getD { v := [(h, 1)], pg := Vector.replicate 4 0 }
/-- The floor of a holder (R312). -/
def floorOf (p : Part) (h : Nat) : Nat := mapGet p.floor h 1
/-- The generation of a scope instance: 1 until a barrier raises it. -/
def genOf (p : Part) (k : Nat) : Nat := mapGet p.gens k 1
/-- A clock of 32 bits stepped past values whose low 20 bits are 0 (R312). -/
def stepClk (x : Nat) : Nat := (if (x + 1) % 2 ^ 20 = 0 then x + 2 else x + 1) % 2 ^ 32
/-- The entry-by-entry maximum of two vector clocks. -/
def joinV (a b : SMap Nat) : SMap Nat :=
  b.foldl (fun m e => mapPut m e.1 (max (mapGet m e.1 0) e.2)) a
/-- Whether a holder may release: its own clock would stay within its window (R321). -/
def clockRoom (p : Part) (h : Nat) : Bool :=
  p.raceMode == 0 || decide (stepClk (holderV p h h) ≤ floorOf p h + 2 ^ 19 - 2)
/-- Whether a holder may release n times in one step of an engine (R321). -/
def clockRooms (p : Part) (h n : Nat) : Bool :=
  p.raceMode == 0 || decide (Nat.repeat stepClk n (holderV p h h) ≤ floorOf p h + 2 ^ 19 - 2)
/-- An object's entry in the table. -/
def objFind (l : List Obj) (i : ObjId) : Option Obj := l.find? fun o => o.id == i
/-- The object that stands for `i`: its own entry, or the overflow object where the table is full (R313). -/
def objFor (p : Part) (i : ObjId) : ObjId :=
  if (objFind p.objs i).isSome then i
  else if (p.objs.filter fun o => o.id != .overflow).length < partFld p 144 4 then i else .overflow
/-- An object's entry replaced, or added. -/
def objSet (l : List Obj) (o : Obj) : List Obj := o :: l.filter fun x => x.id != o.id
/-- `release(H, S)` (R315): nothing is kept while the race mode is off (R323). -/
def clkRelease (s : State) (pn h : Nat) (i : ObjId) (sc : Nat) (a : Place) : State :=
  let p := partOf s pn
  if p.raceMode = 0 then s
  else
    let hd := holderOf p h
    let k := objFor p i
    let old := ((objFind p.objs k).map (·.v)).getD []
    let o : Obj := { id := k, v := joinV old hd.v, scope := sc, die := a.die.getD 1023, cluster := a.cluster.getD 1023 }
    let hd' := { hd with v := mapPut hd.v h (stepClk (holderV p h h)) }
    setPart s pn { p with objs := objSet p.objs o, holders := mapPut p.holders h hd' }
/-- The place recorded with an object's last release. -/
def objPlace (o : Obj) : Place :=
  ⟨if o.die = 1023 then none else some o.die, if o.cluster = 1023 then none else some o.cluster⟩
/-- Whether an acquire of a scope at a place pairs with an object's last release (R297, R315). Through a home in host memory only an
acquire at system scope does (R406). -/
def pairs (o : Obj) (sc : Nat) (b : Place) (home : Option Place) : Bool :=
  o.id == .overflow
    || (inScope o.scope (objPlace o) b && inScope sc b (objPlace o)
        && (match home with | some q => inScope o.scope (objPlace o) q && (q.die.isSome || sc == 3) | none => true))
/-- `acquire(H, S)` (R315). -/
def clkAcquire (s : State) (pn h : Nat) (i : ObjId) (sc : Nat) (b : Place) (home : Option Place) : State :=
  let p := partOf s pn
  if p.raceMode = 0 then s
  else match objFind p.objs (objFor p i) with
    | some o =>
      if pairs o sc b home then
        let hd := holderOf p h
        setPart s pn { p with holders := mapPut p.holders h { hd with v := joinV hd.v o.v } }
      else s
    | none => s

/-- An object's clock joined into another's: a chain between futures acquires from its source and releases to its target
(R348). -/
def clkJoin (s : State) (pn : Nat) (src dst : ObjId) (a : Place) : State :=
  let p := partOf s pn
  if p.raceMode = 0 then s
  else match objFind p.objs (objFor p src) with
    | none => s
    | some o =>
      let k := objFor p dst
      let old := ((objFind p.objs k).map (·.v)).getD []
      let n : Obj := { id := k, v := joinV old o.v, scope := 2, die := a.die.getD 1023, cluster := a.cluster.getD 1023 }
      setPart s pn { p with objs := objSet p.objs n }
/-- A release of an engine that has no clock holder, such as a sync controller's: the object's clock takes nothing in (R326). -/
def clkBare (s : State) (pn : Nat) (i : ObjId) (sc : Nat) (a : Place) : State :=
  modPart s pn fun p =>
    if p.raceMode = 0 then p
    else
      let k := objFor p i
      let v := ((objFind p.objs k).map (·.v)).getD []
      { p with objs := objSet p.objs { id := k, v := v, scope := sc, die := a.die.getD 1023, cluster := a.cluster.getD 1023 } }
/-- The line of memory in which software finds the producer index of a partition's race log (R326, R329): the spec does not
say where it lies. -/
def racePIAt (p : Nat) : Nat := Config.racePI p / 8 * 8
/-- A record written to a partition's race log, and PI raised after it, each a release at fabric scope by the sync controller;
or the record dropped (R326). -/
def raceRecord (s : State) (p : Nat) (r : BitVec 512) : State :=
  let x := partOf s p
  let w : W64 := BitVec.ofNat 64 (partFld x 168 8)
  if ringFull s w (partFld x 176 8) x.racePI then setPart s p { x with raceDropped := x.raceDropped + 1 }
  else
    let s1 := clkBare (physSet s (ringSlot w x.racePI) r.toNat 64) p (.line (ringSlot w x.racePI / 128)) 2 (diePlace 0)
    let s2 := clkBare (physSet s1 (racePIAt p) (x.racePI + 1) 8) p (.line (racePIAt p / 128)) 2 (diePlace 0)
    modPart s2 p fun y => { y with racePI := x.racePI + 1 }
/-- An object's clock, with its last release, given to another object as well. -/
def clkCopy (s : State) (pn : Nat) (src dst : ObjId) : State :=
  modPart s pn fun p => match objFind p.objs (objFor p src) with
    | some o => { p with objs := objSet p.objs { o with id := objFor p dst } }
    | none => p
/-- An object that nothing acquires from any more leaves the table. -/
def clkForget (s : State) (pn : Nat) (i : ObjId) : State := modPart s pn fun p => { p with objs := p.objs.filter fun o => o.id != i }
/-- An object renamed. -/
def clkRename (s : State) (pn : Nat) (src dst : ObjId) : State :=
  modPart s pn fun p => { p with objs := p.objs.map fun o => if o.id = src then { o with id := dst } else o }

/-! ### Line metadata (R317 to R319) -/

/-- WID. -/
def lmWid (m : BitVec 64) : Nat := fld m 63 54
/-- WCLK. -/
def lmWclk (m : BitVec 64) : Nat := fld m 53 34
/-- SCOPE. -/
def lmScope (m : BitVec 64) : Nat := fld m 33 32
/-- RID. -/
def lmRid (m : BitVec 64) : Nat := fld m 31 22
/-- RCLK. -/
def lmRclk (m : BitVec 64) : Nat := fld m 21 2
/-- MODE. -/
def lmMode (m : BitVec 64) : Nat := fld m 1 0
/-- A metadata word from its fields. -/
def lmWord (wid wclk sc rid rclk mode : Nat) : BitVec 64 :=
  BitVec.ofNat 64 (wid % 1024 * 2 ^ 54 + wclk % 2 ^ 20 * 2 ^ 34 + sc % 4 * 2 ^ 32 + rid % 1024 * 2 ^ 22
    + rclk % 2 ^ 20 * 4 + mode % 4)
/-- Whether clock value v covers stored clock c in the window of R318. -/
def windowCovers (v c : Nat) : Bool :=
  let d := (c + 2 ^ 20 - v % 2 ^ 20) % 2 ^ 20
  !(decide (1 ≤ d) && decide (d ≤ 2 ^ 19))
/-- `covers(A, h, c)` (R318). -/
def covers (p : Part) (a h c : Nat) : Bool := windowCovers (max (holderV p a h) (floorOf p h - 1)) c

/-- A race found (R325): what the other access was (0 read, 1 write, 2 shared reads), its holder and clock, and what A
knew of it. -/
structure RaceHit where
  other : Nat
  holder : Nat
  clk : Nat
  known : Nat
  deriving DecidableEq, Repr

/-- Kinds of an access: 0 read, 1 write, 2 atomic. -/
abbrev AccKind := Nat

/-- The check of R319: holder a at a place, against the metadata of a line with a home. -/
def raceHit (p : Part) (m : BitVec 64) (a : Nat) (pl home : Place) (k : AccKind) : Option RaceHit :=
  let sc := lmScope m
  if lmWclk m != 0 && lmWid m != a && !covers p a (lmWid m) (lmWclk m) then
    some ⟨1, lmWid m, lmWclk m, holderV p a (lmWid m)⟩
  else if k = 0 then none
  else if lmMode m = 1 && lmRid m != a && !covers p a (lmRid m) (lmRclk m) then
    some ⟨0, lmRid m, lmRclk m, holderV p a (lmRid m)⟩
  else
    let pg := (holderOf p a).pg.getD sc 0
    if lmMode m = 2 && (!inScope sc home pl || !windowCovers pg (lmRclk m)) then some ⟨2, lmRid m, lmRclk m, pg⟩
    else none
/-- The metadata after an access (R319). -/
def raceMeta (p : Part) (m : BitVec 64) (a : Nat) (pl home : Place) (k : AccKind) : BitVec 64 :=
  let sc := accScope pl home
  let t := holderV p a a % 2 ^ 20
  match k with
  | 0 =>
    let wide := max (lmScope m) sc
    let excl := lmWord (lmWid m) (lmWclk m) sc a t 1
    let shared := lmWord (lmWid m) (lmWclk m) wide a (genOf p (instKey wide home)) 2
    match lmMode m with
    | 0 => excl
    | 1 => if lmRid m == a || covers p a (lmRid m) (lmRclk m) then excl else shared
    | _ => shared
  | 1 => lmWord a t sc 0 0 0
  | _ => m

end Sys2Proof.Machine
end

