-- ==== Sys2Proof/Machine/Alu.lean ====
section
/-! DEFINITION. Values of the control-plane instructions of groups 0 and 1 (06_pe_instructions.md, R136 to R142): each
function gives the 64-bit result, the condition flag and the sticky flags raised. -/
namespace Sys2Proof.Machine

/-- A control-plane result: value, condition flag, sticky flags. -/
structure AluRes where
  val : W64
  flag : Bool
  raise : Raise
  deriving DecidableEq, Repr

/-- `add`, `sub` and `mul.lo` of R136 on the exact result of the operation. -/
def aluWrap (op : Int → Int → Int) (y : BitVec 3) (mode a b : W64) : AluRes :=
  let w := t8Width y
  let sg := t8Signed y
  let t := op (intOf sg a.toNat w) (intOf sg b.toNat w)
  let (r, f) := ires (modeSat mode) t w sg
  ⟨ext64 sg r w, outOfRange sg w t, f⟩
/-- `add.t` (R136). -/
def aluAdd (y : BitVec 3) (mode a b : W64) : AluRes := aluWrap (· + ·) y mode a b
/-- `sub.t` (R136). -/
def aluSub (y : BitVec 3) (mode a b : W64) : AluRes := aluWrap (· - ·) y mode a b
/-- `mul.lo.t` (R136). -/
def aluMulLo (y : BitVec 3) (mode a b : W64) : AluRes := aluWrap (· * ·) y mode a b
/-- `mul.hi.t` (R136): floor of the product over 2^W, never saturating. -/
def aluMulHi (y : BitVec 3) (a b : W64) : AluRes :=
  let w := t8Width y
  let sg := t8Signed y
  let t := intOf sg a.toNat w * intOf sg b.toNat w
  ⟨ext64 sg (wrapN (t / (2 ^ w : Nat)) w) w, outOfRange sg w t, raiseNone⟩
/-- `div.t` (R136). -/
def aluDiv (y : BitVec 3) (mode a b : W64) : AluRes :=
  let w := t8Width y
  let sg := t8Signed y
  let x := intOf sg a.toNat w
  let z := intOf sg b.toNat w
  let ((q, _), f) := idiv (modeSat mode) sg a.toNat b.toNat w
  ⟨ext64 sg q w, z == 0 || (sg && x == intLo true w && z == -1), f⟩
/-- `rem.t` (R136), with the flags that `idiv` of R78 raises, the SV of the quotient that it discards among them (log 38). -/
def aluRem (y : BitVec 3) (mode a b : W64) : AluRes :=
  let w := t8Width y
  let sg := t8Signed y
  let z := intOf sg b.toNat w
  let ((_, r), f) := idiv (modeSat mode) sg a.toNat b.toNat w
  ⟨ext64 sg r w, z == 0, f⟩
/-- `min.t` (R136): A when A is at most B; the flag says that A was chosen. -/
def aluMin (y : BitVec 3) (a b : W64) : AluRes :=
  let w := t8Width y
  let sg := t8Signed y
  let pick := decide (intOf sg a.toNat w ≤ intOf sg b.toNat w)
  ⟨ext64 sg (if pick then a.toNat else b.toNat) w, pick, raiseNone⟩
/-- `max.t` (R136). -/
def aluMax (y : BitVec 3) (a b : W64) : AluRes :=
  let w := t8Width y
  let sg := t8Signed y
  let pick := decide (intOf sg b.toNat w ≤ intOf sg a.toNat w)
  ⟨ext64 sg (if pick then a.toNat else b.toNat) w, pick, raiseNone⟩

/-- A truth value as a 64-bit result that is also the flag. -/
def aluBool (c : Bool) : AluRes := ⟨if c then 1 else 0, c, raiseNone⟩
/-- Width of the compare type: 0 i32, 1 i64, 2 n32, 3 n64 (R137). -/
def cmpWidth (y : BitVec 2) : Nat := if y.toNat % 2 = 0 then 32 else 64
/-- Signedness of the compare type (R137). -/
def cmpSigned (y : BitVec 2) : Bool := y.toNat < 2
/-- A compare under its type (R137). -/
def aluCmp (c : Int → Int → Bool) (y : BitVec 2) (a b : W64) : AluRes :=
  aluBool (c (intOf (cmpSigned y) a.toNat (cmpWidth y)) (intOf (cmpSigned y) b.toNat (cmpWidth y)))
/-- `cmp.eq.t` (R137). -/
def aluCmpEq (y : BitVec 2) (a b : W64) : AluRes := aluCmp (fun x z => decide (x = z)) y a b
/-- `cmp.ne.t` (R137). -/
def aluCmpNe (y : BitVec 2) (a b : W64) : AluRes := aluCmp (fun x z => decide (x ≠ z)) y a b
/-- `cmp.lt.t` (R137). -/
def aluCmpLt (y : BitVec 2) (a b : W64) : AluRes := aluCmp (fun x z => decide (x < z)) y a b
/-- `cmp.le.t` (R137). -/
def aluCmpLe (y : BitVec 2) (a b : W64) : AluRes := aluCmp (fun x z => decide (x ≤ z)) y a b

/-- `abs` and `neg` of R138 on the exact result. -/
def aluSigned (w4 : BitVec 2) (mode : W64) (t : Int) : AluRes :=
  let w := w4Width w4
  let (r, f) := ires (modeSat mode) t w true
  ⟨ext64 true r w, decide (intHi true w < t), f⟩
/-- `abs.iW` (R138). -/
def aluAbs (w4 : BitVec 2) (mode a : W64) : AluRes := aluSigned w4 mode (sxN a.toNat (w4Width w4)).natAbs
/-- `neg.iW` (R138). -/
def aluNeg (w4 : BitVec 2) (mode a : W64) : AluRes := aluSigned w4 mode (-(sxN a.toNat (w4Width w4)))

/-- A logic result: its flag is "not zero" (R140). -/
def aluLogic (x : W64) : AluRes := ⟨x, x != 0, raiseNone⟩
/-- `shl` (R140). -/
def aluShl (a b : W64) : AluRes := aluLogic (a <<< (b.toNat % 64))
/-- `shr` (R140). -/
def aluShr (a b : W64) : AluRes := aluLogic (a >>> (b.toNat % 64))
/-- `sar` (R140). -/
def aluSar (a b : W64) : AluRes := aluLogic (a.sshiftRight (b.toNat % 64))
/-- `rol` (R140). -/
def aluRol (a b : W64) : AluRes := aluLogic (a.rotateLeft (b.toNat % 64))
/-- `ror` (R140). -/
def aluRor (a b : W64) : AluRes := aluLogic (a.rotateRight (b.toNat % 64))
/-- Bit-field position of R140. -/
def bfPos (x : W64) : Nat := x.toNat % 64
/-- Bit-field width of R140, reduced so that the field ends at bit 63. -/
def bfWidth (x : W64) : Nat := min ((x.toNat >>> 8) % 64 + 1) (64 - bfPos x)
/-- `extr` (R140). -/
def aluExtr (a b : W64) : AluRes := aluLogic (BitVec.ofNat 64 ((a.toNat >>> bfPos b) % 2 ^ bfWidth b))
/-- `extr.s` (R140). -/
def aluExtrS (a b : W64) : AluRes := aluLogic (BitVec.ofInt 64 (sxN (a.toNat >>> bfPos b) (bfWidth b)))
/-- `ins` (R140): the field of A named by the literal is replaced by the low bits of B. -/
def aluIns (a b lit : W64) : AluRes :=
  let n := bfPos lit
  let mask : W64 := BitVec.ofNat 64 ((2 ^ bfWidth lit - 1) <<< n)
  aluLogic ((a &&& ~~~mask) ||| ((b <<< n) &&& mask))
/-- The number of 1 bits among the lowest n bits of x. -/
def countOnes (x : Nat) : Nat → Nat
  | 0 => 0
  | n + 1 => countOnes x n + (if x.testBit n then 1 else 0)
/-- `popc` (R140). -/
def aluPopc (a : W64) : AluRes := aluLogic (BitVec.ofNat 64 (countOnes a.toNat 64))
/-- `clz` (R140): 64 for zero; the flag is A = 0. -/
def aluClz (a : W64) : AluRes :=
  ⟨BitVec.ofNat 64 (if a.toNat = 0 then 64 else 63 - Nat.log2 a.toNat), a == 0, raiseNone⟩
/-- The number of zero bits from bit i upwards, at most n. -/
def trailZeros (x i : Nat) : Nat → Nat
  | 0 => 0
  | n + 1 => if x.testBit i then 0 else 1 + trailZeros x (i + 1) n
/-- `ctz` (R140): 64 for zero; the flag is A = 0. -/
def aluCtz (a : W64) : AluRes := ⟨BitVec.ofNat 64 (trailZeros a.toNat 0 64), a == 0, raiseNone⟩
/-- `bswap` (R140). -/
def aluBswap (a : W64) : AluRes :=
  aluLogic (a.extractLsb' 0 8 ++ a.extractLsb' 8 8 ++ a.extractLsb' 16 8 ++ a.extractLsb' 24 8
    ++ a.extractLsb' 32 8 ++ a.extractLsb' 40 8 ++ a.extractLsb' 48 8 ++ a.extractLsb' 56 8)

/-- `sel` (R139): A when predicate I is set, else B; the flag is the predicate. -/
def aluSel (pi : Bool) (a b : W64) : AluRes := ⟨if pi then a else b, pi, raiseNone⟩
/-- `pset` (R141): predicate i becomes A[i] where B[i] is 1. -/
def psetP (p : BitVec 4) (a b : W64) : BitVec 4 :=
  (p &&& ~~~(b.extractLsb' 0 4)) ||| (a.extractLsb' 0 4 &&& b.extractLsb' 0 4)
/-- `pget` (R141). -/
def aluPget (p : BitVec 4) : AluRes := aluLogic (p.setWidth 64)
/-- The predicate X of a predicate operation, LIT[1:0] (R142). -/
def litPX (p : BitVec 4) (lit : W64) : Bool := p.getLsbD (lit.toNat % 4)
/-- The predicate Y of a predicate operation, LIT[9:8] (R142). -/
def litPY (p : BitVec 4) (lit : W64) : Bool := p.getLsbD ((lit.toNat >>> 8) % 4)

end Sys2Proof.Machine
end

