-- ==== Sys2Proof/Machine/Lanes.lean ====
section
/-! DEFINITION. Values of the vector instructions (07_vector_instructions.md): lane access, the floating-point helpers
of R171, and each instruction's 512-bit result, condition flag and sticky flags. -/
namespace Sys2Proof.Machine

/-- A data-plane result: value, condition flag, sticky flags. -/
structure VecRes where
  val : W512
  flag : Bool
  raise : Raise
  deriving DecidableEq, Repr

/-- Lane i of width w (R65, R70). -/
def lane (x : W512) (w i : Nat) : Nat := (x.toNat >>> (w * i)) % 2 ^ w
/-- A value built from lane values, lane 0 first; lanes beyond the list are zero. -/
def ofLanes (w : Nat) (l : List Nat) : W512 :=
  BitVec.ofNat 512 ((l.reverse).foldl (fun acc x => acc * 2 ^ w + x % 2 ^ w) 0)
/-- The lane values of x, lane 0 first. -/
def lanes (x : W512) (w : Nat) : List Nat := (List.range (512 / w)).map (lane x w)
/-- Control-plane value of a data-plane operand's lane 0. -/
def lane0 (x : W512) : W64 := x.setWidth 64
/-- A 64-bit value repeated in all eight lanes (R88, R153). -/
def rep8 (x : W64) : W512 := ofLanes 64 (List.replicate 8 x.toNat)

/-- Lane results with their flags joined: sticky flags ORed, condition flag "some lane". -/
def joinLanes (w : Nat) (l : List (Nat × Bool × Raise)) : VecRes :=
  ⟨ofLanes w (l.map (·.1)), l.any (·.2.1), l.foldl (fun r x => r ||| x.2.2) 0⟩
/-- A lane-wise instruction of two operands. -/
def mapLanes2 (w : Nat) (f : Nat → Nat → Nat × Bool × Raise) (a b : W512) : VecRes :=
  joinLanes w ((List.range (512 / w)).map fun i => f (lane a w i) (lane b w i))
/-- A lane-wise instruction of one operand. -/
def mapLanes1 (w : Nat) (f : Nat → Nat × Bool × Raise) (a : W512) : VecRes :=
  joinLanes w ((List.range (512 / w)).map fun i => f (lane a w i))

/-! ### Floating-point helpers (R171) -/

/-- The mode-word fields an operation reads (R72). -/
structure FMode where
  rm : BitVec 2
  ftzi : Bool
  ftzo : Bool
  deriving DecidableEq, Repr
/-- The floating-point fields of a mode word. -/
def fmode (m : W64) : FMode := ⟨modeRM m, modeFtzi m, modeFtzo m⟩

/-- Whether a value is an infinity. -/
def fvInf : FVal → Bool
  | .inf _ => true
  | _ => false
/-- Whether a value is a zero. -/
def fvZero : FVal → Bool
  | .zero _ => true
  | _ => false

/-- `fadd_v` of R171: the exact sum and the sign of an exact zero. -/
def faddV (rm : BitVec 2) (x y : FVal) : (FVal × Bool) × Raise :=
  if fvNan x || fvNan y then ((.nan, false), raiseNone)
  else if fvInf x && fvInf y && (fvNeg x != fvNeg y) then ((.nan, false), raiseNV)
  else if fvInf x then ((x, false), raiseNone)
  else if fvInf y then ((y, false), raiseNone)
  else
    let zs := if x == .zero true && y == .zero true then true
      else if x == .zero false && y == .zero false then false
      else rm == 2
    ((fvSum [x, y], zs), raiseNone)
/-- `fmul_v` of R171. -/
def fmulV (x y : FVal) : (FVal × Bool) × Raise :=
  let s := fvNeg x ^^ fvNeg y
  if fvNan x || fvNan y then ((.nan, false), raiseNone)
  else if (fvInf x && fvZero y) || (fvZero x && fvInf y) then ((.nan, false), raiseNV)
  else if fvInf x || fvInf y then ((.inf s, false), raiseNone)
  else if fvZero x || fvZero y then ((.zero s, s), raiseNone)
  else (((prodF x y).1, s), raiseNone)
/-- The exact quotient of two finite non-zero values, to 130 quotient bits and a sticky part. -/
def fquot (x y : FVal) : FVal :=
  match x, y with
  | .fin s m e _, .fin s' m' e' _ =>
    let k := 130 + Nat.log2 m'
    let n := m <<< k
    .fin (s ^^ s') (n / m') (e - e' - (k : Nat)) (n % m' != 0)
  | _, _ => .nan
/-- `fdiv_v` of R171. -/
def fdivV (x y : FVal) : (FVal × Bool) × Raise :=
  let s := fvNeg x ^^ fvNeg y
  if fvNan x || fvNan y then ((.nan, false), raiseNone)
  else if (fvZero x && fvZero y) || (fvInf x && fvInf y) then ((.nan, false), raiseNV)
  else if fvZero y then ((.inf s, false), if fvInf x then raiseNone else raiseDZ)
  else if fvInf x then ((.inf s, false), raiseNone)
  else if fvInf y then ((.zero s, s), raiseNone)
  else if fvZero x then ((.zero s, s), raiseNone)
  else ((fquot x y, s), raiseNone)
/-- Integer square root by bits: the largest r below 2^k with r * r at most n, starting from r0. -/
def isqrtBits (n r0 : Nat) : Nat → Nat
  | 0 => r0
  | k + 1 => let t := r0 + 2 ^ k; isqrtBits n (if t * t ≤ n then t else r0) k
/-- The exact root of a positive value, to at least 64 bits and a sticky part. -/
def froot (m : Nat) (e : Int) : FVal :=
  let m1 := if e % 2 = 0 then m else 2 * m
  let e1 := if e % 2 = 0 then e else e - 1
  let n := m1 <<< 140
  let r := isqrtBits n 0 100
  .fin false r (e1 / 2 - 70) (r * r != n)
/-- `fsqrt_v` of R171. -/
def fsqrtV (x : FVal) : (FVal × Bool) × Raise :=
  match x with
  | .nan => ((.nan, false), raiseNone)
  | .zero s => ((.zero s, s), raiseNone)
  | .inf s => if s then ((.nan, false), raiseNV) else ((.inf false, false), raiseNone)
  | .fin s m e _ => if s then ((.nan, false), raiseNV) else ((froot m e, false), raiseNone)

/-- Comparison of two non-NaN values: x < y (R176). -/
def fvLt (x y : FVal) : Bool :=
  match x, y with
  | .nan, _ => false
  | _, .nan => false
  | .inf a, .inf b => a && !b
  | .inf a, _ => a
  | _, .inf b => !b
  | x, y =>
    let q := match fvExp x, fvExp y with
      | some a, some b => min a b
      | some a, none => a
      | none, some b => b
      | none, none => 0
    decide (fvScaled q x < fvScaled q y)
/-- x = y with -0 = +0 (R176). -/
def fvEq (x y : FVal) : Bool := !fvNan x && !fvNan y && !fvLt x y && !fvLt y x

/-! ### Groups 4 to 6 (R172 to R179) -/

/-- A lane result rounded by `fout` from an exact value, with flags raised before it. -/
def roundLane (md : FMode) (f : Fmt) (v : (FVal × Bool) × Raise) (r : Raise) : Nat × Bool × Raise :=
  let (x, r') := fout md.ftzo v.1.1 v.1.2 f md.rm
  (x, false, r ||| v.2 ||| r')
/-- `fadd`, `fsub`, `fmul`, `fdiv` (R172) on their exact operation. -/
def fbin (op : FVal → FVal → (FVal × Bool) × Raise) (md : FMode) (f : Fmt) (a b : W512) : VecRes :=
  mapLanes2 (fmtWidth f) (fun p q =>
    let (x, r1) := finF md.ftzi f p
    let (y, r2) := finF md.ftzi f q
    roundLane md f (op x y) (r1 ||| r2)) a b
/-- `fadd` (R172). -/
def vFadd (f : Fmt) (md : FMode) (a b : W512) : VecRes := fbin (faddV md.rm) md f a b
/-- `fsub` (R172). -/
def vFsub (f : Fmt) (md : FMode) (a b : W512) : VecRes := fbin (fun x y => faddV md.rm x (fvNegate y)) md f a b
/-- `fmul` (R172). -/
def vFmul (f : Fmt) (md : FMode) (a b : W512) : VecRes := fbin fmulV md f a b
/-- `fdiv` (R172). -/
def vFdiv (f : Fmt) (md : FMode) (a b : W512) : VecRes := fbin fdivV md f a b
/-- `fma`, `fms`, `fnma` (R173): the product is exact; np negates it, nz negates the addend. -/
def vFused (np nz : Bool) (f : Fmt) (md : FMode) (a b c : W512) : VecRes :=
  joinLanes (fmtWidth f) ((List.range (fmtLanes f)).map fun i =>
    let (x, r1) := finF md.ftzi f (lane a (fmtWidth f) i)
    let (y, r2) := finF md.ftzi f (lane b (fmtWidth f) i)
    let (z, r3) := finF md.ftzi f (lane c (fmtWidth f) i)
    let ((p, _), r4) := fmulV x y
    roundLane md f (faddV md.rm (if np then fvNegate p else p) (if nz then fvNegate z else z))
      (r1 ||| r2 ||| r3 ||| r4))
/-- The smaller of two decoded values by R174. -/
def fminV (x y : FVal) : FVal :=
  if fvNan x then y else if fvNan y then x
  else if fvZero x && fvZero y then .zero (fvNeg x || fvNeg y)
  else if fvLt y x then y else x
/-- The larger of two decoded values by R174. -/
def fmaxV (x y : FVal) : FVal :=
  if fvNan x then y else if fvNan y then x
  else if fvZero x && fvZero y then .zero (fvNeg x && fvNeg y)
  else if fvLt x y then y else x
/-- `fmin` (R174). -/
def vFmin (f : Fmt) (md : FMode) (a b : W512) : VecRes :=
  fbin (fun x y => let r := fminV x y; ((r, fvNeg r), raiseNone)) md f a b
/-- `fmax` (R174). -/
def vFmax (f : Fmt) (md : FMode) (a b : W512) : VecRes :=
  fbin (fun x y => let r := fmaxV x y; ((r, fvNeg r), raiseNone)) md f a b
/-- A floating-point lane-wise instruction of one operand. -/
def funar (op : FVal → (FVal × Bool) × Raise) (md : FMode) (f : Fmt) (a : W512) : VecRes :=
  mapLanes1 (fmtWidth f) (fun p =>
    let (x, r1) := finF md.ftzi f p
    roundLane md f (op x) r1) a
/-- The magnitude of a decoded value. -/
def fvAbs (x : FVal) : FVal := if fvNeg x then fvNegate x else x
/-- `fabs` (R175). -/
def vFabs (f : Fmt) (md : FMode) (a : W512) : VecRes := funar (fun x => ((fvAbs x, false), raiseNone)) md f a
/-- `fneg` (R175). -/
def vFneg (f : Fmt) (md : FMode) (a : W512) : VecRes :=
  funar (fun x => let r := fvNegate x; ((r, fvNeg r), raiseNone)) md f a
/-- A lane mask: all ones in W bits or zero (R176). -/
def maskLane (w : Nat) (c : Bool) : Nat := if c then 2 ^ w - 1 else 0
/-- `fcmp` (R176): the test, and whether any NaN operand raises NV. -/
def vFcmp (test : FVal → FVal → Bool) (anyNan : Bool) (f : Fmt) (md : FMode) (a b : W512) : VecRes :=
  mapLanes2 (fmtWidth f) (fun p q =>
    let (x, r1) := finF md.ftzi f p
    let (y, r2) := finF md.ftzi f q
    let c := test x y
    (maskLane (fmtWidth f) c, c, r1 ||| r2 ||| (if anyNan && (fvNan x || fvNan y) then raiseNV else raiseNone))) a b
/-- `fcmp.le` test (R176). -/
def fvLe (x y : FVal) : Bool := fvLt x y || fvEq x y
/-- `fcmp.un` test (R176). -/
def fvUn (x y : FVal) : Bool := fvNan x || fvNan y
/-- The class bit of an encoding (R177). -/
def fclassBit (ftzi : Bool) (f : Fmt) (x : Nat) : Nat :=
  let s := encSign f x
  if isNaN f x then (if isSNaN f x then 8 else 9)
  else if isInf f x then (if s then 0 else 7)
  else if isZero f x || (isSub f x && ftzi) then (if s then 3 else 4)
  else if isSub f x then (if s then 2 else 5)
  else (if s then 1 else 6)
/-- `fclass` (R177). -/
def vFclass (f : Fmt) (md : FMode) (a : W512) : VecRes :=
  mapLanes1 (fmtWidth f) (fun p => (2 ^ fclassBit md.ftzi f p, isNaN f p, raiseNone)) a
/-- `fsqrt` (R178). -/
def vFsqrt (f : Fmt) (md : FMode) (a : W512) : VecRes := funar fsqrtV md f a
/-- `frcpe` (R179) of one lane: 1/x rounded to 8 significant bits by RNE. -/
def frcpeLane (md : FMode) (f : Fmt) (p : Nat) : Nat × Bool × Raise :=
  let (x, r1) := finF md.ftzi f p
  match x with
  | .nan => (cnan f, false, r1)
  | .zero s => (encInf f s, false, r1 ||| raiseDZ)
  | .inf s => (encZero f s, false, r1)
  | .fin s _ _ _ =>
    match fquot (.fin false 1 0 false) x with
    | .fin _ m e st =>
      let q := quantum m e 8
      let (y, r2) := fout md.ftzo (.fin s (rndMag s m e st q 0) q false) s f 0
      (y, false, r1 ||| r2)
    | _ => (cnan f, false, r1)
/-- `frcpe` (R179). -/
def vFrcpe (f : Fmt) (md : FMode) (a : W512) : VecRes := mapLanes1 (fmtWidth f) (frcpeLane md f) a

/-! ### Integer lanes (R180 to R182) -/

/-- `vadd`, `vsub`, `vmul` (R180) on the exact operation. -/
def vIntWrap (op : Int → Int → Int) (y : BitVec 3) (sat : Bool) (a b : W512) : VecRes :=
  let w := t8Width y
  let sg := t8Signed y
  mapLanes2 w (fun p q =>
    let t := op (intOf sg p w) (intOf sg q w)
    let (r, f) := ires sat t w sg
    (r, outOfRange sg w t, f)) a b
/-- `vmulh` (R180). -/
def vMulh (y : BitVec 3) (a b : W512) : VecRes :=
  let w := t8Width y
  let sg := t8Signed y
  mapLanes2 w (fun p q =>
    let t := intOf sg p w * intOf sg q w
    (wrapN (t / (2 ^ w : Nat)) w, outOfRange sg w t, raiseNone)) a b
/-- `vmin`, `vmax` (R180): A where the test holds, else B. -/
def vPick (test : Int → Int → Bool) (y : BitVec 3) (a b : W512) : VecRes :=
  let w := t8Width y
  let sg := t8Signed y
  mapLanes2 w (fun p q => (if test (intOf sg p w) (intOf sg q w) then p else q, false, raiseNone)) a b
/-- `vshr` (R180). -/
def vShr (y : BitVec 3) (a b : W512) : VecRes :=
  let w := t8Width y
  let sg := t8Signed y
  mapLanes2 w (fun p n =>
    let x := intOf sg p w
    (if w ≤ n then (if x < 0 then 2 ^ w - 1 else 0) else wrapN (x / (2 ^ n : Nat)) w, false, raiseNone)) a b
/-- `vcmp.lt` (R180). -/
def vCmpLt (y : BitVec 3) (a b : W512) : VecRes :=
  let w := t8Width y
  let sg := t8Signed y
  mapLanes2 w (fun p q =>
    let c := decide (intOf sg p w < intOf sg q w)
    (maskLane w c, c, raiseNone)) a b
/-- `vshl` (R181). -/
def vShl (w4 : BitVec 2) (a b : W512) : VecRes :=
  let w := w4Width w4
  mapLanes2 w (fun p n => (if w ≤ n then 0 else (p * 2 ^ n) % 2 ^ w, false, raiseNone)) a b
/-- `vcmp.eq` (R181). -/
def vCmpEq (w4 : BitVec 2) (a b : W512) : VecRes :=
  let w := w4Width w4
  mapLanes2 w (fun p q => (maskLane w (p == q), p == q, raiseNone)) a b
/-- `vabs` (R181). -/
def vAbs (w4 : BitVec 2) (sat : Bool) (a : W512) : VecRes :=
  let w := w4Width w4
  mapLanes1 w (fun p =>
    let x := sxN p w
    let (r, f) := ires sat (x.natAbs : Int) w true
    (r, x == intLo true w, f)) a
/-- A logical result of 512 bits (R182); the flag says that it is not zero. -/
def vLogic (x : W512) : VecRes := ⟨x, x != 0, raiseNone⟩

/-! ### Conversions (R183, R184) -/

/-- Lanes placed from lane `at0` on, zero below. -/
def lanesFrom (w at0 : Nat) (l : List Nat) : W512 := ofLanes w (List.replicate at0 0 ++ l)
/-- Float to float on n source lanes from lane s0, result lanes from r0 (R183, R184). -/
def vCvtFF (fs fd : Fmt) (n s0 r0 : Nat) (md : FMode) (a : W512) : VecRes :=
  let l := (List.range n).map fun i =>
    let (x, r1) := finF md.ftzi fs (lane a (fmtWidth fs) (s0 + i))
    let (r, r2) := fout md.ftzo x (fvZero x && fvNeg x) fd md.rm
    (r, r1 ||| r2)
  ⟨lanesFrom (fmtWidth fd) r0 (l.map (·.1)), false, l.foldl (fun r x => r ||| x.2) 0⟩
/-- Integer to float (R184). -/
def vCvtIF (sg : Bool) (f : Fmt) (md : FMode) (a : W512) : VecRes :=
  mapLanes1 (fmtWidth f) (fun p =>
    let (r, r2) := fout md.ftzo (ofInt (intOf sg p (fmtWidth f))) false f md.rm
    (r, false, r2)) a
/-- Float to integer (R184, R78); the flag says that some lane was NaN, infinite or out of range. -/
def vCvtFI (sg : Bool) (f : Fmt) (md : FMode) (a : W512) : VecRes :=
  mapLanes1 (fmtWidth f) (fun p =>
    let (x, r1) := finF md.ftzi f p
    let (r, r2) := f2i x (fmtWidth f) sg md.rm
    (r, r2.getLsbD 3, r1 ||| r2)) a

/-! ### Permutes (R185 to R188) -/

/-- `vperm` (R185). -/
def vPerm (a b : W512) : W512 :=
  ofLanes 8 ((lanes b 8).map fun c => if c.testBit 7 then 0 else lane a 8 (c % 64))
/-- `vshuf` (R186). -/
def vShuf (a b : W512) (lit : W64) : W512 :=
  let w := 8 * 2 ^ (lit.toNat % 4)
  let h := 512 / w / 2
  let r := List.range h
  match (lit.toNat >>> 2) % 4 with
  | 0 => ofLanes w (r.flatMap fun i => [lane a w i, lane b w i])
  | 1 => ofLanes w (r.flatMap fun i => [lane a w (h + i), lane b w (h + i)])
  | 2 => ofLanes w (r.map (fun i => lane a w (2 * i)) ++ r.map (fun i => lane b w (2 * i)))
  | _ => ofLanes w (r.map (fun i => lane a w (2 * i + 1)) ++ r.map (fun i => lane b w (2 * i + 1)))
/-- `vrot` (R187). -/
def vRot (a b : W512) : W512 :=
  let n := b.toNat % 64
  ofLanes 8 ((List.range 64).map fun i => lane a 8 ((i + n) % 64))
/-- `vbcast` (R188). -/
def vBcast (a b : W512) : W512 :=
  let w := 8 * 2 ^ ((b.toNat >>> 8) % 4)
  let l := 512 / w
  let e := (b.toNat % 256) % l
  ofLanes w (List.replicate l (lane a w e))

/-! ### Reductions (R189, R190) and compress (R191) -/

/-- One stage of the pairwise tree: neighbours added and rounded in format g (R189). -/
def redStage (md : FMode) (g : Fmt) : List FVal → List FVal × List Nat × Raise
  | x :: y :: l =>
    let ((v, zs), r1) := faddV md.rm x y
    let (e, r2) := fout md.ftzo v zs g md.rm
    let (vs, es, r) := redStage md g l
    (fval g e :: vs, e :: es, r1 ||| r2 ||| r)
  | _ => ([], [], 0)
/-- All stages of the tree, n of them. -/
def redTree (md : FMode) (g : Fmt) (l : List FVal) (last : List Nat) (r : Raise) : Nat → Nat × Raise
  | 0 => (last.headD 0, r)
  | n + 1 =>
    let (vs, es, r') := redStage md g l
    redTree md g vs es (r ||| r') n
/-- `vred.fadd` (R189): the format read, and the working format. -/
def vRedFadd (f g : Fmt) (md : FMode) (a : W512) : VecRes :=
  let l := (List.range (fmtLanes f)).map fun i => finF md.ftzi f (lane a (fmtWidth f) i)
  let r0 := l.foldl (fun r x => r ||| x.2) 0
  let (e, r) := redTree md g (l.map (·.1)) [] r0 (Nat.log2 (fmtLanes f))
  ⟨BitVec.ofNat 512 e, false, r⟩
/-- `vred.fmax.f32`, `vred.fmin.f32` (R190), by the pick of R174. -/
def vRedPick (pick : FVal → FVal → FVal) (md : FMode) (a : W512) : VecRes :=
  let l := (List.range 16).map fun i => finF md.ftzi .f32 (lane a 32 i)
  let r0 := l.foldl (fun r x => r ||| x.2) 0
  let v := (l.map (·.1)).foldl pick .nan
  let (e, r) := fout md.ftzo v (fvNeg v) .f32 md.rm
  ⟨BitVec.ofNat 512 e, false, r0 ||| r⟩
/-- `vred.add.i32`, `vred.add.i64` (R190). -/
def vRedAdd (w : Nat) (sat : Bool) (a : W512) : VecRes :=
  let t := (lanes a w).foldl (fun (t : Int) x => t + sxN x w) 0
  let (r, f) := ires sat t w true
  ⟨BitVec.ofNat 512 r, outOfRange true w t, f⟩
/-- `vred.max.i32` (R190). -/
def vRedMax (a : W512) : VecRes :=
  let t := (lanes a 32).foldl (fun t x => if sxN t 32 < sxN x 32 then x else t) (2 ^ 31)
  ⟨BitVec.ofNat 512 t, false, raiseNone⟩

/-- The rank of a BF16 lane among magnitudes (R191): NaNs above all, zeros and flushed subnormals least. -/
def compressKey (ftzi : Bool) (x : Nat) : Nat :=
  if isNaN .bf16 x then 2 ^ 16
  else if isSub .bf16 x && ftzi then 0
  else x % 2 ^ 15
/-- The position of largest key among those not chosen, the lowest position among equals. -/
def bestPos (keys : List Nat) (chosen : List Nat) : Nat :=
  ((List.range keys.length).foldl (fun (b : Option Nat) i =>
    if chosen.contains i then b
    else match b with
      | none => some i
      | some j => if keys.getD j 0 < keys.getD i 0 then some i else b) none).getD 0
/-- The n chosen positions. -/
def choosePos (keys : List Nat) : Nat → List Nat
  | 0 => []
  | n + 1 => let c := choosePos keys n; bestPos keys c :: c
/-- N of `compress.n32`. -/
def compressN (b : W512) : Nat := b.toNat % 32
/-- Whether N is 1 to 16 (R191). -/
def compressOk (b : W512) : Bool := decide (1 ≤ compressN b) && decide (compressN b ≤ 16)
/-- `compress.n32` (R191): values and positions. -/
def vCompress (ftzi : Bool) (a b : W512) : W512 × W512 :=
  if compressOk b then
    let h := if b.getLsbD 8 then 16 else 0
    let chosen := choosePos ((lanes a 16).map (compressKey ftzi)) (compressN b)
    let c := (List.range 32).filter chosen.contains
    (lanesFrom 16 h (c.map (lane a 16)), lanesFrom 8 h c)
  else (0, 0)

/-- `ext` (R153): lane zx(B) mod 8 of A. -/
def extLane (a : W512) (b : W64) : AluRes := ⟨BitVec.ofNat 64 (lane a 64 (b.toNat % 8)), decide (b.toNat < 8), raiseNone⟩

/-- The format of a floating-point group: 0 f64, 1 f32, 2 bf16 (R102). -/
def gFmt (g : BitVec 2) : Fmt :=
  match g.toNat with
  | 0 => .f64
  | 1 => .f32
  | _ => .bf16
/-- A result with no flag. -/
def plainVec (x : W512) : VecRes := ⟨x, false, raiseNone⟩

end Sys2Proof.Machine
end

