-- ==== Sys2Proof/Decode.lean ====
section
/-! DEFINITION. Decoding and encoding of the instruction word (R84 to R90, R101, R102): total on every word, refusing by
name. The decoder takes exactly the words the opcode map assigns with unused operand fields as R90 requires (17 for a
source, 5 for a destination); which values of the used fields an install accepts is in WellFormed.lean. -/
namespace Sys2Proof

/-! ### Fields of the instruction word (R87) -/

/-- A, bits [21:17]. -/
def fA (w : BitVec 32) : BitVec 5 := w.extractLsb' 17 5
/-- B, bits [16:12]. -/
def fB (w : BitVec 32) : BitVec 5 := w.extractLsb' 12 5
/-- DA, bits [11:8]. -/
def fD (w : BitVec 32) : BitVec 4 := w.extractLsb' 8 4
/-- DB, bits [7:4]. -/
def fE (w : BitVec 32) : BitVec 4 := w.extractLsb' 4 4
/-- TAG, bits [3:0]. -/
def fT (w : BitVec 32) : BitVec 4 := w.extractLsb' 0 4
/-- The opcode, bits [31:22]. -/
def fOp (w : BitVec 32) : BitVec 10 := w.extractLsb' 22 10
/-- The group, bits [31:28]. -/
def fGroup (w : BitVec 32) : BitVec 4 := w.extractLsb' 28 4
/-- The offset in the group, bits [27:22]. -/
def fOff (w : BitVec 32) : BitVec 6 := w.extractLsb' 22 6
/-- A type code of three bits, [24:22] (groups 0 and 7). -/
def fY3 (w : BitVec 32) : BitVec 3 := w.extractLsb' 22 3
/-- A type, width or scope code of two bits, [23:22]. -/
def fY2 (w : BitVec 32) : BitVec 2 := w.extractLsb' 22 2
/-- The format code of groups 4 to 6, [29:28]: 0 f64, 1 f32, 2 bf16. -/
def fG (w : BitVec 32) : BitVec 2 := w.extractLsb' 28 2

/-- Why a word is not an instruction. -/
inductive DecodeErr where
  /-- The opcode is unassigned (R102; CFG_RESERVED of R104). -/
  | unassigned
  /-- A field the instruction does not use holds another value than R90 requires (CFG_OPERAND of R104). -/
  | unusedField
  /-- Fewer than four bytes are given. -/
  | tooShort
  deriving DecidableEq, Repr

/-- The instruction, provided its unused operand fields hold what R90 requires. -/
def need (c : Bool) (i : Instr) : Except DecodeErr Instr := if c then .ok i else .error .unusedField
/-- Unused source B (R90). -/
def noB (w : BitVec 32) : Bool := fB w == 17
/-- Unused source A (R90). -/
def noA (w : BitVec 32) : Bool := fA w == 17
/-- No destination (R90). -/
def noD (w : BitVec 32) : Bool := fD w == 5 && fE w == 5

/-- Group 0 of the opcode map (R102), by offset. -/
def decGroup0 (w : BitVec 32) : Except DecodeErr Instr :=
  match (w.extractLsb' 25 3).toNat with
  | 0 => .ok (.add (fY3 w) (fA w) (fB w) (fD w) (fE w) (fT w))
  | 1 => .ok (.sub (fY3 w) (fA w) (fB w) (fD w) (fE w) (fT w))
  | 2 => .ok (.mulLo (fY3 w) (fA w) (fB w) (fD w) (fE w) (fT w))
  | 3 => .ok (.mulHi (fY3 w) (fA w) (fB w) (fD w) (fE w) (fT w))
  | 4 => .ok (.div (fY3 w) (fA w) (fB w) (fD w) (fE w) (fT w))
  | 5 => .ok (.rem (fY3 w) (fA w) (fB w) (fD w) (fE w) (fT w))
  | 6 => .ok (.min (fY3 w) (fA w) (fB w) (fD w) (fE w) (fT w))
  | 7 => .ok (.max (fY3 w) (fA w) (fB w) (fD w) (fE w) (fT w))
  | _ => .error .unassigned

/-- Group 1 of the opcode map (R102), by offset. -/
def decGroup1 (w : BitVec 32) : Except DecodeErr Instr :=
  match (fOff w).toNat with
  | 0 | 1 | 2 | 3 => .ok (.cmpEq (fY2 w) (fA w) (fB w) (fD w) (fE w) (fT w))
  | 4 | 5 | 6 | 7 => .ok (.cmpNe (fY2 w) (fA w) (fB w) (fD w) (fE w) (fT w))
  | 8 | 9 | 10 | 11 => .ok (.cmpLt (fY2 w) (fA w) (fB w) (fD w) (fE w) (fT w))
  | 12 | 13 | 14 | 15 => .ok (.cmpLe (fY2 w) (fA w) (fB w) (fD w) (fE w) (fT w))
  | 16 | 17 | 18 | 19 => need (noB w) (.abs (fY2 w) (fA w) (fD w) (fE w) (fT w))
  | 20 | 21 | 22 | 23 => need (noB w) (.neg (fY2 w) (fA w) (fD w) (fE w) (fT w))
  | 24 => .ok (.sel (fA w) (fB w) (fD w) (fE w) (fT w))
  | 25 => .ok (.and (fA w) (fB w) (fD w) (fE w) (fT w))
  | 26 => .ok (.or (fA w) (fB w) (fD w) (fE w) (fT w))
  | 27 => .ok (.xor (fA w) (fB w) (fD w) (fE w) (fT w))
  | 28 => .ok (.andn (fA w) (fB w) (fD w) (fE w) (fT w))
  | 29 => need (noB w) (.not (fA w) (fD w) (fE w) (fT w))
  | 30 => .ok (.shl (fA w) (fB w) (fD w) (fE w) (fT w))
  | 31 => .ok (.shr (fA w) (fB w) (fD w) (fE w) (fT w))
  | 32 => .ok (.sar (fA w) (fB w) (fD w) (fE w) (fT w))
  | 33 => .ok (.rol (fA w) (fB w) (fD w) (fE w) (fT w))
  | 34 => .ok (.ror (fA w) (fB w) (fD w) (fE w) (fT w))
  | 35 => .ok (.extr (fA w) (fB w) (fD w) (fE w) (fT w))
  | 36 => .ok (.extrS (fA w) (fB w) (fD w) (fE w) (fT w))
  | 37 => .ok (.ins (fA w) (fB w) (fD w) (fE w) (fT w))
  | 38 => need (noB w) (.popc (fA w) (fD w) (fE w) (fT w))
  | 39 => need (noB w) (.clz (fA w) (fD w) (fE w) (fT w))
  | 40 => need (noB w) (.ctz (fA w) (fD w) (fE w) (fT w))
  | 41 => need (noB w) (.bswap (fA w) (fD w) (fE w) (fT w))
  | 42 => need (noD w) (.pset (fA w) (fB w) (fT w))
  | 43 => need (noA w && noB w) (.pget (fD w) (fE w) (fT w))
  | 44 => need (noA w && noB w && noD w) (.pand (fT w))
  | 45 => need (noA w && noB w && noD w) (.por (fT w))
  | 46 => need (noA w && noB w && noD w) (.pxor (fT w))
  | 47 => need (noA w && noB w && noD w) (.pnot (fT w))
  | _ => .error .unassigned

/-- Group 2 of the opcode map (R102), by offset. -/
def decGroup2 (w : BitVec 32) : Except DecodeErr Instr :=
  match (fOff w).toNat with
  | 0 => need (noB w) (.deq (fA w) (fD w) (fE w) (fT w))
  | 1 => need (noB w) (.peek (fA w) (fD w) (fE w) (fT w))
  | 2 => need (noB w) (.fwd (fA w) (fD w) (fE w) (fT w))
  | 3 => need (noA w && noB w) (.emitNull (fD w) (fE w) (fT w))
  | 4 => need (noB w) (.emitMark (fA w) (fD w) (fE w) (fT w))
  | 5 => need (noB w) (.emitErr (fA w) (fD w) (fE w) (fT w))
  | 6 => need (noD w) (.retag (fA w) (fB w) (fT w))
  | 7 => need (noB w && noD w) (.posReset (fA w) (fT w))
  | 32 => need (noB w) (.deqD (fA w) (fD w) (fE w) (fT w))
  | 33 => need (noB w) (.peekD (fA w) (fD w) (fE w) (fT w))
  | 34 => need (noB w) (.fwdD (fA w) (fD w) (fE w) (fT w))
  | 35 => need (noA w && noB w) (.emitNullD (fD w) (fE w) (fT w))
  | 36 => need (noB w) (.emitMarkD (fA w) (fD w) (fE w) (fT w))
  | 37 => need (noB w) (.emitErrD (fA w) (fD w) (fE w) (fT w))
  | 38 => need (noD w) (.retagD (fA w) (fB w) (fT w))
  | 39 => need (noB w && noD w) (.posResetD (fA w) (fT w))
  | _ => .error .unassigned

/-- Group 3 of the opcode map (R102), by offset. -/
def decGroup3 (w : BitVec 32) : Except DecodeErr Instr :=
  match (fOff w).toNat with
  | 0 => need (noB w) (.dlGet (fA w) (fD w) (fE w) (fT w))
  | 1 => need (noD w) (.dlPut (fA w) (fB w) (fT w))
  | 2 => need (noB w) (.dlGetD (fA w) (fD w) (fE w) (fT w))
  | 3 => need (noD w) (.dlPutD (fA w) (fB w) (fT w))
  | 8 => need (noB w) (.qCnt (fA w) (fD w) (fE w) (fT w))
  | 9 => need (noB w && noD w) (.qClr (fA w) (fT w))
  | 10 => need (noD w) (.qDepth (fA w) (fB w) (fT w))
  | 16 => need (noA w && noB w) (.modeRd (fD w) (fE w) (fT w))
  | 17 => need (noB w && noD w) (.modeWr (fA w) (fT w))
  | 18 => need (noB w && noD w) (.modeSet (fA w) (fT w))
  | 19 => need (noB w && noD w) (.modeClr (fA w) (fT w))
  | 24 => .ok (.swIdx (fA w) (fB w) (fD w) (fE w) (fT w))
  | 32 => need (noD w) (.mlOn (fA w) (fB w) (fT w))
  | 33 => need (noA w && noB w && noD w) (.mlOff (fT w))
  | 34 => need (noA w && noB w) (.mlRd (fD w) (fE w) (fT w))
  | _ => .error .unassigned

/-- Groups 4, 5 and 6 of the opcode map (R102), by offset. -/
def decGroupF (w : BitVec 32) : Except DecodeErr Instr :=
  match (fOff w).toNat with
  | 0 => .ok (.fadd (fG w) (fA w) (fB w) (fD w) (fE w) (fT w))
  | 1 => .ok (.fsub (fG w) (fA w) (fB w) (fD w) (fE w) (fT w))
  | 2 => .ok (.fmul (fG w) (fA w) (fB w) (fD w) (fE w) (fT w))
  | 3 => .ok (.fma (fG w) (fA w) (fB w) (fD w) (fE w) (fT w))
  | 4 => .ok (.fms (fG w) (fA w) (fB w) (fD w) (fE w) (fT w))
  | 5 => .ok (.fnma (fG w) (fA w) (fB w) (fD w) (fE w) (fT w))
  | 6 => .ok (.fmin (fG w) (fA w) (fB w) (fD w) (fE w) (fT w))
  | 7 => .ok (.fmax (fG w) (fA w) (fB w) (fD w) (fE w) (fT w))
  | 8 => need (noB w) (.fabs (fG w) (fA w) (fD w) (fE w) (fT w))
  | 9 => need (noB w) (.fneg (fG w) (fA w) (fD w) (fE w) (fT w))
  | 10 => .ok (.fcmpEq (fG w) (fA w) (fB w) (fD w) (fE w) (fT w))
  | 11 => .ok (.fcmpLt (fG w) (fA w) (fB w) (fD w) (fE w) (fT w))
  | 12 => .ok (.fcmpLe (fG w) (fA w) (fB w) (fD w) (fE w) (fT w))
  | 13 => .ok (.fcmpUn (fG w) (fA w) (fB w) (fD w) (fE w) (fT w))
  | 14 => need (noB w) (.fclass (fG w) (fA w) (fD w) (fE w) (fT w))
  | 15 => need (noB w) (.fsqrt (fG w) (fA w) (fD w) (fE w) (fT w))
  | 16 => need (noB w) (.frcpe (fG w) (fA w) (fD w) (fE w) (fT w))
  | 17 => .ok (.fdiv (fG w) (fA w) (fB w) (fD w) (fE w) (fT w))
  | _ => .error .unassigned

/-- Group 7 of the opcode map (R102), by offset. -/
def decGroup7 (w : BitVec 32) : Except DecodeErr Instr :=
  match (w.extractLsb' 25 3).toNat with
  | 0 => .ok (.vadd (fY3 w) (fA w) (fB w) (fD w) (fE w) (fT w))
  | 1 => .ok (.vsub (fY3 w) (fA w) (fB w) (fD w) (fE w) (fT w))
  | 2 => .ok (.vmul (fY3 w) (fA w) (fB w) (fD w) (fE w) (fT w))
  | 3 => .ok (.vmulh (fY3 w) (fA w) (fB w) (fD w) (fE w) (fT w))
  | 4 => .ok (.vmin (fY3 w) (fA w) (fB w) (fD w) (fE w) (fT w))
  | 5 => .ok (.vmax (fY3 w) (fA w) (fB w) (fD w) (fE w) (fT w))
  | 6 => .ok (.vshr (fY3 w) (fA w) (fB w) (fD w) (fE w) (fT w))
  | 7 => .ok (.vcmpLt (fY3 w) (fA w) (fB w) (fD w) (fE w) (fT w))
  | _ => .error .unassigned

/-- Group 8 of the opcode map (R102), by offset. -/
def decGroup8 (w : BitVec 32) : Except DecodeErr Instr :=
  match (fOff w).toNat with
  | 0 | 1 | 2 | 3 => .ok (.vshl (fY2 w) (fA w) (fB w) (fD w) (fE w) (fT w))
  | 4 | 5 | 6 | 7 => .ok (.vcmpEq (fY2 w) (fA w) (fB w) (fD w) (fE w) (fT w))
  | 8 | 9 | 10 | 11 => need (noB w) (.vabs (fY2 w) (fA w) (fD w) (fE w) (fT w))
  | 12 => .ok (.vand (fA w) (fB w) (fD w) (fE w) (fT w))
  | 13 => .ok (.vor (fA w) (fB w) (fD w) (fE w) (fT w))
  | 14 => .ok (.vxor (fA w) (fB w) (fD w) (fE w) (fT w))
  | 15 => need (noB w) (.vnot (fA w) (fD w) (fE w) (fT w))
  | 16 => .ok (.cvtF32F64 (fA w) (fB w) (fD w) (fE w) (fT w))
  | 17 => .ok (.cvtF64F32 (fA w) (fB w) (fD w) (fE w) (fT w))
  | 18 => .ok (.cvtBf16F32 (fA w) (fB w) (fD w) (fE w) (fT w))
  | 19 => .ok (.cvtF32Bf16 (fA w) (fB w) (fD w) (fE w) (fT w))
  | 20 => need (noB w) (.cvtI32F32 (fA w) (fD w) (fE w) (fT w))
  | 21 => need (noB w) (.cvtF32I32 (fA w) (fD w) (fE w) (fT w))
  | 22 => need (noB w) (.cvtN32F32 (fA w) (fD w) (fE w) (fT w))
  | 23 => need (noB w) (.cvtF32N32 (fA w) (fD w) (fE w) (fT w))
  | 24 => need (noB w) (.cvtI64F64 (fA w) (fD w) (fE w) (fT w))
  | 25 => need (noB w) (.cvtF64I64 (fA w) (fD w) (fE w) (fT w))
  | 26 => .ok (.vperm (fA w) (fB w) (fD w) (fE w) (fT w))
  | 27 => .ok (.vshuf (fA w) (fB w) (fD w) (fE w) (fT w))
  | 28 => .ok (.vrot (fA w) (fB w) (fD w) (fE w) (fT w))
  | 29 => .ok (.vbcast (fA w) (fB w) (fD w) (fE w) (fT w))
  | 32 => need (noB w) (.vredFaddF64 (fA w) (fD w) (fE w) (fT w))
  | 33 => need (noB w) (.vredFaddF32 (fA w) (fD w) (fE w) (fT w))
  | 34 => need (noB w) (.vredFaddBf16 (fA w) (fD w) (fE w) (fT w))
  | 35 => need (noB w) (.vredFmaxF32 (fA w) (fD w) (fE w) (fT w))
  | 36 => need (noB w) (.vredFminF32 (fA w) (fD w) (fE w) (fT w))
  | 37 => need (noB w) (.vredAddI32 (fA w) (fD w) (fE w) (fT w))
  | 38 => need (noB w) (.vredAddI64 (fA w) (fD w) (fE w) (fT w))
  | 39 => need (noB w) (.vredMaxI32 (fA w) (fD w) (fE w) (fT w))
  | 40 => .ok (.compressN32 (fA w) (fB w) (fD w) (fE w) (fT w))
  | 48 => need (noB w) (.rep (fA w) (fD w) (fE w) (fT w))
  | 49 => .ok (.ext (fA w) (fB w) (fD w) (fE w) (fT w))
  | _ => .error .unassigned

/-- Group 9 of the opcode map (R102), by offset. -/
def decGroup9 (w : BitVec 32) : Except DecodeErr Instr :=
  match (fOff w).toNat with
  | 0 => need (noB w) (.mmaBf16 (fA w) (fD w) (fE w) (fT w))
  | 1 => need (noB w) (.mmaF32 (fA w) (fD w) (fE w) (fT w))
  | 2 => need (noB w) (.mmaF64 (fA w) (fD w) (fE w) (fT w))
  | 3 => need (noB w) (.mmaCb4 (fA w) (fD w) (fE w) (fT w))
  | 4 => .ok (.mmaSpBf16 (fA w) (fB w) (fD w) (fE w) (fT w))
  | 5 => .ok (.mmaSpCb4 (fA w) (fB w) (fD w) (fE w) (fT w))
  | 8 => need (noB w) (.mpl (fA w) (fD w) (fE w) (fT w))
  | 9 => .ok (.mcb (fA w) (fB w) (fD w) (fE w) (fT w))
  | 16 => need (noA w && noB w) (.accZero (fD w) (fE w) (fT w))
  | 17 => need (noB w) (.accRd (fA w) (fD w) (fE w) (fT w))
  | 18 => need (noB w) (.accWr (fA w) (fD w) (fE w) (fT w))
  | 19 => need (noA w && noB w) (.accCp (fD w) (fE w) (fT w))
  | 20 => .ok (.sacc (fA w) (fB w) (fD w) (fE w) (fT w))
  | _ => .error .unassigned

/-- Group 10 of the opcode map (R102), by offset. -/
def decGroup10 (w : BitVec 32) : Except DecodeErr Instr :=
  match (fOff w).toNat with
  | 0 => need (noD w) (.ssSet (fA w) (fB w) (fT w))
  | 1 => need (noB w && noD w) (.ssGo (fA w) (fT w))
  | 2 => need (noB w && noD w) (.ssStop (fA w) (fT w))
  | 3 => need (noB w) (.ssStat (fA w) (fD w) (fE w) (fT w))
  | 8 => need (noB w) (.lmLd (fA w) (fD w) (fE w) (fT w))
  | 9 => need (noD w) (.lmSt (fA w) (fB w) (fT w))
  | 16 => need (noA w && noB w && noD w) (.ringBind (fT w))
  | 17 => need (noA w && noB w) (.ringWaitf (fD w) (fE w) (fT w))
  | 18 => need (noA w && noB w) (.ringWaite (fD w) (fE w) (fT w))
  | 19 => need (noA w && noB w && noD w) (.ringAdvp (fT w))
  | 20 => need (noA w && noB w && noD w) (.ringAdvc (fT w))
  | 21 => need (noB w) (.ringRd (fA w) (fD w) (fE w) (fT w))
  | 22 => need (noD w) (.ringWr (fA w) (fB w) (fT w))
  | 23 => need (noB w) (.ringRdv (fA w) (fD w) (fE w) (fT w))
  | 24 => need (noD w) (.ringWrv (fA w) (fB w) (fT w))
  | _ => .error .unassigned

/-- Group 11 of the opcode map (R102), by offset. -/
def decGroup11 (w : BitVec 32) : Except DecodeErr Instr :=
  match (fOff w).toNat with
  | 0 => need (noB w) (.agtSet (fA w) (fD w) (fE w) (fT w))
  | 1 => need (noB w) (.agtBase (fA w) (fD w) (fE w) (fT w))
  | 2 => .ok (.agtDim (fA w) (fB w) (fD w) (fE w) (fT w))
  | 3 => need (noA w && noB w) (.agtGo (fD w) (fE w) (fT w))
  | 4 => need (noA w && noB w) (.agtStop (fD w) (fE w) (fT w))
  | 5 => need (noB w) (.agtCfg (fA w) (fD w) (fE w) (fT w))
  | 6 => need (noA w && noB w) (.agtHand (fD w) (fE w) (fT w))
  | 7 => need (noA w && noB w) (.agtResume (fD w) (fE w) (fT w))
  | 8 => need (noA w && noB w) (.agtStat (fD w) (fE w) (fT w))
  | _ => .error .unassigned

/-- Group 12 of the opcode map (R102), by offset. -/
def decGroup12 (w : BitVec 32) : Except DecodeErr Instr :=
  match (fOff w).toNat with
  | 0 | 1 | 2 | 3 => .ok (.amoAdd (fY2 w) (fA w) (fB w) (fD w) (fE w) (fT w))
  | 4 | 5 | 6 | 7 => .ok (.amoFadd (fY2 w) (fA w) (fB w) (fD w) (fE w) (fT w))
  | 8 | 9 | 10 | 11 => .ok (.amoMin (fY2 w) (fA w) (fB w) (fD w) (fE w) (fT w))
  | 12 | 13 | 14 | 15 => .ok (.amoMax (fY2 w) (fA w) (fB w) (fD w) (fE w) (fT w))
  | 16 | 17 | 18 | 19 => .ok (.amoAnd (fY2 w) (fA w) (fB w) (fD w) (fE w) (fT w))
  | 20 | 21 | 22 | 23 => .ok (.amoOr (fY2 w) (fA w) (fB w) (fD w) (fE w) (fT w))
  | 24 | 25 | 26 | 27 => .ok (.amoXor (fY2 w) (fA w) (fB w) (fD w) (fE w) (fT w))
  | 28 | 29 | 30 | 31 => .ok (.amoExch (fY2 w) (fA w) (fB w) (fD w) (fE w) (fT w))
  | 32 | 33 | 34 | 35 => .ok (.amoCas (fY2 w) (fA w) (fB w) (fD w) (fE w) (fT w))
  | 36 | 37 | 38 | 39 => need (noA w && noB w && noD w) (.fence (fY2 w) (fT w))
  | 40 | 41 | 42 | 43 => need (noD w) (.stRel (fY2 w) (fA w) (fB w) (fT w))
  | 44 | 45 | 46 | 47 => need (noB w) (.ldAcq (fY2 w) (fA w) (fD w) (fE w) (fT w))
  | 48 => need (noB w) (.ld (fA w) (fD w) (fE w) (fT w))
  | 49 => need (noD w) (.st (fA w) (fB w) (fT w))
  | _ => .error .unassigned

/-- Group 13 of the opcode map (R102), by offset. -/
def decGroup13 (w : BitVec 32) : Except DecodeErr Instr :=
  match (fOff w).toNat with
  | 0 => .ok (.bteCopy (fA w) (fB w) (fD w) (fE w) (fT w))
  | 1 => .ok (.bteCopyMx (fA w) (fB w) (fD w) (fE w) (fT w))
  | 2 => need (noB w) (.bteAppend (fA w) (fD w) (fE w) (fT w))
  | 3 => need (noB w && noD w) (.bteTail (fA w) (fT w))
  | 4 => need (noB w) (.bteProm (fA w) (fD w) (fE w) (fT w))
  | 5 => need (noB w && noD w) (.sleepUntil (fA w) (fT w))
  | 6 => need (noB w) (.bteSeq (fA w) (fD w) (fE w) (fT w))
  | 7 => need (noA w && noB w) (.bteStat (fD w) (fE w) (fT w))
  | _ => .error .unassigned

/-- Group 14 of the opcode map (R102), by offset. -/
def decGroup14 (w : BitVec 32) : Except DecodeErr Instr :=
  match (fOff w).toNat with
  | 0 => need (noD w) (.tsend (fA w) (fB w) (fT w))
  | 1 => need (noA w && noB w && noD w) (.hbind (fT w))
  | 2 => need (noA w && noB w && noD w) (.hunbind (fT w))
  | 8 => need (noA w && noB w) (.futNew (fD w) (fE w) (fT w))
  | 9 => .ok (.futReg (fA w) (fB w) (fD w) (fE w) (fT w))
  | 10 => need (noD w) (.futRes (fA w) (fB w) (fT w))
  | 11 => need (noD w) (.futFault (fA w) (fB w) (fT w))
  | 12 => need (noB w) (.futWait (fA w) (fD w) (fE w) (fT w))
  | 13 => need (noB w) (.futRd (fA w) (fD w) (fE w) (fT w))
  | 16 => need (noB w) (.launch (fA w) (fD w) (fE w) (fT w))
  | 17 => need (noB w) (.launchTry (fA w) (fD w) (fE w) (fT w))
  | 24 => need (noB w) (.join (fA w) (fD w) (fE w) (fT w))
  | 25 => need (noB w && noD w) (.leave (fA w) (fT w))
  | 26 => .ok (.barrier (fA w) (fB w) (fD w) (fE w) (fT w))
  | 27 => .ok (.reduce (fA w) (fB w) (fD w) (fE w) (fT w))
  | 28 => .ok (.allreduce (fA w) (fB w) (fD w) (fE w) (fT w))
  | 29 => .ok (.bcast (fA w) (fB w) (fD w) (fE w) (fT w))
  | 30 => need (noA w && noB w) (.grpNew (fD w) (fE w) (fT w))
  | 31 => need (noB w) (.grpSize (fA w) (fD w) (fE w) (fT w))
  | 32 => .ok (.xdDispatch (fA w) (fB w) (fD w) (fE w) (fT w))
  | 33 => need (noB w) (.xdLoad (fA w) (fD w) (fE w) (fT w))
  | 34 => need (noB w) (.xdTab (fA w) (fD w) (fE w) (fT w))
  | 35 => need (noB w) (.xdVer (fA w) (fD w) (fE w) (fT w))
  | 36 => need (noA w && noB w) (.xdStat (fD w) (fE w) (fT w))
  | _ => .error .unassigned

/-- Group 15 of the opcode map (R102), by offset. -/
def decGroup15 (w : BitVec 32) : Except DecodeErr Instr :=
  match (fOff w).toNat with
  | 0 => need (noB w && noD w) (.trap (fA w) (fT w))
  | 1 => need (noA w && noB w && noD w) (.yield (fT w))
  | 2 => need (noB w && noD w) (.cfgSel (fA w) (fT w))
  | 3 => need (noB w) (.rgnStat (fA w) (fD w) (fE w) (fT w))
  | 4 => need (noB w && noD w) (.dbgBrk (fA w) (fT w))
  | 5 => need (noA w && noB w && noD w) (.nop (fT w))
  | 16 => need (noB w) (.clkRd (fA w) (fD w) (fE w) (fT w))
  | 17 => need (noB w) (.raceMode (fA w) (fD w) (fE w) (fT w))
  | 18 => need (noB w) (.raceLog (fA w) (fD w) (fE w) (fT w))
  | 19 => need (noB w) (.raceGen (fA w) (fD w) (fE w) (fT w))
  | _ => .error .unassigned

/-- The instruction that a word holds, or why it holds none. -/
def decodeWord (w : BitVec 32) : Except DecodeErr Instr :=
  match (fGroup w).toNat with
  | 0 => decGroup0 w
  | 1 => decGroup1 w
  | 2 => decGroup2 w
  | 3 => decGroup3 w
  | 4 => decGroupF w
  | 5 => decGroupF w
  | 6 => decGroupF w
  | 7 => decGroup7 w
  | 8 => decGroup8 w
  | 9 => decGroup9 w
  | 10 => decGroup10 w
  | 11 => decGroup11 w
  | 12 => decGroup12 w
  | 13 => decGroup13 w
  | 14 => decGroup14 w
  | 15 => decGroup15 w
  | _ => .error .unassigned

/-- A little-endian word of four bytes (R6). -/
def wordOfBytes (b0 b1 b2 b3 : Byte) : BitVec 32 := b3 ++ b2 ++ b1 ++ b0
/-- The four bytes of a word, lowest address first (R6). -/
def bytesOfWord (w : BitVec 32) : List Byte :=
  [w.extractLsb' 0 8, w.extractLsb' 8 8, w.extractLsb' 16 8, w.extractLsb' 24 8]
/-- Decoding of bytes: the instruction word is the first four (bytes 4 to 7 of the slot, R84); the rest is given back. -/
def decodeBytes : List Byte → Except DecodeErr (Instr × List Byte)
  | b0 :: b1 :: b2 :: b3 :: rest =>
    match decodeWord (wordOfBytes b0 b1 b2 b3) with
    | .ok i => .ok (i, rest)
    | .error e => .error e
  | _ => .error .tooShort

/-- The operand fields of an instruction word. -/
structure Fields where
  op : BitVec 10
  a : BitVec 5
  b : BitVec 5
  d : BitVec 4
  e : BitVec 4
  t : BitVec 4
  deriving DecidableEq, Repr

/-- The word of its fields (R87). -/
def wordOf (f : Fields) : BitVec 32 := f.op ++ f.a ++ f.b ++ f.d ++ f.e ++ f.t

/-- The fields of an instruction, unused ones as R90 requires; a step of an engine (one of the rows without encoding)
has none. -/
def fields : Instr → Option Fields
  | .add y a b d e t => some ⟨(0 : BitVec 7) ++ y, a, b, d, e, t⟩
  | .sub y a b d e t => some ⟨(1 : BitVec 7) ++ y, a, b, d, e, t⟩
  | .mulLo y a b d e t => some ⟨(2 : BitVec 7) ++ y, a, b, d, e, t⟩
  | .mulHi y a b d e t => some ⟨(3 : BitVec 7) ++ y, a, b, d, e, t⟩
  | .div y a b d e t => some ⟨(4 : BitVec 7) ++ y, a, b, d, e, t⟩
  | .rem y a b d e t => some ⟨(5 : BitVec 7) ++ y, a, b, d, e, t⟩
  | .min y a b d e t => some ⟨(6 : BitVec 7) ++ y, a, b, d, e, t⟩
  | .max y a b d e t => some ⟨(7 : BitVec 7) ++ y, a, b, d, e, t⟩
  | .cmpEq y a b d e t => some ⟨(16 : BitVec 8) ++ y, a, b, d, e, t⟩
  | .cmpNe y a b d e t => some ⟨(17 : BitVec 8) ++ y, a, b, d, e, t⟩
  | .cmpLt y a b d e t => some ⟨(18 : BitVec 8) ++ y, a, b, d, e, t⟩
  | .cmpLe y a b d e t => some ⟨(19 : BitVec 8) ++ y, a, b, d, e, t⟩
  | .abs w a d e t => some ⟨(20 : BitVec 8) ++ w, a, 17, d, e, t⟩
  | .neg w a d e t => some ⟨(21 : BitVec 8) ++ w, a, 17, d, e, t⟩
  | .sel a b d e t => some ⟨88, a, b, d, e, t⟩
  | .and a b d e t => some ⟨89, a, b, d, e, t⟩
  | .or a b d e t => some ⟨90, a, b, d, e, t⟩
  | .xor a b d e t => some ⟨91, a, b, d, e, t⟩
  | .andn a b d e t => some ⟨92, a, b, d, e, t⟩
  | .not a d e t => some ⟨93, a, 17, d, e, t⟩
  | .shl a b d e t => some ⟨94, a, b, d, e, t⟩
  | .shr a b d e t => some ⟨95, a, b, d, e, t⟩
  | .sar a b d e t => some ⟨96, a, b, d, e, t⟩
  | .rol a b d e t => some ⟨97, a, b, d, e, t⟩
  | .ror a b d e t => some ⟨98, a, b, d, e, t⟩
  | .extr a b d e t => some ⟨99, a, b, d, e, t⟩
  | .extrS a b d e t => some ⟨100, a, b, d, e, t⟩
  | .ins a b d e t => some ⟨101, a, b, d, e, t⟩
  | .popc a d e t => some ⟨102, a, 17, d, e, t⟩
  | .clz a d e t => some ⟨103, a, 17, d, e, t⟩
  | .ctz a d e t => some ⟨104, a, 17, d, e, t⟩
  | .bswap a d e t => some ⟨105, a, 17, d, e, t⟩
  | .pset a b t => some ⟨106, a, b, 5, 5, t⟩
  | .pget d e t => some ⟨107, 17, 17, d, e, t⟩
  | .pand t => some ⟨108, 17, 17, 5, 5, t⟩
  | .por t => some ⟨109, 17, 17, 5, 5, t⟩
  | .pxor t => some ⟨110, 17, 17, 5, 5, t⟩
  | .pnot t => some ⟨111, 17, 17, 5, 5, t⟩
  | .deq a d e t => some ⟨128, a, 17, d, e, t⟩
  | .peek a d e t => some ⟨129, a, 17, d, e, t⟩
  | .fwd a d e t => some ⟨130, a, 17, d, e, t⟩
  | .emitNull d e t => some ⟨131, 17, 17, d, e, t⟩
  | .emitMark a d e t => some ⟨132, a, 17, d, e, t⟩
  | .emitErr a d e t => some ⟨133, a, 17, d, e, t⟩
  | .retag a b t => some ⟨134, a, b, 5, 5, t⟩
  | .posReset a t => some ⟨135, a, 17, 5, 5, t⟩
  | .deqD a d e t => some ⟨160, a, 17, d, e, t⟩
  | .peekD a d e t => some ⟨161, a, 17, d, e, t⟩
  | .fwdD a d e t => some ⟨162, a, 17, d, e, t⟩
  | .emitNullD d e t => some ⟨163, 17, 17, d, e, t⟩
  | .emitMarkD a d e t => some ⟨164, a, 17, d, e, t⟩
  | .emitErrD a d e t => some ⟨165, a, 17, d, e, t⟩
  | .retagD a b t => some ⟨166, a, b, 5, 5, t⟩
  | .posResetD a t => some ⟨167, a, 17, 5, 5, t⟩
  | .dlGet a d e t => some ⟨192, a, 17, d, e, t⟩
  | .dlPut a b t => some ⟨193, a, b, 5, 5, t⟩
  | .dlGetD a d e t => some ⟨194, a, 17, d, e, t⟩
  | .dlPutD a b t => some ⟨195, a, b, 5, 5, t⟩
  | .qCnt a d e t => some ⟨200, a, 17, d, e, t⟩
  | .qClr a t => some ⟨201, a, 17, 5, 5, t⟩
  | .qDepth a b t => some ⟨202, a, b, 5, 5, t⟩
  | .modeRd d e t => some ⟨208, 17, 17, d, e, t⟩
  | .modeWr a t => some ⟨209, a, 17, 5, 5, t⟩
  | .modeSet a t => some ⟨210, a, 17, 5, 5, t⟩
  | .modeClr a t => some ⟨211, a, 17, 5, 5, t⟩
  | .swIdx a b d e t => some ⟨216, a, b, d, e, t⟩
  | .mlOn a b t => some ⟨224, a, b, 5, 5, t⟩
  | .mlOff t => some ⟨225, 17, 17, 5, 5, t⟩
  | .mlRd d e t => some ⟨226, 17, 17, d, e, t⟩
  | .fadd g a b d e t => some ⟨(1 : BitVec 2) ++ g ++ (0 : BitVec 6), a, b, d, e, t⟩
  | .fsub g a b d e t => some ⟨(1 : BitVec 2) ++ g ++ (1 : BitVec 6), a, b, d, e, t⟩
  | .fmul g a b d e t => some ⟨(1 : BitVec 2) ++ g ++ (2 : BitVec 6), a, b, d, e, t⟩
  | .fma g a b d e t => some ⟨(1 : BitVec 2) ++ g ++ (3 : BitVec 6), a, b, d, e, t⟩
  | .fms g a b d e t => some ⟨(1 : BitVec 2) ++ g ++ (4 : BitVec 6), a, b, d, e, t⟩
  | .fnma g a b d e t => some ⟨(1 : BitVec 2) ++ g ++ (5 : BitVec 6), a, b, d, e, t⟩
  | .fmin g a b d e t => some ⟨(1 : BitVec 2) ++ g ++ (6 : BitVec 6), a, b, d, e, t⟩
  | .fmax g a b d e t => some ⟨(1 : BitVec 2) ++ g ++ (7 : BitVec 6), a, b, d, e, t⟩
  | .fabs g a d e t => some ⟨(1 : BitVec 2) ++ g ++ (8 : BitVec 6), a, 17, d, e, t⟩
  | .fneg g a d e t => some ⟨(1 : BitVec 2) ++ g ++ (9 : BitVec 6), a, 17, d, e, t⟩
  | .fcmpEq g a b d e t => some ⟨(1 : BitVec 2) ++ g ++ (10 : BitVec 6), a, b, d, e, t⟩
  | .fcmpLt g a b d e t => some ⟨(1 : BitVec 2) ++ g ++ (11 : BitVec 6), a, b, d, e, t⟩
  | .fcmpLe g a b d e t => some ⟨(1 : BitVec 2) ++ g ++ (12 : BitVec 6), a, b, d, e, t⟩
  | .fcmpUn g a b d e t => some ⟨(1 : BitVec 2) ++ g ++ (13 : BitVec 6), a, b, d, e, t⟩
  | .fclass g a d e t => some ⟨(1 : BitVec 2) ++ g ++ (14 : BitVec 6), a, 17, d, e, t⟩
  | .fsqrt g a d e t => some ⟨(1 : BitVec 2) ++ g ++ (15 : BitVec 6), a, 17, d, e, t⟩
  | .frcpe g a d e t => some ⟨(1 : BitVec 2) ++ g ++ (16 : BitVec 6), a, 17, d, e, t⟩
  | .fdiv g a b d e t => some ⟨(1 : BitVec 2) ++ g ++ (17 : BitVec 6), a, b, d, e, t⟩
  | .vadd y a b d e t => some ⟨(56 : BitVec 7) ++ y, a, b, d, e, t⟩
  | .vsub y a b d e t => some ⟨(57 : BitVec 7) ++ y, a, b, d, e, t⟩
  | .vmul y a b d e t => some ⟨(58 : BitVec 7) ++ y, a, b, d, e, t⟩
  | .vmulh y a b d e t => some ⟨(59 : BitVec 7) ++ y, a, b, d, e, t⟩
  | .vmin y a b d e t => some ⟨(60 : BitVec 7) ++ y, a, b, d, e, t⟩
  | .vmax y a b d e t => some ⟨(61 : BitVec 7) ++ y, a, b, d, e, t⟩
  | .vshr y a b d e t => some ⟨(62 : BitVec 7) ++ y, a, b, d, e, t⟩
  | .vcmpLt y a b d e t => some ⟨(63 : BitVec 7) ++ y, a, b, d, e, t⟩
  | .vshl w a b d e t => some ⟨(128 : BitVec 8) ++ w, a, b, d, e, t⟩
  | .vcmpEq w a b d e t => some ⟨(129 : BitVec 8) ++ w, a, b, d, e, t⟩
  | .vabs w a d e t => some ⟨(130 : BitVec 8) ++ w, a, 17, d, e, t⟩
  | .vand a b d e t => some ⟨524, a, b, d, e, t⟩
  | .vor a b d e t => some ⟨525, a, b, d, e, t⟩
  | .vxor a b d e t => some ⟨526, a, b, d, e, t⟩
  | .vnot a d e t => some ⟨527, a, 17, d, e, t⟩
  | .cvtF32F64 a b d e t => some ⟨528, a, b, d, e, t⟩
  | .cvtF64F32 a b d e t => some ⟨529, a, b, d, e, t⟩
  | .cvtBf16F32 a b d e t => some ⟨530, a, b, d, e, t⟩
  | .cvtF32Bf16 a b d e t => some ⟨531, a, b, d, e, t⟩
  | .cvtI32F32 a d e t => some ⟨532, a, 17, d, e, t⟩
  | .cvtF32I32 a d e t => some ⟨533, a, 17, d, e, t⟩
  | .cvtN32F32 a d e t => some ⟨534, a, 17, d, e, t⟩
  | .cvtF32N32 a d e t => some ⟨535, a, 17, d, e, t⟩
  | .cvtI64F64 a d e t => some ⟨536, a, 17, d, e, t⟩
  | .cvtF64I64 a d e t => some ⟨537, a, 17, d, e, t⟩
  | .vperm a b d e t => some ⟨538, a, b, d, e, t⟩
  | .vshuf a b d e t => some ⟨539, a, b, d, e, t⟩
  | .vrot a b d e t => some ⟨540, a, b, d, e, t⟩
  | .vbcast a b d e t => some ⟨541, a, b, d, e, t⟩
  | .vredFaddF64 a d e t => some ⟨544, a, 17, d, e, t⟩
  | .vredFaddF32 a d e t => some ⟨545, a, 17, d, e, t⟩
  | .vredFaddBf16 a d e t => some ⟨546, a, 17, d, e, t⟩
  | .vredFmaxF32 a d e t => some ⟨547, a, 17, d, e, t⟩
  | .vredFminF32 a d e t => some ⟨548, a, 17, d, e, t⟩
  | .vredAddI32 a d e t => some ⟨549, a, 17, d, e, t⟩
  | .vredAddI64 a d e t => some ⟨550, a, 17, d, e, t⟩
  | .vredMaxI32 a d e t => some ⟨551, a, 17, d, e, t⟩
  | .compressN32 a b d e t => some ⟨552, a, b, d, e, t⟩
  | .rep a d e t => some ⟨560, a, 17, d, e, t⟩
  | .ext a b d e t => some ⟨561, a, b, d, e, t⟩
  | .mmaBf16 a d e t => some ⟨576, a, 17, d, e, t⟩
  | .mmaF32 a d e t => some ⟨577, a, 17, d, e, t⟩
  | .mmaF64 a d e t => some ⟨578, a, 17, d, e, t⟩
  | .mmaCb4 a d e t => some ⟨579, a, 17, d, e, t⟩
  | .mmaSpBf16 a b d e t => some ⟨580, a, b, d, e, t⟩
  | .mmaSpCb4 a b d e t => some ⟨581, a, b, d, e, t⟩
  | .mpl a d e t => some ⟨584, a, 17, d, e, t⟩
  | .mcb a b d e t => some ⟨585, a, b, d, e, t⟩
  | .accZero d e t => some ⟨592, 17, 17, d, e, t⟩
  | .accRd a d e t => some ⟨593, a, 17, d, e, t⟩
  | .accWr a d e t => some ⟨594, a, 17, d, e, t⟩
  | .accCp d e t => some ⟨595, 17, 17, d, e, t⟩
  | .sacc a b d e t => some ⟨596, a, b, d, e, t⟩
  | .ssSet a b t => some ⟨640, a, b, 5, 5, t⟩
  | .ssGo a t => some ⟨641, a, 17, 5, 5, t⟩
  | .ssStop a t => some ⟨642, a, 17, 5, 5, t⟩
  | .ssStat a d e t => some ⟨643, a, 17, d, e, t⟩
  | .lmLd a d e t => some ⟨648, a, 17, d, e, t⟩
  | .lmSt a b t => some ⟨649, a, b, 5, 5, t⟩
  | .ringBind t => some ⟨656, 17, 17, 5, 5, t⟩
  | .ringWaitf d e t => some ⟨657, 17, 17, d, e, t⟩
  | .ringWaite d e t => some ⟨658, 17, 17, d, e, t⟩
  | .ringAdvp t => some ⟨659, 17, 17, 5, 5, t⟩
  | .ringAdvc t => some ⟨660, 17, 17, 5, 5, t⟩
  | .ringRd a d e t => some ⟨661, a, 17, d, e, t⟩
  | .ringWr a b t => some ⟨662, a, b, 5, 5, t⟩
  | .ringRdv a d e t => some ⟨663, a, 17, d, e, t⟩
  | .ringWrv a b t => some ⟨664, a, b, 5, 5, t⟩
  | .agtSet a d e t => some ⟨704, a, 17, d, e, t⟩
  | .agtBase a d e t => some ⟨705, a, 17, d, e, t⟩
  | .agtDim a b d e t => some ⟨706, a, b, d, e, t⟩
  | .agtGo d e t => some ⟨707, 17, 17, d, e, t⟩
  | .agtStop d e t => some ⟨708, 17, 17, d, e, t⟩
  | .agtCfg a d e t => some ⟨709, a, 17, d, e, t⟩
  | .agtHand d e t => some ⟨710, 17, 17, d, e, t⟩
  | .agtResume d e t => some ⟨711, 17, 17, d, e, t⟩
  | .agtStat d e t => some ⟨712, 17, 17, d, e, t⟩
  | .amoAdd s a b d e t => some ⟨(192 : BitVec 8) ++ s, a, b, d, e, t⟩
  | .amoFadd s a b d e t => some ⟨(193 : BitVec 8) ++ s, a, b, d, e, t⟩
  | .amoMin s a b d e t => some ⟨(194 : BitVec 8) ++ s, a, b, d, e, t⟩
  | .amoMax s a b d e t => some ⟨(195 : BitVec 8) ++ s, a, b, d, e, t⟩
  | .amoAnd s a b d e t => some ⟨(196 : BitVec 8) ++ s, a, b, d, e, t⟩
  | .amoOr s a b d e t => some ⟨(197 : BitVec 8) ++ s, a, b, d, e, t⟩
  | .amoXor s a b d e t => some ⟨(198 : BitVec 8) ++ s, a, b, d, e, t⟩
  | .amoExch s a b d e t => some ⟨(199 : BitVec 8) ++ s, a, b, d, e, t⟩
  | .amoCas s a b d e t => some ⟨(200 : BitVec 8) ++ s, a, b, d, e, t⟩
  | .fence s t => some ⟨(201 : BitVec 8) ++ s, 17, 17, 5, 5, t⟩
  | .stRel s a b t => some ⟨(202 : BitVec 8) ++ s, a, b, 5, 5, t⟩
  | .ldAcq s a d e t => some ⟨(203 : BitVec 8) ++ s, a, 17, d, e, t⟩
  | .ld a d e t => some ⟨816, a, 17, d, e, t⟩
  | .st a b t => some ⟨817, a, b, 5, 5, t⟩
  | .bteCopy a b d e t => some ⟨832, a, b, d, e, t⟩
  | .bteCopyMx a b d e t => some ⟨833, a, b, d, e, t⟩
  | .bteAppend a d e t => some ⟨834, a, 17, d, e, t⟩
  | .bteTail a t => some ⟨835, a, 17, 5, 5, t⟩
  | .bteProm a d e t => some ⟨836, a, 17, d, e, t⟩
  | .sleepUntil a t => some ⟨837, a, 17, 5, 5, t⟩
  | .bteSeq a d e t => some ⟨838, a, 17, d, e, t⟩
  | .bteStat d e t => some ⟨839, 17, 17, d, e, t⟩
  | .tsend a b t => some ⟨896, a, b, 5, 5, t⟩
  | .hbind t => some ⟨897, 17, 17, 5, 5, t⟩
  | .hunbind t => some ⟨898, 17, 17, 5, 5, t⟩
  | .futNew d e t => some ⟨904, 17, 17, d, e, t⟩
  | .futReg a b d e t => some ⟨905, a, b, d, e, t⟩
  | .futRes a b t => some ⟨906, a, b, 5, 5, t⟩
  | .futFault a b t => some ⟨907, a, b, 5, 5, t⟩
  | .futWait a d e t => some ⟨908, a, 17, d, e, t⟩
  | .futRd a d e t => some ⟨909, a, 17, d, e, t⟩
  | .launch a d e t => some ⟨912, a, 17, d, e, t⟩
  | .launchTry a d e t => some ⟨913, a, 17, d, e, t⟩
  | .join a d e t => some ⟨920, a, 17, d, e, t⟩
  | .leave a t => some ⟨921, a, 17, 5, 5, t⟩
  | .barrier a b d e t => some ⟨922, a, b, d, e, t⟩
  | .reduce a b d e t => some ⟨923, a, b, d, e, t⟩
  | .allreduce a b d e t => some ⟨924, a, b, d, e, t⟩
  | .bcast a b d e t => some ⟨925, a, b, d, e, t⟩
  | .grpNew d e t => some ⟨926, 17, 17, d, e, t⟩
  | .grpSize a d e t => some ⟨927, a, 17, d, e, t⟩
  | .xdDispatch a b d e t => some ⟨928, a, b, d, e, t⟩
  | .xdLoad a d e t => some ⟨929, a, 17, d, e, t⟩
  | .xdTab a d e t => some ⟨930, a, 17, d, e, t⟩
  | .xdVer a d e t => some ⟨931, a, 17, d, e, t⟩
  | .xdStat d e t => some ⟨932, 17, 17, d, e, t⟩
  | .trap a t => some ⟨960, a, 17, 5, 5, t⟩
  | .yield t => some ⟨961, 17, 17, 5, 5, t⟩
  | .cfgSel a t => some ⟨962, a, 17, 5, 5, t⟩
  | .rgnStat a d e t => some ⟨963, a, 17, d, e, t⟩
  | .dbgBrk a t => some ⟨964, a, 17, 5, 5, t⟩
  | .nop t => some ⟨965, 17, 17, 5, 5, t⟩
  | .clkRd a d e t => some ⟨976, a, 17, d, e, t⟩
  | .raceMode a d e t => some ⟨977, a, 17, d, e, t⟩
  | .raceLog a d e t => some ⟨978, a, 17, d, e, t⟩
  | .raceGen a d e t => some ⟨979, a, 17, d, e, t⟩
  | _ => none

/-- The word of an instruction (R87, R102); none for a step that has no encoding. -/
def encode (i : Instr) : Option (BitVec 32) := (fields i).map wordOf

/-- The instruction in an instruction word numbered as the opcode table numbers it: bit 0 is the least significant bit of
the first word, the 32-bit instruction word. Wider words carry bits beyond the instruction, which must be zero. -/
def decodeTableWord (nbits w : Nat) : Option Instr :=
  if nbits ≤ 32 && w < 2 ^ 32 then
    match decodeBytes (bytesOfWord (BitVec.ofNat 32 w)) with
    | .ok (i, _) => some i
    | .error _ => none
  else none

end Sys2Proof
end

