-- ==== Sys2Proof/Machine/Operands.lean ====
section
/-! DEFINITION. Operands of the PE's instructions: which fields each instruction uses and on which plane (R90, R101), its
latency and condition flag, source and destination selects (R88, R89), tag actions (R92), and the values a firing reads. -/
namespace Sys2Proof.Machine

/-- How an instruction uses DA and DB (R90): no destination; one (DB = DA); the same result in both; two distinct
results; output ports only, both alike; one output port of a fixed kind; a done token to output ports (R202). -/
inductive DstUse where
  | none | one | same | pair | outs | out1 | done
  deriving DecidableEq, Repr

/-- What the opcode fixes about an instruction (R90, R101, R131, R135, R167, R170, R303). -/
structure Info where
  pa : Bool := false       -- A on the data plane
  pb : Bool := false       -- B on the data plane
  pd : Bool := false       -- DA and DB on the data plane
  ua : Bool := false       -- A is used
  ub : Bool := false       -- B is used
  dst : DstUse := .none
  flag : Bool := false     -- defines a condition flag
  lat : Nat := 1           -- latency L, where it is fixed
  unit : JobUnit := .none
  aPort : Bool := false    -- A must be an input port
  noDeq : Bool := false    -- A's head is read and not dequeued
  aQ : Bool := false       -- A names a queue register that is not popped
  skip : Bool := false     -- a head that is not DATA makes the firing compute nothing (R166, R199, R300, R394)
  mem : Bool := false      -- held while an acquire of its bank is outstanding (R303)
  deriving DecidableEq, Repr

/-- The table of R90, R101, R131, R167 and R170, and of the tables of forms of each chapter; a step of an engine uses no
operand. -/
def info : Instr → Info
  | .add _ _ _ _ _ _ => { ua := true, ub := true, dst := .same, flag := true }
  | .sub _ _ _ _ _ _ => { ua := true, ub := true, dst := .same, flag := true }
  | .mulLo _ _ _ _ _ _ => { ua := true, ub := true, dst := .same, flag := true, lat := 3 }
  | .mulHi _ _ _ _ _ _ => { ua := true, ub := true, dst := .same, flag := true, lat := 3 }
  | .div y _ _ _ _ _ => { ua := true, ub := true, dst := .same, flag := true, lat := 2 + 4 * 2 ^ (y.toNat % 4), unit := .divider }
  | .rem y _ _ _ _ _ => { ua := true, ub := true, dst := .same, flag := true, lat := 2 + 4 * 2 ^ (y.toNat % 4), unit := .divider }
  | .min _ _ _ _ _ _ => { ua := true, ub := true, dst := .same, flag := true }
  | .max _ _ _ _ _ _ => { ua := true, ub := true, dst := .same, flag := true }
  | .cmpEq _ _ _ _ _ _ => { ua := true, ub := true, dst := .one, flag := true }
  | .cmpNe _ _ _ _ _ _ => { ua := true, ub := true, dst := .one, flag := true }
  | .cmpLt _ _ _ _ _ _ => { ua := true, ub := true, dst := .one, flag := true }
  | .cmpLe _ _ _ _ _ _ => { ua := true, ub := true, dst := .one, flag := true }
  | .abs _ _ _ _ _ => { ua := true, dst := .one, flag := true }
  | .neg _ _ _ _ _ => { ua := true, dst := .one, flag := true }
  | .sel _ _ _ _ _ => { ua := true, ub := true, dst := .one, flag := true }
  | .and _ _ _ _ _ => { ua := true, ub := true, dst := .one, flag := true }
  | .or _ _ _ _ _ => { ua := true, ub := true, dst := .one, flag := true }
  | .xor _ _ _ _ _ => { ua := true, ub := true, dst := .one, flag := true }
  | .andn _ _ _ _ _ => { ua := true, ub := true, dst := .one, flag := true }
  | .not _ _ _ _ => { ua := true, dst := .one, flag := true }
  | .shl _ _ _ _ _ => { ua := true, ub := true, dst := .one, flag := true }
  | .shr _ _ _ _ _ => { ua := true, ub := true, dst := .one, flag := true }
  | .sar _ _ _ _ _ => { ua := true, ub := true, dst := .one, flag := true }
  | .rol _ _ _ _ _ => { ua := true, ub := true, dst := .one, flag := true }
  | .ror _ _ _ _ _ => { ua := true, ub := true, dst := .one, flag := true }
  | .extr _ _ _ _ _ => { ua := true, ub := true, dst := .one, flag := true }
  | .extrS _ _ _ _ _ => { ua := true, ub := true, dst := .one, flag := true }
  | .ins _ _ _ _ _ => { ua := true, ub := true, dst := .one, flag := true }
  | .popc _ _ _ _ => { ua := true, dst := .one, flag := true }
  | .clz _ _ _ _ => { ua := true, dst := .one, flag := true }
  | .ctz _ _ _ _ => { ua := true, dst := .one, flag := true }
  | .bswap _ _ _ _ => { ua := true, dst := .one, flag := true }
  | .pset _ _ _ => { ua := true, ub := true }
  | .pget _ _ _ => { dst := .one, flag := true }
  | .pand _ => { flag := true }
  | .por _ => { flag := true }
  | .pxor _ => { flag := true }
  | .pnot _ => { flag := true }
  | .deq _ _ _ _ => { ua := true, dst := .same, flag := true, aPort := true }
  | .peek _ _ _ _ => { ua := true, dst := .same, flag := true, aPort := true, noDeq := true }
  | .fwd _ _ _ _ => { ua := true, dst := .same, flag := true, aPort := true }
  | .emitNull _ _ _ => { dst := .outs }
  | .emitMark _ _ _ _ => { ua := true, dst := .outs }
  | .emitErr _ _ _ _ => { ua := true, dst := .outs }
  | .retag _ _ _ => { ua := true, ub := true, aPort := true, noDeq := true }
  | .posReset _ _ => { ua := true, aPort := true, noDeq := true }
  | .deqD _ _ _ _ => { pa := true, pb := true, pd := true, ua := true, dst := .same, flag := true, aPort := true }
  | .peekD _ _ _ _ => { pa := true, pb := true, pd := true, ua := true, dst := .same, flag := true, aPort := true, noDeq := true }
  | .fwdD _ _ _ _ => { pa := true, pb := true, pd := true, ua := true, dst := .same, flag := true, aPort := true }
  | .emitNullD _ _ _ => { pa := true, pb := true, pd := true, dst := .outs }
  | .emitMarkD _ _ _ _ => { pa := true, pb := true, pd := true, ua := true, dst := .outs }
  | .emitErrD _ _ _ _ => { pa := true, pb := true, pd := true, ua := true, dst := .outs }
  | .retagD _ _ _ => { pa := true, pb := true, pd := true, ua := true, ub := true, aPort := true, noDeq := true }
  | .posResetD _ _ => { pa := true, pb := true, pd := true, ua := true, aPort := true, noDeq := true }
  | .dlGet _ _ _ _ => { ua := true, dst := .one, flag := true }
  | .dlPut _ _ _ => { ua := true, ub := true, flag := true }
  | .dlGetD _ _ _ _ => { pd := true, ua := true, dst := .one, flag := true }
  | .dlPutD _ _ _ => { pa := true, ua := true, ub := true, flag := true }
  | .qCnt _ _ _ _ => { ua := true, dst := .one, flag := true, aQ := true }
  | .qClr _ _ => { ua := true, aQ := true }
  | .qDepth _ _ _ => { ua := true, ub := true, flag := true, aQ := true }
  | .modeRd _ _ _ => { dst := .one, flag := true }
  | .modeWr _ _ => { ua := true }
  | .modeSet _ _ => { ua := true }
  | .modeClr _ _ => { ua := true }
  | .swIdx _ _ _ _ _ => { ua := true, ub := true, dst := .out1, flag := true }
  | .mlOn _ _ _ => { ua := true, ub := true, flag := true }
  | .mlOff _ => {}
  | .mlRd _ _ _ => { dst := .one, flag := true }
  | .fadd _ _ _ _ _ _ => { pa := true, pb := true, pd := true, ua := true, ub := true, dst := .same, lat := 4, skip := true }
  | .fsub _ _ _ _ _ _ => { pa := true, pb := true, pd := true, ua := true, ub := true, dst := .same, lat := 4, skip := true }
  | .fmul _ _ _ _ _ _ => { pa := true, pb := true, pd := true, ua := true, ub := true, dst := .same, lat := 4, skip := true }
  | .fma _ _ _ _ _ _ => { pa := true, pb := true, pd := true, ua := true, ub := true, dst := .same, lat := 4, skip := true }
  | .fms _ _ _ _ _ _ => { pa := true, pb := true, pd := true, ua := true, ub := true, dst := .same, lat := 4, skip := true }
  | .fnma _ _ _ _ _ _ => { pa := true, pb := true, pd := true, ua := true, ub := true, dst := .same, lat := 4, skip := true }
  | .fmin _ _ _ _ _ _ => { pa := true, pb := true, pd := true, ua := true, ub := true, dst := .same, lat := 2, skip := true }
  | .fmax _ _ _ _ _ _ => { pa := true, pb := true, pd := true, ua := true, ub := true, dst := .same, lat := 2, skip := true }
  | .fabs _ _ _ _ _ => { pa := true, pb := true, pd := true, ua := true, dst := .same, lat := 2, skip := true }
  | .fneg _ _ _ _ _ => { pa := true, pb := true, pd := true, ua := true, dst := .same, lat := 2, skip := true }
  | .fcmpEq _ _ _ _ _ _ => { pa := true, pb := true, pd := true, ua := true, ub := true, dst := .same, flag := true, lat := 2, skip := true }
  | .fcmpLt _ _ _ _ _ _ => { pa := true, pb := true, pd := true, ua := true, ub := true, dst := .same, flag := true, lat := 2, skip := true }
  | .fcmpLe _ _ _ _ _ _ => { pa := true, pb := true, pd := true, ua := true, ub := true, dst := .same, flag := true, lat := 2, skip := true }
  | .fcmpUn _ _ _ _ _ _ => { pa := true, pb := true, pd := true, ua := true, ub := true, dst := .same, flag := true, lat := 2, skip := true }
  | .fclass _ _ _ _ _ => { pa := true, pb := true, pd := true, ua := true, dst := .same, flag := true, lat := 2, skip := true }
  | .fsqrt g _ _ _ _ => { pa := true, pb := true, pd := true, ua := true, dst := .same, lat := (match g.toNat with | 0 => 28 | 1 => 16 | _ => 10), unit := .root, skip := true }
  | .frcpe _ _ _ _ _ => { pa := true, pb := true, pd := true, ua := true, dst := .same, lat := 3, skip := true }
  | .fdiv g _ _ _ _ _ => { pa := true, pb := true, pd := true, ua := true, ub := true, dst := .same, lat := (match g.toNat with | 0 => 28 | 1 => 16 | _ => 10), unit := .root, skip := true }
  | .vadd _ _ _ _ _ _ => { pa := true, pb := true, pd := true, ua := true, ub := true, dst := .same, flag := true, lat := 2, skip := true }
  | .vsub _ _ _ _ _ _ => { pa := true, pb := true, pd := true, ua := true, ub := true, dst := .same, flag := true, lat := 2, skip := true }
  | .vmul _ _ _ _ _ _ => { pa := true, pb := true, pd := true, ua := true, ub := true, dst := .same, flag := true, lat := 3, skip := true }
  | .vmulh _ _ _ _ _ _ => { pa := true, pb := true, pd := true, ua := true, ub := true, dst := .same, flag := true, lat := 3, skip := true }
  | .vmin _ _ _ _ _ _ => { pa := true, pb := true, pd := true, ua := true, ub := true, dst := .same, lat := 2, skip := true }
  | .vmax _ _ _ _ _ _ => { pa := true, pb := true, pd := true, ua := true, ub := true, dst := .same, lat := 2, skip := true }
  | .vshr _ _ _ _ _ _ => { pa := true, pb := true, pd := true, ua := true, ub := true, dst := .same, lat := 2, skip := true }
  | .vcmpLt _ _ _ _ _ _ => { pa := true, pb := true, pd := true, ua := true, ub := true, dst := .same, flag := true, lat := 2, skip := true }
  | .vshl _ _ _ _ _ _ => { pa := true, pb := true, pd := true, ua := true, ub := true, dst := .same, lat := 2, skip := true }
  | .vcmpEq _ _ _ _ _ _ => { pa := true, pb := true, pd := true, ua := true, ub := true, dst := .same, flag := true, lat := 2, skip := true }
  | .vabs _ _ _ _ _ => { pa := true, pb := true, pd := true, ua := true, dst := .same, flag := true, lat := 2, skip := true }
  | .vand _ _ _ _ _ => { pa := true, pb := true, pd := true, ua := true, ub := true, dst := .same, flag := true, lat := 2, skip := true }
  | .vor _ _ _ _ _ => { pa := true, pb := true, pd := true, ua := true, ub := true, dst := .same, flag := true, lat := 2, skip := true }
  | .vxor _ _ _ _ _ => { pa := true, pb := true, pd := true, ua := true, ub := true, dst := .same, flag := true, lat := 2, skip := true }
  | .vnot _ _ _ _ => { pa := true, pb := true, pd := true, ua := true, dst := .same, flag := true, lat := 2, skip := true }
  | .cvtF32F64 _ _ _ _ _ => { pa := true, pb := true, pd := true, ua := true, ub := true, dst := .same, lat := 3, skip := true }
  | .cvtF64F32 _ _ _ _ _ => { pa := true, pb := true, pd := true, ua := true, ub := true, dst := .same, lat := 3, skip := true }
  | .cvtBf16F32 _ _ _ _ _ => { pa := true, pb := true, pd := true, ua := true, ub := true, dst := .same, lat := 3, skip := true }
  | .cvtF32Bf16 _ _ _ _ _ => { pa := true, pb := true, pd := true, ua := true, ub := true, dst := .same, lat := 3, skip := true }
  | .cvtI32F32 _ _ _ _ => { pa := true, pb := true, pd := true, ua := true, dst := .same, flag := true, lat := 3, skip := true }
  | .cvtF32I32 _ _ _ _ => { pa := true, pb := true, pd := true, ua := true, dst := .same, lat := 3, skip := true }
  | .cvtN32F32 _ _ _ _ => { pa := true, pb := true, pd := true, ua := true, dst := .same, flag := true, lat := 3, skip := true }
  | .cvtF32N32 _ _ _ _ => { pa := true, pb := true, pd := true, ua := true, dst := .same, lat := 3, skip := true }
  | .cvtI64F64 _ _ _ _ => { pa := true, pb := true, pd := true, ua := true, dst := .same, flag := true, lat := 3, skip := true }
  | .cvtF64I64 _ _ _ _ => { pa := true, pb := true, pd := true, ua := true, dst := .same, lat := 3, skip := true }
  | .vperm _ _ _ _ _ => { pa := true, pb := true, pd := true, ua := true, ub := true, dst := .same, lat := 2, skip := true }
  | .vshuf _ _ _ _ _ => { pa := true, pb := true, pd := true, ua := true, ub := true, dst := .same, lat := 2, skip := true }
  | .vrot _ _ _ _ _ => { pa := true, pb := true, pd := true, ua := true, ub := true, dst := .same, lat := 2, skip := true }
  | .vbcast _ _ _ _ _ => { pa := true, pb := true, pd := true, ua := true, ub := true, dst := .same, lat := 2, skip := true }
  | .vredFaddF64 _ _ _ _ => { pa := true, pb := true, pd := true, ua := true, dst := .same, lat := 12, skip := true }
  | .vredFaddF32 _ _ _ _ => { pa := true, pb := true, pd := true, ua := true, dst := .same, lat := 16, skip := true }
  | .vredFaddBf16 _ _ _ _ => { pa := true, pb := true, pd := true, ua := true, dst := .same, lat := 20, skip := true }
  | .vredFmaxF32 _ _ _ _ => { pa := true, pb := true, pd := true, ua := true, dst := .same, lat := 4, skip := true }
  | .vredFminF32 _ _ _ _ => { pa := true, pb := true, pd := true, ua := true, dst := .same, lat := 4, skip := true }
  | .vredAddI32 _ _ _ _ => { pa := true, pb := true, pd := true, ua := true, dst := .same, flag := true, lat := 4, skip := true }
  | .vredAddI64 _ _ _ _ => { pa := true, pb := true, pd := true, ua := true, dst := .same, flag := true, lat := 4, skip := true }
  | .vredMaxI32 _ _ _ _ => { pa := true, pb := true, pd := true, ua := true, dst := .same, lat := 4, skip := true }
  | .compressN32 _ _ _ _ _ => { pa := true, pb := true, pd := true, ua := true, ub := true, dst := .pair, flag := true, lat := 4, skip := true }
  | .rep _ _ _ _ => { pd := true, ua := true, dst := .same, lat := 2 }
  | .ext _ _ _ _ _ => { pa := true, ua := true, ub := true, dst := .same, flag := true, lat := 2 }
  | .mmaBf16 _ _ _ _ => { pa := true, pb := true, pd := true, ua := true, dst := .done, skip := true }
  | .mmaF32 _ _ _ _ => { pa := true, pb := true, pd := true, ua := true, dst := .done, skip := true }
  | .mmaF64 _ _ _ _ => { pa := true, pb := true, pd := true, ua := true, dst := .done, skip := true }
  | .mmaCb4 _ _ _ _ => { pa := true, pb := true, pd := true, ua := true, dst := .done, skip := true }
  | .mmaSpBf16 _ _ _ _ _ => { pa := true, pb := true, pd := true, ua := true, ub := true, dst := .done, skip := true }
  | .mmaSpCb4 _ _ _ _ _ => { pa := true, pb := true, pd := true, ua := true, ub := true, dst := .done, skip := true }
  | .mpl _ _ _ _ => { pa := true, pb := true, pd := true, ua := true, dst := .done, skip := true }
  | .mcb _ _ _ _ _ => { pa := true, pb := true, pd := true, ua := true, ub := true, dst := .done, skip := true }
  | .accZero _ _ _ => { pa := true, pb := true, pd := true, dst := .done, skip := true }
  | .accRd _ _ _ _ => { pa := true, pb := true, pd := true, ua := true, dst := .pair, skip := true }
  | .accWr _ _ _ _ => { pa := true, pb := true, pd := true, ua := true, dst := .done, skip := true }
  | .accCp _ _ _ => { pa := true, pb := true, pd := true, dst := .done, skip := true }
  | .sacc _ _ _ _ _ => { pa := true, pb := true, pd := true, ua := true, ub := true, dst := .done, skip := true }
  | .ssSet _ _ _ => { ua := true, ub := true }
  | .ssGo _ _ => { ua := true }
  | .ssStop _ _ => { ua := true }
  | .ssStat _ _ _ _ => { ua := true, dst := .same, flag := true }
  | .lmLd _ _ _ _ => { ua := true, dst := .same, lat := 3 }
  | .lmSt _ _ _ => { ua := true, ub := true }
  | .ringBind _ => { mem := true }
  | .ringWaitf _ _ _ => { dst := .one, mem := true }
  | .ringWaite _ _ _ => { dst := .one, mem := true }
  | .ringAdvp _ => { mem := true }
  | .ringAdvc _ => { mem := true }
  | .ringRd _ _ _ _ => { ua := true, dst := .one, mem := true }
  | .ringWr _ _ _ => { ua := true, ub := true, mem := true }
  | .ringRdv _ _ _ _ => { pd := true, ua := true, dst := .one, mem := true }
  | .ringWrv _ _ _ => { pa := true, ua := true, ub := true, mem := true }
  | .agtSet _ _ _ _ => { ua := true, dst := .out1, flag := true, mem := true }
  | .agtBase _ _ _ _ => { ua := true, dst := .out1, flag := true, mem := true }
  | .agtDim _ _ _ _ _ => { ua := true, ub := true, dst := .out1, flag := true, mem := true }
  | .agtGo _ _ _ => { dst := .out1, flag := true, mem := true }
  | .agtStop _ _ _ => { dst := .out1, flag := true, mem := true }
  | .agtCfg _ _ _ _ => { ua := true, dst := .out1, flag := true, mem := true }
  | .agtHand _ _ _ => { dst := .out1, flag := true, mem := true }
  | .agtResume _ _ _ => { dst := .out1, flag := true, mem := true }
  | .agtStat _ _ _ => { dst := .out1, flag := true, mem := true }
  | .amoAdd _ _ _ _ _ _ => { ua := true, ub := true, dst := .same, skip := true, mem := true }
  | .amoFadd _ _ _ _ _ _ => { ua := true, ub := true, dst := .same, skip := true, mem := true }
  | .amoMin _ _ _ _ _ _ => { ua := true, ub := true, dst := .same, skip := true, mem := true }
  | .amoMax _ _ _ _ _ _ => { ua := true, ub := true, dst := .same, skip := true, mem := true }
  | .amoAnd _ _ _ _ _ _ => { ua := true, ub := true, dst := .same, skip := true, mem := true }
  | .amoOr _ _ _ _ _ _ => { ua := true, ub := true, dst := .same, skip := true, mem := true }
  | .amoXor _ _ _ _ _ _ => { ua := true, ub := true, dst := .same, skip := true, mem := true }
  | .amoExch _ _ _ _ _ _ => { ua := true, ub := true, dst := .same, skip := true, mem := true }
  | .amoCas _ _ _ _ _ _ => { ua := true, ub := true, dst := .same, flag := true, skip := true, mem := true }
  | .fence _ _ => { skip := true, mem := true }
  | .stRel _ _ _ _ => { ua := true, ub := true, skip := true, mem := true }
  | .ldAcq _ _ _ _ _ => { ua := true, dst := .same, skip := true, mem := true }
  | .ld _ _ _ _ => { ua := true, dst := .same, skip := true, mem := true }
  | .st _ _ _ => { ua := true, ub := true, skip := true, mem := true }
  | .bteCopy _ _ _ _ _ => { ua := true, ub := true, dst := .pair, lat := 4, mem := true }
  | .bteCopyMx _ _ _ _ _ => { ua := true, ub := true, dst := .pair, lat := 4, mem := true }
  | .bteAppend _ _ _ _ => { ua := true, dst := .one, flag := true, lat := 4, mem := true }
  | .bteTail _ _ => { ua := true, flag := true, mem := true }
  | .bteProm _ _ _ _ => { ua := true, dst := .one, flag := true, lat := 4, mem := true }
  | .sleepUntil _ _ => { ua := true, mem := true }
  | .bteSeq _ _ _ _ => { ua := true, dst := .one, lat := 4, mem := true }
  | .bteStat _ _ _ => { dst := .pair, flag := true, lat := 4, mem := true }
  | .tsend _ _ _ => { ua := true, ub := true }
  | .hbind _ => { flag := true }
  | .hunbind _ => { flag := true }
  | .futNew _ _ _ => { dst := .one, flag := true }
  | .futReg _ _ _ _ _ => { ua := true, ub := true, dst := .one, flag := true }
  | .futRes _ _ _ => { ua := true, ub := true }
  | .futFault _ _ _ => { ua := true, ub := true }
  | .futWait _ _ _ _ => { ua := true, dst := .one }
  | .futRd _ _ _ _ => { ua := true, dst := .one, flag := true }
  | .launch _ _ _ _ => { ua := true, dst := .one, skip := true, mem := true }
  | .launchTry _ _ _ _ => { ua := true, dst := .one, flag := true, skip := true, mem := true }
  | .join _ _ _ _ => { ua := true, dst := .one, flag := true }
  | .leave _ _ => { ua := true, flag := true }
  | .barrier _ _ _ _ _ => { ua := true, ub := true, dst := .one, flag := true, mem := true }
  | .reduce _ _ _ _ _ => { ua := true, ub := true, dst := .one, flag := true, mem := true }
  | .allreduce _ _ _ _ _ => { ua := true, ub := true, dst := .one, flag := true, mem := true }
  | .bcast _ _ _ _ _ => { ua := true, ub := true, dst := .one, flag := true, mem := true }
  | .grpNew _ _ _ => { dst := .one, flag := true }
  | .grpSize _ _ _ _ => { ua := true, dst := .one, flag := true }
  | .xdDispatch _ _ _ _ _ => { ua := true, ub := true, dst := .same, flag := true, skip := true }
  | .xdLoad _ _ _ _ => { ua := true, dst := .one, flag := true }
  | .xdTab _ _ _ _ => { ua := true, dst := .one, flag := true }
  | .xdVer _ _ _ _ => { ua := true, dst := .one, flag := true }
  | .xdStat _ _ _ => { dst := .one, flag := true }
  | .trap _ _ => { ua := true }
  | .yield _ => {}
  | .cfgSel _ _ => { ua := true }
  | .rgnStat _ _ _ _ => { ua := true, dst := .one, flag := true }
  | .dbgBrk _ _ => { ua := true }
  | .nop _ => {}
  | .clkRd _ _ _ _ => { ua := true, dst := .same, flag := true, lat := 16 }
  | .raceMode _ _ _ _ => { ua := true, dst := .same, flag := true, lat := 4 }
  | .raceLog _ _ _ _ => { ua := true, dst := .same, flag := true, lat := 4 }
  | .raceGen _ _ _ _ => { ua := true, dst := .same, flag := true, lat := 16 }
  | _ => {}

/-- The operand fields of an instruction; none used by a step of an engine. -/
def opnds (i : Instr) : Fields := (fields i).getD ⟨0, 17, 17, 5, 5, 0⟩

/-! ### Trigger word (R85) -/

/-- IRDY bit of an input port. -/
def trIrdy (t : BitVec 32) (i : Nat) : Bool := t.getLsbD (26 + i)
/-- ODEM bit of an output port. -/
def trOdem (t : BitVec 32) (j : Nat) : Bool := t.getLsbD (21 + j)
/-- TCH. -/
def trTch (t : BitVec 32) : Nat := fld t 20 18
/-- STE. -/
def trSte (t : BitVec 32) : Bool := t.getLsbD 17
/-- STV. -/
def trStv (t : BitVec 32) : Nat := fld t 16 15
/-- KIND test. -/
def trKind (t : BitVec 32) : Nat := fld t 14 13
/-- PCARE. -/
def trPcare (t : BitVec 32) : BitVec 4 := t.extractLsb' 9 4
/-- PVAL. -/
def trPval (t : BitVec 32) : BitVec 4 := t.extractLsb' 5 4
/-- PSEL. -/
def trPsel (t : BitVec 32) : Nat := fld t 4 3
/-- POP. -/
def trPop (t : BitVec 32) : Nat := fld t 2 1
/-- V. -/
def trV (t : BitVec 32) : Bool := t.getLsbD 0

/-! ### Heads and ports -/

/-- Code of a token kind (R40). -/
def kindCode : Kind → Nat
  | .data => 0 | .null => 1 | .mark => 2 | .err => 3 | .drain => 4 | .cfg => 5
/-- The seven side bits of a token (R40). -/
def sideBits (t : Token) : Nat := kindCode t.kind * 16 + t.tag.toNat
/-- The head token of an input port, if it holds one; a DRAIN head is never presented to a slot (R41). -/
def headAt (s : State) (ep : Nat) : Option Token :=
  match (inPortOf s ep).queue with
  | (_, t) :: _ => if t.kind = .drain then none else some t
  | [] => none
/-- The head of input port i of a tile. -/
def tileHead (s : State) (tile i : Nat) : Option Token := headAt s (tileEp tile i)
/-- Whether a head passes a KIND test (R56). -/
def kindPass (test : Nat) (k : Kind) : Bool :=
  match test, k with
  | _, .drain => false
  | 3, _ => true
  | _, .err => true
  | 0, .data => true
  | 1, .null => true
  | 2, .mark => true
  | _, _ => false
/-- The input ports that a source select of an instruction names. -/
def srcPort (used : Bool) (c : BitVec 5) : List Nat := if used && decide (c.toNat < 6) then [c.toNat] else []
/-- The input ports that A or B names, each once, lowest first (R91). -/
def namedPorts (i : Instr) : List Nat :=
  let n := info i
  let f := opnds i
  let l := srcPort n.ua f.a ++ srcPort n.ub f.b
  (List.range 6).filter l.contains
/-- The input ports whose heads a firing dequeues (R91): where A's head is read and kept (R144, R147), only another port
that B names. -/
def deqPorts (i : Instr) : List Nat :=
  if (info i).noDeq then (srcPort (info i).ub (opnds i).b).filter fun p => p != (opnds i).a.toNat else namedPorts i
/-- Whether a firing's slot belongs to an operator that a fold has moved into its tile. -/
def movedSlot (t : Tile) (f : Firing) : Bool :=
  let c := trTch f.trig
  t.moveBanks.contains f.bank && (if c ≤ 5 then (mapFind t.moveIn c).isSome else c == 6)
/-- The tag of the trigger (R92, `ttag` of R107); for a moved operator, with BANK 0 (R369). -/
def ttag (s : State) (f : Firing) : BitVec 4 :=
  let c := trTch f.trig
  let t := if c ≤ 5 then ((tileHead s f.tile c).map (·.tag)).getD 0
    else if c = 6 then BitVec.ofNat 4 (4 * f.bank) else 0
  if movedSlot (tileOf s f.tile) f then t &&& 3 else t
/-- Tag actions (R92, `tagres` of R107). -/
def tagRes (a : BitVec 4) (t b l : BitVec 4) : BitVec 4 :=
  let bk := t.toNat / 4
  let sb := t.toNat % 4
  match a.toNat with
  | 0 => t
  | 1 => BitVec.ofNat 4 ((bk + 1) % 4 * 4 + sb)
  | 2 => BitVec.ofNat 4 ((bk + 3) % 4 * 4 + sb)
  | 3 => BitVec.ofNat 4 sb
  | 4 => BitVec.ofNat 4 (bk * 4)
  | 5 => BitVec.ofNat 4 (bk * 4 + 1)
  | 6 => BitVec.ofNat 4 (bk * 4 + 2)
  | 7 => BitVec.ofNat 4 (bk * 4 + 3)
  | 8 => BitVec.ofNat 4 (bk * 4 + (sb + 1) % 4)
  | 9 => 0
  | 10 => b
  | _ => l

/-! ### Registers, under the maintenance loop (R155) -/

/-- The k register that a select of k_j names (R155). -/
def kIdx (b : Bank) (j : Nat) : Nat := if b.mlOn && decide (j < b.rs) then (j + b.lc) % b.rs else j
/-- A k register. -/
def kGet (b : Bank) (j : Nat) : W64 := b.k.getD j 0
/-- A v register. -/
def vGet (b : Bank) (j : Nat) : W512 := b.v.getD j 0
/-- A bank with a k register written. -/
def kSet (b : Bank) (j : Nat) (x : W64) : Bank := { b with k := b.k.setIfInBounds j x }
/-- A bank with a v register written. -/
def vSet (b : Bank) (j : Nat) (x : W512) : Bank := { b with v := b.v.setIfInBounds j x }
/-- A queue register's values. -/
def qGet (b : Bank) (i : Nat) : List W64 := if i = 0 then b.q0 else b.q1
/-- A queue register's depth. -/
def qDepth (b : Bank) (i : Nat) : Nat := if i = 0 then b.qd0 else b.qd1
/-- A bank with a queue register replaced. -/
def qSet (b : Bank) (i : Nat) (l : List W64) : Bank := if i = 0 then { b with q0 := l } else { b with q1 := l }

/-! ### Sources (R88) -/

/-- CTX (R54): bank, tile number, die, partition. -/
def ctxWord (s : State) (f : Firing) : W64 :=
  BitVec.ofNat 64 (f.bank + f.tile % 2048 * 4 + tileDie f.tile * 2 ^ 13 + tilePart s f.tile * 2 ^ 15)
/-- The layout version in force at a tile (R36). -/
def verAt (s : State) (tile : Nat) : BitVec 16 :=
  match tileRgn s tile with
  | some (_, r) => r.version
  | none => 0
/-- The read-ahead element that `lm` gives, if one can be taken (R222). -/
def lmNext (s : State) (tile : Nat) : Option (Option W512) :=
  match (tileOf s tile).rd.ahead with
  | (c, v) :: _ => if (tileOf s tile).rd.st = .run && decide (c ≤ s.cyc) then some v else none
  | [] => none
/-- The trigger channel's port, where it is one. For TCH = 6 and 7 it is an empty port, so HTAG, HPOS and HRANK read 0 in a slot with
TCH = 6, which R88 does not refuse (DESIGN CHOICE, log 90). -/
def trigPort (s : State) (f : Firing) : InPort :=
  if trTch f.trig ≤ 5 then inPortOf s (tileEp f.tile (trTch f.trig)) else inPort0
/-- The value of a control-plane source select (R88). -/
def ctlSrc (s : State) (f : Firing) (c : Nat) : W64 :=
  let t := tileOf s f.tile
  let b := bankOf t f.bank
  if c < 6 then ((tileHead s f.tile c).map fun h => h.pay.setWidth 64).getD 0
  else if c < 14 then kGet b (kIdx b (c - 6))
  else match c with
    | 14 => b.q0.headD 0
    | 15 => b.q1.headD 0
    | 16 => f.lit
    | 18 => BitVec.ofNat 64 ((((trigPort s f).queue.head?).map fun h => sideBits h.2).getD 0)
    | 19 => BitVec.ofNat 64 (trigPort s f).hpos
    | 20 => (trigPort s f).hrank.setWidth 64
    | 21 => ctxWord s f
    | 22 => cycW s
    | 23 => (verAt s f.tile).setWidth 64
    | 24 => (t.present.map (·.w0)).getD 0
    | 25 => (t.present.map fun p => if p.two then p.w1 else 0).getD 0
    | _ => 0
/-- The value of a data-plane source select (R88). -/
def dataSrc (s : State) (f : Firing) (c : Nat) : W512 :=
  let b := bankOf (tileOf s f.tile) f.bank
  if c < 6 then ((tileHead s f.tile c).map (·.pay)).getD 0
  else if c < 14 then vGet b (c - 6)
  else match c with
    | 14 => ((lmNext s f.tile).getD none).getD 0
    | 16 => rep8 f.lit
    | _ => 0
/-- The value of a source on its plane; a control-plane value stands in the low 64 bits. -/
def srcVal (s : State) (f : Firing) (data : Bool) (c : Nat) : W512 :=
  if data then dataSrc s f c else (ctlSrc s f c).setWidth 512

/-- What a firing reads at its start (R11): operands, the heads that A and B name, literal, mode word, predicates and the
tag that its tokens take. -/
structure Opnd where
  a : W512
  b : W512
  ha : Option Token
  hb : Option Token
  lit : W64
  mode : W64
  p : BitVec 4
  tag : BitVec 4
  deriving DecidableEq, Repr

/-- A's value on the control plane. -/
def Opnd.ka (o : Opnd) : W64 := o.a.setWidth 64
/-- B's value on the control plane. -/
def Opnd.kb (o : Opnd) : W64 := o.b.setWidth 64

/-- The operands of an instruction at a firing. -/
def readOpnd (s : State) (f : Firing) (i : Instr) : Opnd :=
  let n := info i
  let w := opnds i
  let bk := bankOf (tileOf s f.tile) f.bank
  let a := if n.ua then srcVal s f n.pa w.a.toNat else 0
  let b := srcVal s f n.pb w.b.toNat
  { a := a, b := if n.ub then b else 0,
    ha := if n.ua && decide (w.a.toNat < 6) then tileHead s f.tile w.a.toNat else none,
    hb := if n.ub && decide (w.b.toNat < 6) then tileHead s f.tile w.b.toNat else none,
    lit := f.lit, mode := bk.mode, p := bk.p,
    tag := tagRes w.t (ttag s f) (b.setWidth 4) (f.lit.setWidth 4) }

/-! ### Destinations (R89) -/

/-- The place a destination select names on its plane; a position of the lm write stream is reserved separately. -/
def dstOf (b : Bank) (data : Bool) (c : Nat) (tag : BitVec 4) : Dst :=
  if c < 5 then .out c tag
  else if c < 6 then .none
  else if c < 14 then (if data then .v (c - 6) else .k (kIdx b (c - 6)))
  else if c = 14 then (if data then .lm 0 0 0 else .q 0)
  else if c = 15 then (if data then .none else .q 1)
  else .none
/-- The output ports an instruction writes. -/
def outPorts (i : Instr) : List Nat :=
  let n := info i
  let w := opnds i
  if n.dst = .none then []
  else (List.range 5).filter fun j => w.d.toNat == j || w.e.toNat == j

end Sys2Proof.Machine
end

