-- ==== Sys2Proof/Machine/Streams.lean ====
section
/-! DEFINITION. Local memory and the two streams of a tile (R216 to R226): addresses, the words that `lm.ld` and `lm.st`
move, positions of the write stream, the read-ahead. -/
namespace Sys2Proof.Machine

/-- Where an address of a tile lies in its local memory: the live half where the tile is armed (R217). -/
def lmAddr (t : Tile) (a : Nat) : Nat :=
  match t.half with
  | none => a % 0x20000
  | some h => (if h then 0x10000 else 0) + a % 0x10000
/-- n bytes of local memory from an address that is a multiple of n. -/
def lmRead (t : Tile) (a n : Nat) : Nat := bytesGet t.lm (lmAddr t a) n
/-- Whether one of n bytes of local memory lies in a word with an uncorrectable error (R218). -/
def lmBad (t : Tile) (a n : Nat) : Bool :=
  t.bad.any fun w => decide (lmAddr t a ≤ w + 7) && decide (w < lmAddr t a + n)
/-- n bytes of local memory written; a word written whole has a good code again. -/
def lmWrite (t : Tile) (a x n : Nat) : Tile :=
  let p := lmAddr t a
  { t with lm := bytesSet t.lm p x n, bad := t.bad.filter fun w => !(decide (p ≤ w) && decide (w + 8 ≤ p + n)) }

/-- The byte address of a word of local memory (R225). -/
def lmWord8 (x : W64) : Nat := fld x 16 3 * 8
/-- The `lm.st` of the cycle that ends are performed, in firing order (R225, R226). -/
def lmStores (t : Tile) : Tile :=
  t.lmsts.foldl (fun u e => lmWrite u (lmWord8 (BitVec.ofNat 64 e.1)) e.2.toNat 8) { t with lmsts := [] }

/-- N0, N1 and N2 of a descriptor (R220). -/
def strN (w0 : W64) : Nat × Nat × Nat := (fld w0 11 0 + 1, fld w0 23 12 + 1, fld w0 35 24 + 1)
/-- Elements of a stream (R221). -/
def strCount (w0 : W64) : Nat := (strN w0).1 * (strN w0).2.1 * (strN w0).2.2
/-- Byte address of element j of a stream (R221), before R217. -/
def strAddr (w0 w1 : W64) (j : Nat) : Nat :=
  let (n0, n1, _) := strN w0
  let u : Int := (fld w0 46 36 : Int) + (j % n0 : Nat) * sxN (fld w1 15 0) 16
    + (j / n0 % n1 : Nat) * sxN (fld w1 31 16) 16 + (j / (n0 * n1) : Nat) * sxN (fld w1 47 32) 16
  64 * (u % 2048).toNat
/-- A descriptor with a reserved bit set (R220, R224). -/
def strBad (w0 w1 : W64) : Bool := fld w0 62 47 != 0 || fld w1 63 48 != 0

/-- Whether the write stream has a position to reserve (R223). -/
def lmRoom (st : Stream) : Bool :=
  st.st == .run && (!st.free.isEmpty || decide (st.next < strCount st.a0))
/-- The next position of the write stream reserved (R223): the lowest returned one, else the next never reserved. -/
def lmReserve (st : Stream) : Nat × Stream :=
  let n := strCount st.a0
  match st.free with
  | p :: l => (p, { st with free := l, j := st.j + 1, st := if st.j + 1 = n then .done else .run })
  | [] => (st.next, { st with next := st.next + 1, j := st.j + 1, st := if st.j + 1 = n then .done else .run })
/-- The read-ahead's first element taken (R222). -/
def lmPop (st : Stream) : Stream :=
  { st with ahead := st.ahead.drop 1, j := st.j + 1, st := if st.j + 1 = strCount st.a0 then .done else .run }
/-- A position put among the returned ones, lowest first. -/
def insertPos (l : List Nat) (p : Nat) : List Nat :=
  match l with
  | [] => [p]
  | q :: t => if p < q then p :: q :: t else q :: insertPos t p
/-- The write stream takes a token at a reserved position (R223). -/
def lmTake (t : Tile) (pos gen addr : Nat) (k : Kind) (x : W512) : Tile :=
  match k with
  | .data => lmWrite t addr x.toNat 64
  | .null => t
  | _ =>
    let w := if k = .err then { t.wr with errin := true } else t.wr
    if w.gen = gen then
      { t with wr := { w with free := insertPos w.free pos, j := w.j - 1, st := if w.st = .idle then .idle else .run } }
    else { t with wr := w }
/-- Whether an earlier firing of the tile has a write-stream token not yet written (R226). -/
def lmPending (t : Tile) : Bool :=
  t.jobs.any fun j => (match j.da with | .lm _ _ _ => true | _ => false) || (match j.db with | .lm _ _ _ => true | _ => false)
/-- Whether the read stream fetches in this cycle (R222). -/
def fetchDue (s : State) (t : Tile) : Bool :=
  t.rd.st == .run && decide (t.rd.start < s.cyc) && decide (t.rd.next < strCount t.rd.a0) && decide (t.rd.ahead.length < 4)
/-- The read stream with its next element fetched, ready three cycles later (R222). -/
def fetchNext (s : State) (t : Tile) : Tile :=
  let a := strAddr t.rd.a0 t.rd.a1 t.rd.next
  let v := if lmBad t a 64 then none else some (BitVec.ofNat 512 (lmRead t a 64))
  { t with rd := { t.rd with ahead := t.rd.ahead ++ [(s.cyc + 3, v)], next := t.rd.next + 1 } }
/-- `ss.go` of a stream (R224). -/
def strGo (st : Stream) (cyc : Nat) : Stream :=
  { st with a0 := st.w0, a1 := st.w1, st := .run, j := 0, next := 0, free := [], errin := false, ahead := [],
            gen := st.gen + 1, start := cyc }
/-- `ss.stop` of a stream (R224). -/
def strStop (st : Stream) : Stream := { st with st := .idle, ahead := [], free := [], gen := st.gen + 1 }
/-- `ss.stat` (R224). -/
def strStat (st : Stream) : W64 :=
  BitVec.ofNat 64 ((st.st == .run).toNat + 2 * (st.st == .done).toNat + 4 * st.errin.toNat
    + (st.j % 2 ^ 36) * 2 ^ 28)

end Sys2Proof.Machine
end

