-- ==== Sys2Proof/Machine/Home.lean ====
section
/-! DEFINITION. Homes (R294) and what is done at them: the forms of an address (R230, R269), the cache banks (R230), the
check against a line's race metadata (R316 to R325), the access itself (R295, R301 to R306), the order in which accesses
are performed (R296, R228, R235, R237, R413), page walks (R257), engines' writes (R431). -/
namespace Sys2Proof.Machine

/-! ### Address forms (R230, R269) -/

/-- An address operand by its form. -/
inductive Addr where
  | virt (va : Nat)
  | mt (m : Nat) (off : Nat)
  | lm (tile : Nat) (off : Nat)
  | bad
  deriving DecidableEq, Repr
/-- The form of an address operand (R230, R269). -/
def addrForm (x : W64) : Addr :=
  match fld x 63 60 with
  | 0 => if fld x 59 48 = 0 then .virt (fld x 47 0) else .bad
  | 15 =>
    let e := fld x 50 32
    if fld x 59 51 = 0 && fld x 31 20 = 0 && epEk e = 1 && epPort e = 0 && decide (epEn e < 256) then .mt (epMt e) (fld x 19 0)
    else .bad
  | 14 =>
    let e := fld x 50 32
    if fld x 59 51 = 0 && fld x 31 17 = 0 && epEk e = 0 && epPort e = 0 then .lm (epTile e) (fld x 16 0) else .bad
  | _ => .bad
/-- Role of a memory tile (R98): 0 addressed buffer, 1 token FIFO, 2 cache bank; none where its role word is not valid. -/
def mtRole (m : MTile) : Option Nat := if m.role.getLsbD 63 then some (fld m.role 62 61) else none
/-- Whether a memory tile is an addressed buffer. -/
def isBuffer (s : State) (m : Nat) : Bool := mtRole (mtileOf s m) == some 0
/-- Where offset a of a memory tile lies: the live half where it is armed (R381). -/
def mtAddr (m : MTile) (a : Nat) : Nat :=
  match m.half with
  | none => a
  | some h => (if h then 0x80000 else 0) + a % 0x80000
/-- A byte of physical memory's place by its address form (R406). -/
def physLoc (pa : Nat) : Loc := if pa / 2 ^ 50 = 1 then .remote (pa / 2 ^ 44 % 64) (pa % 2 ^ 39) else .phys pa
/-- The key of a byte's place, for lines and overlaps. -/
def locKey : Loc → Nat
  | .phys pa => pa
  | .mtile m o => 2 ^ 52 + m * 2 ^ 20 + o
  | .remote p a => 2 ^ 53 + p * 2 ^ 40 + a
  | .lm t o => 2 ^ 54 + t * 2 ^ 17 + o
/-- The synchronisation object of a byte's line (R314). -/
def lineObj (l : Loc) : ObjId := .line (locKey l / 128)

/-! ### Homes (R230, R294) -/

/-- The cache-bank tiles of a partition on a die, in order of number. -/
def cacheTiles (s : State) (pn d : Nat) : List Nat :=
  (s.mtiles.filter fun e => e.1 / 256 == d && mtRole e.2 == some 2 && mtileLive s e.1
    && (match e.2.rgn.bind (rgnOf s) with | some r => r.part == pn | none => false)).map (·.1)
/-- Die of an HBM address. -/
def hbmDie (pa : Nat) : Nat := pa / 2 ^ 31 / 64 % 4
/-- The cache bank that serves a line of HBM, with its set (R230), or none: the MIU serves it. -/
def homeBank (s : State) (pn pa : Nat) : Option (Nat × Nat) :=
  if isHbm pa then
    let l := cacheTiles s pn (hbmDie pa)
    (l[pa / 128 % l.length]?).map fun m => (m, pa / 128 / l.length % 512)
  else none
/-- The cluster that a home stands in or next to, for round trips (R229, R406). -/
def locCluster (s : State) (pn : Nat) : Loc → Nat
  | .mtile m _ => mtCluster m
  | .phys pa =>
    match homeBank s pn pa with
    | some (m, _) => mtCluster m
    | none => if isHbm pa then epCluster (agtEp (pa / 2 ^ 31 % 256) 0) else 0
  | .remote _ _ => 0
  | .lm t _ => tileCluster t
/-- The cluster that an agent stands in or next to. -/
def agentCluster : Agent → Nat
  | .bank t _ => tileCluster t
  | .walk a => epCluster (agtEp a 0)
  | .bte n _ => n
  | .disp d => d * 128
  | .ctl d => d * 128
  | _ => 0

/-! ### The cache banks and their metadata (R230, R317, R322) -/

/-- Lines a set holds. -/
def cacheWays : Nat := 16
/-- Where the carve-out holds the metadata of a line: the top 1/16 of its pseudo-channel, 8 bytes for each line below it, in line
order (R317). -/
def carveAddr (line : Nat) : Nat := line / 2 ^ 24 * 2 ^ 31 + 0x5A000000 + 8 * (line % 2 ^ 24)
/-- A line evicted from a cache bank: its metadata go to the carve-out (R317), or the summary of its page takes its writer (R322). Off,
nothing is kept (R323). -/
def noteEvict (s : State) (pn : Nat) (line : Nat) : State :=
  if partCarve (partOf s pn) then
    { s with lmeta := mapDel s.lmeta line,
             mem := if (partOf s pn).raceMode = 0 then s.mem else bytesSet s.mem (carveAddr line) (mapGet s.lmeta line 0).toNat 8 }
  else
    let m := mapGet s.lmeta line 0
    let page := line / 512
    let room := (mapFind s.sums page).isSome
      || decide ((s.sums.filter fun e => hbmDie (e.1 * 65536) == hbmDie (line * 128)).length < 65536)
    let sums := if lmWclk m != 0 && room then mapPut s.sums page (lmWid m, lmWclk m) else s.sums
    { s with sums := sums, lmeta := mapDel s.lmeta line }
/-- Whether a line is in a cache bank. -/
def cached (s : State) (pn pa : Nat) : Bool :=
  match homeBank s pn pa with
  | some (m, k) => (mapGet (mtileOf s m).sets k []).any fun l => l.line == pa / 128
  | none => false
/-- The metadata of a line that is filled into a cache bank: those of the carve-out (R317), or EMPTY where there is none (R322). -/
def metaFill (s : State) (pn line : Nat) : State :=
  if partCarve (partOf s pn) && (partOf s pn).raceMode != 0 then
    { s with lmeta := mapSet s.lmeta line (BitVec.ofNat 64 (physGet s (carveAddr line) 8)) 0 }
  else s
/-- A cache bank serves an access to a line: it allocates the line and replaces the one least recently accessed. -/
def cacheTouch (s : State) (pn pa : Nat) (write : Bool) : State :=
  match homeBank s pn pa with
  | none => s
  | some (m, k) =>
    let t := mtileOf s m
    let set := mapGet t.sets k []
    let old := ((set.find? fun l => l.line == pa / 128).map (·.dirty)).getD 0
    let d : BitVec 2 := if write then old ||| (1 : BitVec 2) <<< (pa / 64 % 2) else old
    let set' : List CLine := ⟨pa / 128, d⟩ :: set.filter fun l => l.line != pa / 128
    let s0 := if cached s pn pa then s else metaFill s pn (pa / 128)
    let s1 := setMTile s0 m { t with sets := mapSet t.sets k (set'.take cacheWays) [] }
    (set'.drop cacheWays).foldl (fun x l => noteEvict x pn l.line) s1
/-- The metadata of an HBM line: beside it in a cache bank that holds it, else in the carve-out (R317). -/
def hbmMeta (s : State) (pn line : Nat) : BitVec 64 :=
  if cached s pn (line * 128) then mapGet s.lmeta line 0 else BitVec.ofNat 64 (physGet s (carveAddr line) 8)
/-- An HBM line's metadata replaced. -/
def hbmMetaSet (s : State) (pn : Nat) (x : BitVec 64) (line : Nat) : State :=
  if cached s pn (line * 128) then { s with lmeta := mapSet s.lmeta line x 0 } else physSet s (carveAddr line) x.toNat 8
/-- A line's metadata, where the line has any at this moment (R317, R322). -/
def metaGet (s : State) (pn : Nat) : Loc → Option (BitVec 64)
  | .mtile m o => some (mapGet (mtileOf s m).lmeta (mtAddr (mtileOf s m) o / 128) 0)
  | .phys pa =>
    if isHbm pa && (partCarve (partOf s pn) || cached s pn pa) then some (hbmMeta s pn (pa / 128)) else none
  | _ => none
/-- A line's metadata replaced. -/
def metaSet (s : State) (pn : Nat) (x : BitVec 64) : Loc → State
  | .mtile m o =>
    let t := mtileOf s m
    setMTile s m { t with lmeta := mapSet t.lmeta (mtAddr t o / 128) x 0 }
  | .phys pa => hbmMetaSet s pn x (pa / 128)
  | _ => s

/-! ### The bytes of a home -/

/-- n bytes at a place. -/
def locGet (s : State) (l : Loc) (n : Nat) : Nat :=
  match l with
  | .phys pa => bytesGet s.mem pa n
  | .mtile m o => bytesGet (mtileOf s m).mem (mtAddr (mtileOf s m) o) n
  | .remote _ _ => 0
  | .lm t o => lmRead (tileOf s t) o n
/-- n bytes written at a place where the mask has a bit. What is stored over a link lies in the other package. -/
def locSet (s : State) (l : Loc) (x mask n : Nat) : State :=
  match l with
  | .phys pa => { s with mem := bytesMask s.mem pa x mask n }
  | .mtile m o =>
    let t := mtileOf s m
    setMTile s m { t with mem := bytesMask t.mem (mtAddr t o) x mask n }
  | .remote _ _ => s
  | .lm t o =>
    let u := tileOf s t
    setTile s t { u with lm := bytesMask u.lm (lmAddr u o) x mask n }
/-- Words with an uncorrectable error that n bytes at a place touch. -/
def badWords (s : State) (l : Loc) (n : Nat) : List Nat :=
  let hit := fun (b : List Nat) (a : Nat) => b.filter fun w => decide (a ≤ w + 7) && decide (w < a + n)
  match l with
  | .phys pa => hit s.memBad pa
  | .mtile m o => hit (mtileOf s m).bad (mtAddr (mtileOf s m) o)
  | .remote _ _ => []
  | .lm t o => hit (tileOf s t).bad (lmAddr (tileOf s t) o)
/-- Words that a write has written whole have a good code again. -/
def clearBad (s : State) (l : Loc) (mask n : Nat) : State :=
  let keep := fun (b : List Nat) (a : Nat) =>
    b.filter fun w => !(decide (a ≤ w) && decide (w + 8 ≤ a + n) && mask / 2 ^ (w - a) % 256 == 255)
  match l with
  | .phys pa => { s with memBad := keep s.memBad pa }
  | .mtile m o => let t := mtileOf s m; setMTile s m { t with bad := keep t.bad (mtAddr t o) }
  | .remote _ _ => s
  | .lm t o => let u := tileOf s t; setTile s t { u with bad := keep u.bad (lmAddr u o) }

/-! ### Atomics (R305, R306) -/

/-- The new memory value of an atomic on n bytes (R305): old value m, operand b. -/
def amoNew (op : Nat) (sg : Bool) (n m b : Nat) : Nat :=
  let w := 8 * n
  let less := if sg then decide (sxN m w < sxN b w) else decide (m < b)
  match op with
  | 0 => (m + b) % 2 ^ w
  | 1 =>
    let f : Fmt := if n = 4 then .f32 else .f64
    let v := (faddV 0 (fval f m) (fval f b)).1
    (fout false v.1 v.2 f 0).1
  | 2 => if less then m else b
  | 3 => if less then b else m
  | 4 => m &&& b
  | 5 => m ||| b
  | 6 => m ^^^ b
  | _ => b
/-- What an access leaves at its bytes, old value m: the new value and the mask written. -/
def accNew (op : AccOp) (n m d : Nat) : Option (Nat × Nat) :=
  match op with
  | .read => none
  | .write mask => some (d, mask.toNat)
  | .amo k sg => some (amoNew k sg n m (d % 2 ^ (8 * n)), 2 ^ n - 1)
  | .cas e => if m = e.toNat % 2 ^ (8 * n) then some (d % 2 ^ (8 * n), 2 ^ n - 1) else none
  | .ringRead => none
  | .ringWrite => some (d, 2 ^ n - 1)
  | .ringAdv _ _ => none
/-- Kind of an access for the race checker. -/
def accKind : AccOp → AccKind
  | .read => 0
  | .ringRead => 0
  | .write _ => 1
  | .ringWrite => 1
  | _ => 2

/-! ### Race records (R325) -/

/-- Endpoint of a BTE (R267). -/
def bteEp (n : Nat) : Nat := tileEp (clusterTile n 0) 0
/-- Element field of a race record. -/
def raceElem (a : Acc) : Nat :=
  match a.agent with
  | .bank t b => trapElem t b a.who.2.1 a.who.2.2
  | .walk n => agtEp n 0
  | .bte n ch => bteEp n + ch * 2 ^ 19
  | _ => 0
/-- Issuer code of a race record. -/
def raceIssuer : Agent → Nat
  | .bank _ _ => 0
  | .walk _ => 1
  | .bte _ _ => 2
  | _ => 3
/-- Whether an access's holder is a region instance: so too of an access that a dispatcher or a region controller makes as the holder of
an instance (R311). -/
def isRgnHolder (s : State) (a : Acc) : Bool :=
  match a.agent with
  | .bank _ _ => true
  | .walk _ => true
  | .ctl _ | .disp _ => (rgnOf s a.rgn).any fun r => r.holder == a.holder
  | _ => false
/-- The address of a line, in the physical or memory-tile form. -/
def lineAddr : Loc → Nat
  | .phys pa => pa / 128 * 128
  | .mtile m o => 15 * 2 ^ 60 + mtEp m 0 * 2 ^ 32 + o / 128 * 128
  | .remote p a => 2 ^ 50 + p * 2 ^ 44 + a / 128 * 128
  | .lm _ _ => 0
/-- A race record (R325). -/
def raceRec (s : State) (a : Acc) (kind : Nat) (m : BitVec 64) (h : RaceHit) : BitVec 512 :=
  let ver := if isRgnHolder s a then ((rgnOf s a.rgn).map fun r => r.version.toNat).getD 0 else 0
  let det := match a.agent with
    | .walk _ => a.pos
    | .bte _ _ => a.pos
    | _ => 0
  recOf [(0, 2, kind), (2, 2, ver), (4, 4, a.rgn % 2 ^ 32), (8, 4, raceElem a), (12, 2, 0xF01),
    (14, 1, accKind a.op + 4 * h.other + 16 * lmMode m + 64 * raceIssuer a.agent),
    (15, 1, accScope (agentPlace a.agent) (locPlace a.loc) + 4 * lmScope m), (16, 2, a.holder), (18, 2, h.holder),
    (20, 4, h.clk), (24, 4, h.known), (32, 8, lineAddr a.loc), (40, 8, a.addr.toNat), (48, 8, det), (56, 8, s.cyc)]

/-! ### An access at its home (R295, R316) -/

/-- An access to be filled in. -/
def acc0 : Acc :=
  { id := 0, agent := .place, holder := 0, part := 0, rgn := 0, op := .read, addr := 0, loc := .phys 0, size := 0, data := 0,
    ring := none, rel := none, acq := none, due := 0, port := none, done := false, val := 0, ok := true, cause := 0,
    back := 0, toward := .none, signed := false, pos := 0, who := (0, 0, 0), race := none }
/-- Where a ring access of a slot falls at this moment (R236): base + ((sz * (count mod ns) + off) mod (sz * ns)). -/
def ringOff (w : W64) (count off n : Nat) : Nat :=
  let ns := fld w 62 57 + 1
  let sz := 64 * (fld w 56 51 + 1)
  64 * fld w 50 37 + (sz * (count % ns) + off / n * n) % (sz * ns)
/-- The place of an access, resolved: a ring access takes the tile's count as it stands (R236). -/
def accLoc (s : State) (a : Acc) : Loc :=
  match a.ring with
  | some (_, m, r) =>
    let x := mapGet (mtileOf s m).rings r ⟨0, 0, 0⟩
    (match a.op with
     | .ringRead => .mtile m (ringOff x.word x.c a.addr.toNat a.size)
     | .ringWrite => .mtile m (ringOff x.word x.p a.addr.toNat a.size)
     | _ => a.loc)
  | none => a.loc
/-- The outcome of a race check: the state with its records, and whether the access is stopped, with its record. -/
def raceCheck (s : State) (a : Acc) : State × Option (BitVec 512) :=
  let p := partOf s a.part
  if p.raceMode = 0 then (s, none)
  else
    let pl := agentPlace a.agent
    match metaGet s a.part a.loc with
    | some m =>
      (match raceHit p m a.holder pl (locPlace a.loc) (accKind a.op) with
       | none => (s, none)
       | some h =>
         let port := match a.agent with
           | .host _ => true
           | .debug => true
           | _ => false
         if p.raceMode = 1 && !port then (s, some (raceRec s a 0x50 m h))
         else (raceRecord s a.part (raceRec s a 0x51 m h), none))
    | none =>
      (match a.loc with
       | .phys pa =>
         if isHbm pa then
           (match mapFind s.sums (pa / 65536) with
            | some (w, c) =>
              if w != a.holder && !covers p a.holder w c then
                (raceRecord s a.part (raceRec s a 0x52 0 ⟨1, w, c, holderV p a.holder w⟩), none)
              else (s, none)
            | none => (s, none))
         else (s, none)
       | _ => (s, none))
/-- The metadata after an access has been performed (R319). -/
def raceNote (s : State) (a : Acc) : State :=
  let p := partOf s a.part
  if p.raceMode = 0 then s
  else match metaGet s a.part a.loc with
    | some m => metaSet s a.part (raceMeta p m a.holder (agentPlace a.agent) (locPlace a.loc) (accKind a.op)) a.loc
    | none => s
/-- Whether an access that meets an uncorrectable error is stopped by it (R218, R238, R310): a read, and a group 12 write. -/
def errStops (a : Acc) : Bool :=
  match a.op with
  | .write _ => (match a.agent with | .bank _ _ => true | _ => false)
  | .ringWrite => false
  | _ => true
/-- The stack of a physical address in HBM: two to a die (R15). -/
def stackOf (pa : Nat) : Nat := pa / 2 ^ 31 % 256 / 32
/-- Whether an access to a physical address goes to an HBM stack: no cache bank holds its line. -/
def toStack (s : State) (pn pa : Nat) : Bool := isHbm pa && !cached s pn pa
/-- A request wakes the stack that it goes to, and its time without a request begins again (R428). -/
def stackWake (s : State) (pn pa : Nat) : State :=
  if toStack s pn pa then
    modDie s (stackOf pa / 2) fun d =>
      { d with selfRef := d.selfRef.filter (· != stackOf pa), stackAt := mapPut d.stackAt (stackOf pa) s.cyc }
  else s
/-- An access performed at its home as one step: an acquire joins, the race check, the bytes, the metadata, a release. -/
def homeAccess (s : State) (a0 : Acc) : State × Acc :=
  let a := { a0 with loc := accLoc s a0 }
  let pl := agentPlace a.agent
  let s1 := match a.acq with
    | some sc => clkAcquire s a.part a.holder (lineObj a.loc) sc pl (some (locPlace a.loc))
    | none => s
  match raceCheck s1 a with
  | (s2, some r) => (s2, { a with done := true, ok := false, cause := 0xF01, race := some r })
  | (s2, none) =>
    let s3 := match a.loc with
      | .phys pa => cacheTouch (stackWake s2 a.part pa) a.part pa (accKind a.op != 0)
      | _ => s2
    if errStops a && !(badWords s3 a.loc a.size).isEmpty then
      (errNote (raceNote s3 a) a.loc, { a with done := true, ok := false, cause := 0xA06 })
    else
      let m := locGet s3 a.loc a.size
      let s4 := match accNew a.op a.size m a.data.toNat with
        | some (x, mask) => clearBad (locSet s3 a.loc x mask a.size) a.loc mask a.size
        | none => s3
      let s5 := raceNote s4 a
      let s6 := match if a.op = .read then none else a.rel with
        | some sc => clkRelease s5 a.part a.holder (lineObj a.loc) sc pl
        | none => s5
      (s6, { a with done := true, val := BitVec.ofNat 1024 m })

/-! ### Issue and order (R296) -/

/-- A link (R413). -/
def linkOf (s : State) (l : Nat) : Link := mapGet s.host.links l ⟨0, 0, false⟩
/-- A link replaced. -/
def setLink (s : State) (l : Nat) (x : Link) : State := modHost s fun h => { h with links := mapPut h.links l x }
/-- The link port that carries traffic to a package (R403). -/
def linkFor (s : State) (p : Nat) : Nat := (mapGet s.host.route p 0).toNat % 32
/-- A request wakes the stack or link that it goes to (R428): the cycles of the wake, and the state. -/
def powerTouch (s : State) (pn : Nat) (l : Loc) : Nat × State :=
  match l with
  | .phys pa =>
    (if toStack s pn pa && (dieOf s (stackOf pa / 2)).selfRef.contains (stackOf pa) then 1050 else 0, stackWake s pn pa)
  | .remote p _ =>
    let n := linkFor s p
    let x := linkOf s n
    (if x.lanesIdle then 5250 else 0, setLink s n { x with last := s.cyc, lanesIdle := false })
  | _ => (0, s)
/-- The cycles by which an access may reach its home later than its round trip gives: none at a memory tile, whose bank
conflicts and full queues the model shows, nor at a cache bank that holds the line (R229, R301). -/
def accDelay (s : State) (pn : Nat) (l : Loc) : Nat × State :=
  match l with
  | .mtile _ _ => (0, s)
  | .phys pa => if cached s pn pa then (0, s) else freeDelay s
  | _ => freeDelay s
/-- An access issued: it gets an id, the earliest cycle in which its home can perform it, and its way back (R229, R301). -/
def accIssue (s : State) (a : Acc) (extra : Nat) : Nat × State :=
  let (id, s1) := freshId s
  let (d, s2) := accDelay (powerTouch s1 a.part a.loc).2 a.part a.loc
  let rt := roundTrip s (agentCluster a.agent) (locCluster s a.part a.loc) + extra
  (id, { s2 with accs := s2.accs ++
    [{ a with id := id, due := s.cyc + rt / 2 + (powerTouch s1 a.part a.loc).1 + d, back := rt - rt / 2 - 1 }] })
/-- Whether a physical address lies in a fenced pseudo-channel. -/
def deadPa (s : State) (pa : Nat) : Bool := isHbm pa && !pchanLive s (pa / 2 ^ 31 % 256)
/-- Whether a home is on a fenced unit. -/
def deadLoc (s : State) (l : Loc) : Bool :=
  match l with
  | .phys pa => deadPa s pa
  | .mtile m _ => !mtileLive s m
  | .remote p _ => !linkLive s (linkFor s p)
  | .lm t _ => !tileLive s t
/-- The object that a launch's release goes to until its sequence number is known. -/
def launchObj (tile job : Nat) : ObjId := .launch (2 ^ 80 + tile * 2 ^ 40 + job)
/-- Whether an access has been performed. One stopped by a race has not. -/
def performed (a : Acc) : Bool := a.done && !(a.cause == 0xF01)
/-- Whether two accesses touch a common byte. -/
def overlap (a b : Acc) : Bool :=
  decide (locKey a.loc < locKey b.loc + b.size) && decide (locKey b.loc < locKey a.loc + a.size)
/-- The tile and handle of a ring access. -/
def ringKey (a : Acc) : Option (Nat × Nat) :=
  match a.agent, a.ring with
  | .bank t _, some (h, _, _) => some (t, h)
  | _, _ => none
/-- Whether an access has its address fixed at issue. -/
def hasAddr (a : Acc) : Bool := a.ring.isNone
/-- Whether two accesses are remote stores to one package (R413). -/
def sameLink (a b : Acc) : Bool :=
  match a.loc, b.loc with
  | .remote p _, .remote q _ => p == q
  | _, _ => false
/-- Whether an earlier access of its agent must be performed before this one (R296, R228, R235, R237, R413). -/
def waitsFor (a x : Acc) : Bool :=
  x.agent == a.agent && !performed x
    && ((hasAddr x && hasAddr a && overlap x a)
        || (match a.rel with
            | some sc => inScope sc (agentPlace a.agent) (locPlace x.loc)
            | none => false)
        || sameLink a x)
    || (!performed x && (ringKey a).isSome && ringKey a == ringKey x)
/-- Whether an access is held back by the order of R296, or a release by the clock window (R321). -/
def accBlocked (s : State) (a : Acc) : Bool :=
  s.accs.any (fun x => decide (x.id < a.id) && waitsFor a x)
    || (a.rel.isSome && !clockRoom (partOf s a.part) a.holder)
/-- Whether an access of an agent with an id below n, and its home in the agent's instance of a scope, is not performed. -/
def pendingBelow (s : State) (ag : Agent) (n sc : Nat) : Bool :=
  s.accs.any fun x => decide (x.id < n) && x.agent == ag && !performed x && inScope sc (agentPlace ag) (locPlace x.loc)
/-- Whether a release that waits to be performed can be now: every access that its agent issued before it, in scope, is performed, and
its holder's clock has room (R296 item 3, R321). -/
def owedDue (s : State) (o : Owed) : Bool :=
  !pendingBelow s o.agent o.before o.scope && clockRoom (partOf s o.part) o.holder
/-- A release performed. -/
def owedPerform (s : State) (o : Owed) : State := clkRelease s o.part o.holder o.obj o.scope (agentPlace o.agent)
/-- A release of an agent towards an object: performed at once where nothing keeps it, or once nothing does. -/
def releaseLater (s : State) (o : Owed) : State := if owedDue s o then owedPerform s o else { s with owed := s.owed ++ [o] }
/-- Whether a release to an object, issued below an access id, is still to be performed. -/
def owes (s : State) (i : ObjId) (n : Nat) : Bool := s.owed.any fun o => o.obj == i && decide (o.before ≤ n)
/-- The waiting releases that can be performed are, in order of issue. -/
def owedTick (s : State) : State :=
  s.owed.foldl (fun x o => if owedDue x o then owedPerform x o else { x with owed := x.owed ++ [o] }) { s with owed := [] }
/-- The number that stands for the request ring among the host-written rings: one more than any work queue's. -/
def reqRingNo : Nat := 8192
/-- The doorbell write that brought an entry of a host-written ring. -/
def doorOf (s : State) (ring i : Nat) : Option Nat := (mapGet s.host.doors ring []).find? fun pi => decide (i < pi)
/-- A doorbell write of a ring, a release at system scope by the host (R405): by the holder of each of some work queues. -/
def doorRing (s : State) (ring pi : Nat) (l : List (Nat × Nat × Nat)) : State :=
  l.foldl (fun x (q, p, h) => releaseLater x { agent := .host q, before := 0, part := p, holder := h, obj := .door ring pi, scope := 3 })
    (modHost s fun y => { y with doors := mapPut y.doors ring (mapGet y.doors ring [] ++ [pi]) })
/-- The doorbell writes of a ring whose entries below `n` are all that they brought are forgotten. -/
def doorsDone (s : State) (ring n : Nat) : State :=
  let l := mapGet s.host.doors ring []
  let s1 := (l.filter fun pi => decide (pi ≤ n)).foldl (fun x pi =>
    (List.range 16).foldl (fun y p => clkForget y p (.door ring pi)) x) s
  modHost s1 fun y => { y with doors := mapPut y.doors ring (l.filter fun pi => decide (n < pi)) }
/-- An access by its id. -/
def accOf (s : State) (id : Nat) : Option Acc := s.accs.find? fun a => a.id == id
/-- An access replaced. -/
def accPut (s : State) (a : Acc) : State := { s with accs := s.accs.map fun x => if x.id = a.id then a else x }
/-- An access removed. -/
def accDel (s : State) (id : Nat) : State := { s with accs := s.accs.filter fun x => x.id != id }
/-- Whether the issuer still needs an access once it has been performed: a value, or a failure. -/
def answered (a : Acc) : Bool := a.toward != .none || !a.ok
/-- The port of a memory tile that a requester's requests take (R228): one requester, one port. -/
def mtPort (a : Acc) : Nat :=
  match a.agent, a.ring with
  | .bank t _, some (h, _, _) => (t + h) % 4
  | .bank t b, none => (t + b) % 4
  | .bte n ch, _ => (n + ch) % 4
  | .walk n, _ => n % 4
  | _, _ => 0
/-- Memory tile whose banks serve an access: an addressed buffer its bytes, a cache bank its lines (R227, R230, R294). -/
def accTile (s : State) (a : Acc) : Option Nat :=
  match a.loc with
  | .mtile m _ => some m
  | .phys pa => (homeBank s a.part pa).map (·.1)
  | _ => none
/-- Whether an access is performed by a bank of a memory tile from a port's queue: every one to bytes that it holds (R227). -/
def viaPort (s : State) (a : Acc) : Bool :=
  (match a.op with
   | .ringAdv _ _ => false
   | _ => true) && ((accTile s a).isSome || a.port.isSome)
/-- Bank of a memory tile that an access wants (R227). DESIGN CHOICE (log 119): a cached line's sector stands in the bank that bits
[9:6] of its address name. -/
def mtBank (s : State) (a : Acc) : Nat :=
  match accLoc s a with
  | .mtile m o => mtAddr (mtileOf s m) o / 64 % 16
  | .phys pa => pa / 64 % 16
  | _ => 0
/-- Memory tile of an access. -/
def accMt (s : State) (a : Acc) : Nat := (accTile s a).getD 0
/-- A memory tile can serve: not clock gated. -/
def mtWakes (s : State) (m : MTile) : Bool := !m.gated && decide (m.wake ≤ s.cyc)
/-- A request that may enter its port's queue does so; a full queue leaves it on its way (R227). -/
def mtAdmit (s : State) : State :=
  s.accs.foldl (fun st a =>
    if viaPort st a && !a.done && a.port.isNone && decide (a.due ≤ st.cyc + 1) && !accBlocked st a then
      let m := mtileOf st (accMt st a)
      let q := mapGet m.pq (mtPort a) []
      if q.length < 8 then
        accPut (setMTile st (accMt st a) { m with pq := mapPut m.pq (mtPort a) (q ++ [a.id]) }) { a with port := some (mtPort a) }
      else st
    else st) s
/-- The access that a port of a memory tile may have served in this cycle: the head of its queue, where the bank it wants is free and the
port has had none; a release waits for its clock (R321). -/
def mtWants (s : State) (mt port : Nat) : Option Acc :=
  let m := mtileOf s mt
  match (mapGet m.pq port []).head?.bind (accOf s) with
  | some a =>
    if m.served.contains (mtBank s a) || m.served.contains (16 + port) || (a.rel.isSome && !clockRoom (partOf s a.part) a.holder) then none
    else some a
  | none => none
/-- The port that a bank serves: the first in rotating order, from the one after that served last, whose head wants it (R227). -/
def bankPort (s : State) (mt bank : Nat) : Option Nat :=
  ((List.range 4).map fun i => (mapGet (mtileOf s mt).rot bank 3 + 1 + i) % 4).find? fun p =>
    (mtWants s mt p).any fun a => mtBank s a == bank
/-- The access that a port has served now. -/
def mtHead (s : State) (mt port : Nat) : Option Acc :=
  match mtWants s mt port with
  | some a => if mtWakes s (mtileOf s mt) && bankPort s mt (mtBank s a) == some port then some a else none
  | none => none
/-- Whether an access that no port serves can be performed now. -/
def accReady (s : State) (a : Acc) : Bool :=
  !a.done && !viaPort s a && decide (a.due ≤ s.cyc) && !accBlocked s a

/-! ### Translation (R257, R260) -/

/-- A TLB entry that serves a read or a write of a page. -/
def dieHit (s : State) (d pn vp : Nat) (write : Bool) : Option Nat :=
  match tlbFind (dieOf s d).tlb pn vp with
  | some e => if write && !e.w then none else some e.pp
  | none => none
/-- Whether a walk of a page is in progress on a die. -/
def walkHas (s : State) (d pn vp : Nat) : Bool := s.walks.any fun w => w.die == d && w.part == pn && w.vp == vp
/-- A walk asked for: one in progress for the page is joined, whichever access asked for it (R257); nothing happens where every
walker of the die is taken. -/
def walkAsk (s : State) (d pn vp : Nat) (write : Bool) (who : Walker) : State :=
  if walkHas s d pn vp then
    { s with walks := s.walks.map fun w =>
        if w.die = d && w.part = pn && w.vp = vp && !w.who.contains (who, write) then { w with who := w.who ++ [(who, write)] } else w }
  else if 64 ≤ (s.walks.filter fun w => w.die == d).length then s
  else
    let (id, s1) := freshId s
    let (dl, s2) := freeDelay s1
    { s2 with walks := s2.walks ++ [{ id := id, die := d, part := pn, vp := vp, who := [(who, write)], due := s.cyc + 1 + dl }] }
/-- The die TLB with a translation entered (R257). -/
def dieEnter (s : State) (d : Nat) (e : TlbEnt) : State := modDie s d fun x => { x with tlb := tlbEnter x.tlb e 16384 }
/-- The level at which a walk of a page ends, and the entry it reads there. -/
def leafAt (s : State) (base vp : Nat) : Nat → Nat × Nat
  | 0 => (1, 0)
  | lv + 1 =>
    let e := physGet s (tableEntry base (lv + 1) vp) 8
    if !e.testBit 0 || e.testBit 3 || lv = 0 then (lv + 1, e) else leafAt s (pteAddr e) vp lv
/-- The reason and entry of a page of form 0b01, a bad entry for an AGT, a BTE and a launch (R406). -/
def linkBad (s : State) (pn vp : Nat) (write : Bool) : Nat × Nat :=
  let r := leafAt s (partRoot (partOf s pn)) vp 4
  (reasonBits write false false true false r.1, r.2)
/-- A page walked at once by an engine under the service mode, by the table entries as they stand, and entered in its die's TLB (R257,
R262, R266). A page in another package is a bad entry for it (R406). -/
def walkNow (s : State) (d pn vp : Nat) (write : Bool) : State × WalkRes :=
  match walkServed s pn vp write with
  | (.ok pp w, s1) =>
    if linkPage pp then
      let l := linkBad s1 pn vp write
      (s1, .fail l.1 l.2 (l.1 / 32) 0)
    else (dieEnter s1 d ⟨pn, vp, pp, w⟩, .ok pp w)
  | (r, s1) => (s1, r)
/-- A page translated at once by an engine, through its die's TLB or a walk (R272, R431). No TLB serves a page in another
package (R406). -/
def xlateNow (s : State) (d pn vp : Nat) (write : Bool) : State × WalkRes :=
  match tlbFind (dieOf s d).tlb pn vp with
  | some e => if (write && !e.w) || linkPage e.pp then walkNow s d pn vp write else (s, .ok e.pp e.w)
  | none => walkNow s d pn vp write
/-! ### Engines' accesses -/

/-- An engine's write of n bytes at a place, made at once, in pieces of one line each. The race outcome of each piece is
its own: a piece stopped by a race is not written, and its record goes to the fault ring (R323). -/
def enginePieces (s : State) (a : Acc) (pa x : Nat) : Nat → Nat → State × Bool
  | 0, _ => (s, true)
  | _ + 1, 0 => (s, true)
  | k + 1, n =>
    let m := min n (128 - pa % 128)
    let (s1, b) := homeAccess s { a with loc := .phys pa, size := m, data := BitVec.ofNat 1024 x, op := .write (BitVec.allOnes 128) }
    let s2 := match b.race with
      | some r => faultRecord s1 a.part a.agent r
      | none => s1
    let (s3, ok) := enginePieces s2 { a with addr := a.addr + BitVec.ofNat 64 m } (pa + m) (x / 2 ^ (8 * m)) k (n - m)
    (s3, ok && b.ok)
/-- A read of n bytes at a physical address made at once, in pieces of one line each: what a race checker records of it (R311, R323). -/
def readPieces (s : State) (a : Acc) (pa : Nat) : Nat → Nat → State
  | 0, _ => s
  | _ + 1, 0 => s
  | k + 1, n =>
    let m := min n (128 - pa % 128)
    readPieces (homeAccess s { a with loc := .phys pa, size := m, op := .read }).1 { a with addr := a.addr + BitVec.ofNat 64 m } (pa + m) k
      (n - m)
/-- An engine's write of a record or word at a virtual address (R431): made, as a release where `a` says so, or an
ENGINE_WRITE record in its place. -/
def engineWrite (s : State) (a : Acc) (d va x n elem engine kind : Nat) : State × Bool :=
  let (s1, r1) := xlateNow s d a.part (va / 4096) true
  let (s2, r2) := if va / 4096 = (va + n - 1) / 4096 then (s1, r1) else xlateNow s1 d a.part ((va + n - 1) / 4096) true
  match r1, r2 with
  | .ok p1 _, .ok p2 _ =>
    let m := min n (4096 - va % 4096)
    let b := { a with addr := BitVec.ofNat 64 va }
    let (s3, ok1) := enginePieces s2 b (p1 * 4096 + va % 4096) x (m + 1) m
    let (s4, ok2) := enginePieces s3 { b with addr := BitVec.ofNat 64 (va + m) } (p2 * 4096) (x / 2 ^ (8 * m)) (n - m + 1) (n - m)
    (s4, ok1 && ok2)
  | .fail r _ _ _, _ => (engineFail s2 a va x r elem engine kind, false)
  | _, .fail r _ _ _ => (engineFail s2 a va x r elem engine kind, false)
where
  /-- The ENGINE_WRITE record (R431). -/
  engineFail (s : State) (a : Acc) (va x r elem engine kind : Nat) : State :=
    faultRecord s a.part a.agent (recOf [(0, 2, 0xC0), (2, 2, r), (4, 4, a.rgn % 2 ^ 32), (8, 4, elem), (12, 1, engine), (13, 1, kind),
      (16, 8, va), (24, 8, x), (56, 8, s.cyc)])

end Sys2Proof.Machine
end

