-- ==== Sys2Proof/Machine/Copies.lean ====
section
/-! DEFINITION. The bytes of a block transfer (R270 to R273): units read and written through the homes, and every access
performed with what follows from it at once. -/
namespace Sys2Proof.Machine

/-- The target tiles of a copy into local memory, in bit order (R273). -/
def bteTargets (n : Nat) (c : BteCmd) : List Nat :=
  if c.mcast != 0 then ((List.range 16).filter fun b => c.mcast.getLsbD b).map (clusterTile n)
  else match addrForm c.dst with
    | .lm t _ => [t]
    | _ => []
/-- The place of a byte of an operand: its virtual pages as translated when the command began. -/
def bteLoc (x : W64) (pages : SMap Nat) (tile : Option Nat) (off : Nat) : Loc :=
  match addrForm x with
  | .virt va => .phys (mapGet pages ((va + off) / 4096) 0 * 4096 + (va + off) % 4096)
  | .mt m o => .mtile m (o + off)
  | .lm t o => .lm (tile.getD t) (o + off)
  | .bad => .phys 0
/-- An access of a channel at an offset of its copy. -/
def bteAcc (s : State) (n ch : Nat) (r : BteRun) (op : AccOp) (x : W64) (loc : Loc) (off size data k : Nat) : Acc :=
  let c := bteOf s n ch
  { acc0 with agent := .bte n ch, holder := c.holder, part := c.rgn.getD 0 / 2 ^ 32, rgn := c.rgn.getD 0, op := op,
              addr := x + BitVec.ofNat 64 off, loc := loc, size := size, data := BitVec.ofNat 1024 data, toward := .bte n ch,
              pos := r.cmd.seq, who := (off, k, 0) }
/-- The parts of m bytes at an offset of an operand, each within one line: offset and size. -/
def linePieces (x : W64) (off m : Nat) : List (Nat × Nat) :=
  let k := min m (128 - (x.toNat + off) % 128)
  if k = m then [(off, m)] else [(off, k), (off + k, m - k)]
/-- Bytes of a unit of a copy. -/
def unitBytes (r : BteRun) (u : Nat) : Nat := min 64 (r.cmd.len - 64 * u)
/-- Units of a copy that a channel reads ahead of their writes. -/
def bteWindow : Nat := 8
/-- Whether a channel's copy has a unit to read: all of them, where source and destination overlap, before any is written. -/
def readDue (c : BteCh) : Bool :=
  match c.run with
  | some r => decide (r.next < r.units) && (r.hold || decide (r.live.length < bteWindow))
  | none => false
/-- The reads of the next unit issued. -/
def bteRead (s : State) (n ch : Nat) : State :=
  let c := bteOf s n ch
  match c.run with
  | some r =>
    if r.next < r.units then
      let u := r.next
      let l := linePieces r.cmd.src (64 * u) (unitBytes r u)
      let r1 := { r with next := u + 1, live := r.live ++ [⟨u, l.length, 0, false⟩] }
      l.foldl (fun st p => (accIssue st (bteAcc st n ch r .read r.cmd.src (bteLoc r.cmd.src r.smap none p.1) p.1 p.2 0 0) 0).2)
        (setBte s n ch { c with run := some r1 })
    else s
  | none => s
/-- The writes of a unit to every target issued. -/
def bteWrite (s : State) (n ch : Nat) (r : BteRun) (u : BteUnit) : State :=
  let ts : List (Option Nat) := match bteTargets n r.cmd with
    | [] => [none]
    | l => l.map some
  ts.zipIdx.foldl (fun st (t, k) =>
    (linePieces r.cmd.dst (64 * u.unit) (unitBytes r u.unit)).foldl (fun st p =>
      (accIssue st (bteAcc st n ch r (.write (BitVec.ofNat 128 (2 ^ p.2 - 1))) r.cmd.dst (bteLoc r.cmd.dst r.dmap t p.1) p.1 p.2
        (u.data.toNat >>> (8 * (p.1 - 64 * u.unit))) k) 0).2) st) s
/-- The units that can be written now: read whole, and, where source and destination overlap, every unit read. -/
def bteReady (r : BteRun) : List BteUnit :=
  if r.hold && !(r.next == r.units && r.live.all (·.left == 0)) then [] else r.live.filter (·.left == 0)
/-- A unit that an uncorrectable error leaves unwritten (R272). -/
def bteUncorr (r : BteRun) (u : BteUnit) : BteRun :=
  let a := (r.cmd.dst + BitVec.ofNat 64 (64 * u.unit)).toNat
  { r with status := if r.status = 0 then 0xA06 else r.status, addr := if r.status = 0xA06 then min r.addr a else if r.status = 0 then a else r.addr }
/-- A channel's first unit that is ready leaves it: its writes are issued, or it is lost (R272). -/
def bteDrain (s : State) (n ch : Nat) : State :=
  let c := bteOf s n ch
  match c.run with
  | some r =>
    (match bteReady r with
     | u :: _ =>
       let r1 := { r with live := r.live.filter fun v => v.unit != u.unit }
       if u.bad then setBte s n ch { c with run := some (bteUncorr r1 u) }
       else bteWrite (setBte s n ch { c with run := some r1 }) n ch r u
     | [] => s)
  | none => s
/-- The channels of a BTE that have a unit to move, in rotating order from the one after that moved last (R270). -/
def bteTurn (s : State) (n : Nat) (f : BteCh → Bool) : Option Nat :=
  let r := mapGet (dieOf s (n / 128)).bteRot n 15
  ((List.range 16).map fun i => (r + 1 + i) % 16).find? fun ch => f (bteOf s n ch)
/-- One unit of a BTE moved by the channel whose turn it is. -/
def bteMove (s : State) (n : Nat) (f : BteCh → Bool) (g : State → Nat → Nat → State) : State :=
  match bteTurn s n f with
  | some ch => g (modDie s (n / 128) fun d => { d with bteRot := mapPut d.bteRot n ch }) n ch
  | none => s
/-- A BTE in a cycle (R270): at most 256 bytes, so four units of 64 bytes, written, and as many read ahead of their writes. -/
def bteMoves (s : State) (n : Nat) : State :=
  let s1 := (List.range 4).foldl (fun x _ => bteMove x n (fun c => c.run.any fun r => !(bteReady r).isEmpty) bteDrain) s
  (List.range 4).foldl (fun x _ => bteMove x n readDue bteRead) s1
/-- Every BTE in a cycle. -/
def btesMove (s : State) : State := ((s.btes.map fun e => e.1 / 16).eraseDups).foldl bteMoves s
/-- A unit with the bytes of a read that has been performed. -/
def unitTake (a : Acc) (u : BteUnit) : BteUnit :=
  if u.unit = a.who.1 / 64 then
    { u with left := u.left - 1, data := u.data ||| BitVec.ofNat 512 (a.val.toNat <<< (8 * (a.who.1 % 64))), bad := u.bad || !a.ok }
  else u
/-- What an access of a copy brings once it is performed: bytes of a unit, a write done, or the end by a race (R324),
whose Address names the line of the first. -/
def bteDeliver (s : State) (n ch : Nat) (a : Acc) : State :=
  let s1 := accDel s a.id
  let c := bteOf s1 n ch
  match c.run with
  | none => s1
  | some r =>
    match a.race with
    | some rec =>
      let r1 := if r.status = 0xF01 then r
        else { r with status := 0xF01, addr := a.addr.toNat / 128 * 128, next := r.units, live := [] }
      faultRecord (setBte s1 n ch { c with run := some r1 }) a.part (.bte n ch) rec
    | none =>
      if accKind a.op = 0 then
        setBte s1 n ch { c with run := some { r with live := r.live.map (unitTake a) } }
      else if a.who.2.1 = 0 then setBte s1 n ch { c with run := some { r with bytes := r.bytes + a.size } }
      else s1
/-- The release of a launch (R343), once every part of its descriptor's read, and so every write before it, is performed. -/
def launchRel (s : State) (a : Acc) : State :=
  match a.agent, a.toward with
  | .bank t _, .launch j =>
    if a.ok && !s.accs.any (fun x => x.id != a.id && x.agent == a.agent && x.toward == a.toward && !performed x) then
      clkRelease s a.part a.holder (launchObj t j) 2 (tilePlace t)
    else s
  | _, _ => s
/-- An access performed at its home, with what its issuer does at once. -/
def performAcc (s : State) (a : Acc) : State :=
  let (s0, b) := homeAccess s a
  let s1 := launchRel (match a.loc with
    | .remote p _ => setLink s0 (linkFor s0 p) { linkOf s0 (linkFor s0 p) with retries := 0, last := s.cyc }
    | _ => s0) b
  match b.toward with
  | .bte n ch => bteDeliver s1 n ch b
  | _ => if answered b then accPut s1 { b with back := s.cyc + b.back } else accDel s1 b.id

end Sys2Proof.Machine
end

