-- ==== Sys2Proof/Machine/Channels.lean ====
section
/-! DEFINITION. Operations on ports and channels (02_execution_model.md): writability and requests (R48, R49), tokens
entering a channel (R45, R46, R133), enqueue with coalescing and block length (R42, R82), dequeue with its counts
(R60, R88, R357). -/
namespace Sys2Proof.Machine

/-- Rank of a MARK (R41). -/
def markRank (t : Token) : Nat := t.pay.toNat % 8
/-- A MARK token of a rank. -/
def markTok (rank : Nat) (tag : BitVec 4) : Token := ⟨.mark, tag, BitVec.ofNat 512 (rank % 8)⟩
/-- The payload of an ERR token: cause in [15:0], detail in [63:16] (R41). -/
def errPay (cause detail : Nat) : W512 := BitVec.ofNat 512 (cause + detail % 2 ^ 48 * 2 ^ 16)

/-- Whether a consumer takes its tokens from the fan-out itself: attached, and no copy of a cloned operator, whose tokens
its steering unit hands out (R364). -/
def plainCons (x : Cons) : Bool := x.attached && x.copy.isNone
/-- Requests pending from a cloned operator as written (R35): those of all its copies. -/
def opPend (c : Chan) (op : Nat) : Nat :=
  c.cons.foldl (fun n x => if x.attached && x.copy == some op then n + x.pend else n) 0
/-- Whether a steering unit can take one more token, with q tokens before it: a free place, and a request of its operator
that no token before takes (R48, R364). -/
def unitTakes (c : Chan) (q : Nat) (u : Nat × List Token) : Bool :=
  decide (u.2.length + q < 4) && decide (u.2.length + q < opPend c u.1)
/-- Whether a cloned operator takes tokens of a channel: it is not detached (R50). -/
def unitOn (c : Chan) (op : Nat) : Bool := c.cons.any fun x => x.attached && x.copy == some op
/-- Whether every attached consumer has a pending request, and one is attached (R48, R49, R50): a cloned operator is one
consumer. `q` tokens in line before have taken their requests from every consumer but the cloned operators. -/
def consReady (c : Chan) (q : Nat) : Bool :=
  c.cons.any (·.attached) && c.cons.all (fun x => !plainCons x || decide (1 ≤ x.pend)) 
    && c.steer.all (fun u => !unitOn c u.1 || unitTakes c q u)
/-- Whether a channel takes its tokens at a gate: a closed gate, or one still holding tokens (R371). -/
def atGate (c : Chan) : Bool := c.closed || !c.gateq.isEmpty || decide (1 ≤ c.owed)
/-- The clone record of an operator in a channel's region. -/
def cloneOf (s : State) (rgn op : Nat) : Option Clone :=
  (rgnOf s rgn).bind fun r => r.clones.find? fun c => c.op == op
/-- Whether a channel can take one more token from an output port with q tokens already in line (R48, R366, R371). -/
def chanTakes (s : State) (c : Chan) (ep q : Nat) : Bool :=
  match c.merge with
  | some op =>
    match cloneOf s c.rgn op with
    | some cl => decide ((mapGet cl.outs (epTile ep) []).length + q < 4)
    | none => false
  | none =>
    if atGate c then decide (c.gateq.length + q < 4)
    else if 1 ≤ c.d then decide (1 ≤ c.lpend) else consReady c q
/-- Whether an output port is writable (R48). -/
def outWritable (s : State) (ep : Nat) : Bool :=
  let p := outPortOf s ep
  match p.chan.bind (chanOf s) with
  | some c => chanTakes s c ep p.outq.length
  | none => false
/-- One pending request consumed from each consumer that the fan-out reaches itself (R48). A cloned operator's is taken from
the copy that its steering unit gives the token to. -/
def fanConsume (c : Chan) : Chan :=
  { c with cons := c.cons.map fun x => if plainCons x then { x with pend := x.pend - 1 } else x }
/-- One pending request consumed for a token past the gate (R48). -/
def passConsume (c : Chan) : Chan := if 1 ≤ c.d then { c with lpend := c.lpend - 1 } else fanConsume c
/-- What a token put in line takes from its channel: the requests of R48, or nothing yet where a gate or a merge unit
will take them. -/
def chanConsume (c : Chan) : Chan :=
  if c.merge.isSome then c
  else if atGate c then { c with owed := c.owed + 1 }
  else passConsume c
/-- The requests of an output port's next token taken (R48, R133). -/
def takeRequest (s : State) (ep : Nat) : State :=
  match (outPortOf s ep).chan with
  | some k => match chanOf s k with
    | some c => setChan s k (chanConsume c)
    | none => s
  | none => s
/-- The chunk that an output of a copy of a cloned operator counts towards, by its place among the copy's chunks, at the firing
`j` that writes it: the present one, up to the firing that dequeues its last token, then the next (R366); of a keyed operator,
that of the last token consumed (R367). -/
def outOrd (c : Clone) (n j : Nat) : Nat :=
  let a := mapGet c.at_ n ⟨0, 0, 0⟩
  match c.cls with
  | .keyed _ _ _ => if a.deq = 0 then a.ord - 1 else a.ord
  | _ =>
    match c.chunks.find? fun k => k.toward.any fun x => x.1 == n && x.2.1 == a.ord with
    | some k => if k.ended && decide (k.len ≤ a.deq) && a.job != j then a.ord + 1 else a.ord
    | none => a.ord
/-- That place for an output port: 0 where its channel has no merge unit. -/
def outOrdOf (s : State) (ep j : Nat) : Nat :=
  match (outPortOf s ep).chan.bind (chanOf s) with
  | some c => ((c.merge.bind (cloneOf s c.rgn)).map fun k => outOrd k (epTile ep) j).getD 0
  | none => 0
/-- A token put in line at an output port: known, or to be known when job `j` is written (R133). -/
def queueOut (s : State) (ep j : Nat) (t : Option Token) : State :=
  let p := outPortOf s ep
  setOutPort s ep { p with outq := p.outq ++ [⟨j, t, outOrdOf s ep j⟩] }
/-- The token of job j in line at an output port becomes known. -/
def fillOut (s : State) (ep j : Nat) (t : Token) : State :=
  let p := outPortOf s ep
  setOutPort s ep { p with outq := p.outq.map fun o => if o.job = j && o.tok.isNone then { o with tok := some t } else o }
/-- The token of job j in line at an output port is withdrawn: the firing writes none. -/
def dropOut (s : State) (ep j : Nat) : State :=
  let p := outPortOf s ep
  let s1 := setOutPort s ep { p with outq := p.outq.filter fun o => !(o.job == j && o.tok.isNone) }
  match p.chan with
  | some k => match chanOf s k with
    | some c => if p.outq.any fun o => o.job == j && o.tok.isNone then setChan s1 k { c with owed := c.owed - 1 } else s1
    | none => s1
  | none => s1
/-- Cycles between an element and a consumer of a channel, in either direction (R45). The merge unit of a cloned operator
stands at the downstream input port (R365): one cycle away, as a request and its token take it (DEDUCED, log 107). -/
def chanRoute (s : State) (c : Chan) (src ep : Nat) : Nat := if c.merge.isSome then 1 else route s src ep
/-- Cycles from a copy of a cloned operator to the merge unit of its channel: to the farthest consumer's port (R45). -/
def mergeRoute (s : State) (c : Chan) (ep : Nat) : Nat :=
  c.cons.foldl (fun m x => max m (route s ep x.ep)) 1
/-- A token sent from an element to every attached consumer of a channel (R45): on its way, or into the steering units of
cloned operators. -/
def sendAll (s : State) (c : Chan) (src : Nat) (t : Token) : Chan :=
  { c with cons := c.cons.map (fun x =>
             if plainCons x then { x with toks := x.toks ++ [(s.cyc + chanRoute s c src x.ep, t)] } else x),
           steer := c.steer.map fun u => if unitOn c u.1 then (u.1, u.2 ++ [t]) else u }
/-- A token from an element passes a channel's gate: into the delay line, or on its way to the consumers (R46). -/
def passTok (s : State) (c : Chan) (src : Nat) (t : Token) : Chan :=
  let c := { c with passed := c.passed + 1 }
  if 1 ≤ c.d then { c with line := c.line ++ [t.pay] } else sendAll s c src t
/-- Whether a token past the gate has its requests (R48). -/
def passReady (c : Chan) : Bool := if 1 ≤ c.d then decide (1 ≤ c.lpend) else consReady c 0
/-- A token that leaves output port `ep` enters its channel (R46, R133): the merge unit, the gate, the delay line, or
the way to the consumers. DRAIN needs no request, and a delay line discards it (R376). -/
def enterChan (s : State) (k ep ord : Nat) (t : Token) : State :=
  match chanOf s k with
  | none => s
  | some c =>
    match c.merge with
    | some op => modRgn s c.rgn fun r => { r with clones := r.clones.map fun cl =>
        if cl.op = op then
          let n := epTile ep
          { cl with outs := mapPut cl.outs n (mapGet cl.outs n [] ++ [(ord, s.cyc + mergeRoute s c ep, t)]) }
        else cl }
    | none =>
      if t.kind = .drain then
        if atGate c then setChan s k { c with gateq := c.gateq ++ [t] }
        else if 1 ≤ c.d then s else setChan s k (sendAll s c ep t)
      else if atGate c then setChan s k { c with gateq := c.gateq ++ [t], owed := c.owed - 1 }
      else setChan s k (passTok s c ep t)

/-- Whether a token counts as data of a block (R82). -/
def isDataNull (k : Kind) : Bool := k == .data || k == .null
/-- The last token of a queue replaced. -/
def setLast (q : List (Nat × Token)) (t : Nat × Token) : List (Nat × Token) := q.dropLast ++ [t]
/-- The tag and token that an input port of a folded-in operator enqueues (R369): BANK b, or ERR FOLD_TAG. -/
def foldIn (b : Nat) (t : Token) : Token :=
  let tag := BitVec.ofNat 4 (b * 4 + t.tag.toNat % 4)
  if t.tag.toNat / 4 = 0 then { t with tag := tag } else ⟨.err, tag, errPay 7 (sideBits t)⟩
/-- The count of an edge's block after a token, and whether the token is one too many (R82). -/
def blockRun (blk run : Nat) (t : Token) : Nat × Bool :=
  if isDataNull t.kind && decide (1 ≤ blk) then (if blk ≤ run then (0, true) else (run + 1, false))
  else (if t.kind = .mark then 0 else run, false)
/-- The token that an input port enqueues for an arriving one (R82, R369), with the port's run count: the block counts the tokens
that the edge carries. DESIGN CHOICE (log 108): a token that is one too many for its block and also has BANK other than 0
at a moved port becomes ERR FOLD_TAG. -/
def arriving (s : State) (ep blk run : Nat) (t : Token) : Token × Nat :=
  let r := blockRun blk run t
  let u : Token := if r.2 then ⟨.err, t.tag, errPay 3 blk⟩ else t
  (if epEk ep = 0 then
      (match mapFind (tileOf s (epTile ep)).moveIn (epPort ep) with
       | some b => foldIn b (if t.tag.toNat / 4 = 0 then u else t)
       | none => u)
    else u, r.1)
/-- A token enqueued at an input port (R42, R82): a MARK joins a MARK that is last in the queue. -/
def enqueueTok (s : State) (ep blk : Nat) (t : Token) : State :=
  let p := inPortOf s ep
  let (t, run) := arriving s ep blk p.run t
  match p.queue.getLast?, t.kind with
  | some (c, l), .mark =>
    if l.kind = .mark then
      setInPort s ep { p with queue := setLast p.queue (c, markTok (max (markRank l) (markRank t)) l.tag), run := run }
    else setInPort s ep { p with queue := p.queue ++ [(s.cyc, t)], run := run }
  | _, _ => setInPort s ep { p with queue := p.queue ++ [(s.cyc, t)], run := run }

/-- The port as written of an input port (R35): the original's where its tile holds a copy, the moved operator's where a
fold has moved it. -/
def writtenPort (r : Region) (ep : Nat) : Nat :=
  match r.clones.find? fun c => epEk ep == 0 && c.copies.contains (epTile ep) with
  | some c => c.op + epPort ep
  | none =>
    (r.folds.findSome? fun f => (r.img.folds[f.idx]?).bind fun v =>
      (v.remap.find? fun m => m.2.1 == ep && !m.2.2).map (·.1)).getD ep
/-- A MARK of a rank counted by the sinks at a port (R60). -/
def countSinks (l : List Sink) (ep : Nat) (t : Token) : List Sink :=
  if t.kind = .mark then
    l.map fun k => if k.ep = ep && decide (k.rank ≤ markRank t) then { k with seen := k.seen + 1 } else k
  else l
/-- A barometer with one more token dequeued (R357). -/
def baroTok (m : SMap Baro) (ep : Nat) : SMap Baro :=
  let b := mapGet m ep baro0
  mapPut m ep { b with tok := b.tok + 1 }
/-- A copy of a cloned operator has dequeued one more token of its chunk, at firing `j` (R366). -/
def copyDeq (l : List Clone) (ep j : Nat) : List Clone :=
  l.map fun c =>
    if c.copies.contains (epTile ep) && epEk ep = 0 && c.inPort = epPort ep then
      let g := mapGet c.at_ (epTile ep) ⟨0, 0, 0⟩
      { c with at_ := mapPut c.at_ (epTile ep) { g with deq := g.deq + 1, job := j } }
    else c
/-- A sink's dequeue starts a critical-path walk when one is due (R420). -/
def pathStart (s : State) (k : Nat) (r : Region) (ep : Nat) : State :=
  let p := partOf s r.part
  let period := fld p.traceCtl 31 16
  let sink := (r.sinks[fld p.traceCtl 15 11]?).map (·.ep)
  if period != 0 && fld p.traceCtl 63 32 == r.id && sink == some (writtenPort r ep) && decide (p.pathDue ≤ s.cyc) then
    setPart s r.part { p with pathAt := some (k, ep), pathDue := s.cyc + period * 1050 }
  else s
/-- The head of an input port dequeued, with its counts: HPOS and HRANK (R88), sinks (R60), barometer (R357). -/
def deqHead (s : State) (ep : Nat) : State :=
  let p := inPortOf s ep
  match p.queue with
  | [] => s
  | (_, t) :: q =>
    let hpos := if isDataNull t.kind then p.hpos + 1 else if t.kind = .mark then 0 else p.hpos
    let hrank := if t.kind = .mark then BitVec.ofNat 3 (markRank t) else p.hrank
    let s1 := setInPort s ep { p with queue := q, hpos := hpos, hrank := hrank }
    match p.chan.bind (chanOf s) with
    | none => s1
    | some c =>
      match rgnOf s c.rgn with
      | none => s1
      | some r =>
        let baros := if t.kind = .drain then r.baros else baroTok r.baros ep
        let r1 := { r with sinks := countSinks r.sinks (writtenPort r ep) t, baros := baros, clones := if t.kind = .drain then r.clones else copyDeq r.clones ep (tileOf s (epTile ep)).njob }
        pathStart (setRgn s1 c.rgn r1) c.rgn r ep

end Sys2Proof.Machine
end

