-- ==== Sys2Proof/Machine/Holds.lean ====
section
/-! DEFINITION. What holds an instruction (R24, R56 item 8) beyond its operands and destinations. -/
namespace Sys2Proof.Machine

/-- Whether an instruction enters the matrix command queue. -/
def isMatrix (i : Instr) : Bool :=
  match i with
  | .mmaBf16 _ _ _ _ => true
  | .mmaF32 _ _ _ _ => true
  | .mmaF64 _ _ _ _ => true
  | .mmaCb4 _ _ _ _ => true
  | .mmaSpBf16 _ _ _ _ _ => true
  | .mmaSpCb4 _ _ _ _ _ => true
  | .mpl _ _ _ _ => true
  | .mcb _ _ _ _ _ => true
  | .accZero _ _ _ => true
  | .accRd _ _ _ _ => true
  | .accWr _ _ _ _ => true
  | .accCp _ _ _ => true
  | .sacc _ _ _ _ _ => true
  | _ => false
/-- Whether an instruction works on a ring handle. -/
def isRing (i : Instr) : Bool :=
  match i with
  | .ringBind _ => true
  | .ringWaitf _ _ _ => true
  | .ringWaite _ _ _ => true
  | .ringAdvp _ => true
  | .ringAdvc _ => true
  | .ringRd _ _ _ _ => true
  | .ringWr _ _ _ => true
  | .ringRdv _ _ _ _ => true
  | .ringWrv _ _ _ => true
  | _ => false
/-- The handle that a ring instruction's literal names (R235). -/
def handleOf (t : Tile) (lit : W64) : Handle := t.handles.getD (lit.toNat % 8) handle0
/-- The ring word of a handle's ring. -/
def ringWordOf (s : State) (h : Handle) : Option W64 := h.ring.map fun r => (mapGet (mtileOf s r.1).rings r.2 ⟨0, 0, 0⟩).word
/-- Slots of a ring (R233). -/
def ringSlots (w : W64) : Nat := fld w 62 57 + 1
/-- Bytes of a slot (R233). -/
def ringSlotBytes (w : W64) : Nat := 64 * (fld w 56 51 + 1)
/-- Filled slots of a view or a ring (R232). -/
def ringFilled (p c : Nat) : Nat := (p + 2 ^ 16 - c) % 2 ^ 16
/-- The count n of a ring wait or advance (R235). -/
def ringN (lit : W64) : Nat := fld lit 14 8
/-- Whether a ring wait is still held by its handle's view (R236); one that will trap is not. -/
def ringWaitHeld (s : State) (t : Tile) (lit : W64) (full : Bool) : Bool :=
  let h := handleOf t lit
  match ringWordOf s h with
  | none => false
  | some w =>
    let ns := ringSlots w
    let x := ringFilled h.p h.c
    decide (ringN lit ≤ ns) && (if full then decide (x < ringN lit) else decide (ns - x < ringN lit))
/-- Holds that need no operand. -/
def heldStatic (s : State) (f : Firing) (i : Instr) : Bool :=
  let t := tileOf s f.tile
  (isRing i && (handleOf t f.lit).busy)
    || (match i with
        | .modeRd _ _ _ => t.jobs.any fun j => j.bank == f.bank
        | .lmLd _ _ _ _ => lmPending t
        | .cfgSel _ _ => (tileRgn s f.tile).any fun x => x.2.rewire.any fun w => w.step == 3 && w.writes.contains f.tile
        | .ringWaitf _ _ _ => ringWaitHeld s t f.lit true
        | .ringWaite _ _ _ => ringWaitHeld s t f.lit false
        | _ => false)

/-! ### Heads that are not data (R166, R300) -/

/-- The token that stands for the heads of A and B where one of them is not DATA (R166). -/
def skipToken (i : Instr) (o : Opnd) : Option Token :=
  let l := [o.ha, o.hb].filterMap id
  if (info i).noDeq || l.all (fun h => h.kind == .data) then none
  else match l.find? fun h => h.kind == .err with
    | some h => some h
    | none =>
      if l.any fun h => h.kind == .mark then
        some (markTok ((l.filter fun h => h.kind == .mark).foldl (fun m h => max m (markRank h)) 0) o.tag)
      else some ⟨.null, o.tag, 0⟩
/-! ### Group 12 (R299, R300) -/

/-- What an instruction asks of memory: which operand is the address, bytes, and what the access is and does. -/
structure MemForm where
  addrB : Bool := false
  size : Nat
  write : Bool := false
  store : Bool := false            -- a store that answers nothing
  op : Opnd → AccOp := fun _ => .read
  rel : Option Nat := none
  acq : Option Nat := none
  desc : Bool := false             -- the read of a launch descriptor
  link : Nat := 0                  -- a page of a linked package: 0 MEM_ADDR, 1 reached over a valid route, 2 a bad entry
/-- Bytes of an access (R299). -/
def memSize (lit : W64) : Nat := 2 ^ fld lit 1 0
/-- Mask of a store of n bytes. -/
def storeMask (n : Nat) : BitVec 128 := BitVec.ofNat 128 (2 ^ n - 1)
/-- An atomic (R305). -/
def amoForm (k : Nat) (sc : BitVec 2) (lit : W64) : MemForm :=
  { size := memSize lit, write := true, op := fun _ => .amo k (lit.getLsbD 4), rel := some sc.toNat, acq := some sc.toNat }
/-- A store (R301, R302). -/
def storeForm (lit : W64) (rel : Option Nat) (link : Nat) : MemForm :=
  { addrB := true, size := memSize lit, write := true, store := true, op := fun _ => .write (storeMask (memSize lit)),
    rel := rel, link := link }
/-- The memory form of an instruction: group 12, and the descriptor reads of group 14 (R342). -/
def memForm (i : Instr) (lit : W64) : Option MemForm :=
  match i with
  | .ld _ _ _ _ => some { size := memSize lit }
  | .st _ _ _ => some (storeForm lit none 1)
  | .ldAcq sc _ _ _ _ => some { size := memSize lit, acq := some sc.toNat }
  | .stRel sc _ _ _ => some (storeForm lit (some sc.toNat) (if sc == 3 then 1 else 0))
  | .amoAdd sc _ _ _ _ _ => some (amoForm 0 sc lit)
  | .amoFadd sc _ _ _ _ _ => some (amoForm 1 sc lit)
  | .amoMin sc _ _ _ _ _ => some (amoForm 2 sc lit)
  | .amoMax sc _ _ _ _ _ => some (amoForm 3 sc lit)
  | .amoAnd sc _ _ _ _ _ => some (amoForm 4 sc lit)
  | .amoOr sc _ _ _ _ _ => some (amoForm 5 sc lit)
  | .amoXor sc _ _ _ _ _ => some (amoForm 6 sc lit)
  | .amoExch sc _ _ _ _ _ => some (amoForm 7 sc lit)
  | .amoCas sc _ _ _ _ _ => some { amoForm 7 sc lit with op := fun _ => .cas 0 }
  | .launch _ _ _ _ => some { size := 64, rel := some 2, desc := true, link := 2 }
  | .launchTry _ _ _ _ => some { size := 64, rel := some 2, desc := true, link := 2 }
  | _ => none
/-- The outcome of the checks of R300: where the access falls and the cycles its translation adds, a trap, or a page to
wait for. -/
inductive MemCk where
  | ok (loc : Loc) (extra : Nat)
  | trap (cause : Nat) (detail : W64)
  | wait (vp : Nat)
  deriving DecidableEq, Repr
/-- A translated address of a PE: form 0b01 is reached by `st` and `st.rel.sys` over a valid route only (R413); for a
launch it is a bad entry (R406). -/
def physCheck (s : State) (pn : Nat) (x : W64) (link va pa : Nat) : MemCk :=
  match physLoc pa with
  | .remote p a =>
    if link = 2 then .trap 0xC02 (BitVec.ofNat 64 (va + (linkBad s pn (va / 4096) false).1 % 256 * 2 ^ 48))
    else if link = 1 && (mapGet s.host.route p 0).getLsbD 7 then
      (if linkLive s (linkFor s p) then .ok (.remote p a) 12 else .trap 0xC03 (BitVec.ofNat 64 p))
    else .trap 0xC01 x
  | l => if isHbm pa && !pchanLive s (pa / 2 ^ 31 % 256) then .trap 0x10A x else .ok l 12
/-- The address checks of R300, in order, for an access of a tile of n bytes. -/
def memCheck (s : State) (tile : Nat) (x : W64) (n : Nat) (write : Bool) (link : Nat) : MemCk :=
  if x.toNat % n != 0 then .trap 0xC01 x
  else match addrForm x with
    | .bad => .trap 0xC01 x
    | .lm _ _ => .trap 0xC01 x
    | .mt m off =>
      if !partMt (partOf s (tilePart s tile)) m then .trap 0x109 x
      else if !mtileLive s m then .trap 0x10A x
      else if isBuffer s m then .ok (.mtile m off) 0 else .trap 0xC01 x
    | .virt va =>
      match dieHit s (tileDie tile) (tilePart s tile) (va / 4096) write with
      | some pp => physCheck s (tilePart s tile) x link va (pp * 4096 + va % 4096)
      | none =>
        match (tileOf s tile).xfails.find? fun e => e.page == va / 4096 && e.write == write with
        | some e => .trap 0xC02 (BitVec.ofNat 64 (va + e.reason % 256 * 2 ^ 48))
        | none => .wait (va / 4096)
/-- Bytes of a launch descriptor that lie in the aligned 64-byte unit of its address. The read of a descriptor that lies across
two units is made as two accesses. -/
def descHead (x : W64) : Nat := 64 - x.toNat % 64
/-- The address of a descriptor's second part. -/
def descNext (x : W64) : W64 := x + BitVec.ofNat 64 (descHead x)
/-- Whether a descriptor runs past the end of the memory that its address names. -/
def descOver (x : W64) : Bool :=
  match addrForm x with
  | .mt _ off => decide (2 ^ 20 < off + 64)
  | .virt va => decide (2 ^ 48 < va + 64)
  | _ => false
/-- R300's checks of a descriptor read, which names no size that its address must be a multiple of (R342): of both its pages. -/
def descCheck (s : State) (tile : Nat) (x : W64) : MemCk :=
  if descOver x then .trap 0xC01 x
  else match memCheck s tile x 1 false 2 with
    | .ok l e =>
      if descHead x = 64 then .ok l e
      else (match memCheck s tile (descNext x) 1 false 2 with
        | .ok _ _ => .ok l e
        | c => c)
    | c => c
/-- The address operand of a memory instruction. -/
def memAddr (m : MemForm) (o : Opnd) : W64 := if m.addrB then o.kb else o.ka
/-- The outcome of R300's checks for a firing, if its heads are data. -/
def firingCheck (s : State) (f : Firing) (i : Instr) : Option MemCk :=
  match memForm i f.lit with
  | none => none
  | some m =>
    let o := readOpnd s f i
    if (skipToken i o).isSome then none else some (if m.desc then descCheck s f.tile o.ka else memCheck s f.tile (memAddr m o) m.size m.write m.link)
/-- The holder, partition and key of a tile's region. -/
def tileHolder (s : State) (tile : Nat) : Nat × Nat × Nat :=
  match tileRgn s tile with
  | some (k, r) => (r.holder, r.part, k)
  | none => (0, tilePart s tile, 0)
/-- Whether a tile's holder has room in its clock window for a release (R321). -/
def roomFor (s : State) (tile : Nat) : Bool :=
  clockRoom (partOf s (tileHolder s tile).2.1) (tileHolder s tile).1
/-- Whether an instruction releases (R307). -/
def releases (i : Instr) : Bool :=
  match i with
  | .fence _ _ => true
  | .stRel _ _ _ _ => true
  | .ringAdvp _ => true
  | .ringAdvc _ => true
  | .bteCopy _ _ _ _ _ => true
  | .bteCopyMx _ _ _ _ _ => true
  | .bteTail _ _ => true
  | .futRes _ _ _ => true
  | .futFault _ _ _ => true
  | .launch _ _ _ _ => true
  | .launchTry _ _ _ _ => true
  | _ => (memForm i 0).any fun m => m.rel.isSome
/-- Whether a fence of a bank waits: an access in scope not performed, or a direct copy it issued not reported (R304). -/
def fenceHeld (s : State) (f : Firing) (sc : Nat) : Bool :=
  pendingBelow s (.bank f.tile f.bank) s.nid sc
    || s.btes.any fun c => (c.2.q.any fun x => !x.chain && x.bank == f.tile * 4 + f.bank)
        || c.2.rep.any (fun r => !r.cmd.chain && r.cmd.bank == f.tile * 4 + f.bank)
        || (match c.2.run with | some r => !r.cmd.chain && r.cmd.bank == f.tile * 4 + f.bank | none => false)
/-- The channel that a BTE instruction's literal names (R282). -/
def chanFor (s : State) (f : Firing) : BteCh := bteOf s (tileCluster f.tile) (fld f.lit 27 24)
/-- Whether `bte.prom` answers for a sequence number (R286). -/
def promKnown (c : BteCh) (n : Nat) : Bool := n != 0 && decide (n ≤ c.issued) && decide (c.issued ≤ n + 63)
/-- The watch of a tile on a future, once its report has arrived (R347). -/
def watchSeen (s : State) (tile : Nat) (id : W64) : Option W64 :=
  ((tileOf s tile).watches.find? fun w => w.fut == id.toNat && decide (w.due ≤ s.cyc)).bind (·.seen)
/-- Whether a group of an id has an open collective that awaits a context's arrival (R349). -/
def awaits (s : State) (id : W64) (c : Nat) : Bool :=
  let g := mapGet (dieOf s (fld id 13 12)).grps (fld id 11 0) grp0
  g.live && fld id 31 14 == g.gen && fld id 63 32 == 0
    && g.insts.any fun i => i.snap.contains c && !i.arr.any fun a => a.tile * 4 + a.bank == c
/-- Whether an arrival of a firing's context at a group is still on its way (R23). -/
def onWay (s : State) (id : W64) (f : Firing) : Bool :=
  s.arrivals.any fun a => a.grp == id.toNat && a.tile == f.tile && a.bank == f.bank
/-- Whether the engine that an instruction commands cannot accept the command (R24): the tile's matrix queue, a BTE channel's
queue, or a channel with as many entries unreported as it can have. -/
def engineFull (s : State) (f : Firing) (i : Instr) : Bool :=
  (isMatrix i && decide (8 ≤ (tileOf s f.tile).cmdq.length))
    || (match i with
        | .bteCopy _ _ _ _ _ => decide (16 ≤ (chanFor s f).q.length)
        | .bteCopyMx _ _ _ _ _ => decide (16 ≤ (chanFor s f).q.length)
        | .bteAppend _ _ _ _ => decide ((chanFor s f).done + 4096 ≤ (chanFor s f).issued)
        | _ => false)
/-- Holds of an instruction by the clock window of its holder, by the memory system or by an engine that cannot accept it
(R24, R304, R321): those that depend on no operand. -/
def heldEngine (s : State) (f : Firing) (i : Instr) : Bool :=
  (releases i && !roomFor s f.tile) || engineFull s f i
    || (match i with
        | .fence sc _ => fenceHeld s f sc.toNat
        | .xdVer _ _ _ _ => fld f.lit 9 8 == 1
            && (s.xtabs.any fun x => x.part == (tileHolder s f.tile).2.1 && x.tab == fld f.lit 5 0) && !roomFor s f.tile
        | _ => false)
/-- Holds that depend on the values of the operands. -/
def heldOperand (s : State) (f : Firing) (i : Instr) : Bool :=
  (match firingCheck s f i with | some (.wait _) => true | _ => false)
    || (match i with
        | .bteProm _ _ _ _ => promKnown (chanFor s f) (readOpnd s f i).ka.toNat && decide ((chanFor s f).view.1 < (readOpnd s f i).ka.toNat)
        | .sleepUntil _ _ => decide (s.cyc < (readOpnd s f i).ka.toNat)
        | .futWait _ _ _ _ => (watchSeen s f.tile (readOpnd s f i).ka).isNone
        | .join _ _ _ _ => onWay s (readOpnd s f i).ka f
        | .leave _ _ => awaits s (readOpnd s f i).ka (f.tile * 4 + f.bank) || onWay s (readOpnd s f i).ka f
        | .xdVer _ _ _ _ =>
          (match s.xtabs.find? fun x => x.part == (tileHolder s f.tile).2.1 && x.tab == fld f.lit 5 0 with
           | some x => fld f.lit 9 8 == 2 && decide (x.merged < (readOpnd s f i).ka.toNat)
           | none => false)
        | .bteSeq _ _ _ _ => decide ((chanFor s f).view.2 < (readOpnd s f i).ka.toNat)
        | _ => false)
/-- Holds beyond those of the tile itself. -/
def heldDynamic (s : State) (f : Firing) (i : Instr) : Bool := heldEngine s f i || heldOperand s f i

/-- A watch of a tile on a future, if there is room for one (R347): it can report after a round trip. -/
def watchPut (s : State) (tile : Nat) (id : W64) : State :=
  let t := tileOf s tile
  if t.watches.any (fun w => w.fut == id.toNat) || decide (8 ≤ t.watches.length) then s
  else
    let (d, s1) := freeDelay s
    let rt := roundTrip s (tileCluster tile) (fld id 13 12 * 128)
    setTile s1 tile { t with watches := t.watches ++ [⟨id.toNat, none, s.cyc + rt / 2 + d⟩] }
/-- What a slot held by its operands asks for while it waits: a translation (R300), a watch (R347). -/
def postHeld (s : State) (f : Firing) (i : Instr) : State :=
  match i with
  | .futWait _ _ _ _ => watchPut s f.tile (readOpnd s f i).ka
  | _ =>
    match firingCheck s f i, memForm i f.lit with
    | some (.wait vp), some m => walkAsk s (tileDie f.tile) (tilePart s f.tile) vp m.write (.pe f.tile)
    | _, _ => s

end Sys2Proof.Machine
end

