-- ==== Sys2Proof/Machine/Fire.lean ====
section
/-! DEFINITION. Firing a slot of a PE: when it is ready (R56, R132), the heads and queues it takes (R91), its results
(R89, R131, R133), its predicate update (R86, R135), and the traps of the PE (R57, R161 to R163). -/
namespace Sys2Proof.Machine

/-! ### Writes pending from earlier firings (R132) -/

/-- Whether a job of a bank has a write pending to a place. -/
def pendDst (t : Tile) (b : Nat) (d : Dst) : Bool := t.jobs.any fun j => j.bank == b && (j.da == d || j.db == d)
/-- Whether a predicate of a bank has an update pending. -/
def pendPred (t : Tile) (b p : Nat) : Bool :=
  t.jobs.any fun j => j.bank == b && (match j.pred with | some (q, _) => q == p | none => false)
/-- Whether a source select names something with a write pending. -/
def pendSrc (t : Tile) (b : Nat) (data : Bool) (c : Nat) : Bool :=
  if decide (6 ≤ c) && decide (c < 14) then pendDst t b (if data then .v (c - 6) else .k (kIdx (bankOf t b) (c - 6)))
  else if !data && (c == 14 || c == 15) then pendDst t b (.q (c - 14))
  else false
/-- Whether a destination select names a register with a write pending. -/
def pendSel (t : Tile) (b : Nat) (data : Bool) (c : Nat) : Bool := decide (6 ≤ c) && pendSrc t b data c
/-- Predicates that an instruction reads or writes beyond its trigger's tests and update. -/
def predsUsed (i : Instr) (f : Firing) : List Nat :=
  match i with
  | .sel _ _ _ _ _ => [trPsel f.trig]
  | .pset _ _ _ => [0, 1, 2, 3]
  | .pget _ _ _ => [0, 1, 2, 3]
  | .pand _ => [f.lit.toNat % 4, f.lit.toNat / 256 % 4]
  | .por _ => [f.lit.toNat % 4, f.lit.toNat / 256 % 4]
  | .pxor _ => [f.lit.toNat % 4, f.lit.toNat / 256 % 4]
  | .pnot _ => [f.lit.toNat % 4]
  | _ => []
/-- The route register of a `tsend` (R333). -/
def routeReg (i : Instr) (lit : W64) : Option Nat :=
  match i with
  | .tsend _ _ _ => if lit.getLsbD 30 then some (fld lit 29 27) else none
  | _ => none
/-- R132: nothing that the firing reads or writes has a write pending. -/
def regFree (s : State) (i : Instr) (f : Firing) : Bool :=
  let t := tileOf s f.tile
  let n := info i
  let w := opnds i
  !((routeReg i f.lit).any fun j => pendSrc t f.bank false (j + 6)) &&
  !(n.ua && pendSrc t f.bank n.pa w.a.toNat) && !(n.ub && pendSrc t f.bank n.pb w.b.toNat)
    && (n.dst == .none || (!pendSel t f.bank n.pd w.d.toNat && !pendSel t f.bank n.pd w.e.toNat))
    && (List.range 4).all fun p =>
      !((trPcare f.trig).getLsbD p || (trPop f.trig != 0 && trPsel f.trig == p) || (predsUsed i f).contains p)
        || !pendPred t f.bank p

/-! ### Queue registers and the lm streams (R56 item 8, R222, R223) -/

/-- Whether a firing pops queue register q. -/
def popsQ (i : Instr) (q : Nat) : Bool :=
  let n := info i
  let w := opnds i
  (n.ua && !n.pa && !n.aQ && w.a.toNat == 14 + q) || (n.ub && !n.pb && w.b.toNat == 14 + q)
/-- Whether a firing pushes queue register q. -/
def pushesQ (i : Instr) (q : Nat) : Bool :=
  let n := info i
  let w := opnds i
  n.dst != .none && !n.pd && (w.d.toNat == 14 + q || w.e.toNat == 14 + q)
/-- Whether a firing takes an element of the read stream. -/
def readsLm (i : Instr) : Bool :=
  let n := info i
  let w := opnds i
  (n.ua && n.pa && w.a.toNat == 14) || (n.ub && n.pb && w.b.toNat == 14)
/-- Whether a firing writes to the write stream. -/
def writesLm (i : Instr) : Bool :=
  let n := info i
  let w := opnds i
  n.dst != .none && n.pd && (w.d.toNat == 14 || w.e.toNat == 14)
/-- Queue registers can be popped and pushed. -/
def queuesOk (s : State) (i : Instr) (f : Firing) : Bool :=
  let b := bankOf (tileOf s f.tile) f.bank
  (List.range 2).all fun q =>
    (!popsQ i q || !(qGet b q).isEmpty)
      && (!pushesQ i q || popsQ i q || decide ((qGet b q).length < qDepth b q))
/-- The lm streams have an element and a position. -/
def lmOk (s : State) (i : Instr) (f : Firing) : Bool :=
  (!readsLm i || (lmNext s f.tile).isSome) && (!writesLm i || lmRoom (tileOf s f.tile).wr)

/-! ### Readiness (R56) -/

/-- Whether a tile waits for the fault ring to take a record that its PE or its packet buffer has to write (R405). -/
def tileWaits (s : State) (tile : Nat) : Bool :=
  (List.range 16).any fun p => (partOf s p).heldFault.any fun x => match x.1 with | .bank t _ => t == tile | _ => false
/-- Whether a tile's PE fires at all, whatever its slots hold: it stands in a live region that a launch has bound, and it
is not stopped (R162), selecting a context (R158), or waiting with a record (R405). -/
def peRuns (s : State) (tile : Nat) : Bool :=
  let t := tileOf s tile
  tileLive s tile && !t.stopped && !t.drained && decide (t.resume ≤ s.cyc) && !tileWaits s tile
    && (match tileRgn s tile with
        | some (_, r) => r.st == .live && r.started && (match r.stopAt with | some c => decide (s.cyc < c) | none => true)
        | none => false)
/-- Whether a tile's PE is clocked in this cycle: neither gated nor waking, nor held back by throttling (R428). -/
def peClocked (s : State) (tile : Nat) : Bool :=
  let t := tileOf s tile
  !t.gated && decide (t.wake ≤ s.cyc) && (!(dieOf s (tileDie tile)).throttle || s.cyc % 2 == 0)
/-- Whether a bank can fire: it has not yielded this cycle (R157), and does not move in steps 3 and 4 of a rewire (R371). -/
def bankRuns (s : State) (tile b : Nat) : Bool :=
  (match (tileOf s tile).yielded with
   | some (y, c) => !(y == b && c == s.cyc)
   | none => true)
    && !((tileRgn s tile).any fun x => x.2.rewire.any fun w => w.step == 3 && w.moves.contains (tile * 4 + b))
/-- The trigger channel selects the firing's bank and passes the slot's tests (R55, R56 items 2, 4 and 5). `hyp`: its
port is taken to hold a head that passes (R47). -/
def triggerOk (s : State) (f : Firing) (hyp : Bool) : Bool :=
  let c := trTch f.trig
  if c ≤ 5 then
    hyp || (match tileHead s f.tile c with
      | some h => h.tag.toNat / 4 == f.bank && (!trSte f.trig || h.tag.toNat % 4 == trStv f.trig)
          && kindPass (trKind f.trig) h.kind
      | none => false)
  else if c = 6 then
    match (tileOf s f.tile).present with
    | some p =>
      (match mapFind (tileOf s f.tile).bind p.label with
       | some b => b.slot == f.slot && b.bank == f.bank
       | none => false)
      && (!trSte f.trig || trStv f.trig == 0) && kindPass (trKind f.trig) .data
    | none => false
  else f.bank == 0
/-- Every input port that the slot waits for holds a head (R56 item 3). -/
def headsOk (s : State) (i : Instr) (f : Firing) : Bool :=
  (List.range 6).all fun p => !(trIrdy f.trig p || (namedPorts i).contains p) || (tileHead s f.tile p).isSome
/-- Every output that ODEM names, or that the instruction writes, is writable (R56 item 7). DESIGN CHOICE (log 84): an output
that ODEM alone names 'holds a pending request' where it is writable, so a multicast one where every attached consumer has
a request. -/
def outsOk (s : State) (i : Instr) (f : Firing) : Bool :=
  (List.range 5).all fun j => !(trOdem f.trig j || (outPorts i).contains j) || outWritable s (tileEp f.tile j)
/-- The predicates pass (R56 item 6). -/
def predsOk (s : State) (f : Firing) : Bool :=
  (bankOf (tileOf s f.tile) f.bank).p &&& trPcare f.trig == trPval f.trig &&& trPcare f.trig
/-- The unit of the instruction is free (R131, R168). -/
def unitFree (s : State) (i : Instr) (f : Firing) : Bool :=
  (info i).unit == .none || (tileOf s f.tile).jobs.all fun j => j.unit != (info i).unit
/-- No acquire of the bank is outstanding, where the instruction waits for it (R303). -/
def acqFree (s : State) (i : Instr) (f : Firing) : Bool :=
  !(info i).mem || (tileOf s f.tile).jobs.all fun j => !(j.bank == f.bank && j.acq)
/-- The slot is ready but for a hold of the memory system, of an engine or of its operands (R56). With `hyp`, every input
port it names is taken to hold a head that passes (R47). -/
def peArmed (s : State) (i : Instr) (f : Firing) (hyp : Bool) : Bool :=
  peRuns s f.tile && (hyp || peClocked s f.tile) && bankRuns s f.tile f.bank && trV f.trig && triggerOk s f hyp && (hyp || headsOk s i f)
    && predsOk s f && outsOk s i f && regFree s i f && queuesOk s i f && lmOk s i f && unitFree s i f && acqFree s i f
    && !heldStatic s f i
/-- The slot is ready (R56). With `hyp`, every input port it names is taken to hold a head that passes (R47): a hold that
depends on the values of heads that are not there is then taken not to apply. -/
def peReady (s : State) (i : Instr) (f : Firing) (hyp : Bool) : Bool :=
  peArmed s i f hyp && !heldEngine s f i
    && ((hyp && !(namedPorts i).all fun p => (tileHead s f.tile p).isSome) || !heldOperand s f i)

/-- What a slot's bits say of a firing in a bank. -/
def firingOf (tile bank ctx n : Nat) (x : Slot) : Firing :=
  { tile := tile, bank := bank, slot := n, ctx := ctx, trig := x.trig, word := x.word, lit := x.lit }
/-! ### Traps (R161 to R164) -/

/-- The trap of a firing, as its record will show it (R163). The predicates and the loop-on bit of its State field are those at the
trap; the heads are sampled when the record is written (DESIGN CHOICE, log 94: R163 times only the heads). -/
def trapOf (s : State) (f : Firing) (cause : Nat) (detail : W64) : Trap :=
  let b := bankOf (tileOf s f.tile) f.bank
  { cause := cause, detail := detail, bank := f.bank, slot := f.slot, ctx := f.ctx, trig := f.trig, word := f.word,
    lit := f.lit, preds := b.p, loopOn := b.mlOn, bare := false, time := s.cyc, ver := verAt s f.tile, race := none, again := none, job := none,
    written := false }
/-- The region of a tile told of a trap: its other elements stop within 64 cycles (R162 step 4). -/
def stopRegion (s : State) (rk : Nat) : State :=
  let (d, s1) := freeDelay s
  modRgn s1 rk fun r =>
    { r with stopAt := match r.stopAt with
        | some c => some c
        | none => some (s.cyc + 1 + d % 64) }
/-- Taking a trap: the PE stops firing in all four banks and will write its record (R162 steps 1 and 3). -/
def takeTrap (s : State) (tile : Nat) (tr : Trap) : State :=
  let s1 := modTile s tile fun t => { t with stopped := true, traps := t.traps ++ [tr] }
  match (tileOf s tile).rgn with
  | some rk => stopRegion s1 rk
  | none => s1
/-- The trap of the present firing. -/
def trapPE (s : State) (f : Firing) (cause : Nat) (detail : W64) : State :=
  takeTrap s f.tile (trapOf s f cause detail)
/-- The ERR head that traps a firing with UNHANDLED_ERR: that of the lowest-numbered input it would dequeue (R57, R144,
R161). -/
def errHead (s : State) (i : Instr) (f : Firing) : Option W64 :=
  if trTch f.trig ≤ 6 && trKind f.trig == 3 then none
  else
    (((namedPorts i).filterMap fun p => tileHead s f.tile p).find? fun h => h.kind == .err).map fun h => h.pay.setWidth 64

/-- A drain that stops a region at a lull (R421): a request while one is under way changes nothing (R423). -/
def startHalt (s : State) (rk cause : Nat) (value : W64) (elem : Nat) : State :=
  modRgn s rk fun r =>
    let d : Drain :=
      { kind := 2, start := s.cyc, k := 0, area := 0, keep := false, cause := cause, value := value, elem := elem,
        part := r.part, tag := 0, resp := false, left := [], gone := [] }
    if r.st = .live && r.drain.isNone then { r with drain := some d } else r

/-! ### Results (R89, R131, R133) -/

/-- A result stored at one place. A token's control-plane payload stands in the low 64 bits. -/
def putDst (s : State) (tile b job : Nat) (d : Dst) (r : Kind × W512) : State :=
  match d with
  | .none => s
  | .k i => modBank s tile b fun x => kSet x i (r.2.setWidth 64)
  | .v i => modBank s tile b fun x => vSet x i r.2
  | .q i => modBank s tile b fun x => qSet x i (qGet x i ++ [r.2.setWidth 64])
  | .out j tag => fillOut s (tileEp tile j) job ⟨r.1, tag, r.2⟩
  | .lm p g a => modTile s tile fun t => lmTake t p g a r.1 r.2
/-- A bank with a predicate set. -/
def setPred (b : Bank) (i : Nat) (v : Bool) : Bank :=
  let m : BitVec 4 := (1 : BitVec 4) <<< i
  { b with p := if v then b.p ||| m else b.p &&& ~~~m }
/-- A job's results written, its flags ORed in and its predicate updated (R131, R73, R86); the job ends. -/
def finishJob (s : State) (tile : Nat) (j : Job) : State :=
  let s1 := modTile s tile fun t => { t with jobs := t.jobs.filter fun x => x.id != j.id }
  let s2 := putDst (putDst s1 tile j.bank j.id j.da j.r1) tile j.bank j.id j.db j.r2
  modBank s2 tile j.bank fun b =>
    let b1 := { b with mode := modeRaise b.mode j.raise }
    match j.pred with
    | some (i, v) => setPred b1 i v
    | none => b1
/-- A job ended without its results: a token in line for an output port is withdrawn. -/
def dropDst (s : State) (tile job : Nat) (d : Dst) : State :=
  match d with
  | .out j _ => dropOut s (tileEp tile j) job
  | _ => s
/-- A job ended without its results. -/
def dropJob (s : State) (tile : Nat) (j : Job) : State :=
  let s1 := modTile s tile fun t => { t with jobs := t.jobs.filter fun x => x.id != j.id }
  dropDst (dropDst s1 tile j.id j.da) tile j.id j.db

/-! ### The effect of a firing -/

/-- What an instruction's meaning gives its firing: the state with its own further effects, its results, flag and flags,
its latency or what it waits for, and a trap that follows its completion. -/
structure Eff where
  st : State
  r1 : Kind × W512 := (.data, 0)
  r2 : Kind × W512 := (.data, 0)
  flag : Bool := false
  raise : Raise := 0
  lat : Nat := 1
  wait : Wait := .none
  mem : Bool := false
  acq : Bool := false
  regs : Bool := true              -- false: registers are not written (R166)
  drop : Bool := false             -- nothing is delivered (R238)
  quiet : Bool := false            -- no destination is written and no request is taken (R247)
  after : Option (Nat × W64) := none

/-- The outcome of a meaning: its effect, or a trap before any effect (R161). -/
inductive Effect where
  | go (e : Eff)
  | stop (cause : Nat) (detail : W64)

/-- INF of a slot of a replica table changed by one (R393). -/
def infAdd (s : State) (pn tab e r : Nat) (up : Bool) : State :=
  { s with xtabs := s.xtabs.map fun x =>
      if x.part = pn && x.tab = tab then
        let n := mapGet x.inf (8 * e + r) 0
        { x with inf := mapSet x.inf (8 * e + r) (if up then n + 1 else n - 1) 0 }
      else x }
/-- The presented packet consumed by the firing of its slot (R332): what its registration or version acquires (R348,
R395), and the count of packets in flight (R393). -/
def takePacket (s : State) (tile : Nat) : State :=
  match (tileOf s tile).present with
  | none => s
  | some p =>
    let h := tileHolder s tile
    let s1 := modTile s tile fun t => { t with present := none }
    let s2 := match p.acq with
      | some o => clkAcquire s1 h.2.1 h.1 o 2 (tilePlace tile) none
      | none => s1
    match p.slot with
    | some (tab, e, r) => infAdd s2 h.2.1 tab e r false
    | none => s2
/-- What a firing takes as it starts (R11, R91, R222): a presented packet, heads, queue values, an element of the read
stream. -/
def takeInputs (s : State) (i : Instr) (f : Firing) : State :=
  let s0 := if trTch f.trig = 6 then takePacket s f.tile else s
  let s1 := (deqPorts i).foldl (fun x p => deqHead x (tileEp f.tile p)) s0
  let s2 := (List.range 2).foldl (fun x q =>
    if popsQ i q then modBank x f.tile f.bank fun b => qSet b q ((qGet b q).drop 1) else x) s1
  if readsLm i then modTile s2 f.tile fun t => { t with rd := lmPop t.rd } else s2
/-- A destination's position reserved in the write stream, where it names `lm` (R223). -/
def reserveDst (s : State) (tile : Nat) (d : Dst) : Dst × State :=
  match d with
  | .lm _ _ _ =>
    let t := tileOf s tile
    let (p, w) := lmReserve t.wr
    (.lm p w.gen (strAddr w.a0 w.a1 p), setTile s tile { t with wr := w })
  | _ => (d, s)
/-- Whether a destination is a register. -/
def dstReg (d : Dst) : Bool :=
  match d with
  | .k _ => true
  | .v _ => true
  | .q _ => true
  | _ => false
/-- The two destinations of an instruction, DB left out where it names DA's place (R90). -/
def dsts (b : Bank) (i : Instr) (tag : BitVec 4) : Dst × Dst :=
  let n := info i
  let w := opnds i
  if n.dst = .none then (.none, .none)
  else (dstOf b n.pd w.d.toNat tag, if w.e = w.d then .none else dstOf b n.pd w.e.toNat tag)
/-- The arrivals of the heads a firing dequeued, port and cycle, latest first among equals the lowest port (R419). -/
def lastArrival (s : State) (tile : Nat) (ports : List Nat) : Option (Nat × Nat) :=
  let l := ports.filterMap fun p => ((inPortOf s (tileEp tile p)).queue.head?).map fun h => (p, h.1)
  match l with
  | [] => none
  | x :: t =>
    let m := t.foldl (fun a b => if a.2 < b.2 then b else a) x
    let rest := (l.filter fun e => e.1 != m.1).map (·.2)
    some (m.1, match rest with | [] => 0 | _ => m.2 - rest.foldl max 0)
/-- The written tile of a tile: the original of a copy (R36, R424). -/
def writtenTile (r : Region) (tile : Nat) : Nat :=
  ((r.clones.find? fun c => c.copies.contains tile).map fun c => epTile c.op).getD tile
/-- The written context of a firing: a copy's C0 holds the context that the original has selected (R362, R424). -/
def writtenCtx (s : State) (r : Region) (f : Firing) : Nat :=
  if writtenTile r f.tile = f.tile then f.ctx else (tileOf s (writtenTile r f.tile)).ctx
/-- Slot breakpoints that a firing counts towards (R424). -/
def countBrk (s : State) (f : Firing) : State :=
  match tileRgn s f.tile with
  | none => s
  | some (k, r) =>
    if (partOf s r.part).traceCtl.getLsbD 2 && r.brks.any (fun b => b.2.tile == writtenTile r f.tile) then
      setRgn s k { r with brks := r.brks.map fun (n, b) =>
        (n, if b.tile = writtenTile r f.tile && b.ctx = writtenCtx s r f && b.slot = f.slot then { b with left := b.left - 1, hit := if b.left = 1 then some (trapElem f.tile f.bank f.slot f.ctx) else b.hit } else b) }
    else s
/-- Whether an instruction is exempt from the loop counter's advance (R155). -/
def isMl (i : Instr) : Bool :=
  match i with
  | .mlOn _ _ _ => true
  | .mlOff _ => true
  | .mlRd _ _ _ => true
  | _ => false
/-- The bank after a firing: a predicate update that takes effect at once (R86), and the loop counter (R155). -/
def afterBank (f : Firing) (i : Instr) (pre b : Bank) : Bank :=
  let b1 := match trPop f.trig with
    | 1 => setPred b (trPsel f.trig) true
    | 2 => setPred b (trPsel f.trig) false
    | _ => b
  if pre.mlOn && !isMl i then { b1 with lc := (b1.lc + 1) % b1.rs } else b1
/-- The output ports that a firing writes take their requests, and a token is put in line at each (R48, R133); `s` is the
state at the firing's start. -/
def completePorts (s : State) (i : Instr) (f : Firing) (e : Eff) : State :=
  (if e.quiet then [] else outPorts i).foldl (fun x j =>
    let x1 := queueOut (takeRequest x (tileEp f.tile j)) (tileEp f.tile j) (tileOf s f.tile).njob none
    setOutPort x1 (tileEp f.tile j) { outPortOf x1 (tileEp f.tile j) with last := lastArrival s f.tile (deqPorts i) }) e.st
/-- The places that the firing's results go to, before a position of the write stream is reserved. -/
def completeDsts (s : State) (i : Instr) (f : Firing) (o : Opnd) (e : Eff) : Dst × Dst :=
  if e.quiet then (Dst.none, Dst.none) else dsts (bankOf (tileOf s f.tile) f.bank) i o.tag
/-- The job of a firing, with its destinations. -/
def completeJob (s : State) (i : Instr) (f : Firing) (e : Eff) (da db : Dst) : Job :=
  let keep := fun x : Dst => if !e.regs && dstReg x then Dst.none else x
  { id := (tileOf s f.tile).njob, bank := f.bank, slot := f.slot, ctx := f.ctx, wait := e.wait, due := s.cyc + e.lat - 1,
    da := keep da, db := keep db, r1 := e.r1, r2 := if (info i).dst = .pair then e.r2 else e.r1, raise := e.raise,
    pred := if trPop f.trig = 3 then some (trPsel f.trig, e.flag) else none, unit := (info i).unit, mem := e.mem,
    acq := e.acq }
/-- Whether a firing is one of an operator folded into its tile: its trigger channel is a moved port (R369). -/
def foldedFiring (t : Tile) (f : Firing) : Bool := decide (trTch f.trig ≤ 5) && (mapFind t.moveIn (trTch f.trig)).isSome
/-- The job entered at its tile, with the bank's update at the firing's end. -/
def enterJob (s x : State) (i : Instr) (f : Firing) (job : Job) : State :=
  modTile x f.tile fun t =>
    { setBank t f.bank (afterBank f i (bankOf (tileOf s f.tile) f.bank) (bankOf t f.bank)) with
        njob := job.id + 1, jobs := t.jobs ++ [job], lastFire := s.cyc, lastBank := if foldedFiring t f then t.lastBank else f.bank }
/-- The results of a job of this firing: withdrawn, written at once at latency 1, or left to come. -/
def settleJob (x : State) (f : Firing) (e : Eff) (job : Job) : State :=
  if e.drop then dropJob x f.tile job
  else if e.wait = .none && e.lat ≤ 1 then finishJob x f.tile job else x
/-- A firing completed: destinations and requests taken, the job entered or, at latency 1, its results written. -/
def complete (s : State) (i : Instr) (f : Firing) (o : Opnd) (e : Eff) : State :=
  let d := completeDsts s i f o e
  let r1 := reserveDst (completePorts s i f e) f.tile d.1
  let r2 := reserveDst r1.2 f.tile d.2
  let job := completeJob s i f e r1.1 r2.1
  let s1 := settleJob (countBrk (enterJob s r2.2 i f job) f) f e job
  match e.after with
  | some (c, x) => trapPE s1 f c x
  | none => s1

/-- A firing of an instruction with a meaning (R56, R57, R91): unchanged where the slot is not ready; a trap before any
effect; or the firing's whole effect. -/
def peNext (s : State) (i : Instr) (eff : State → Firing → Opnd → Nat → Effect) : State :=
  let f := s.cur
  if !peReady s i f false then s
  else match errHead s i f with
    | some d => trapPE s f 2 d
    | none =>
      if readsLm i && lmNext s f.tile == some none then
        let a := strAddr (tileOf s f.tile).rd.a0 (tileOf s f.tile).rd.a1 (tileOf s f.tile).rd.j
        trapPE (errNote s (.lm f.tile a)) f 0xA06 (BitVec.ofNat 64 a)
      else
        let o := readOpnd s f i
        match eff (takeInputs s i f) f o (tileOf s f.tile).njob with
        | .stop c d => trapPE s f c d
        | .go e => complete s i f o e

/-- The outcome of a firing. -/
def pe (s : State) (i : Instr) (eff : State → Firing → Opnd → Nat → Effect) : Host.Outcome State Fault Refusal :=
  .next (peNext s i eff)

/-- A control-plane value as a DATA result. -/
def dataR (x : W64) : Kind × W512 := (.data, x.setWidth 512)
/-- The effect of a firing that computes nothing (R166): no register is written and the flag is 0. -/
def skipEff (s : State) (t : Token) (lat : Nat) : Effect :=
  .go { st := s, r1 := (t.kind, t.pay), r2 := (t.kind, t.pay), lat := lat, regs := false }

end Sys2Proof.Machine
end

