-- ==== Sys2Proof/Machine/Memory.lean ====
section
/-! DEFINITION. The group 12 instructions (R299 to R306), the steps in which memory performs accesses and answers them
(R227, R296, R301, R302), and the traps that answers bring (R310, R324). -/
namespace Sys2Proof.Machine

/-- The access of a PE's firing. -/
def peAcc (s : State) (f : Firing) (op : AccOp) (x : W64) (loc : Loc) (n : Nat) (data : Nat) : Acc :=
  let h := tileHolder s f.tile
  { acc0 with agent := .bank f.tile f.bank, holder := h.1, part := h.2.1, rgn := h.2.2, op := op, addr := x, loc := loc,
              size := n, data := BitVec.ofNat 1024 data, who := (f.bank, f.slot, f.ctx) }
/-- The data an access of a group 12 instruction carries: the value stored, or the operand of an atomic. -/
def memData (m : MemForm) (o : Opnd) : Nat := (if m.addrB then o.ka else o.kb).toNat % 2 ^ (8 * m.size)
/-- The effect of a memory instruction (R300 to R306): the checks, then its access; `op` fixes what the access does. -/
def memEff (i : Instr) (op : Opnd → AccOp) (s : State) (f : Firing) (o : Opnd) (jid : Nat) : Effect :=
  match skipToken i o, memForm i f.lit with
  | some t, _ => skipEff s t 1
  | none, none => .go { st := s }
  | none, some m =>
    match memCheck s f.tile (memAddr m o) m.size m.write m.link with
    | .trap c d => .stop c d
    | .wait _ => .go { st := s }
    | .ok loc extra =>
      let a := { peAcc s f (op o) (memAddr m o) loc m.size (memData m o) with
                   rel := m.rel, acq := m.acq, signed := f.lit.getLsbD 4, toward := if m.store then .none else .job f.tile jid }
      let s1 := (accIssue s a extra).2
      if m.store then .go { st := s1 } else .go { st := s1, wait := .answer, mem := true, acq := m.acq.isSome }
/-- The effect of a memory instruction whose form fixes what its access does. -/
def memEff0 (i : Instr) (s : State) (f : Firing) (o : Opnd) (jid : Nat) : Effect :=
  memEff i (match memForm i f.lit with | some m => m.op | none => fun _ => .read) s f o jid

/-! ### Group 12 -/

/-- `ld` (R301). -/
def execLd (a : BitVec 5) (d e t : BitVec 4) (s : State) : Host.Outcome State Fault Refusal :=
  pe s (.ld a d e t) (memEff0 (.ld a d e t))
/-- `st` (R301). -/
def execSt (a b : BitVec 5) (t : BitVec 4) (s : State) : Host.Outcome State Fault Refusal :=
  pe s (.st a b t) (memEff0 (.st a b t))
/-- `ld.acq` (R303): later memory instructions of the bank are held until it returns. -/
def execLdAcq (sc : BitVec 2) (a : BitVec 5) (d e t : BitVec 4) (s : State) : Host.Outcome State Fault Refusal :=
  pe s (.ldAcq sc a d e t) (memEff0 (.ldAcq sc a d e t))
/-- `st.rel` (R302): the store waits until the earlier accesses in scope are performed; the firing does not. -/
def execStRel (sc : BitVec 2) (a b : BitVec 5) (t : BitVec 4) (s : State) : Host.Outcome State Fault Refusal :=
  pe s (.stRel sc a b t) (memEff0 (.stRel sc a b t))
/-- `amo.add` (R305). -/
def execAmoAdd (sc : BitVec 2) (a b : BitVec 5) (d e t : BitVec 4) (s : State) : Host.Outcome State Fault Refusal :=
  pe s (.amoAdd sc a b d e t) (memEff0 (.amoAdd sc a b d e t))
/-- `amo.fadd` (R305). -/
def execAmoFadd (sc : BitVec 2) (a b : BitVec 5) (d e t : BitVec 4) (s : State) : Host.Outcome State Fault Refusal :=
  pe s (.amoFadd sc a b d e t) (memEff0 (.amoFadd sc a b d e t))
/-- `amo.min` (R305). -/
def execAmoMin (sc : BitVec 2) (a b : BitVec 5) (d e t : BitVec 4) (s : State) : Host.Outcome State Fault Refusal :=
  pe s (.amoMin sc a b d e t) (memEff0 (.amoMin sc a b d e t))
/-- `amo.max` (R305). -/
def execAmoMax (sc : BitVec 2) (a b : BitVec 5) (d e t : BitVec 4) (s : State) : Host.Outcome State Fault Refusal :=
  pe s (.amoMax sc a b d e t) (memEff0 (.amoMax sc a b d e t))
/-- `amo.and` (R305). -/
def execAmoAnd (sc : BitVec 2) (a b : BitVec 5) (d e t : BitVec 4) (s : State) : Host.Outcome State Fault Refusal :=
  pe s (.amoAnd sc a b d e t) (memEff0 (.amoAnd sc a b d e t))
/-- `amo.or` (R305). -/
def execAmoOr (sc : BitVec 2) (a b : BitVec 5) (d e t : BitVec 4) (s : State) : Host.Outcome State Fault Refusal :=
  pe s (.amoOr sc a b d e t) (memEff0 (.amoOr sc a b d e t))
/-- `amo.xor` (R305). -/
def execAmoXor (sc : BitVec 2) (a b : BitVec 5) (d e t : BitVec 4) (s : State) : Host.Outcome State Fault Refusal :=
  pe s (.amoXor sc a b d e t) (memEff0 (.amoXor sc a b d e t))
/-- `amo.exch` (R305). -/
def execAmoExch (sc : BitVec 2) (a b : BitVec 5) (d e t : BitVec 4) (s : State) : Host.Outcome State Fault Refusal :=
  pe s (.amoExch sc a b d e t) (memEff0 (.amoExch sc a b d e t))
/-- The value that `amo.cas` compares with: that of its first destination register at the firing (R306). -/
def casExpect (s : State) (f : Firing) (d : BitVec 4) : W64 :=
  let b := bankOf (tileOf s f.tile) f.bank
  if decide (6 ≤ d.toNat) && decide (d.toNat < 14) then kGet b (kIdx b (d.toNat - 6)) else 0
/-- `amo.cas` (R306). -/
def execAmoCas (sc : BitVec 2) (a b : BitVec 5) (d e t : BitVec 4) (s : State) : Host.Outcome State Fault Refusal :=
  pe s (.amoCas sc a b d e t) fun st f o j => memEff (.amoCas sc a b d e t) (fun _ => .cas (casExpect st f d)) st f o j
/-- `fence` (R304): a release to and then an acquire from the fence object of the bank's instance of the scope (R314). -/
def execFence (sc : BitVec 2) (t : BitVec 4) (s : State) : Host.Outcome State Fault Refusal :=
  pe s (.fence sc t) fun st f _ _ =>
    let h := tileHolder st f.tile
    let pl := tilePlace f.tile
    let i : ObjId := .fence sc.toNat (instKey sc.toNat pl)
    .go { st := clkAcquire (clkRelease st h.2.1 h.1 i sc.toNat pl) h.2.1 h.1 i sc.toNat pl none }

/-! ### Performing (R227, R296, R302) -/

/-- MT_REQUEST (R227): a bank of a memory tile serves the request at the head of a port's queue. -/
def execMtRequest (mt port : Nat) (s : State) : Host.Outcome State Fault Refusal :=
  match mtHead s mt port with
  | none => .next s
  | some a =>
    let m := mtileOf s mt
    let s1 := setMTile s mt { m with pq := mapSet m.pq port ((mapGet m.pq port []).drop 1) [], served := mtBank s a :: (16 + port) :: m.served,
                                     rot := mapPut m.rot (mtBank s a) port }
    .next (performAcc s1 a)
/-- ACCESS_PERFORM (R296): a home that is not a memory tile's port performs an access. -/
def execAccessPerform (id : Nat) (s : State) : Host.Outcome State Fault Refusal :=
  match accOf s id with
  | some a => if accReady s a then .next (performAcc s a) else .next s
  | none => .next s
/-- RELEASE_PERFORM (R302): a waiting release store is performed. -/
def execReleasePerform (id : Nat) (s : State) : Host.Outcome State Fault Refusal :=
  match accOf s id with
  | some a => if accReady s a then .next (performAcc s a) else .next s
  | none => .next s

/-! ### Answers (R301, R228, R310, R324) -/

/-- Whether two accesses belong to one stream of requests to one memory tile (R228). -/
def sameStream (a x : Acc) : Bool :=
  (match a.loc, x.loc with
   | .mtile m _, .mtile n _ => m == n
   | _, _ => false)
    && a.agent == x.agent && ringKey a == ringKey x
/-- Whether an access of a PE has an answer that returns now: a value, or a failure. -/
def returns (s : State) (a : Acc) : Bool :=
  a.done && decide (a.back ≤ s.cyc)
    && (match a.agent with | .bank _ _ => true | _ => false)
    && (match a.op with | .ringAdv _ _ => false | _ => true)
    && (match a.toward with | .job _ _ => true | .none => !a.ok | _ => false)
    && (a.ok || a.cause != 0xF01 || a.race.isSome)
    && !s.accs.any fun x => decide (x.id < a.id) && x.toward != .none && sameStream a x && !(x.cause == 0xF01)
/-- The result an access gives its firing: the value read, extended as R301, R305 and R236 give. -/
def accResult (a : Acc) : W512 :=
  if a.ring.isSome then a.val.setWidth 512
  else (ext64 a.signed a.val.toNat (8 * a.size)).setWidth 512
/-- The condition flag that an answer brings: `amo.cas` compared equal (R306). -/
def accFlag (a : Acc) : Bool :=
  match a.op with
  | .cas e => a.val.toNat == e.toNat % 2 ^ (8 * a.size)
  | _ => false
/-- A job of a tile. -/
def jobOf (t : Tile) (id : Nat) : Option Job := t.jobs.find? fun j => j.id == id
/-- The trap that an answer brings, named after the firing that issued the access (R162, R163). -/
def answerTrap (s : State) (tile : Nat) (who : Nat × Nat × Nat) (cause : Nat) (detail : W64) : Trap :=
  let x := mapGet (tileOf s tile).slots (64 * who.2.2 + who.2.1) slot0
  trapOf s (firingOf tile who.1 who.2.2 who.2.1 x) cause detail
/-- Detail of MEM_UNCORR (R238, R310): the address; for a ring access the byte address with bit 63 set. -/
def uncorrDetail (a : Acc) : W64 :=
  match a.ring, a.loc with
  | some _, .mtile _ o => BitVec.ofNat 64 (2 ^ 63 + o)
  | _, _ => a.addr
/-- A job finished with its answer. -/
def answerJob (s : State) (tile : Nat) (j : Job) (r : W512) (flag : Bool) : State :=
  finishJob s tile { j with r1 := (.data, r), r2 := (.data, r), pred := j.pred.map fun p => (p.1, flag) }
/-- The answer of an access of a PE. A racing access stays, to be presented again on a resume (R324). -/
def returnAcc (s : State) (tile : Nat) (a : Acc) : State :=
  let job := match a.toward with | .job _ id => jobOf (tileOf s tile) id | _ => none
  if a.ok then
    match job with
    | some j => answerJob (accDel s a.id) tile j (accResult a) (accFlag a)
    | none => accDel s a.id
  else if a.cause = 0xF01 then
    takeTrap (accPut s { a with race := none }) tile
      { answerTrap s tile a.who 0xF01 0 with race := a.race, job := job.map (·.id) }
  else
    let s1 := match job with
      | some j => dropJob (accDel s a.id) tile j
      | none => accDel s a.id
    takeTrap s1 tile (answerTrap s tile a.who a.cause (uncorrDetail a))
/-- LOAD_RETURN (R301): an answer returns to its PE. -/
def execLoadReturn (id : Nat) (s : State) : Host.Outcome State Fault Refusal :=
  match accOf s id with
  | none => .next s
  | some a =>
    if returns s a then
      (match a.agent with
       | .bank t _ => .next (returnAcc s t a)
       | _ => .next s)
    else .next s

end Sys2Proof.Machine
end

