-- ==== Sys2Proof/Machine/Agt.lean ====
section
/-! DEFINITION. Address-generator tiles (11_address_generators.md): the group 11 instructions, the walker's commands,
elements, tokens, reports and hand-over, and page walks (R241 to R264). -/
namespace Sys2Proof.Machine

/-! ### Group 11 (R246, R247) -/

/-- The token of a group 11 instruction (R247): written, with flag 1, where the check holds; else nothing. -/
def agtTok (k : Kind) (ok : Bool) (pay : W64) (st : State) : Effect :=
  .go { st := st, r1 := (k, pay.setWidth 512), flag := ok, quiet := !ok }
/-- The payload of a command with its code alone. -/
def agtCode (k : Nat) : W64 := BitVec.ofNat 64 (k * 2 ^ 60)
/-- Whether MRK fields of levels above lv are zero. -/
def mrkOk (mrk lv : Nat) : Bool := mrk / 2 ^ (3 * (lv + 1)) == 0
/-- The check of `agt.set` (R247). -/
def agtSetOk (a : W64) : Bool :=
  fld a 63 60 == 0 && fld a 34 0 == 0 && decide (fld a 58 56 ≤ 6) && decide (fld a 55 53 ≤ 4) && mrkOk (fld a 52 38) (fld a 55 53)
/-- Whether a value fits 32 signed bits. -/
def fits32 (x : W64) : Bool := decide (-(2 ^ 31 : Int) ≤ x.toInt) && decide (x.toInt < (2 ^ 31 : Int))
/-- The check and payload of `agt.dim` (R247). -/
def agtDimPay (a b : W64) (k : Nat) : Bool × W64 :=
  (decide (1 ≤ a.toNat) && decide (a.toNat ≤ 2 ^ 24) && decide (k ≤ 4) && fits32 b,
    BitVec.ofNat 64 (2 * 2 ^ 60 + k * 2 ^ 56 + (a.toNat - 1) * 2 ^ 32 + fld b 31 0))
/-- The check and payload of `agt.cfg` (R247). -/
def agtCfgPay (a : W64) (l w : Nat) : Bool × W64 :=
  let ok := (decide (l ≤ 4) && w == 0 && decide (1 ≤ a.toNat) && decide (a.toNat ≤ 2 ^ 24)) || (decide (l ≤ 4) && w == 1 && fits32 a)
    || (l == 5 && w == 0 && fld a 63 48 == 0)
  let v := if w = 0 && decide (l ≤ 4) then a.toNat - 1 else if w = 1 then fld a 31 0 else fld a 47 0
  (ok, BitVec.ofNat 64 (l * 2 ^ 61 + w * 2 ^ 60 + v))
/-- `agt.set` (R247). -/
def execAgtSet (a : BitVec 5) (d e t : BitVec 4) (s : State) : Host.Outcome State Fault Refusal :=
  pe s (.agtSet a d e t) fun st _ o _ => agtTok .data (agtSetOk o.ka) o.ka st
/-- `agt.base` (R247). -/
def execAgtBase (a : BitVec 5) (d e t : BitVec 4) (s : State) : Host.Outcome State Fault Refusal :=
  pe s (.agtBase a d e t) fun st _ o _ => agtTok .data (fld o.ka 63 48 == 0) (agtCode 1 + o.ka) st
/-- `agt.dim` (R247). -/
def execAgtDim (a b : BitVec 5) (d e t : BitVec 4) (s : State) : Host.Outcome State Fault Refusal :=
  pe s (.agtDim a b d e t) fun st _ o _ => 
    agtTok .data (agtDimPay o.ka o.kb (fld o.lit 2 0)).1 (agtDimPay o.ka o.kb (fld o.lit 2 0)).2 st
/-- `agt.go` (R247). -/
def execAgtGo (d e t : BitVec 4) (s : State) : Host.Outcome State Fault Refusal :=
  pe s (.agtGo d e t) fun st _ _ _ => agtTok .data true (agtCode 3) st
/-- `agt.stop` (R247). -/
def execAgtStop (d e t : BitVec 4) (s : State) : Host.Outcome State Fault Refusal :=
  pe s (.agtStop d e t) fun st _ _ _ => agtTok .data true (agtCode 4) st
/-- `agt.cfg` (R247): a CFG token. -/
def execAgtCfg (a : BitVec 5) (d e t : BitVec 4) (s : State) : Host.Outcome State Fault Refusal :=
  pe s (.agtCfg a d e t) fun st _ o _ => 
    agtTok .cfg (agtCfgPay o.ka (fld o.lit 2 0) (fld o.lit 8 8)).1 (agtCfgPay o.ka (fld o.lit 2 0) (fld o.lit 8 8)).2 st
/-- `agt.hand` (R247). -/
def execAgtHand (d e t : BitVec 4) (s : State) : Host.Outcome State Fault Refusal :=
  pe s (.agtHand d e t) fun st _ _ _ => agtTok .data true (agtCode 6) st
/-- `agt.resume` (R247). -/
def execAgtResume (d e t : BitVec 4) (s : State) : Host.Outcome State Fault Refusal :=
  pe s (.agtResume d e t) fun st _ _ _ => agtTok .data true (agtCode 7) st
/-- `agt.stat` (R247). -/
def execAgtStat (d e t : BitVec 4) (s : State) : Host.Outcome State Fault Refusal :=
  pe s (.agtStat d e t) fun st _ _ _ => agtTok .data true (agtCode 8) st

/-! ### Walker words (R243, R244) -/

/-- A walker word. -/
def agtW (a : Agt) (i : Nat) : W64 := a.w.getD i 0
/-- A walker with a word replaced. -/
def agtSetW (a : Agt) (i : Nat) (x : W64) : Agt := { a with w := a.w.setIfInBounds i x }
/-- DIR: a write walk. -/
def agtDir (a : Agt) : Bool := (agtW a 0).getLsbD 62
/-- Element size e. -/
def agtE (a : Agt) : Nat := 2 ^ fld (agtW a 0) 61 59
/-- LV. -/
def agtLv (a : Agt) : Nat := fld (agtW a 0) 58 56
/-- MRK of level k. -/
def agtMrk (a : Agt) (k : Nat) : Nat := fld (agtW a 0) (43 + 3 * k) (41 + 3 * k)
/-- HOLD. -/
def agtHold (a : Agt) : Bool := (agtW a 0).getLsbD 40
/-- A walker with HOLD set or cleared. -/
def agtSetHold (a : Agt) (h : Bool) : Agt :=
  let m : W64 := (1 : W64) <<< 40
  agtSetW a 0 (if h then agtW a 0 ||| m else agtW a 0 &&& ~~~m)
/-- FR. -/
def agtFr (a : Agt) : Nat := fld (agtW a 0) 34 32
/-- N of level k. -/
def agtN (a : Agt) (k : Nat) : Nat := fld (agtW a (4 + k)) 55 32 + 1
/-- Counter of level k. -/
def agtI (a : Agt) (k : Nat) : Nat := a.cnt.getD k 0
/-- The levels of a walk. -/
def agtLevels (a : Agt) : List Nat := List.range (agtLv a + 1)
/-- Address of the element at the counters (R244). -/
def agtAddr (a : Agt) : Nat :=
  (((agtLevels a).foldl (fun (x : Int) k => x + (agtI a k : Nat) * sxN (fld (agtW a (4 + k)) 31 0) 32)
    (fld (agtW a 1) 47 0 : Nat)) % (2 ^ 48 : Int)).toNat
/-- Whether level k wraps at the present element (R244); a counter at or beyond N - 1 wraps (R250). -/
def agtWraps (a : Agt) (k : Nat) : Bool := (List.range (k + 1)).all fun i => decide (agtN a i ≤ agtI a i + 1)
/-- The highest rank among the levels that wrap at the present element, 0 where none is written (R245). -/
def agtRank (a : Agt) : Nat := (agtLevels a).foldl (fun m k => if agtWraps a k then max m (agtMrk a k) else m) 0
/-- Whether the present element is the last of the walk. -/
def agtLast (a : Agt) : Bool := agtWraps a (agtLv a)
/-- The counters of the next element, from a level up (R244). -/
def agtBump (a : Agt) (k : Nat) : Nat → Vector Nat 5 → Vector Nat 5
  | 0, c => c
  | n + 1, c =>
    if agtN a k ≤ c.getD k 0 + 1 then agtBump a (k + 1) n (c.setIfInBounds k 0) else c.setIfInBounds k (c.getD k 0 + 1)
/-- The window contains the element's bytes (R254). -/
def agtInWindow (a : Agt) (va : Nat) : Bool :=
  let b := fld (agtW a 2) 47 0
  decide (b ≤ va) && decide (va + agtE a ≤ b + 4096 * fld (agtW a 3) 35 0)
/-- Whether a token is complete after the present element, with n lanes filled (R245). -/
def agtTokEnd (a : Agt) (n : Nat) : Bool := n == 64 / agtE a || agtRank a != 0 || agtLast a

/-! ### Layout changes (R250) -/

/-- A pending CFG payload applied. -/
def cfgApply (a : Agt) (x : W64) : Agt :=
  let l := fld x 63 61
  if l = 5 then agtSetW a 1 (BitVec.ofNat 64 (fld x 47 0))
  else
    let w := agtW a (4 + l)
    if x.getLsbD 60 then agtSetW a (4 + l) (BitVec.ofNat 64 (fld w 63 32 * 2 ^ 32 + fld x 31 0))
    else agtSetW a (4 + l) (BitVec.ofNat 64 (fld x 23 0 * 2 ^ 32 + fld w 31 0))
/-- Every pending CFG payload applied, in order of arrival: a boundary. -/
def agtBoundary (a : Agt) : Agt := { a.cfgs.foldl cfgApply a with cfgs := [] }

/-! ### Faults (R259 to R261) -/

/-- STATE code (R242). -/
def agtCodeOf : AgtSt → Nat
  | .idle => 0 | .run => 1 | .wait => 2 | .stalled => 3 | .done => 4 | .faulted => 5
/-- The region of an AGT: key, partition, holder, version. -/
def agtRgn (s : State) (a : Agt) : Nat × Nat × Nat × Nat :=
  match a.rgn with
  | some k => match rgnOf s k with
    | some r => (k, r.part, r.holder, r.version.toNat)
    | none => (k, k / 2 ^ 32, 0, 0)
  | none => (0, 0, 0, 0)
/-- The fault record of an AGT (R260). -/
def agtRecord (s : State) (n cause reason detail : Nat) : State :=
  let a := agtOf s n
  let r := agtRgn s a
  let cnts := (List.range 5).foldl (fun x k => x + (if k ≤ agtLv a then agtI a k % 2 ^ 24 else 0) * 2 ^ (24 * k)) 0
  faultRecord s r.2.1 (.walk n) (recOf [(0, 2, 0x20), (2, 2, r.2.2.2), (4, 4, r.1 % 2 ^ 32), (8, 4, agtEp n 0), (12, 2, cause),
    (14, 2, reason), (16, 8, agtAddr a), (24, 8, a.pos), (32, 15, cnts), (48, 8, detail), (56, 8, s.cyc)])
/-- A walker faulted (R261): its record, and the region stopped as R162 step 4 gives. A stop under way is over: only a
release leaves FAULTED (R242). -/
def agtFault (s : State) (n cause detail : Nat) : State :=
  let s1 := agtRecord s n cause 0 detail
  let s2 := setAgt s1 n { agtOf s1 n with st := .faulted, stopping := false, xl := none }
  match (agtOf s n).rgn with
  | some k => stopRegion s2 k
  | none => s2
/-- The payload of a status token (R249). -/
def agtStatus (a : Agt) (uns : Bool) (st : AgtSt) : W64 :=
  BitVec.ofNat 64 (a.pos % 2 ^ 48 * 2 ^ 16 + uns.toNat * 64 + (!a.cfgs.isEmpty).toNat * 32 + (agtDir a).toNat * 16
    + (agtHold a).toNat * 8 + agtCodeOf st)
/-- A status token. -/
def statusTok (a : Agt) (uns : Bool) (st : AgtSt) : Token := ⟨.data, 0, (agtStatus a uns st).setWidth 512⟩

/-! ### Accesses (R251, R252, R257) -/

/-- An access of a walk. -/
def agtAcc (s : State) (n : Nat) (op : AccOp) (va pa size data : Nat) (toward : AccTo) : Acc :=
  let a := agtOf s n
  let r := agtRgn s a
  { acc0 with agent := .walk n, holder := r.2.2.1, part := r.2.1, rgn := r.1, op := op, addr := BitVec.ofNat 64 va,
              loc := .phys pa, size := size, data := BitVec.ofNat 1024 data, toward := toward, pos := a.pos }
/-- A line of the coalescing buffer sent (R251): one write of 128 bytes where both sectors are whole, else sector writes. -/
def coSend (s : State) (n : Nat) (l : CoLine) : State :=
  let issue := fun (st : State) (off size : Nat) =>
    let m := (l.mask.toNat >>> off) % 2 ^ size
    if m = 0 then st
    else (accIssue st { agtAcc st n (.write (BitVec.ofNat 128 m)) (l.line * 128 + off) (l.line * 128 + off) size
      (l.data.toNat >>> (8 * off) % 2 ^ (8 * size)) .none with pos := l.pos } 0).2
  if l.mask = BitVec.allOnes 128 then issue s 0 128 else issue (issue s 0 64) 64 64
/-- Every line of the coalescing buffer sent. -/
def coFlush (s : State) (n : Nat) : State :=
  let a := agtOf s n
  a.buf.foldl (fun st l => coSend st n l) (setAgt s n { a with buf := [] })
/-- An element's bytes merged into the entry of their line; the oldest line is sent where no entry is free. -/
def coMerge (s : State) (n pa size x : Nat) : State :=
  let put := fun (l : CoLine) =>
    let o := pa % 128
    let m : Nat := (2 ^ (8 * size) - 1) <<< (8 * o)
    { l with data := (l.data &&& ~~~BitVec.ofNat 1024 m) ||| BitVec.ofNat 1024 ((x % 2 ^ (8 * size)) <<< (8 * o)),
             mask := l.mask ||| BitVec.ofNat 128 ((2 ^ size - 1) <<< o) }
  let a := agtOf s n
  if a.buf.any fun l => l.line == pa / 128 then
    setAgt s n { a with buf := a.buf.map fun l => if l.line = pa / 128 then put l else l }
  else
    let s1 := match a.buf with
      | l :: t => if a.buf.length < 16 then s else coSend (setAgt s n { a with buf := t }) n l
      | [] => s
    let a1 := agtOf s1 n
    let open_ := a1.trail.filter fun p => a1.buf.any (fun l => l.pos == p.1) || s1.accs.any fun x => x.agent == .walk n && x.pos == p.1
    setAgt s1 n { a1 with buf := a1.buf ++ [put ⟨pa / 128, 0, 0, a.pos⟩], trail := open_ ++ [(a.pos, a.cnt)] }
/-- Whether every access of a walk has been performed. -/
def agtQuiet (s : State) (n : Nat) : Bool := !s.accs.any fun x => x.agent == .walk n && !performed x
/-- A page of an AGT by its own TLB, then its die's, where a hit adds 12 cycles and is entered in the AGT's (R257); `some none`
while those cycles pass. A page in another package is no hit (R406). -/
def agtHit (s : State) (n vp : Nat) : Option (Option Nat × State) :=
  let a := agtOf s n
  let pn := (agtRgn s a).2.1
  let w := agtDir a
  let own := mapGet s.agtTlb n []
  match tlbFind own pn vp with
  | some e => if w && !e.w then none else some (some e.pp, s)
  | none =>
    match tlbFind (dieOf s (n / 64)).tlb pn vp with
    | some e =>
      if (w && !e.w) || linkPage e.pp then none
      else match a.tlbAt.filter (fun x => x.1 == vp) with
        | none => some (none, setAgt s n { a with tlbAt := some (vp, s.cyc + 12) })
        | some x =>
          if x.2 ≤ s.cyc then some (some e.pp, setAgt { s with agtTlb := mapPut s.agtTlb n (tlbEnter own e 64) } n { a with tlbAt := none })
          else some (none, s)
    | none => none

/-! ### Elements (R244, R245, R251, R254, R258) -/

/-- The walker past the present element: counters, position; the walk's last element leaves the counters (R244). -/
def agtNext (a : Agt) : Agt := { a with pos := a.pos + 1, cnt := if agtLast a then a.cnt else agtBump a 0 (agtLv a + 1) a.cnt }
/-- Whether the last element has been issued: the position stands at T. -/
def agtAtEnd (a : Agt) : Bool := a.ended
/-- A read walk takes its element from its sector, and completes its token (R245). -/
def agtTakeLane (s : State) (n va : Nat) (x : W512) (bad : Bool) : State :=
  let a := agtOf s n
  let e := agtE a
  let v := (x.toNat >>> (8 * (va % 64))) % 2 ^ (8 * e)
  let part := a.part ||| BitVec.ofNat 512 (v <<< (8 * e * a.npart))
  let unc := match a.uncorr with
    | some u => some u
    | none => if bad then some va else none
  if agtTokEnd a (a.npart + 1) then
    let tok : Token := match unc with
      | some u => ⟨.err, 0, errPay 0xA06 u⟩
      | none => ⟨.data, 0, part⟩
    let mark := if agtRank a = 0 then [] else [markTok (agtRank a) 0]
    setAgt s n { agtNext a with part := 0, npart := 0, issued := false, uncorr := none, out1 := a.out1 ++ [tok] ++ mark, ended := agtLast a }
  else setAgt s n { agtNext a with part := part, npart := a.npart + 1, issued := false, uncorr := unc, ended := agtLast a }
/-- The sector read of a walk that has been performed, if its answer has returned. -/
def sectAcc (s : State) (n : Nat) : Option Acc :=
  s.accs.find? fun x => x.agent == .walk n && x.op == .read && x.done && decide (x.back ≤ s.cyc)
/-- A read element that has translated: it takes its lane of the sector held, or its sector is read (R251). -/
def agtRead (s : State) (n va pa : Nat) : State :=
  let a := agtOf s n
  let ask := (accIssue (setAgt s n { a with sect := some (pa / 64, none, false), issued := true })
    (agtAcc s n .read va (pa / 64 * 64) 64 0 (.agt n)) 0).2
  match a.sect with
  | some (k, some x, bad) => if k = pa / 64 then agtTakeLane s n va x bad else ask
  | _ => ask
/-- A read element whose sector is on its way takes its lane once the read has returned: it is not translated again (R258). -/
def agtReturn (s : State) (n : Nat) : State :=
  let a := agtOf s n
  match a.sect, sectAcc s n with
  | some (_, some x, bad), _ => agtTakeLane s n (agtAddr a) x bad
  | some (k, none, _), some x =>
    agtTakeLane (setAgt (accDel s x.id) n { a with sect := some (k, some (x.val.setWidth 512), !x.ok) }) n (agtAddr a) (x.val.setWidth 512) (!x.ok)
  | _, _ => s
/-- A write walk past one element of its head token; the head is dequeued with its last element (R245). -/
def agtPast (s : State) (n : Nat) : State :=
  let a := agtOf s n
  let fin := agtTokEnd a (a.taken + 1)
  let s1 := setAgt s n { agtNext a with taken := if fin then 0 else a.taken + 1, ended := agtLast a }
  if fin then deqHead s1 (agtEp n 2) else s1
/-- A write element: its lane of the head token merges into the coalescing buffer. -/
def agtWrite (s : State) (n pa : Nat) (t : Token) : State :=
  let a := agtOf s n
  let e := agtE a
  agtPast (coMerge s n pa e (t.pay.toNat >>> (8 * e * a.taken))) n
/-- The next element checked and performed, in the order of R254: alignment, window, translation. -/
def agtElem (s : State) (n : Nat) (go : State → Nat → Nat → State) : State :=
  let a := agtOf s n
  let va := agtAddr a
  if va % agtE a != 0 then agtFault s n 0xB03 (agtE a)
  else if !agtInWindow a va then agtFault s n 0xB02 (agtW a 2).toNat
  else
    let pn := (agtRgn s a).2.1
    match agtHit s n (va / 4096) with
    | some (none, s1) => s1
    | some (some pp, s1) =>
      if isHbm (pp * 4096) && !pchanLive s (pp * 4096 / 2 ^ 31 % 256) then agtFault s n 0x10A va
      else go s1 va (pp * 4096 + va % 4096)
    | none =>
      let s1 := walkAsk s (n / 64) pn (va / 4096) (agtDir a) (.agt n)
      if walkHas s1 (n / 64) pn (va / 4096) then setAgt s1 n { a with xl := some (va / 4096, none) } else s1
/-- An access of a walk that a race has stopped and that is not yet acted on (R324). -/
def agtRace (s : State) (n : Nat) : Option Acc := s.accs.find? fun x => x.agent == .walk n && x.race.isSome
/-- Whether a walker works: its AGT is live and its region moves, or a token is half done (R162 step 4, R376). -/
def agtMoves (s : State) (n : Nat) : Bool :=
  let a := agtOf s n
  let open_ := match a.leftTok with
    | some k => decide (a.out1.length < k)
    | none => true
  pchanLive s n && !a.frozen && ((rgnMoves s a.rgn && open_) || a.npart != 0 || a.taken != 0)
/-- A failed translation stalls the walker once every earlier access has been performed (R259). -/
def agtStall (s : State) (n reason entry : Nat) : State :=
  let a := agtOf s n
  if !a.buf.isEmpty then coFlush s n
  else if agtQuiet s n then
    let s1 := agtRecord s n 0xB01 reason entry
    setAgt s1 n { agtOf s1 n with st := .stalled, xl := none }
  else s
/-- A walker that a race had stopped, at the position that it had come to (R324). -/
def agtUnrace (a : Agt) : Agt :=
  match a.raced with
  | some (p, c, e) => { a with pos := p, cnt := c, ended := e, raced := none }
  | none => a
/-- A race stops the walker (R324) at the first element whose access touches the racing line: lines that hold earlier elements
are sent, its record is written, and the region is stopped as R162 step 4 gives. What later elements have merged stays in the
coalescing buffer. -/
def agtRaced (s : State) (n : Nat) (x : Acc) : State :=
  let s1 := accPut s { x with race := none }
  let s2 := match x.race with
    | some r => faultRecord s1 x.part (.walk n) (stampRec r s.cyc)
    | none => s1
  let a := agtOf s2 n
  let s2' := (a.buf.filter fun l => decide (l.pos < x.pos)).foldl (fun st l => coSend st n l)
    (setAgt s2 n { a with buf := a.buf.filter fun l => decide (x.pos ≤ l.pos) })
  let s3 := setAgt s2' n { agtOf s2' n with
    st := .stalled, raced := some (a.pos, a.cnt, a.ended), pos := x.pos,
    cnt := ((a.trail.find? fun p => p.1 == x.pos).map (·.2)).getD a.cnt }
  match (agtOf s n).rgn with
  | some k => stopRegion s3 k
  | none => s3
/-- The walker's next element, or the next token of a write walk (R245, R248, R250). -/
def agtStep (s : State) (n : Nat) : State :=
  let a := agtOf s n
  match a.xl with
  | some (_, some (r, e)) => agtStall s n r e
  | some (_, none) => s
  | none =>
    if agtDir a then
      match headAt s (agtEp n 2) with
      | none => s
      | some t =>
        match t.kind with
        | .data => agtElem s n fun st _ pa => agtWrite st n pa t
        | .null => agtPast s n
        | .mark =>
          let s1 := deqHead s (agtEp n 2)
          let s2 := if agtFr a != 0 && decide (agtFr a ≤ markRank t) then coFlush s1 n else s1
          setAgt s2 n (agtBoundary (agtOf s2 n))
        | .err => agtFault s n 0xB05 (t.pay.toNat % 2 ^ 64)
        | _ => s
    else if a.issued then agtReturn s n
    else agtElem s n fun st va pa => agtRead st n va pa
/-- Whether the walker can take a step: it runs, its last element is not issued, and a read walk's tokens are written. -/
def agtElemDue (s : State) (n : Nat) : Bool :=
  let a := agtOf s n
  a.st == .run && agtMoves s n && !a.stopping && ((agtRace s n).isSome || (!agtAtEnd a && a.out1.isEmpty))
/-- AGT_ELEMENT (R254). -/
def execAgtElement (agt : Nat) (s : State) : Host.Outcome State Fault Refusal :=
  if agtElemDue s agt then
    match agtRace s agt with
    | some x => .next (agtRaced s agt x)
    | none => .next (agtStep s agt)
  else .next s
/-- A token written to an output port of an AGT. -/
def agtOut (s : State) (n port : Nat) (t : Token) : State := queueOut (takeRequest s (agtEp n port)) (agtEp n port) 0 (some t)
/-- Whether a read walk still passes a token before DRAIN (R376, R421). -/
def agtPasses (a : Agt) : Bool := a.leftTok != some 0
/-- Whether a token of an AGT can be written now: not while its region is stopped (R162). -/
def agtOutDue (s : State) (n : Nat) : Bool :=
  let a := agtOf s n
  rgnMoves s a.rgn && ((!a.out1.isEmpty && agtPasses a && outWritable s (agtEp n 1)) || (!a.out3.isEmpty && outWritable s (agtEp n 3)))
/-- AGT_TOKEN_OUT (R245): the next token of a read walk goes to port 1; where a MARK is written, pending changes apply
(R250). An unsolicited status token goes to port 3 (R249). -/
def execAgtTokenOut (agt : Nat) (s : State) : Host.Outcome State Fault Refusal :=
  let a := agtOf s agt
  if !agtOutDue s agt then .next s
  else match a.out1, a.out3 with
  | t :: l, _ =>
    if agtPasses a && outWritable s (agtEp agt 1) then
      let a1 := { a with out1 := l, leftTok := a.leftTok.map (· - 1) }
      .next (agtOut (setAgt s agt (if t.kind = .mark then agtBoundary a1 else a1)) agt 1 t)
    else
      (match a.out3 with
       | u :: m => if outWritable s (agtEp agt 3) then .next (agtOut (setAgt s agt { a with out3 := m }) agt 3 u) else .next s
       | [] => .next s)
  | [], u :: m => if outWritable s (agtEp agt 3) then .next (agtOut (setAgt s agt { a with out3 := m }) agt 3 u) else .next s
  | [], [] => .next s
/-- Whether an AGT's region is being released: its walks end, though the region stands (R374). -/
def agtReleased (s : State) (a : Agt) : Bool := (a.rgn.bind (rgnOf s)).any fun r => r.releasing.isSome
/-- Whether a walk has ended and reports now (R252): its last element is performed, or it is stopped, and every write has
been performed. The walk of a stopped region keeps its state (R162). -/
def agtReportDue (s : State) (n : Nat) : Bool :=
  let a := agtOf s n
  ((a.st == .run && agtAtEnd a) || a.stopping) && agtQuiet s n && (rgnMoves s a.rgn || agtReleased s a)
/-- AGT_WALK_REPORT (R252): the lines left are sent; then the walker is DONE or, stopped, IDLE, and reports. -/
def execAgtWalkReport (agt : Nat) (s : State) : Host.Outcome State Fault Refusal :=
  let a := agtOf s agt
  if agtReportDue s agt then
    if !a.buf.isEmpty then .next (coFlush s agt)
    else
      let st : AgtSt := if a.stopping then .idle else .done
      let out := if agtHasOut s agt 3 then a.out3 ++ [statusTok a true st] else a.out3
      let s1 := { s with accs := s.accs.filter fun x => x.agent != .walk agt }
      .next (setAgt s1 agt { a with st := st, stopping := false, reported := true, out3 := out, sect := none, issued := false })
  else .next s

/-! ### Commands (R248) -/

/-- Whether the payload of a DATA token at port 0 is malformed. -/
def agtBad (x : W64) : Bool :=
  match fld x 63 60 with
  | 0 => !agtSetOk x
  | 1 => fld x 59 48 != 0
  | 2 => x.getLsbD 59 || decide (4 < fld x 58 56)
  | 3 => fld x 59 0 != 0
  | 4 => fld x 59 0 != 0
  | 6 => fld x 59 0 != 0
  | 7 => fld x 59 0 != 0
  | 8 => fld x 59 0 != 0
  | _ => true
/-- Whether the payload of a CFG token is malformed: LVL 6 or 7, a reserved bit, a value its field does not hold. -/
def cfgBad (x : W64) : Bool :=
  let l := fld x 63 61
  decide (5 < l) || fld x 59 48 != 0 || (l == 5 && x.getLsbD 60)
    || (decide (l ≤ 4) && (if x.getLsbD 60 then fld x 47 32 != 0 else fld x 47 24 != 0))
/-- What the token at port 0 asks for: codes 0 to 8 as R247, 9 CFG, 10 discard, 11 ERR, 12 malformed, 13 nothing. -/
def agtClass (a : Agt) (t : Token) : Nat :=
  let x := t.pay.setWidth 64
  match t.kind with
  | .drain => 13
  | k =>
    if a.st = .faulted then 10
    else match k with
      | .null => 10
      | .mark => 10
      | .err => 11
      | .cfg => if cfgBad x then 12 else 9
      | _ => if agtBad x then 12 else fld x 63 60
/-- Whether the walker is in IDLE or DONE. -/
def agtResting (a : Agt) : Bool := a.st == .idle || a.st == .done
/-- Whether port 0 may be read at all: the region moves, no stop or hand-over is under way (R162, R248, R255). -/
def agtPort0 (s : State) (n : Nat) : Bool :=
  let a := agtOf s n
  pchanLive s n && rgnMoves s a.rgn && !a.frozen && !a.stopping && !a.hand
/-- Whether a token of a class can be taken now (R248). -/
def agtCanTake (s : State) (n k : Nat) : Bool :=
  let a := agtOf s n
  agtPort0 s n && (match headAt s (agtEp n 0) with | some t => agtClass a t == k | none => false)
    && (match k with
        | 0 => agtResting a && a.goes == 0
        | 1 => agtResting a && a.goes == 0
        | 2 => agtResting a && a.goes == 0
        | 3 => agtResting a && a.goes == 0
        | 6 => agtResting a && a.goes == 0
        | 8 => a.out3.isEmpty && (!agtHasOut s n 3 || outWritable s (agtEp n 3))
        | 9 => agtResting a || decide (a.cfgs.length < 8)
        | _ => true)
/-- A token taken from port 0: a boundary where the walker rests (R250). -/
def agtTake (s : State) (n : Nat) (f : Agt → Agt) : State :=
  let s1 := deqHead s (agtEp n 0)
  let a := f (agtOf s1 n)
  setAgt s1 n (if agtResting (agtOf s n) then agtBoundary a else a)
/-- The payload of the token at port 0. -/
def agtPay (s : State) (n : Nat) : W64 := ((headAt s (agtEp n 0)).map fun t => t.pay.setWidth 64).getD 0
/-- Word 0 with the fields of `agt.set` (R247). -/
def setFields (w x : W64) : W64 :=
  BitVec.ofNat 64 (fld w 63 63 * 2 ^ 63 + fld x 59 59 * 2 ^ 62 + fld x 58 56 * 2 ^ 59 + fld x 55 53 * 2 ^ 56
    + fld x 52 38 * 2 ^ 41 + fld w 40 35 * 2 ^ 35 + fld x 37 35 * 2 ^ 32)
/-- AGT_TAKE_SET (R247, R248). -/
def execAgtTakeSet (agt : Nat) (s : State) : Host.Outcome State Fault Refusal :=
  if agtCanTake s agt 0 then
    let x := agtPay s agt
    .next (agtTake (setAgt s agt (agtBoundary (agtOf s agt))) agt fun a => agtSetW a 0 (setFields (agtW a 0) x))
  else .next s
/-- AGT_TAKE_BASE (R248). -/
def execAgtTakeBase (agt : Nat) (s : State) : Host.Outcome State Fault Refusal :=
  if agtCanTake s agt 1 then
    let x := agtPay s agt
    .next (agtTake (setAgt s agt (agtBoundary (agtOf s agt))) agt fun a => agtSetW a 1 (BitVec.ofNat 64 (fld x 47 0)))
  else .next s
/-- AGT_TAKE_DIM (R248). -/
def execAgtTakeDim (agt : Nat) (s : State) : Host.Outcome State Fault Refusal :=
  if agtCanTake s agt 2 then
    let x := agtPay s agt
    .next (agtTake (setAgt s agt (agtBoundary (agtOf s agt))) agt fun a =>
      agtSetW a (4 + fld x 58 56) (BitVec.ofNat 64 (fld x 55 0)))
  else .next s
/-- A walk begun (R248): pending changes apply, counters and position are zero, RUN if the window is held, else WAIT. -/
def agtBegin (a : Agt) : Agt :=
  let a1 := agtBoundary a
  { a1 with st := if agtHold a1 then .run else .wait, cnt := Vector.replicate 5 0, pos := 0, part := 0, npart := 0, taken := 0,
            sect := none, issued := false, uncorr := none, reported := false, ended := false, xl := none, tlbAt := none, trail := [], raced := none }
/-- Whether an implicit go (R243) waits and the walker rests. -/
def agtGoWaits (s : State) (n : Nat) : Bool :=
  agtPort0 s n && agtResting (agtOf s n) && decide (1 ≤ (agtOf s n).goes)
/-- AGT_TAKE_GO (R248): an implicit go enters ahead of any token. -/
def execAgtTakeGo (agt : Nat) (s : State) : Host.Outcome State Fault Refusal :=
  if agtGoWaits s agt then
    .next (setAgt s agt { agtBegin (agtOf s agt) with goes := (agtOf s agt).goes - 1 })
  else if agtCanTake s agt 3 then
    let s1 := deqHead s (agtEp agt 0)
    .next (setAgt s1 agt (agtBegin (agtOf s1 agt)))
  else .next s
/-- A walk given up (R248): partial tokens are discarded; one that a race had stopped stands where it had come to. -/
def agtGiveUp (a : Agt) : Agt :=
  { agtUnrace a with stopping := true, part := 0, npart := 0, taken := 0, uncorr := none, xl := none }
/-- AGT_TAKE_STOP (R248): the walk is given up; it ends once its accesses are performed (AGT_WALK_REPORT). -/
def execAgtTakeStop (agt : Nat) (s : State) : Host.Outcome State Fault Refusal :=
  if agtCanTake s agt 4 then
    let rest := agtResting (agtOf s agt)
    let s1 := agtTake s agt fun a =>
      if rest then a else agtGiveUp a
    .next { s1 with accs := if rest then s1.accs else s1.accs.filter fun x => !(x.agent == .walk agt && x.cause == 0xF01) }
  else .next s
/-- AGT_TAKE_HAND (R255): an AGT that holds its window begins to give it up. -/
def execAgtTakeHand (agt : Nat) (s : State) : Host.Outcome State Fault Refusal :=
  if agtCanTake s agt 6 then
    let s1 := coFlush s agt
    .next (agtTake s1 agt fun a => { a with hand := agtHold a })
  else .next s
/-- Whether a hand-over's writes are performed now (R255, step 2). -/
def handQuiet (s : State) (n : Nat) : Bool := (agtOf s n).hand && rgnMoves s (agtOf s n).rgn && agtQuiet s n
/-- HOLD cleared (R255, step 3): the token of step 4 waits for a request at port 4. -/
def handClear (a : Agt) : Agt := { agtSetHold a false with hand := false, handTok := true }
/-- Whether a hand-over token can be written now (R255, step 4). -/
def handDue (s : State) (n : Nat) : Bool :=
  (agtOf s n).handTok && rgnMoves s (agtOf s n).rgn && outWritable s (agtEp n 4)
/-- HANDOVER_SEND (R255): step 3 once the writes are performed, and step 4 once port 4 holds a request. -/
def execHandoverSend (agt : Nat) (s : State) : Host.Outcome State Fault Refusal :=
  let s1 := if handQuiet s agt then setAgt s agt (handClear (agtOf s agt)) else s
  if handDue s1 agt then
    .next (agtOut (setAgt s1 agt { agtOf s1 agt with handTok := false }) agt 4 ⟨.data, 0, BitVec.ofNat 512 (agtEp agt 0)⟩)
  else .next s1
/-- Whether a token stands at port 5. -/
def handIn (s : State) (n : Nat) : Bool :=
  rgnMoves s (agtOf s n).rgn && (match headAt s (agtEp n 5) with | some t => t.kind != .drain | none => false)
/-- HANDOVER_RECEIVE (R255). -/
def execHandoverReceive (agt : Nat) (s : State) : Host.Outcome State Fault Refusal :=
  if handIn s agt then
    let s1 := deqHead s (agtEp agt 5)
    let a := agtSetHold (agtOf s1 agt) true
    .next (setAgt s1 agt (if a.st = .wait then { a with st := .run } else a))
  else .next s
/-- A resume of a STALLED walker (R263, R324): a stopped access is presented again; else element j is translated again, by the table
entries as they stand (R266). -/
def agtResumeNow (s : State) (n : Nat) : State :=
  let a := agtOf s n
  if a.st != .stalled then s
  else if a.raced.isSome then
    let s1 := { s with accs := s.accs.map fun x =>
      if x.agent == .walk n && x.cause == 0xF01 then { x with done := false, ok := true, cause := 0, due := s.cyc + 1 } else x }
    setAgt s1 n { agtUnrace a with st := .run }
  else
    let pn := (agtRgn s a).2.1
    let vp := agtAddr a / 4096
    match walkNow s (n / 64) pn vp (agtDir a) with
    | (s1, .ok pp w) =>
      setAgt { s1 with agtTlb := mapPut s1.agtTlb n (tlbEnter (mapGet s1.agtTlb n []) ⟨pn, vp, pp, w⟩ 64) } n { a with st := .run }
    | (s1, .fail r e _ _) => agtRecord s1 n 0xB01 r e
/-- AGT_TAKE_RESUME (R263). -/
def execAgtTakeResume (agt : Nat) (s : State) : Host.Outcome State Fault Refusal :=
  if agtCanTake s agt 7 then .next (agtResumeNow (agtTake s agt id) agt) else .next s
/-- AGT_TAKE_STAT (R249): the status token is written to port 3, where it has a channel. -/
def execAgtTakeStat (agt : Nat) (s : State) : Host.Outcome State Fault Refusal :=
  if agtCanTake s agt 8 then
    let s1 := agtTake s agt id
    let a := agtOf s1 agt
    .next (if agtHasOut s1 agt 3 then agtOut s1 agt 3 (statusTok a false a.st) else s1)
  else .next s
/-- AGT_TAKE_CFG (R250): pending until the next boundary. -/
def execAgtTakeCfg (agt : Nat) (s : State) : Host.Outcome State Fault Refusal :=
  if agtCanTake s agt 9 then
    let x := agtPay s agt
    .next (agtTake s agt fun a => { a with cfgs := a.cfgs ++ [x] })
  else .next s
/-- AGT_TAKE_DISCARD (R248): NULL and MARK; every token in FAULTED. -/
def execAgtTakeDiscard (agt : Nat) (s : State) : Host.Outcome State Fault Refusal :=
  if agtCanTake s agt 10 then .next (agtTake s agt id) else .next s
/-- AGT_TAKE_ERR (R248): FAULTED with ERR_INPUT. -/
def execAgtTakeErr (agt : Nat) (s : State) : Host.Outcome State Fault Refusal :=
  if agtCanTake s agt 11 then
    let x := agtPay s agt
    .next (agtFault (agtTake s agt id) agt 0xB05 x.toNat)
  else .next s
/-- AGT_TAKE_RESERVED (R248): FAULTED with AGT_FORMAT. -/
def execAgtTakeReserved (agt : Nat) (s : State) : Host.Outcome State Fault Refusal :=
  if agtCanTake s agt 12 then
    let x := agtPay s agt
    .next (agtFault (agtTake s agt id) agt 0xB04 x.toNat)
  else .next s

/-! ### Page walks (R257, R262, R300) -/

/-- A walk's failure told to an AGT that waits for it. -/
def walkMiss (s : State) (n vp : Nat) (why : Nat × Nat) : State :=
  let a := agtOf s n
  if a.xl = some (vp, none) then setAgt s n { a with xl := some (vp, some why) } else s
/-- A walk's outcome told to one that waits for it: that of the walk for a read, or for a write. A page in another package is
a bad entry for an AGT, which leaves none in a TLB (R406). -/
def walkTell (s : State) (w : Walk) (x : Walker × Bool) : State :=
  match x.1, walkServed s w.part w.vp x.2 with
  | .pe _, (.ok pp wr, s1) => dieEnter s1 w.die ⟨w.part, w.vp, pp, wr⟩
  | .pe t, (.fail b _ _ _, s1) => modTile s1 t fun u => { u with xfails := u.xfails ++ [⟨w.vp, x.2, b, s.cyc⟩] }
  | .agt n, (.ok pp wr, s1) =>
    if linkPage pp then walkMiss s1 n w.vp (linkBad s1 w.part w.vp x.2)
    else
      let s2 := dieEnter { s1 with agtTlb := mapPut s1.agtTlb n (tlbEnter (mapGet s1.agtTlb n []) ⟨w.part, w.vp, pp, wr⟩ 64) } w.die
        ⟨w.part, w.vp, pp, wr⟩
      let a := agtOf s2 n
      if a.xl = some (w.vp, none) then setAgt s2 n { a with xl := none } else s2
  | .agt n, (.fail b e _ _, s1) => walkMiss s1 n w.vp (b, e)
/-- PAGE_WALK (R257): a walk ends, for each that waits for it; it allocates in hardware mode (R262), enters the TLBs, or fails. -/
def execPageWalk (id : Nat) (s : State) : Host.Outcome State Fault Refusal :=
  match s.walks.find? fun w => w.id == id with
  | none => .next s
  | some w =>
    if w.due ≤ s.cyc then
      .next (w.who.foldl (fun st x => walkTell st w x) { s with walks := s.walks.filter fun x => x.id != id })
    else .next s

end Sys2Proof.Machine
end

