-- ==== Sys2Proof/Machine/Bte.lean ====
section
/-! DEFINITION. The block-transfer engine (13_block_transfer.md): the group 13 instructions, and the steps in which a
channel takes, begins, hands over and reports its commands (R267 to R290). -/
namespace Sys2Proof.Machine

/-! ### Accepting commands (R274, R282 to R289) -/

/-- Channel number of a BTE instruction's spec (R282). -/
def specCh (lit : W64) : Nat := fld lit 27 24
/-- Whether an operand has the virtual form: bits [63:60] choose it (R269). -/
def isVirt (x : W64) : Bool := fld x 63 60 == 0
/-- The promise of a command accepted in a cycle (R274). -/
def promiseAt (cyc pprev len : Nat) (src dst : W64) : Nat :=
  max (cyc + 32) pprev + (len + 63) / 64 + (if isVirt src || isVirt dst then 64 else 0)
/-- A channel with a command accepted and its promise kept; promises older than the last 64 commands go (R286). -/
def bteAccept (c : BteCh) (x : BteCmd) : BteCh :=
  { c with q := c.q ++ [x], pprev := x.promise,
           proms := mapPut (c.proms.filter fun e => decide (c.issued ≤ e.1 + 63)) x.seq x.promise }
/-- A channel's update on its way to the PEs' view (R282). -/
def bteView (c : BteCh) (cyc : Nat) : BteCh := { c with views := c.views ++ [(cyc + 4, c.taken, c.done)] }
/-- A bank's release at fabric scope towards a channel's issue object (R285, R290). -/
def issueRel (st : State) (f : Firing) (n ch : Nat) : State :=
  let h := tileHolder st f.tile
  releaseLater st { agent := .bank f.tile f.bank, before := st.nid, part := h.2.1, holder := h.1, obj := .issue n ch, scope := 2 }
/-- The effect of `bte.copy` and `bte.copy.mx` (R283): a release towards the channel's issue object (R290). -/
def bteCopyEff (mx : Bool) (st : State) (f : Firing) (o : Opnd) : Effect :=
  let n := tileCluster f.tile
  let ch := specCh o.lit
  let c := bteOf st n ch
  let len := fld o.lit 23 0 + 1
  let p := promiseAt st.cyc c.pprev len o.ka o.kb
  let x : BteCmd :=
    { seq := c.issued + 1, src := o.ka, dst := o.kb, len := len, mcast := 0,
      fon := if mx then .lmAt (32 * fld o.lit 43 32) else .none,
      strict := if o.lit.getLsbD 28 then some (f.tile, f.bank, f.slot, f.ctx) else none, promise := p, chain := false,
      pre := (0, 0, 0), after := st.nid, bank := f.tile * 4 + f.bank }
  let st1 := issueRel st f n ch
  .go { st := setBte st1 n ch (bteAccept { c with issued := c.issued + 1 } x), r1 := (.data, BitVec.ofNat 512 x.seq),
        r2 := (.data, BitVec.ofNat 512 p), lat := 4 }
/-- `bte.copy` (R283). -/
def execBteCopy (a b : BitVec 5) (d e t : BitVec 4) (s : State) : Host.Outcome State Fault Refusal :=
  pe s (.bteCopy a b d e t) fun st f o _ => bteCopyEff false st f o
/-- `bte.copy.mx` (R283). -/
def execBteCopyMx (a b : BitVec 5) (d e t : BitVec 4) (s : State) : Host.Outcome State Fault Refusal :=
  pe s (.bteCopyMx a b d e t) fun st f o _ => bteCopyEff true st f o
/-- Whether an address can be that of a chain entry (R284): aligned, and of a form of R269. -/
def entryOk (s : State) (n : Nat) (x : W64) : Bool :=
  x.toNat % 64 == 0 && (match addrForm x with
    | .bad => false
    | .mt m _ => isBuffer s m
    | .lm t _ => tileCluster t == n
    | .virt _ => true)
/-- The place of an aligned access of an engine's channel to an operand address, or the status that it ends with, FENCED among them
(R31), with the reason where a page does not translate. -/
def bteAt (s : State) (n pn : Nat) (x : W64) (write : Bool) : State × Except (Nat × Nat) Loc :=
  match addrForm x with
  | .bad => (s, .error (0xD02, 0))
  | .mt m o =>
    if !partMt (partOf s pn) m then (s, .error (0x109, 0))
    else if !mtileLive s m then (s, .error (0x10A, 0))
    else if !isBuffer s m then (s, .error (0xD02, 0)) else (s, .ok (.mtile m o))
  | .lm t o =>
    if !partTile (partOf s pn) t then (s, .error (0x109, 0))
    else if tileCluster t != n then (s, .error (0xD02, 0))
    else if !tileLive s t then (s, .error (0x10A, 0)) else (s, .ok (.lm t o))
  | .virt va =>
    match xlateNow s (n / 128) pn (va / 4096) write with
    | (s1, .ok pp _) =>
      if deadPa s1 (pp * 4096) then (s1, .error (0x10A, 0)) else (s1, .ok (.phys (pp * 4096 + va % 4096)))
    | (s1, .fail r _ _ _) => (s1, .error (0xD03, r))
/-- An access that a channel makes at once, of its own (R279, R284). -/
def bteOwn (s : State) (n ch : Nat) (op : AccOp) (x : W64) (loc : Loc) (size data : Nat) : State × Acc :=
  let c := bteOf s n ch
  homeAccess s { acc0 with agent := .bte n ch, holder := c.holder, part := c.rgn.getD 0 / 2 ^ 32, rgn := c.rgn.getD 0, op := op,
                           addr := x, loc := loc, size := size, data := BitVec.ofNat 1024 data, pos := c.issued }
/-- The address that a record gives of a race at an address: the racing line's (R324). -/
def raceLine (x : W64) : Nat := x.toNat / 128 * 128
/-- The record of a race that an engine's own access meets goes to the fault ring (R323). -/
def ownRace (r : State × Acc) : State :=
  match r.2.race with
  | some x => faultRecord r.1 r.2.part r.2.agent x
  | none => r.1
/-- The NEXT field of the entry appended last takes the address of the one after it (R284). Where a race stops the write, the command
of the entry appended ends with status RACE when it is taken, and its record names the line (R324; DEDUCED, log 41). -/
def linkNext (s : State) (n ch : Nat) (a : W64) : State :=
  let c := bteOf s n ch
  match c.last with
  | none => s
  | some l =>
    let x := BitVec.ofNat 64 (l + 24)
    match bteAt s n (c.rgn.getD 0 / 2 ^ 32) x true with
    | (s1, .ok loc) =>
      let r := bteOwn s1 n ch (.write (storeMask8)) x loc 8 a.toNat
      let s2 := ownRace r
      if r.2.ok then s2
      else
        let d := bteOf s2 n ch
        setBte s2 n ch { d with linkRaces := d.linkRaces ++ [(c.issued + 1, raceLine x, a.toNat)] }
    | (s1, .error _) => s1
where
  /-- The mask of 8 bytes. -/
  storeMask8 : BitVec 128 := storeMask 8
/-- The sequence number of the entry that a channel took last. -/
def lastTaken (c : BteCh) : Nat := c.taken + c.q.length
/-- `bte.append` (R284): the flag is 1 where the entry is accepted. -/
def execBteAppend (a : BitVec 5) (d e t : BitVec 4) (s : State) : Host.Outcome State Fault Refusal :=
  pe s (.bteAppend a d e t) fun st f o _ =>
    let n := tileCluster f.tile
    let ch := specCh o.lit
    if entryOk st n o.ka then
      let st1 := linkNext st n ch o.ka
      let c := bteOf st1 n ch
      let c1 := { c with
        issued := c.issued + 1, last := some o.ka.toNat, first := some (c.first.getD o.ka.toNat),
        nextAt := if c.takenAt.isSome && c.issued == lastTaken c then some o.ka else c.nextAt }
      .go { st := setBte st1 n ch c1, r1 := (.data, BitVec.ofNat 512 c1.issued), flag := true, lat := 4 }
    else .go { st := st, lat := 4 }
/-- `bte.tail` (R285): a release towards the channel's issue object; the flag is s ≤ ISSUED. -/
def execBteTail (a : BitVec 5) (t : BitVec 4) (s : State) : Host.Outcome State Fault Refusal :=
  pe s (.bteTail a t) fun st f o _ =>
    let n := tileCluster f.tile
    let ch := specCh o.lit
    let c := bteOf st n ch
    let tail := max c.tail (min o.ka.toNat c.issued)
    let c1 := { c with tail := tail, rels := c.rels ++ [(tail, f.tile * 4 + f.bank, st.nid)] }
    .go { st := issueRel (setBte st n ch c1) f n ch, flag := decide (o.ka.toNat ≤ c.issued) }
/-- `bte.prom` (R286). -/
def execBteProm (a : BitVec 5) (d e t : BitVec 4) (s : State) : Host.Outcome State Fault Refusal :=
  pe s (.bteProm a d e t) fun st f o _ =>
    let c := chanFor st f
    if promKnown c o.ka.toNat then
      .go { st := st, r1 := (.data, BitVec.ofNat 512 (mapGet c.proms o.ka.toNat 0)), flag := true, lat := 4 }
    else .go { st := st, lat := 4 }
/-- `sleep.until` (R287). -/
def execSleepUntil (a : BitVec 5) (t : BitVec 4) (s : State) : Host.Outcome State Fault Refusal :=
  pe s (.sleepUntil a t) fun st _ _ _ => .go { st := st }
/-- `bte.seq` (R288): an acquire from the line of SEQADDR (R314). -/
def execBteSeq (a : BitVec 5) (d e t : BitVec 4) (s : State) : Host.Outcome State Fault Refusal :=
  pe s (.bteSeq a d e t) fun st f _ _ =>
    let c := chanFor st f
    let h := tileHolder st f.tile
    let va := fld c.w1 47 0
    let st1 := match walkTables st h.2.1 (va / 4096) false with
      | .ok pp _ =>
        let loc := physLoc (pp * 4096 + va % 4096)
        clkAcquire st h.2.1 h.1 (lineObj loc) 2 (tilePlace f.tile) (some (locPlace loc))
      | _ => st
    .go { st := st1, r1 := (.data, BitVec.ofNat 512 c.view.2), lat := 4 }
/-- `bte.stat` (R289): the flag is DONE = ISSUED. -/
def execBteStat (d e t : BitVec 4) (s : State) : Host.Outcome State Fault Refusal :=
  pe s (.bteStat d e t) fun st f _ _ =>
    let c := chanFor st f
    .go { st := st, r1 := (.data, BitVec.ofNat 512 c.view.2), r2 := (.data, BitVec.ofNat 512 c.issued),
          flag := c.view.2 == c.issued, lat := 4 }

/-! ### Taking a chain entry (R279, R280) -/

/-- The bank of a context. -/
def ctxAgent (x : Nat) : Agent := .bank (x / 4) (x % 4)
/-- The partition of a channel. -/
def btePart (c : BteCh) : Nat := c.rgn.getD 0 / 2 ^ 32
/-- Whether a channel takes its next entry now: it is published, the command before it has begun, and every write that
a publishing bank issued before its firing has been performed (R280, R285). -/
def chainDue (s : State) (n ch : Nat) : Bool :=
  let c := bteOf s n ch
  c.w0.getLsbD 62 && c.q.isEmpty && decide (c.taken < c.tail)
    && (match c.rels.find? fun r => decide (c.taken + 1 ≤ r.1) with
        | some r => !pendingBelow s (ctxAgent r.2.1) r.2.2 2 && !owes s (.issue n ch) r.2.2
        | none => true)
/-- Address of the next entry: the first appended; the NEXT that the take of the entry before read in it, or that an append has
written in it since (R280); where that entry could not be read, what its NEXT holds now. -/
def chainNext (s : State) (n ch : Nat) : State × Except (Nat × Nat × Nat) W64 :=
  let c := bteOf s n ch
  match c.takenAt, c.nextAt with
  | none, _ => (s, .ok (BitVec.ofNat 64 (c.first.getD 0)))
  | some _, some x => (s, .ok x)
  | some l, none =>
    let x := BitVec.ofNat 64 (l + 24)
    match bteAt s n (btePart c) x false with
    | (s1, .ok loc) =>
      let r := bteOwn s1 n ch .read x loc 8 0
      if r.2.ok then (r.1, .ok (r.2.val.setWidth 64)) else (ownRace r, .error (r.2.cause, if r.2.race.isSome then raceLine x else l + 24, 0))
    | (s1, .error (st, d)) => (s1, .error (st, l + 24, d))
/-- A command that will end with a failure known at the take. -/
def failedCmd (seq cyc pprev st addr det : Nat) : BteCmd :=
  { seq := seq, src := 0, dst := 0, len := 0, mcast := 0, fon := .none, strict := none, promise := promiseAt cyc pprev 0 0 0 - 64,
    chain := true, pre := (st, addr, det), after := 0, bank := 0 }
/-- Whether an entry breaks its format (R279). -/
def entryBad (e : BitVec 512) : Bool :=
  let ctl : W64 := BitVec.ofNat 64 (recFld e 0 8)
  decide (1 < fld ctl 63 60) || fld ctl 59 56 != 0 || fld ctl 39 24 != 0 || (fld ctl 63 60 == 0 && recFld e 32 32 != 0)
/-- The command of an entry, accepted as a sequence number (R274, R279). -/
def entryCmd (e : BitVec 512) (seq cyc pprev at_ : Nat) : BteCmd :=
  let ctl : W64 := BitVec.ofNat 64 (recFld e 0 8)
  let src : W64 := BitVec.ofNat 64 (recFld e 8 8)
  let dst : W64 := BitVec.ofNat 64 (recFld e 16 8)
  let len := fld ctl 23 0 + 1
  { seq := seq, src := src, dst := dst, len := len, mcast := BitVec.ofNat 16 (fld ctl 55 40),
    fon := if fld ctl 63 60 = 1 then .desc (BitVec.ofNat 256 (recFld e 32 32)) else .none, strict := none,
    promise := promiseAt cyc pprev len src dst, chain := true, pre := if entryBad e then (0xD01, at_, 0) else (0, 0, 0), after := 0,
    bank := 0 }
/-- A channel with an entry taken: its address, its command, and the NEXT read in it, which counts where the entry after it had
been appended by then. -/
def chainPut (s : State) (n ch at_ : Nat) (x : BteCmd) (next : Option W64) : State :=
  let c := bteOf s n ch
  setBte s n ch { bteAccept c x with
    takenAt := some at_, nextAt := if x.seq < c.issued then next else none, rels := c.rels.filter fun r => decide (x.seq < r.1),
    linkRaces := c.linkRaces.filter fun r => r.1 != x.seq }
/-- An entry read whole at its address, and taken (R280). -/
def chainRead (s : State) (n ch : Nat) (c : BteCh) (x : W64) : State :=
  let failAt := fun (st : State) (code a d : Nat) => chainPut st n ch x.toNat (failedCmd (c.taken + 1) s.cyc c.pprev code a d) none
  let fail := fun (st : State) (code d : Nat) => failAt st code x.toNat d
  if entryOk s n x then
    match bteAt s n (btePart c) x false with
    | (s1, .error (st, d)) => fail s1 st d
    | (s1, .ok loc) =>
      let r := bteOwn s1 n ch .read x loc 64 0
      if r.2.ok then
        let e : BitVec 512 := r.2.val.setWidth 512
        chainPut r.1 n ch x.toNat (entryCmd e (c.taken + 1) s.cyc c.pprev x.toNat) (some (BitVec.ofNat 64 (recFld e 24 8)))
      else failAt (ownRace r) r.2.cause (if r.2.race.isSome then raceLine x else x.toNat) 0
  else fail s 0xD02 0
/-- CHAIN_TAKE (R280): the entry is read whole, once; its promise is computed. On a fenced cluster nothing is read (R277). -/
def execChainTake (bte ch : Nat) (s : State) : Host.Outcome State Fault Refusal :=
  if chainDue s bte ch then
    let c0 := bteOf s bte ch
    if clusterLive s bte then
      let s0 := clkAcquire s (btePart c0) c0.holder (.issue bte ch) 2 (btePlace bte) none
      (match c0.linkRaces.find? fun r => r.1 == c0.taken + 1, chainNext s0 bte ch with
       | some (_, l, a), _ => .next (chainPut s0 bte ch a (failedCmd (c0.taken + 1) s.cyc c0.pprev 0xF01 l 0) none)
       | none, (s1, .error (st, a, d)) => .next (chainPut s1 bte ch a (failedCmd (c0.taken + 1) s.cyc c0.pprev st a d) none)
       | none, (s1, .ok x) => .next (chainRead s1 bte ch c0 x))
    else .next (chainPut s bte ch (c0.takenAt.getD 0) (failedCmd (c0.taken + 1) s.cyc c0.pprev 0x10A 0 0) none)
  else .next s

/-! ### Beginning a command (R269 to R273) -/

/-- Virtual pages translated one after another. -/
def xlPages (s : State) (d pn vp : Nat) (write : Bool) : Nat → SMap Nat → State × Except (Nat × Nat × Nat) (SMap Nat)
  | 0, m => (s, .ok m)
  | k + 1, m =>
    match xlateNow s d pn vp write with
    | (s1, .ok pp _) =>
      if isHbm (pp * 4096) && !pchanLive s (pp * 4096 / 2 ^ 31 % 256) then (s1, .error (0x10A, vp, 0))
      else xlPages s1 d pn (vp + 1) write k (mapPut m vp pp)
    | (s1, .fail r _ _ _) => (s1, .error (0xD03, vp, r))
/-- An operand range checked and translated (R269, R272): its pages, or status, failing address and detail. Of a multicast's
destination (`only`) the endpoint names no more than the cluster (R273). -/
def bteRange (s : State) (n pn : Nat) (x : W64) (len : Nat) (write only : Bool) : State × Except (Nat × Nat × Nat) (SMap Nat) :=
  match addrForm x with
  | .bad => (s, .error (0xD02, x.toNat, 0))
  | .mt m o =>
    if !partMt (partOf s pn) m then (s, .error (0x109, x.toNat, 0))
    else if !mtileLive s m then (s, .error (0x10A, x.toNat, 0))
    else if !isBuffer s m || decide (2 ^ 20 < o + len) then (s, .error (0xD02, x.toNat, 0)) else (s, .ok [])
  | .lm t o =>
    if !partTile (partOf s pn) t then (s, .error (0x109, x.toNat, 0))
    else if tileCluster t != n || decide (2 ^ 17 < o + len) then (s, .error (0xD02, x.toNat, 0))
    else if !only && !tileLive s t then (s, .error (0x10A, x.toNat, 0)) else (s, .ok [])
  | .virt va =>
    if 2 ^ 48 < va + len then (s, .error (0xD02, x.toNat, 0))
    else match xlPages s (n / 128) pn (va / 4096) write ((va + len - 1) / 4096 - va / 4096 + 1) [] with
      | (s1, .ok m) => (s1, .ok m)
      | (s1, .error (st, vp, r)) => (s1, .error (st, max va (vp * 4096), r))
/-- Whether a follow-on or a multicast finds its destination of another form than local memory (R273, R277). -/
def bteDstBad (c : BteCmd) : Bool :=
  (c.fon != .none || c.mcast != 0) && (match addrForm c.dst with | .lm _ _ => false | _ => true)
/-- The first fenced target of a copy into local memory, by its bit. -/
def fencedTarget (s : State) (n : Nat) (c : BteCmd) : Option Nat :=
  ((bteTargets n c).find? fun t => !tileLive s t).map tileBit
/-- Whether two ranges of n bytes meet in a memory whose offsets count modulo m (R217, R381). -/
def meetMod (m o p n : Nat) : Bool := decide ((p + m - o % m) % m < n) || decide ((o + m - p % m) % m < n)
/-- Whether two operands of a command can share a byte (R271): in an armed tile an offset and the one half a memory away name
the same byte. -/
def bteOverlap (s : State) (c : BteCmd) (sm dm : SMap Nat) : Bool :=
  match addrForm c.src, addrForm c.dst with
  | .mt m o, .mt k p => m == k && meetMod (if (mtileOf s m).half.isSome then 2 ^ 19 else 2 ^ 20) o p c.len
  | .lm t o, .lm u p =>
    (t == u || c.mcast != 0) && meetMod (if (tileOf s t).half.isSome then 2 ^ 16 else 2 ^ 17) o p c.len
  | .virt _, .virt _ => sm.any fun e => dm.any fun g => g.2 == e.2
  | _, _ => false
/-- Tile bit that a record names for its destination (R276): of an address whose bits [63:60] choose the local-memory form
(R269), whatever its other bits. -/
def bteTargetOf (c : BteCmd) : Nat :=
  if fld c.dst 63 60 = 0xE then
    if c.mcast != 0 then ((List.range 16).find? fun b => c.mcast.getLsbD b).getD 0 else tileBit (epTile (fld c.dst 50 32))
  else 0xFF
/-- A command begun: nothing read yet, or ended by a failure. -/
def runOf (s : State) (c : BteCmd) (status addr detail target : Nat) (sm dm : SMap Nat) : BteRun :=
  { cmd := c, units := if status = 0 then (c.len + 63) / 64 else 0, next := 0, hold := bteOverlap s c sm dm, live := [], smap := sm,
    dmap := dm, status := status, bytes := 0, addr := addr, target := target, detail := detail, handed := [], fonLeft := [],
    fonSt := [] }
/-- The checks of a command before it moves a byte (R269, R272, R29, R31); on a fenced cluster every one is FENCED (R277). -/
def bteCheck (s : State) (n pn : Nat) (c : BteCmd) : State × BteRun :=
  let t := bteTargetOf c
  if !clusterLive s n then (s, runOf s c 0x10A 0 0 t [] [])
  else if c.pre.1 != 0 then (s, runOf s c c.pre.1 c.pre.2.1 c.pre.2.2 t [] [])
  else match bteRange s n pn c.src c.len false false with
    | (s1, .error (st, a, d)) => (s1, runOf s c st a d t [] [])
    | (s1, .ok sm) =>
      if bteDstBad c then (s1, runOf s c 0xD02 c.dst.toNat 0 t [] [])
      else match fencedTarget s n c with
        | some b => (s1, runOf s c 0x10A c.dst.toNat 0 b [] [])
        | none =>
          match bteRange s1 n pn c.dst c.len true (c.mcast != 0) with
          | (s2, .error (st, a, d)) => (s2, runOf s c st a d t [] [])
          | (s2, .ok dm) => (s2, runOf s c 0 0 0 t sm dm)
/-- Whether an access of a channel's present copy is in flight. -/
def bteBusy (s : State) (n ch : Nat) : Bool := s.accs.any fun a => a.toward == .bte n ch
/-- Whether the copy of a channel's present command is complete: every write performed (R270). -/
def copyDone (s : State) (n ch : Nat) (r : BteRun) : Bool := r.next == r.units && r.live.isEmpty && !bteBusy s n ch
/-- Whether follow-ons are still to be handed over (R281): a copy that no failure has ended hands one to each target; an uncorrectable
error of its source has not stopped it (R272). -/
def handDueFon (n : Nat) (r : BteRun) : Bool := r.cmd.fon != .none && (r.status == 0 || r.status == 0xA06) && !(bteTargets n r.cmd).all r.handed.contains
/-- Whether a channel begins its next command now (R270, R290). -/
def beginDue (s : State) (n ch : Nat) : Bool :=
  let c := bteOf s n ch
  (match c.run with | some r => copyDone s n ch r && !handDueFon n r | none => true)
    && (match c.q with
        | x :: _ => x.chain || (!pendingBelow s (ctxAgent x.bank) x.after 2 && !owes s (.issue n ch) x.after)
        | [] => false)
/-- BTE_COMMAND_BEGIN (R270): the next command is checked and translated whole. Its units move from the next cycle on. -/
def execBteCommandBegin (bte ch : Nat) (s : State) : Host.Outcome State Fault Refusal :=
  let c := bteOf s bte ch
  match c.q with
  | x :: q =>
    if beginDue s bte ch then
      let s0 := clkAcquire s (btePart c) c.holder (.issue bte ch) 2 (btePlace bte) none
      let (s1, r) := bteCheck s0 bte (btePart c) x
      let c1 := { c with q := q, rep := c.rep ++ c.run.toList, run := some r, taken := x.seq }
      .next (setBte s1 bte ch (bteView c1 s.cyc))
    else .next s
  | [] => .next s

/-! ### Follow-ons and reports (R275 to R278, R281) -/

/-- The queue entry of a follow-on. -/
def fonCmd (d : BitVec 256) (n ch seq : Nat) : MatCmd :=
  { op := 0, spec := 0, row := 0, two := false, a := 0, b := 0, ftzi := false, ftzo := false, skip := none, job := 0, bank := 0,
    fon := some (d, n, ch, seq) }
/-- Whether a target, by its place among a copy's targets, has the last byte of the copy. -/
def targetDone (s : State) (n ch k : Nat) (r : BteRun) : Bool :=
  r.next == r.units && r.live.isEmpty
    && !s.accs.any fun a => a.toward == .bte n ch && accKind a.op == 1 && a.who.2.1 == k
/-- The targets that get their follow-on now: each at the last byte of its own copy (R281). -/
def fonDue (s : State) (n ch : Nat) : List Nat :=
  match (bteOf s n ch).run with
  | some r =>
    if handDueFon n r then
      ((bteTargets n r.cmd).zipIdx.filter fun (t, k) => !r.handed.contains t && targetDone s n ch k r).map (·.1)
    else []
  | none => []
/-- The descriptor of a copy's follow-on at a target: none where it lies in local memory under an uncorrectable error (R218). -/
def fonDesc (x : Tile) (f : Fon) : Option (BitVec 256) :=
  match f with
  | .desc d => some d
  | .lmAt o => if lmBad x o 32 then none else some (BitVec.ofNat 256 (lmRead x o 32))
  | .none => some 0
/-- A target's array gets the descriptor (R281); one that cannot be read gives the target status MEM_UNCORR (R218). -/
def fonHand (n ch : Nat) (s : State) (t : Nat) : State :=
  let c := bteOf s n ch
  match c.run with
  | some r =>
    let r1 := { r with handed := r.handed ++ [t] }
    (match fonDesc (tileOf s t) r.cmd.fon with
     | some d =>
       modTile (setBte s n ch { c with run := some { r1 with fonLeft := r1.fonLeft ++ [t] } }) t fun x =>
         { x with fons := x.fons ++ [fonCmd d n ch r.cmd.seq] }
     | none =>
       let off := match r.cmd.fon with | .lmAt o => o | _ => 0
       let a := 14 * 2 ^ 60 + tileEp t 0 * 2 ^ 32 + off
       errNote (setBte s n ch { c with run := some { r1 with fonSt := r1.fonSt ++ [(t, 0xA06, 0)], addr := if r1.addr = 0 then a else r1.addr } })
         (.lm t off))
  | none => s
/-- FOLLOW_ON_HANDOFF (R281). -/
def execFollowOnHandoff (bte ch : Nat) (s : State) : Host.Outcome State Fault Refusal :=
  .next ((fonDue s bte ch).foldl (fonHand bte ch) s)
/-- The first status of a command other than OK, taking its follow-ons' in bit order: status, detail, target (R273). -/
def bteStatus (n : Nat) (r : BteRun) : Nat × Nat × Nat :=
  if r.status != 0 then (r.status, r.detail, r.target)
  else
    let l := (bteTargets n r.cmd).filterMap fun t => r.fonSt.find? fun e => e.1 == t && e.2.1 != 0
    match l with
    | (t, st, d) :: _ => (st, d, tileBit t)
    | [] => (0, 0, r.target)
/-- The completion record of a command (R276). -/
def bteRecord (n ch cyc : Nat) (r : BteRun) : Nat :=
  let x := bteStatus n r
  let flags := (r.cmd.fon != .none).toNat + 2 * (decide (r.cmd.promise < cyc)).toNat + 4 * r.cmd.chain.toNat
    + 8 * (r.cmd.mcast != 0).toNat + 16 * ch
  (recOf [(0, 2, x.1), (2, 1, flags), (3, 1, x.2.2), (4, 4, x.2.1), (8, 8, r.bytes), (16, 8, r.cmd.seq),
    (24, 8, if x.1 = 0 then 0 else r.addr)]).toNat
/-- The command whose report comes next, if it can report: every write and every effect of its follow-ons is performed, and the
channel's clock has room for the two releases (R321). -/
def reportNext (s : State) (n ch : Nat) : Option BteRun :=
  let c := bteOf s n ch
  let ready := fun (r : BteRun) => !handDueFon n r && r.fonLeft.isEmpty && clockRooms (partOf s (btePart c)) c.holder 2
  match c.rep with
  | r :: _ => if ready r then some r else none
  | [] => match c.run with
    | some r => if copyDone s n ch r && ready r then some r else none
    | none => none
/-- An engine write of a channel (R431), as a release at fabric scope (R278); of a fenced cluster's channel the region controller
of its die makes it (R277). -/
def bteEngine (s : State) (n ch va x len kind : Nat) : State :=
  let c := bteOf s n ch
  let d := n / 128
  let live := clusterLive s n
  let a := { acc0 with agent := if live then .bte n ch else .ctl d, holder := c.holder, part := btePart c, rgn := c.rgn.getD 0,
                       rel := some 2, pos := c.issued }
  (engineWrite s a d va x len (if live then bteEp n + ch * 2 ^ 19 else d) (if live then 1 else 2) kind).1
/-- BTE_COMMAND_REPORT (R276): the record, then the sequence word. -/
def execBteCommandReport (bte ch : Nat) (s : State) : Host.Outcome State Fault Refusal :=
  match reportNext s bte ch with
  | none => .next s
  | some r =>
    let c := bteOf s bte ch
    let seq := r.cmd.seq
    let slot := (seq - 1) % 2 ^ fld c.w0 61 58
    let s1 := bteEngine s bte ch (fld c.w0 47 0 + 32 * slot) (bteRecord bte ch s.cyc r) 32 1
    let s2 := bteEngine s1 bte ch (fld c.w1 47 0) seq 8 2
    let c2 := bteOf s2 bte ch
    let c3 := { c2 with done := seq, rep := c2.rep.drop 1, run := if c2.rep.isEmpty then none else c2.run }
    .next (setBte s2 bte ch (bteView c3 s.cyc))
/-- The commands of a channel that have not reported. -/
def bteCmds (c : BteCh) : List BteCmd := c.rep.map (·.cmd) ++ (c.run.toList.map (·.cmd)) ++ c.q
/-- A command made no longer strict. -/
def unstrict (seq : Nat) (x : BteCmd) : BteCmd := if x.seq = seq then { x with strict := none } else x
/-- Whether a STRICT command has missed its promise (R275). -/
def missDue (cyc : Nat) (x : BteCmd) : Bool := x.strict.isSome && decide (x.promise + 1 ≤ cyc)
/-- PROMISE_MISSED (R275): the issuing PE traps; the command runs on. -/
def execPromiseMissed (bte ch seq : Nat) (s : State) : Host.Outcome State Fault Refusal :=
  let c := bteOf s bte ch
  match (bteCmds c).find? fun x => x.seq == seq && missDue s.cyc x with
  | none => .next s
  | some x =>
    match x.strict with
    | none => .next s
    | some (t, b, sl, cx) =>
      let f := fun (r : BteRun) => { r with cmd := unstrict seq r.cmd }
      let s1 := setBte s bte ch { c with rep := c.rep.map f, run := c.run.map f, q := c.q.map (unstrict seq) }
      .next (takeTrap s1 t (answerTrap s1 t (b, sl, cx) 0xD10 (BitVec.ofNat 64 seq)))

end Sys2Proof.Machine
end

