-- ==== Sys2Proof/Machine/Control.lean ====
section
/-! DEFINITION. The meanings of groups 0 to 3, the plane movers and the group 15 instructions of the PE
(06_pe_instructions.md, R423). -/
namespace Sys2Proof.Machine

/-- The effect of an arithmetic or logic instruction: its value, flag and flags, at the instruction's latency. -/
def aluEff (i : Instr) (r : Opnd → AluRes) (s : State) (_f : Firing) (o : Opnd) (_j : Nat) : Effect :=
  let x := r o
  .go { st := s, r1 := dataR x.val, flag := x.flag, raise := x.raise, lat := (info i).lat }

/-! ### Group 0 (R136) -/

/-- `add.t` (R136). -/
def execAdd (y : BitVec 3) (a b : BitVec 5) (d e t : BitVec 4) (s : State) : Host.Outcome State Fault Refusal :=
  pe s (.add y a b d e t) (aluEff (.add y a b d e t) fun o => aluAdd y o.mode o.ka o.kb)
/-- `sub.t` (R136). -/
def execSub (y : BitVec 3) (a b : BitVec 5) (d e t : BitVec 4) (s : State) : Host.Outcome State Fault Refusal :=
  pe s (.sub y a b d e t) (aluEff (.sub y a b d e t) fun o => aluSub y o.mode o.ka o.kb)
/-- `mul.lo.t` (R136). -/
def execMulLo (y : BitVec 3) (a b : BitVec 5) (d e t : BitVec 4) (s : State) : Host.Outcome State Fault Refusal :=
  pe s (.mulLo y a b d e t) (aluEff (.mulLo y a b d e t) fun o => aluMulLo y o.mode o.ka o.kb)
/-- `mul.hi.t` (R136). -/
def execMulHi (y : BitVec 3) (a b : BitVec 5) (d e t : BitVec 4) (s : State) : Host.Outcome State Fault Refusal :=
  pe s (.mulHi y a b d e t) (aluEff (.mulHi y a b d e t) fun o => aluMulHi y o.ka o.kb)
/-- `div.t` (R136). -/
def execDiv (y : BitVec 3) (a b : BitVec 5) (d e t : BitVec 4) (s : State) : Host.Outcome State Fault Refusal :=
  pe s (.div y a b d e t) (aluEff (.div y a b d e t) fun o => aluDiv y o.mode o.ka o.kb)
/-- `rem.t` (R136). -/
def execRem (y : BitVec 3) (a b : BitVec 5) (d e t : BitVec 4) (s : State) : Host.Outcome State Fault Refusal :=
  pe s (.rem y a b d e t) (aluEff (.rem y a b d e t) fun o => aluRem y o.mode o.ka o.kb)
/-- `min.t` (R136). -/
def execMin (y : BitVec 3) (a b : BitVec 5) (d e t : BitVec 4) (s : State) : Host.Outcome State Fault Refusal :=
  pe s (.min y a b d e t) (aluEff (.min y a b d e t) fun o => aluMin y o.ka o.kb)
/-- `max.t` (R136). -/
def execMax (y : BitVec 3) (a b : BitVec 5) (d e t : BitVec 4) (s : State) : Host.Outcome State Fault Refusal :=
  pe s (.max y a b d e t) (aluEff (.max y a b d e t) fun o => aluMax y o.ka o.kb)

/-! ### Compares, absolute value, negation (R137, R138) -/

/-- `cmp.eq.t` (R137). -/
def execCmpEq (y : BitVec 2) (a b : BitVec 5) (d e t : BitVec 4) (s : State) : Host.Outcome State Fault Refusal :=
  pe s (.cmpEq y a b d e t) (aluEff (.cmpEq y a b d e t) fun o => aluCmpEq y o.ka o.kb)
/-- `cmp.ne.t` (R137). -/
def execCmpNe (y : BitVec 2) (a b : BitVec 5) (d e t : BitVec 4) (s : State) : Host.Outcome State Fault Refusal :=
  pe s (.cmpNe y a b d e t) (aluEff (.cmpNe y a b d e t) fun o => aluCmpNe y o.ka o.kb)
/-- `cmp.lt.t` (R137). -/
def execCmpLt (y : BitVec 2) (a b : BitVec 5) (d e t : BitVec 4) (s : State) : Host.Outcome State Fault Refusal :=
  pe s (.cmpLt y a b d e t) (aluEff (.cmpLt y a b d e t) fun o => aluCmpLt y o.ka o.kb)
/-- `cmp.le.t` (R137). -/
def execCmpLe (y : BitVec 2) (a b : BitVec 5) (d e t : BitVec 4) (s : State) : Host.Outcome State Fault Refusal :=
  pe s (.cmpLe y a b d e t) (aluEff (.cmpLe y a b d e t) fun o => aluCmpLe y o.ka o.kb)
/-- `abs.iW` (R138). -/
def execAbs (w : BitVec 2) (a : BitVec 5) (d e t : BitVec 4) (s : State) : Host.Outcome State Fault Refusal :=
  pe s (.abs w a d e t) (aluEff (.abs w a d e t) fun o => aluAbs w o.mode o.ka)
/-- `neg.iW` (R138). -/
def execNeg (w : BitVec 2) (a : BitVec 5) (d e t : BitVec 4) (s : State) : Host.Outcome State Fault Refusal :=
  pe s (.neg w a d e t) (aluEff (.neg w a d e t) fun o => aluNeg w o.mode o.ka)

/-! ### Select, logic, shifts and bits (R139, R140) -/

/-- `sel` (R139): the predicate that PSEL names chooses. -/
def execSel (a b : BitVec 5) (d e t : BitVec 4) (s : State) : Host.Outcome State Fault Refusal :=
  pe s (.sel a b d e t) fun st f o j =>
    aluEff (.sel a b d e t) (fun o => aluSel (o.p.getLsbD (trPsel f.trig)) o.ka o.kb) st f o j
/-- `and` (R140). -/
def execAnd (a b : BitVec 5) (d e t : BitVec 4) (s : State) : Host.Outcome State Fault Refusal :=
  pe s (.and a b d e t) (aluEff (.and a b d e t) fun o => aluLogic (o.ka &&& o.kb))
/-- `or` (R140). -/
def execOr (a b : BitVec 5) (d e t : BitVec 4) (s : State) : Host.Outcome State Fault Refusal :=
  pe s (.or a b d e t) (aluEff (.or a b d e t) fun o => aluLogic (o.ka ||| o.kb))
/-- `xor` (R140). -/
def execXor (a b : BitVec 5) (d e t : BitVec 4) (s : State) : Host.Outcome State Fault Refusal :=
  pe s (.xor a b d e t) (aluEff (.xor a b d e t) fun o => aluLogic (o.ka ^^^ o.kb))
/-- `andn` (R140). -/
def execAndn (a b : BitVec 5) (d e t : BitVec 4) (s : State) : Host.Outcome State Fault Refusal :=
  pe s (.andn a b d e t) (aluEff (.andn a b d e t) fun o => aluLogic (o.ka &&& ~~~o.kb))
/-- `not` (R140). -/
def execNot (a : BitVec 5) (d e t : BitVec 4) (s : State) : Host.Outcome State Fault Refusal :=
  pe s (.not a d e t) (aluEff (.not a d e t) fun o => aluLogic (~~~o.ka))
/-- `shl` (R140). -/
def execShl (a b : BitVec 5) (d e t : BitVec 4) (s : State) : Host.Outcome State Fault Refusal :=
  pe s (.shl a b d e t) (aluEff (.shl a b d e t) fun o => aluShl o.ka o.kb)
/-- `shr` (R140). -/
def execShr (a b : BitVec 5) (d e t : BitVec 4) (s : State) : Host.Outcome State Fault Refusal :=
  pe s (.shr a b d e t) (aluEff (.shr a b d e t) fun o => aluShr o.ka o.kb)
/-- `sar` (R140). -/
def execSar (a b : BitVec 5) (d e t : BitVec 4) (s : State) : Host.Outcome State Fault Refusal :=
  pe s (.sar a b d e t) (aluEff (.sar a b d e t) fun o => aluSar o.ka o.kb)
/-- `rol` (R140). -/
def execRol (a b : BitVec 5) (d e t : BitVec 4) (s : State) : Host.Outcome State Fault Refusal :=
  pe s (.rol a b d e t) (aluEff (.rol a b d e t) fun o => aluRol o.ka o.kb)
/-- `ror` (R140). -/
def execRor (a b : BitVec 5) (d e t : BitVec 4) (s : State) : Host.Outcome State Fault Refusal :=
  pe s (.ror a b d e t) (aluEff (.ror a b d e t) fun o => aluRor o.ka o.kb)
/-- `extr` (R140). -/
def execExtr (a b : BitVec 5) (d e t : BitVec 4) (s : State) : Host.Outcome State Fault Refusal :=
  pe s (.extr a b d e t) (aluEff (.extr a b d e t) fun o => aluExtr o.ka o.kb)
/-- `extr.s` (R140). -/
def execExtrS (a b : BitVec 5) (d e t : BitVec 4) (s : State) : Host.Outcome State Fault Refusal :=
  pe s (.extrS a b d e t) (aluEff (.extrS a b d e t) fun o => aluExtrS o.ka o.kb)
/-- `ins` (R140). -/
def execIns (a b : BitVec 5) (d e t : BitVec 4) (s : State) : Host.Outcome State Fault Refusal :=
  pe s (.ins a b d e t) (aluEff (.ins a b d e t) fun o => aluIns o.ka o.kb o.lit)
/-- `popc` (R140). -/
def execPopc (a : BitVec 5) (d e t : BitVec 4) (s : State) : Host.Outcome State Fault Refusal :=
  pe s (.popc a d e t) (aluEff (.popc a d e t) fun o => aluPopc o.ka)
/-- `clz` (R140). -/
def execClz (a : BitVec 5) (d e t : BitVec 4) (s : State) : Host.Outcome State Fault Refusal :=
  pe s (.clz a d e t) (aluEff (.clz a d e t) fun o => aluClz o.ka)
/-- `ctz` (R140). -/
def execCtz (a : BitVec 5) (d e t : BitVec 4) (s : State) : Host.Outcome State Fault Refusal :=
  pe s (.ctz a d e t) (aluEff (.ctz a d e t) fun o => aluCtz o.ka)
/-- `bswap` (R140). -/
def execBswap (a : BitVec 5) (d e t : BitVec 4) (s : State) : Host.Outcome State Fault Refusal :=
  pe s (.bswap a d e t) (aluEff (.bswap a d e t) fun o => aluBswap o.ka)

/-! ### Predicates (R141, R142) -/

/-- `pset` (R141): the predicates that B marks are written at the end of the firing. -/
def execPset (a b : BitVec 5) (t : BitVec 4) (s : State) : Host.Outcome State Fault Refusal :=
  pe s (.pset a b t) fun st f o _ =>
    .go { st := modBank st f.tile f.bank fun x => { x with p := psetP o.p o.ka o.kb } }
/-- `pget` (R141). -/
def execPget (d e t : BitVec 4) (s : State) : Host.Outcome State Fault Refusal :=
  pe s (.pget d e t) (aluEff (.pget d e t) fun o => aluPget o.p)
/-- The effect of a predicate operation (R142): its flag alone. -/
def predEff (r : BitVec 4 → W64 → Bool) (s : State) (_f : Firing) (o : Opnd) (_j : Nat) : Effect :=
  .go { st := s, flag := r o.p o.lit }
/-- `pand` (R142). -/
def execPand (t : BitVec 4) (s : State) : Host.Outcome State Fault Refusal :=
  pe s (.pand t) (predEff fun p l => litPX p l && litPY p l)
/-- `por` (R142). -/
def execPor (t : BitVec 4) (s : State) : Host.Outcome State Fault Refusal :=
  pe s (.por t) (predEff fun p l => litPX p l || litPY p l)
/-- `pxor` (R142). -/
def execPxor (t : BitVec 4) (s : State) : Host.Outcome State Fault Refusal :=
  pe s (.pxor t) (predEff fun p l => litPX p l ^^ litPY p l)
/-- `pnot` (R142). -/
def execPnot (t : BitVec 4) (s : State) : Host.Outcome State Fault Refusal :=
  pe s (.pnot t) (predEff fun p l => !litPX p l)

/-! ### Token operations (R143 to R147) -/

/-- The effect of `deq` and `peek` (R145): A's payload as DATA, with flag DATA. -/
def takeEff (s : State) (_f : Firing) (o : Opnd) (_j : Nat) : Effect :=
  .go { st := s, r1 := (.data, o.a), flag := (o.ha.map fun h => h.kind == .data).getD false }
/-- The effect of `fwd` (R145): A's payload with its kind. -/
def fwdEff (s : State) (_f : Firing) (o : Opnd) (_j : Nat) : Effect :=
  .go { st := s, r1 := ((o.ha.map (·.kind)).getD .data, o.a), flag := (o.ha.map fun h => h.kind == .data).getD false }
/-- The effect of `emit.null` (R146). -/
def emitNullEff (s : State) (_f : Firing) (_o : Opnd) (_j : Nat) : Effect := .go { st := s, r1 := (.null, 0) }
/-- The effect of `emit.mark` (R146): rank 0 gives ERR MARK_RANK. -/
def emitMarkEff (s : State) (_f : Firing) (o : Opnd) (_j : Nat) : Effect :=
  let k := o.ka.toNat % 8
  .go { st := s, r1 := if k = 0 then (.err, errPay 4 o.ka.toNat) else (.mark, BitVec.ofNat 512 k) }
/-- The effect of `emit.err` (R146). -/
def emitErrEff (s : State) (_f : Firing) (o : Opnd) (_j : Nat) : Effect := .go { st := s, r1 := (.err, o.ka.setWidth 512) }
/-- An input port with its head's tag replaced. -/
def retagPort (p : InPort) (t : BitVec 4) : InPort :=
  match p.queue with
  | (c, h) :: q => { p with queue := (c, { h with tag := t }) :: q }
  | [] => p
/-- The effect of `retag` (R147): the tag of A's own head is replaced in place. -/
def retagEff (a : BitVec 5) (ta : BitVec 4) (s : State) (f : Firing) (o : Opnd) (_j : Nat) : Effect :=
  let ep := tileEp f.tile a.toNat
  let h := (o.ha.map (·.tag)).getD 0
  .go { st := setInPort s ep (retagPort (inPortOf s ep) (tagRes ta h (o.b.setWidth 4) (o.lit.setWidth 4))) }
/-- The effect of `pos.reset` (R147). -/
def posResetEff (a : BitVec 5) (s : State) (f : Firing) (_o : Opnd) (_j : Nat) : Effect :=
  let ep := tileEp f.tile a.toNat
  .go { st := setInPort s ep { inPortOf s ep with hpos := 0 } }

/-- `deq` (R145). -/
def execDeq (a : BitVec 5) (d e t : BitVec 4) (s : State) : Host.Outcome State Fault Refusal := pe s (.deq a d e t) takeEff
/-- `peek` (R145). -/
def execPeek (a : BitVec 5) (d e t : BitVec 4) (s : State) : Host.Outcome State Fault Refusal := pe s (.peek a d e t) takeEff
/-- `fwd` (R145). -/
def execFwd (a : BitVec 5) (d e t : BitVec 4) (s : State) : Host.Outcome State Fault Refusal := pe s (.fwd a d e t) fwdEff
/-- `emit.null` (R146). -/
def execEmitNull (d e t : BitVec 4) (s : State) : Host.Outcome State Fault Refusal := pe s (.emitNull d e t) emitNullEff
/-- `emit.mark` (R146). -/
def execEmitMark (a : BitVec 5) (d e t : BitVec 4) (s : State) : Host.Outcome State Fault Refusal :=
  pe s (.emitMark a d e t) emitMarkEff
/-- `emit.err` (R146). -/
def execEmitErr (a : BitVec 5) (d e t : BitVec 4) (s : State) : Host.Outcome State Fault Refusal :=
  pe s (.emitErr a d e t) emitErrEff
/-- `retag` (R147). -/
def execRetag (a b : BitVec 5) (t : BitVec 4) (s : State) : Host.Outcome State Fault Refusal :=
  pe s (.retag a b t) (retagEff a t)
/-- `pos.reset` (R147). -/
def execPosReset (a : BitVec 5) (t : BitVec 4) (s : State) : Host.Outcome State Fault Refusal :=
  pe s (.posReset a t) (posResetEff a)
/-- `deq.d` (R145). -/
def execDeqD (a : BitVec 5) (d e t : BitVec 4) (s : State) : Host.Outcome State Fault Refusal := pe s (.deqD a d e t) takeEff
/-- `peek.d` (R145). -/
def execPeekD (a : BitVec 5) (d e t : BitVec 4) (s : State) : Host.Outcome State Fault Refusal :=
  pe s (.peekD a d e t) takeEff
/-- `fwd.d` (R145). -/
def execFwdD (a : BitVec 5) (d e t : BitVec 4) (s : State) : Host.Outcome State Fault Refusal := pe s (.fwdD a d e t) fwdEff
/-- `emit.null.d` (R146). -/
def execEmitNullD (d e t : BitVec 4) (s : State) : Host.Outcome State Fault Refusal := pe s (.emitNullD d e t) emitNullEff
/-- `emit.mark.d` (R146). -/
def execEmitMarkD (a : BitVec 5) (d e t : BitVec 4) (s : State) : Host.Outcome State Fault Refusal :=
  pe s (.emitMarkD a d e t) emitMarkEff
/-- `emit.err.d` (R146). -/
def execEmitErrD (a : BitVec 5) (d e t : BitVec 4) (s : State) : Host.Outcome State Fault Refusal :=
  pe s (.emitErrD a d e t) emitErrEff
/-- `retag.d` (R147). -/
def execRetagD (a b : BitVec 5) (t : BitVec 4) (s : State) : Host.Outcome State Fault Refusal :=
  pe s (.retagD a b t) (retagEff a t)
/-- `pos.reset.d` (R147). -/
def execPosResetD (a : BitVec 5) (t : BitVec 4) (s : State) : Host.Outcome State Fault Refusal :=
  pe s (.posResetD a t) (posResetEff a)

/-! ### Delay lines (R148, R149) -/

/-- The values of the delay line of output port LIT[2:0], if its channel exists. -/
def lineOf (s : State) (f : Firing) : Option (Nat × Chan) :=
  (outPortOf s (tileEp f.tile (f.lit.toNat % 8))).chan.bind fun k => (chanOf s k).map fun c => (k, c)
/-- The effect of `dl.get` (R148): the stage that A numbers, or 0. -/
def dlGetEff (s : State) (f : Firing) (o : Opnd) (_j : Nat) : Effect :=
  let l := ((lineOf s f).map fun c => c.2.line).getD []
  let v := l[o.ka.toNat]?
  .go { st := s, r1 := (.data, v.getD 0), flag := v.isSome }
/-- The effect of `dl.put` (R148): A's value at the stage that B numbers. -/
def dlPutEff (s : State) (f : Firing) (o : Opnd) (_j : Nat) : Effect :=
  match lineOf s f with
  | some (k, c) =>
    if o.kb.toNat < c.line.length then
      .go { st := setChan s k { c with line := c.line.set o.kb.toNat o.a }, flag := true }
    else .go { st := s, flag := false }
  | none => .go { st := s, flag := false }
/-- `dl.get` (R148). -/
def execDlGet (a : BitVec 5) (d e t : BitVec 4) (s : State) : Host.Outcome State Fault Refusal :=
  pe s (.dlGet a d e t) dlGetEff
/-- `dl.put` (R148). -/
def execDlPut (a b : BitVec 5) (t : BitVec 4) (s : State) : Host.Outcome State Fault Refusal := pe s (.dlPut a b t) dlPutEff
/-- `dl.get.d` (R148). -/
def execDlGetD (a : BitVec 5) (d e t : BitVec 4) (s : State) : Host.Outcome State Fault Refusal :=
  pe s (.dlGetD a d e t) dlGetEff
/-- `dl.put.d` (R148). -/
def execDlPutD (a b : BitVec 5) (t : BitVec 4) (s : State) : Host.Outcome State Fault Refusal :=
  pe s (.dlPutD a b t) dlPutEff

/-! ### Queue registers (R150) -/

/-- The queue register that A names: 14 for q0, 15 for q1. -/
def qSel (a : BitVec 5) : Nat := a.toNat - 14
/-- `q.cnt` (R150). -/
def execQCnt (a : BitVec 5) (d e t : BitVec 4) (s : State) : Host.Outcome State Fault Refusal :=
  pe s (.qCnt a d e t) fun st f _ _ =>
    let n := (qGet (bankOf (tileOf st f.tile) f.bank) (qSel a)).length
    .go { st := st, r1 := dataR (BitVec.ofNat 64 n), flag := n != 0 }
/-- `q.clr` (R150). -/
def execQClr (a : BitVec 5) (t : BitVec 4) (s : State) : Host.Outcome State Fault Refusal :=
  pe s (.qClr a t) fun st f _ _ => .go { st := modBank st f.tile f.bank fun b => qSet b (qSel a) [] }
/-- A bank with the depth of a queue register set: the oldest values are kept (R150). -/
def setDepth (b : Bank) (q n : Nat) : Bank :=
  if q = 0 then { b with q0 := b.q0.take n, qd0 := n } else { b with q1 := b.q1.take n, qd1 := n }
/-- `q.depth` (R150). -/
def execQDepth (a b : BitVec 5) (t : BitVec 4) (s : State) : Host.Outcome State Fault Refusal :=
  pe s (.qDepth a b t) fun st f o _ =>
    let n := o.kb.toNat
    if 1 ≤ n && n ≤ 16 then .go { st := modBank st f.tile f.bank fun x => setDepth x (qSel a) n, flag := true }
    else .go { st := st, flag := false }

/-! ### The mode word (R151) -/

/-- `mode.rd` (R151). -/
def execModeRd (d e t : BitVec 4) (s : State) : Host.Outcome State Fault Refusal :=
  pe s (.modeRd d e t) fun st _ o _ => .go { st := st, r1 := dataR o.mode, flag := modeSticky o.mode != 0 }
/-- The effect of a write of the mode word (R151). -/
def modeEff (g : W64 → W64 → W64) (s : State) (f : Firing) (o : Opnd) (_j : Nat) : Effect :=
  .go { st := modBank s f.tile f.bank fun b => { b with mode := modeWrite (g o.mode o.ka) } }
/-- `mode.wr` (R151). -/
def execModeWr (a : BitVec 5) (t : BitVec 4) (s : State) : Host.Outcome State Fault Refusal :=
  pe s (.modeWr a t) (modeEff fun _ x => x)
/-- `mode.set` (R151). -/
def execModeSet (a : BitVec 5) (t : BitVec 4) (s : State) : Host.Outcome State Fault Refusal :=
  pe s (.modeSet a t) (modeEff fun m x => m ||| x)
/-- `mode.clr` (R151). -/
def execModeClr (a : BitVec 5) (t : BitVec 4) (s : State) : Host.Outcome State Fault Refusal :=
  pe s (.modeClr a t) (modeEff fun m x => m &&& ~~~x)

/-! ### Switch-element index and the planes (R152, R153) -/

/-- Value ports of the switch element that an output port's channel feeds (R152, R97). -/
def swPorts (s : State) (ep : Nat) : Nat :=
  match (outPortOf s ep).chan.bind (chanOf s) with
  | some c => (c.cons.head?.map fun x => fld (tileOf s (epTile x.ep)).sw 60 58 + 1).getD 0
  | none => 0
/-- `sw.idx` (R152). -/
def execSwIdx (a b : BitVec 5) (d e t : BitVec 4) (s : State) : Host.Outcome State Fault Refusal :=
  pe s (.swIdx a b d e t) fun st f o _ =>
    let x := o.ka + o.kb
    .go { st := st, r1 := dataR x, flag := decide (x.toNat < swPorts st (tileEp f.tile d.toNat)) }
/-- `rep` (R153). -/
def execRep (a : BitVec 5) (d e t : BitVec 4) (s : State) : Host.Outcome State Fault Refusal :=
  pe s (.rep a d e t) fun st _ o _ => .go { st := st, r1 := (.data, rep8 o.ka), lat := 2 }
/-- `ext` (R153). -/
def execExt (a b : BitVec 5) (d e t : BitVec 4) (s : State) : Host.Outcome State Fault Refusal :=
  pe s (.ext a b d e t) fun st _ o _ =>
    .go { st := st, r1 := dataR (BitVec.ofNat 64 (lane o.a 64 (o.kb.toNat % 8))), flag := decide (o.kb.toNat < 8), lat := 2 }

/-! ### Maintenance loop (R154, R155) -/

/-- `ml.on` (R154): MAINT_ONLY outside a region installed in maintenance mode. -/
def execMlOn (a b : BitVec 5) (t : BitVec 4) (s : State) : Host.Outcome State Fault Refusal :=
  pe s (.mlOn a b t) fun st f o _ =>
    if ((tileRgn st f.tile).map fun r => r.2.maint).getD false then
      let n := o.ka.toNat
      let bk := bankOf (tileOf st f.tile) f.bank
      if 1 ≤ n && n ≤ 8 then
        .go { st := modBank st f.tile f.bank fun x => { x with rs := n, lc := o.kb.toNat % n, mlOn := true }, flag := true }
      else .go { st := st, flag := bk.mlOn }
    else .stop 3 0
/-- `ml.off` (R154). -/
def execMlOff (t : BitVec 4) (s : State) : Host.Outcome State Fault Refusal :=
  pe s (.mlOff t) fun st f _ _ => .go { st := modBank st f.tile f.bank fun x => { x with mlOn := false } }
/-- `ml.rd`'s word (R154). -/
def loopWord (b : Bank) : W64 := BitVec.ofNat 64 (b.mlOn.toNat * 2 ^ 16 + b.rs * 2 ^ 8 + b.lc)
/-- `ml.rd` (R154). -/
def execMlRd (d e t : BitVec 4) (s : State) : Host.Outcome State Fault Refusal :=
  pe s (.mlRd d e t) fun st f _ _ =>
    let b := bankOf (tileOf st f.tile) f.bank
    .go { st := st, r1 := dataR (loopWord b), flag := b.mlOn }

/-! ### System instructions (R156 to R160, R423) -/

/-- `trap` (R156): the firing completes, then the PE stops with cause PROGRAM. -/
def execTrap (a : BitVec 5) (t : BitVec 4) (s : State) : Host.Outcome State Fault Refusal :=
  pe s (.trap a t) fun st _ o _ => .go { st := st, after := some (1, o.ka) }
/-- `yield` (R157). -/
def execYield (t : BitVec 4) (s : State) : Host.Outcome State Fault Refusal :=
  pe s (.yield t) fun st f _ _ =>
    .go { st := modTile st f.tile fun x => { x with yielded := some (f.bank, st.cyc + 1) } }
/-- `cfg.sel` (R158): no bank fires in the next two cycles. -/
def execCfgSel (a : BitVec 5) (t : BitVec 4) (s : State) : Host.Outcome State Fault Refusal :=
  pe s (.cfgSel a t) fun st f o _ =>
    .go { st := modTile st f.tile fun x => { x with ctx := o.ka.toNat % 4, resume := st.cyc + 3 } }
/-- A value of a region instance (R159). -/
def rgnValue (r : Region) (t : Tile) (sel : Nat) : Option W64 :=
  match sel with
  | 0 => some (BitVec.ofNat 64 (Config.layoutVA r.part r.id))
  | 1 => some (BitVec.ofNat 64 r.id)
  | 2 => some (r.version.setWidth 64)
  | 3 => some (BitVec.ofNat 64 ((r.launch.map (·.1)).getD 0))
  | 4 => some (BitVec.ofNat 64 ((r.launch.map (·.2.1)).getD 0))
  | 5 => some (BitVec.ofNat 64 ((r.launch.map (·.2.2.1)).getD 0))
  | 6 => some (BitVec.ofNat 64 t.ctx)
  | 7 => some (BitVec.ofNat 64 r.part)
  | _ => none
/-- `rgn.stat` (R159). -/
def execRgnStat (a : BitVec 5) (d e t : BitVec 4) (s : State) : Host.Outcome State Fault Refusal :=
  pe s (.rgnStat a d e t) fun st f o _ =>
    let v := (tileRgn st f.tile).bind fun r => rgnValue r.2 (tileOf st f.tile) o.ka.toNat
    .go { st := st, r1 := dataR (v.getD 0), flag := v.isSome }
/-- `dbg.brk` (R423): with BRKEN, a halt of the region with cause 1 and value A. -/
def execDbgBrk (a : BitVec 5) (t : BitVec 4) (s : State) : Host.Outcome State Fault Refusal :=
  pe s (.dbgBrk a t) fun st f o _ =>
    match tileRgn st f.tile with
    | some (k, r) =>
      if (partOf st r.part).traceCtl.getLsbD 2 then
        .go { st := startHalt st k 1 o.ka (trapElem f.tile f.bank f.slot f.ctx) }
      else .go { st := st }
    | none => .go { st := st }
/-- `nop` (R160). -/
def execNop (t : BitVec 4) (s : State) : Host.Outcome State Fault Refusal :=
  pe s (.nop t) fun st _ _ _ => .go { st := st }

end Sys2Proof.Machine
end

