-- ==== Sys2Proof/Machine/Tasks.lean ====
section
/-! DEFINITION. Task packets and handlers (R331 to R334): sending, arrival, presentation, bindings. -/
namespace Sys2Proof.Machine

/-- A packet on the die mesh towards a tile, from an agent next to a cluster (R331, R229). -/
def sendPacket (s : State) (src cl dst : Nat) (p : Packet) : State :=
  let (id, s1) := freshId s
  let (d, s2) := freeDelay s1
  { s2 with packets := s2.packets ++ [⟨id, src, dst, s.cyc + max 1 (roundTrip s cl (tileCluster dst) / 2) + d, p⟩] }
/-- A TASK_DROP record (R354). -/
def taskDrop (s : State) (pn reason region elem : Nat) (a b : W64) (label : Nat) : State :=
  faultRecord s pn (.bank (epTile elem) 0) (recOf [(0, 2, 0x60), (2, 2, reason), (4, 4, region), (8, 4, elem), (16, 8, a.toNat), (24, 8, b.toNat),
    (32, 1, label), (56, 8, s.cyc)])
/-- A packet of a region's tile dropped: it leaves the count in flight (R393), and a record tells of it (R331). -/
def dropFrom (s : State) (pn rid tile reason : Nat) (p : Packet) : State :=
  let s1 := match p.slot with
    | some (tab, e, r) => infAdd s pn tab e r false
    | none => s
  taskDrop s1 pn reason rid (tileEp tile 0) p.w0 p.w1 p.label
/-- A packet dropped at a tile (R331, R334). -/
def dropPacket (s : State) (tile reason : Nat) (p : Packet) : State :=
  dropFrom s (tilePart s tile) (((tileRgn s tile).map fun r => r.2.id).getD 0) tile reason p
/-- The packets that wait at a tile dropped with its bindings, each with a record (R331, R393; DEDUCED, log 118). -/
def dropAll (pn rid : Nat) (s : State) (tile : Nat × Tile) : State :=
  (tile.2.present.toList ++ tile.2.tbuf).foldl (fun x p => dropFrom x pn rid tile.1 1 p) s

/-! ### The instructions (R333, R334) -/

/-- The route value of a `tsend`: register k[RSEL], or the literal. -/
def routeValue (s : State) (f : Firing) : W64 :=
  if f.lit.getLsbD 30 then
    let b := bankOf (tileOf s f.tile) f.bank
    kGet b (kIdx b (fld f.lit 29 27))
  else f.lit
/-- `tsend` (R334). -/
def execTsend (a b : BitVec 5) (t : BitVec 4) (s : State) : Host.Outcome State Fault Refusal :=
  pe s (.tsend a b t) fun st f o _ =>
    let r := routeValue st f
    let ep := fld r 25 7
    if liveTileEp st (partOf st (tilePart st f.tile)) ep then
      let two := f.lit.getLsbD 31
      .go { st := sendPacket st (f.tile * 4 + f.bank) (tileCluster f.tile) (epTile ep)
              { label := fld r 6 0, two := two, w0 := o.ka, w1 := if two then o.kb else 0, acq := none, slot := none } }
    else .stop 0xE01 r
/-- Whether a slot of the selected context is valid and takes packets. -/
def taskSlot (t : Tile) (n : Nat) : Bool :=
  let x := mapGet t.slots (64 * t.ctx + n) slot0
  trV x.trig && trTch x.trig == 6
/-- `hbind` (R334). -/
def execHbind (t : BitVec 4) (s : State) : Host.Outcome State Fault Refusal :=
  pe s (.hbind t) fun st f _ _ =>
    let u := tileOf st f.tile
    if taskSlot u (fld f.lit 13 8) then
      .go { st := setTile st f.tile { u with bind := mapPut u.bind (fld f.lit 6 0) ⟨fld f.lit 13 8, fld f.lit 17 16⟩ },
            flag := true }
    else .go { st := st }
/-- The packets that wait at a tile under a label, oldest first. -/
def waiting (t : Tile) (label : Nat) : List Packet :=
  ((t.present.toList) ++ t.tbuf).filter fun p => p.label == label
/-- `hunbind` (R334). -/
def execHunbind (t : BitVec 4) (s : State) : Host.Outcome State Fault Refusal :=
  pe s (.hunbind t) fun st f _ _ =>
    let u := tileOf st f.tile
    let l := fld f.lit 6 0
    let s1 := setTile st f.tile
      { u with bind := mapDel u.bind l, tbuf := u.tbuf.filter (fun p => p.label != l),
               present := u.present.filter fun p => p.label != l }
    .go { st := (waiting u l).foldl (fun x p => dropPacket x f.tile 2 p) s1, flag := (mapFind u.bind l).isSome }

/-! ### Arrival and presentation (R331, R332) -/

/-- Whether a packet on the mesh can arrive: its time has come and no earlier packet of its bank to its PE is on its
way. -/
def packetDue (s : State) (n : NetPacket) : Bool :=
  decide (n.due ≤ s.cyc) && !s.packets.any fun m => decide (m.id < n.id) && m.src == n.src && m.dst == n.dst
/-- The expert whose retiring slot stands at a tile under a label, in the version that the tile's die has adopted (R393). -/
def retiringAt (s : State) (tile label : Nat) : Option (Adopted × Nat × Nat) :=
  (dieOf s (tileDie tile)).tabs.findSome? fun a =>
    if a.part != tilePart s tile then none
    else a.slots.findSome? fun (i, w) =>
      if fld w 63 62 == 3 && fld w 57 39 == tileEp tile 0 && fld w 38 32 == label then some (a, i / 8, i % 8) else none
/-- What arrives: while the task buffer is full a packet waits in the mesh. One for a label with a binding takes a place, as does one
for a label under which a retiring replica is redirected (R393); one for any other label is dropped. -/
def packetIn (s : State) (n : NetPacket) : Option State :=
  let t := tileOf s n.dst
  let s1 := { s with packets := s.packets.filter fun m => m.id != n.id }
  if 32 ≤ t.tbuf.length + t.present.toList.length then none
  else if (mapFind t.bind n.pkt.label).isNone && (retiringAt s n.dst n.pkt.label).isNone then some (dropPacket s1 n.dst 1 n.pkt)
  else some (setTile s1 n.dst { t with tbuf := t.tbuf ++ [n.pkt] })
/-- TASK_PACKET_ARRIVAL (R331). -/
def execTaskPacketArrival (id : Nat) (s : State) : Host.Outcome State Fault Refusal :=
  match s.packets.find? fun n => n.id == id with
  | some n => .next (if packetDue s n then (packetIn s n).getD s else s)
  | none => .next s
/-- The label that the picker turns to: the first, after the one presented last, that holds a packet and whose binding
names a slot that takes packets (R332). -/
def nextLabel (t : Tile) : Option Nat :=
  ((List.range 128).map fun i => (t.lastLabel + 1 + i) % 128).find? fun l =>
    t.tbuf.any (fun p => p.label == l) && (match mapFind t.bind l with | some b => taskSlot t b.slot | none => false)
/-- The first element that a test picks, and the list without it. -/
def takeFirst {α : Type} (f : α → Bool) : List α → Option (α × List α)
  | [] => none
  | x :: l => if f x then some (x, l) else (takeFirst f l).map fun r => (r.1, x :: r.2)
/-- PACKET_PRESENT (R332). -/
def execPacketPresent (tile : Nat) (s : State) : Host.Outcome State Fault Refusal :=
  let t := tileOf s tile
  match t.present, (nextLabel t).bind fun l => (takeFirst (fun p => p.label == l) t.tbuf).map fun r => (l, r) with
  | none, some (l, p, rest) => .next (setTile s tile { t with present := some p, tbuf := rest, lastLabel := l })
  | _, _ => .next s

end Sys2Proof.Machine
end

