-- ==== Sys2Proof/Machine/Futures.lean ====
section
/-! DEFINITION. Futures (R344 to R348, R353, R356), and the operations on groups at their dispatcher (R349). -/
namespace Sys2Proof.Machine

/-- A partition's share of futures on a die: base and count (R411). -/
def futShare (p : Part) (d : Nat) : Nat × Nat := (partFld p (184 + 8 * d) 2, partFld p (186 + 8 * d) 2)
/-- A partition's share of groups on a die. -/
def grpShare (p : Part) (d : Nat) : Nat × Nat := (partFld p (188 + 8 * d) 2, partFld p (190 + 8 * d) 2)
/-- The id of a future or group (R344). -/
def futId (d ix gen : Nat) : Nat := ix + d * 2 ^ 12 + gen * 2 ^ 14
/-- A future of a die. -/
def futAt (s : State) (d ix : Nat) : Fut := mapGet (dieOf s d).futs ix fut0
/-- The state with a future replaced. -/
def setFut (s : State) (d ix : Nat) (f : Fut) : State := modDie s d fun x => { x with futs := mapPut x.futs ix f }
/-- Die, index and future of an id that names a future of the partition not freed; none for a stale id (R344). -/
def futLive (s : State) (pn id : Nat) : Option (Nat × Nat × Fut) :=
  let d := id / 2 ^ 12 % 4
  let ix := id % 2 ^ 12
  let f := futAt s d ix
  if id < 2 ^ 32 && f.gen == id / 2 ^ 14 && f.st != 3 && !f.retired && f.part == pn then some (d, ix, f) else none
/-- The state word of a future (R345). -/
def futWord (f : Fut) : W64 :=
  BitVec.ofNat 64 (f.st * 2 ^ 62 + f.cnt % 256 * 2 ^ 54 + f.regs.length * 2 ^ 51 + f.value % 2 ^ 32)
/-- What `fut.rd` and a watch give for a stale id. -/
def futStale : W64 := 0xC000000000000000
/-- The future freed: its generation rises, and at the last one it is retired (R344). -/
def futFree (f : Fut) : Fut :=
  if f.gen = 2 ^ 18 - 1 then { f with st := 3, cnt := 0, value := 0, regs := [], retired := true }
  else { fut0 with gen := f.gen + 1, part := f.part }
/-- An operation sent to a dispatcher. -/
def futSend (s : State) (cl : Nat) (o : FutOp) : State :=
  let (id, s1) := freshId s
  let (d, s2) := freeDelay s1
  { s2 with futOps := s2.futOps ++
      [{ o with id := id, due := s.cyc + max 1 (roundTrip s cl (o.fut / 2 ^ 12 % 4 * 128) / 2) + d }] }
/-- An operation of a PE's firing. -/
def futOp (s : State) (f : Firing) (op fut : Nat) (arg : W64) (jid : Nat) : FutOp :=
  { id := 0, op := op, fut := fut, arg := arg, tile := f.tile, job := jid, bank := f.bank, part := (tileHolder s f.tile).2.1,
    due := 0, after := s.nid, who := (f.bank, f.slot, f.ctx), src := none, done := false, val := 0, flag := false, trap := 0,
    back := 0 }
/-- The effect of a firing that sends an operation and waits for its answer (R346). -/
def futAsk (s : State) (f : Firing) (op fut : Nat) (arg : W64) (jid : Nat) : Effect :=
  .go { st := futSend s (tileCluster f.tile) (futOp s f op fut arg jid), wait := .answer }

/-! ### Groups (R349) -/

/-- A group of a die. -/
def grpAt (s : State) (d ix : Nat) : Grp := mapGet (dieOf s d).grps ix grp0
/-- The state with a group replaced. -/
def setGrp (s : State) (d ix : Nat) (g : Grp) : State := modDie s d fun x => { x with grps := mapPut x.grps ix g }
/-- Die, index and group of an id that names a live group of the partition. -/
def grpLive (s : State) (pn id : Nat) : Option (Nat × Nat × Grp) :=
  let d := id / 2 ^ 12 % 4
  let ix := id % 2 ^ 12
  let g := grpAt s d ix
  if id < 2 ^ 32 && !dieFenced s d && g.live && g.gen == id / 2 ^ 14 && g.part == pn then some (d, ix, g) else none
/-- The group without members and open instances dissolves (R349); its generation follows R344. -/
def dissolve (g : Grp) : Grp :=
  if g.members.isEmpty && g.insts.isEmpty then
    (if g.gen = 2 ^ 18 - 1 then { grp0 with gen := g.gen, retired := true } else { grp0 with gen := g.gen + 1 })
  else g
/-- The lowest-numbered free group of a partition's share on a die. -/
def grpPick (s : State) (pn d : Nat) : Option Nat :=
  let (b, n) := grpShare (partOf s pn) d
  (List.range n).findSome? fun i => let g := grpAt s d (b + i); if !g.live && !g.retired then some (b + i) else none
/-- Position of a context in a list of contexts. -/
def rankOf (c : Nat) : List Nat → Option Nat
  | [] => none
  | x :: l => if x = c then some 0 else (rankOf c l).map (· + 1)
/-! ### The instructions (R346, R347) -/

/-- `fut.new`. -/
def execFutNew (d e t : BitVec 4) (s : State) : Host.Outcome State Fault Refusal :=
  pe s (.futNew d e t) fun st f _ j => futAsk st f 0 (tileDie f.tile * 2 ^ 12) f.lit j
/-- `fut.reg`. -/
def execFutReg (a b : BitVec 5) (d e t : BitVec 4) (s : State) : Host.Outcome State Fault Refusal :=
  pe s (.futReg a b d e t) fun st f o j => futAsk st f 1 o.ka.toNat o.kb j
/-- `fut.res`: a release at fabric scope (R348). -/
def execFutRes (a b : BitVec 5) (t : BitVec 4) (s : State) : Host.Outcome State Fault Refusal :=
  pe s (.futRes a b t) fun st f o j =>
    .go { st := futSend st (tileCluster f.tile) (futOp st f 2 o.ka.toNat o.kb j) }
/-- `fut.fault`: a release at fabric scope (R348). -/
def execFutFault (a b : BitVec 5) (t : BitVec 4) (s : State) : Host.Outcome State Fault Refusal :=
  pe s (.futFault a b t) fun st f o j =>
    .go { st := futSend st (tileCluster f.tile) (futOp st f 3 o.ka.toNat o.kb j) }
/-- `fut.wait` (R347, R348): it fires once its watch has reported; one that reports FREE traps. -/
def execFutWait (a : BitVec 5) (d e t : BitVec 4) (s : State) : Host.Outcome State Fault Refusal :=
  pe s (.futWait a d e t) fun st f o _ =>
    match watchSeen st f.tile o.ka with
    | none => .go { st := st }
    | some w =>
      if fld w 63 62 = 3 then .stop 0xE02 o.ka
      else
        let h := tileHolder st f.tile
        let s1 := modTile st f.tile fun u => { u with watches := u.watches.filter fun x => x.fut != o.ka.toNat }
        .go { st := clkAcquire s1 h.2.1 h.1 (.future o.ka.toNat) 2 (tilePlace f.tile) none, r1 := dataR w }
/-- `fut.rd`. -/
def execFutRd (a : BitVec 5) (d e t : BitVec 4) (s : State) : Host.Outcome State Fault Refusal :=
  pe s (.futRd a d e t) fun st f o j => futAsk st f 4 o.ka.toNat f.lit j

/-! ### At the dispatcher (R346, R347) -/

/-- One kept registration acts (R346): a packet with the final state word, or a chain to another future. -/
def futAct (s : State) (pn d id : Nat) (f : Fut) (r : W64) : State :=
  if r.getLsbD 63 then
    futSend s (d * 128) { futOp s firing0 (if f.st = 1 then 2 else 3) (fld r 31 0) (BitVec.ofNat 64 f.value) 0 with
                            tile := d * 2048, part := pn, who := (4, 0, 0), src := some id }
  else sendPacket s (2 ^ 20 + d) (d * 128) (epTile (fld r 57 39))
    { label := fld r 38 32, two := true, w0 := BitVec.ofNat 64 (fld r 31 0), w1 := futWord { f with regs := [] },
      acq := some (.future id), slot := none }
/-- A future that has left PENDING: every kept registration acts, in order. -/
def futActAll (s : State) (pn d ix id : Nat) (f : Fut) : State :=
  f.regs.foldl (fun x r => futAct x pn d id f r) (setFut s d ix { f with regs := [] })
/-- Whether a registration is one that a future takes (R347). -/
def regOk (s : State) (pn : Nat) (r : W64) : Bool :=
  if r.getLsbD 63 then fld r 57 39 == 0 && fld r 38 32 == 0 else liveTileEp s (partOf s pn) (fld r 57 39)
/-- The lowest-numbered FREE future of a partition's share on a die (R356). -/
def futPick (s : State) (pn d : Nat) : Option Nat :=
  let (b, n) := futShare (partOf s pn) d
  (List.range n).findSome? fun i => let f := futAt s d (b + i); if f.st = 3 && !f.retired then some (b + i) else none
/-- The release of a resolution or a fault (R348): by the bank, or from a chain's source. -/
def futRelease (s : State) (o : FutOp) : State :=
  match o.src with
  | some src => clkJoin s o.part (.future src) (.future o.fut) (diePlace (src / 2 ^ 12 % 4))
  | none =>
    clkRelease s o.part (tileHolder s o.tile).1 (.future o.fut) 2 (tilePlace o.tile)
/-- The outcome of an operation at its future: the state, the value and flag answered, and the cause of a trap. -/
structure FutRes where
  st : State
  val : W64 := 0
  flag : Bool := false
  trap : Nat := 0
/-- A resolution (`fault` false) or a fault of a future (R347). A chain's action on a future that is not PENDING is dropped
(R346). -/
def futSettle (s : State) (o : FutOp) (fault : Bool) : FutRes :=
  match futLive s o.part o.fut with
  | none => { st := s, trap := if o.src.isSome then 0 else 0xE02 }
  | some (d, ix, f) =>
    match f.st with
    | 0 =>
      let s1 := futRelease s o
      let v := o.arg.toNat % 2 ^ 32
      if fault then { st := futActAll s1 o.part d ix o.fut { f with st := 2, value := v, cnt := 0 } }
      else
        let g := { f with value := (f.value + v) % 2 ^ 32, cnt := f.cnt - 1 }
        if g.cnt = 0 then { st := futActAll s1 o.part d ix o.fut { g with st := 1 } } else { st := setFut s1 d ix g }
    | 1 =>
      if o.src.isSome then { st := taskDrop s o.part 3 0 0 (BitVec.ofNat 64 o.fut) 0 0 }
      else { st := s, trap := 0xE03 }
    | _ => { st := s }
/-- An operation on a group performed at its dispatcher (R349): 5 `join`, 6 `leave`, 7 `grp.new`, 8 `grp.size`. -/
def grpPerform (s : State) (o : FutOp) : FutRes :=
  let c := o.tile * 4 + o.who.1
  if o.op = 7 then
    let d := o.fut / 2 ^ 12 % 4
    match if dieFenced s d then none else grpPick s o.part d with
    | some ix =>
      let g := grpAt s d ix
      { st := setGrp s d ix { grp0 with gen := g.gen, live := true, part := o.part }, val := BitVec.ofNat 64 (futId d ix g.gen), flag := true }
    | none => { st := s }
  else match o.op, grpLive s o.part o.fut with
    | 5, none => { st := s, val := BitVec.allOnes 64 }
    | 5, some (d, ix, g) =>
      (match rankOf c g.members with
       | some r => { st := s, val := BitVec.ofNat 64 r }
       | none =>
         if 65536 ≤ g.members.length then { st := s, val := BitVec.allOnes 64 }
         else { st := setGrp s d ix { g with members := g.members ++ [c] }, val := BitVec.ofNat 64 g.members.length, flag := true })
    | 6, some (d, ix, g) =>
      if g.members.contains c then { st := setGrp s d ix (dissolve { g with members := g.members.filter (· != c) }), flag := true }
      else { st := s }
    | 8, some (_, _, g) => { st := s, val := BitVec.ofNat 64 g.members.length, flag := true }
    | _, _ => { st := s }
/-- One operation performed at its dispatcher (R347, R349). -/
def futPerform (s : State) (o : FutOp) : FutRes :=
  if 5 ≤ o.op then grpPerform s o
  else if dieFenced s (o.fut / 2 ^ 12 % 4) then { st := s, trap := if o.src.isSome then 0 else 0x10A }
  else match o.op with
  | 0 =>
    let d := o.fut / 2 ^ 12 % 4
    (match futPick s o.part d with
     | some ix =>
       let f := futAt s d ix
       { st := setFut s d ix { f with st := 0, cnt := o.arg.toNat % 256, value := 0, regs := [], part := o.part },
         val := BitVec.ofNat 64 (futId d ix f.gen), flag := true }
     | none => { st := s })
  | 1 =>
    (match futLive s o.part o.fut with
     | none => { st := s, trap := 0xE02 }
     | some (d, ix, f) =>
       if !regOk s o.part o.arg || (f.st == 0 && f.regs.length == 4) then { st := s, val := futWord f }
       else if f.st = 0 then { st := setFut s d ix { f with regs := f.regs ++ [o.arg] }, val := futWord f, flag := true }
       else { st := futAct s o.part d o.fut f o.arg, val := futWord f, flag := true })
  | 2 => futSettle s o false
  | 3 => futSettle s o true
  | _ =>
    match futLive s o.part o.fut with
    | none => { st := s, val := futStale }
    | some (d, ix, f) =>
      { st := if o.arg.getLsbD 0 && f.st != 0 then setFut s d ix (futFree f) else s, val := futWord f, flag := true }
/-- Whether a command of a bank to a die's dispatcher with an id below n is not yet accepted: an operation on a future or a
group, an arrival at a collective, or a launch of the bank's own die (R23). -/
def dispEarlier (s : State) (n tile bank d : Nat) : Bool :=
  s.futOps.any (fun x => decide (x.id < n) && !x.done && x.tile == tile && x.who.1 == bank && x.fut / 2 ^ 12 % 4 == d)
    || s.arrivals.any (fun x => decide (x.id < n) && x.tile == tile && x.bank == bank && x.grp / 2 ^ 12 % 4 == d)
    || (tileDie tile == d && s.accs.any fun x => decide (x.id < n) && x.agent == .bank tile bank
        && !(x.done && !x.ok) && (match x.toward with | .launch _ => true | _ => false))
/-- Whether an operation can be performed: it has arrived, no earlier command of its bank to this dispatcher is outstanding
(R23), and a release's writes are performed (R348). -/
def futDue (s : State) (o : FutOp) : Bool :=
  decide (o.due ≤ s.cyc) && !o.done && !dispEarlier s o.id o.tile o.who.1 (o.fut / 2 ^ 12 % 4)
    && (o.src.isSome || (o.op != 2 && o.op != 3)
        || (!pendingBelow s (.bank o.tile o.bank) o.after 2 && clockRoom (partOf s o.part) (tileHolder s o.tile).1))
/-- FUTURE_OPERATION (R347). -/
def execFutureOperation (id : Nat) (s : State) : Host.Outcome State Fault Refusal :=
  match s.futOps.find? fun o => o.id == id with
  | none => .next s
  | some o =>
    if futDue s o then
      let r := futPerform s o
      if (o.op = 2 || o.op = 3) && r.trap = 0 then
        .next { r.st with futOps := r.st.futOps.filter fun x => x.id != id }
      else
        let back := s.cyc + max 1 (roundTrip s (tileCluster o.tile) (o.fut / 2 ^ 12 % 4 * 128) / 2)
        .next { r.st with futOps := r.st.futOps.map fun x =>
            if x.id = id then { o with done := true, val := r.val, flag := r.flag, trap := r.trap, back := back } else x }
    else .next s
/-- FUTURE_ANSWER (R347, R353): the answer reaches the PE. -/
def execFutureAnswer (id : Nat) (s : State) : Host.Outcome State Fault Refusal :=
  match s.futOps.find? fun o => o.id == id with
  | none => .next s
  | some o =>
    if o.done && decide (o.back ≤ s.cyc) then
      let s1 := { s with futOps := s.futOps.filter fun x => x.id != id }
      let job := if o.op = 2 || o.op = 3 then none else jobOf (tileOf s o.tile) o.job
      if o.trap = 0 then
        match job with
        | some j => .next (answerJob s1 o.tile j (o.val.setWidth 512) o.flag)
        | none => .next s1
      else
        let s2 := match job with
          | some j => dropJob s1 o.tile j
          | none => s1
        .next (takeTrap s2 o.tile (answerTrap s o.tile o.who o.trap (BitVec.ofNat 64 o.fut)))
    else .next s
/-- The state word that a watch would report: none while the future is PENDING (R347). -/
def watchWord (s : State) (pn id : Nat) : Option W64 :=
  if dieFenced s (id / 2 ^ 12 % 4) then some futStale
  else match futLive s pn id with
  | some (_, _, f) => if f.st = 0 then none else some (futWord f)
  | none => some futStale
/-- The report that a watch of a tile has to make now. -/
def watchDue (s : State) (tile : Nat) (w : Watch) : Option W64 :=
  if w.seen.isNone && decide (w.due ≤ s.cyc) then watchWord s (tileHolder s tile).2.1 w.fut else none
/-- WATCH_REPORT (R347). -/
def execWatchReport (tile fut : Nat) (s : State) : Host.Outcome State Fault Refusal :=
  let t := tileOf s tile
  let back := s.cyc + max 1 (roundTrip s (tileCluster tile) (fut / 2 ^ 12 % 4 * 128) / 2)
  .next (setTile s tile { t with watches := t.watches.map fun w =>
    if w.fut = fut then
      (match watchDue s tile w with
       | some x => { w with seen := some x, due := back }
       | none => w)
    else w })

end Sys2Proof.Machine
end

