-- ==== Sys2Proof/Machine/Groups.lean ====
section
/-! DEFINITION. Groups and collectives (R349 to R352, R308, R320). -/
namespace Sys2Proof.Machine

/-! ### Groups (R349) -/

/-- Cycles from a firing to its answer from a dispatcher (R349). -/
def dispTrip (s : State) (tile id : Nat) : Nat := roundTrip s (tileCluster tile) (id / 2 ^ 12 % 4 * 128)
/-- `join` (R349). -/
def execJoin (a : BitVec 5) (d e t : BitVec 4) (s : State) : Host.Outcome State Fault Refusal :=
  pe s (.join a d e t) fun st f o j => futAsk st f 5 o.ka.toNat 0 j
/-- `leave` (R349). -/
def execLeave (a : BitVec 5) (t : BitVec 4) (s : State) : Host.Outcome State Fault Refusal :=
  pe s (.leave a t) fun st f o j => futAsk st f 6 o.ka.toNat 0 j
/-- `grp.new` (R349). -/
def execGrpNew (d e t : BitVec 4) (s : State) : Host.Outcome State Fault Refusal :=
  pe s (.grpNew d e t) fun st f _ j => futAsk st f 7 (tileDie f.tile * 2 ^ 12) 0 j
/-- `grp.size` (R349). -/
def execGrpSize (a : BitVec 5) (d e t : BitVec 4) (s : State) : Host.Outcome State Fault Refusal :=
  pe s (.grpSize a d e t) fun st f o j => futAsk st f 8 o.ka.toNat 0 j

/-! ### Collectives: the firing (R350, R352) -/

/-- The effect of a collective's firing: its arrival is sent, and d and the instructions that R303 holds wait. -/
def collEff (i : Instr) (op : Nat) (s : State) (f : Firing) (o : Opnd) (jid : Nat) : Effect :=
  let (id, s1) := freshId s
  let (d, s2) := freeDelay s1
  let a : Arrival :=
    { id := id, op := op, spec := f.lit, grp := o.ka.toNat, buf := o.kb, hasBuf := (opnds i).b != 17, tile := f.tile,
      bank := f.bank, job := jid, part := (tileHolder s f.tile).2.1, holder := (tileHolder s f.tile).1, rgn := (tileHolder s f.tile).2.2,
      due := s.cyc + max 1 (dispTrip s f.tile o.ka.toNat / 2) + d, after := s.nid }
  .go { st := { s2 with arrivals := s2.arrivals ++ [a] }, wait := .answer, acq := true }
/-- `barrier` (R350). -/
def execBarrier (a b : BitVec 5) (d e t : BitVec 4) (s : State) : Host.Outcome State Fault Refusal :=
  pe s (.barrier a b d e t) (collEff (.barrier a b d e t) 0x39A)
/-- `reduce` (R350). -/
def execReduce (a b : BitVec 5) (d e t : BitVec 4) (s : State) : Host.Outcome State Fault Refusal :=
  pe s (.reduce a b d e t) (collEff (.reduce a b d e t) 0x39B)
/-- `allreduce` (R350). -/
def execAllreduce (a b : BitVec 5) (d e t : BitVec 4) (s : State) : Host.Outcome State Fault Refusal :=
  pe s (.allreduce a b d e t) (collEff (.allreduce a b d e t) 0x39C)
/-- `bcast` (R350). -/
def execBcast (a b : BitVec 5) (d e t : BitVec 4) (s : State) : Host.Outcome State Fault Refusal :=
  pe s (.bcast a b d e t) (collEff (.bcast a b d e t) 0x39D)

/-! ### Arrival at the dispatcher (R350) -/

/-- The job of a participant with its answer: d, and the flag, from cycle `back` on. -/
def collJob (a : Arrival) (num status back : Nat) (j : Job) : Job :=
  let r := (BitVec.ofNat 64 (status + num % 2 ^ 48 * 2 ^ 16)).setWidth 512
  if j.id = a.job then
    { j with wait := .none, due := back, r1 := (.data, r), r2 := (.data, r), pred := j.pred.map fun p => (p.1, status == 0) }
  else j
/-- The answer to one participant, after the way back: at its tile, in its tile's shadow state (R381), and in the saves that hold
it while its region is SAVED. -/
def collAnswer (s : State) (a : Arrival) (num status : Nat) : State :=
  let f := collJob a num status (s.cyc + max 1 (dispTrip s a.tile a.grp / 2))
  let put := fun t : Tile => { t with jobs := t.jobs.map f }
  let s1 := if (tileOf s a.tile).jobs.any fun j => j.id == a.job then modTile s a.tile put else s
  { s1 with shadows := s1.shadows.map (fun t => if t.1 = a.tile then (t.1, put t.2) else t), saves := s1.saves.map fun e => (e.1, if e.2.rgn.part = a.part then
      { e.2 with tiles := e.2.tiles.map fun t => if t.1 = a.tile then (t.1, put t.2) else t } else e.2) }
/-- Whether a context has entered an instance. -/
def entered (i : Inst) (c : Nat) : Bool := i.arr.any fun a => a.tile * 4 + a.bank == c
/-- An arrival entered into the first instance that a test picks. -/
def enterInst (f : Inst → Bool) (a : Arrival) : List Inst → List Inst
  | [] => []
  | i :: l => if f i then { i with arr := i.arr ++ [a] } :: l else i :: enterInst f a l
/-- An arrival taken at its group; none while it is held because four instances are open. -/
def collTake (s : State) (a : Arrival) : Option State :=
  let s1 := { s with arrivals := s.arrivals.filter fun x => x.id != a.id }
  let c := a.tile * 4 + a.bank
  if dieFenced s (a.grp / 2 ^ 12 % 4) then some (collAnswer s1 a 0 0x10A)
  else match grpLive s a.part a.grp with
  | none => some (collAnswer s1 a 0 0xE13)
  | some (d, ix, g) =>
    let open_ := fun i : Inst => i.snap.contains c && !entered i c
    if g.insts.any open_ then some (setGrp s1 d ix { g with insts := enterInst open_ a g.insts })
    else if g.members.contains c || g.insts.any fun i => i.snap.contains c then
      if g.insts.length < 4 then
        some (setGrp s1 d ix { g with insts := g.insts ++ [⟨g.next, g.members, [a]⟩], next := g.next + 1 })
      else none
    else some (collAnswer s1 a 0 0xE13)
/-- COLLECTIVE_ARRIVAL (R350): commands of one bank at one dispatcher are taken in firing order (R23). -/
def execCollectiveArrival (id : Nat) (s : State) : Host.Outcome State Fault Refusal :=
  match s.arrivals.find? fun a => a.id == id with
  | none => .next s
  | some a =>
    if decide (a.due ≤ s.cyc) && !dispEarlier s a.id a.tile a.bank (a.grp / 2 ^ 12 % 4) then .next ((collTake s a).getD s) else .next s

/-! ### Completion (R351, R308, R320) -/

/-- Bytes of a collective's buffer. -/
def collLen (spec : W64) : Nat := fld spec 55 36 + 1
/-- Bytes of an element. -/
def collElem (spec : W64) : Nat := if fld spec 5 4 = 0 then 4 else 8
/-- Whether an arrival's buffer is written: the root's by `reduce`, every one by `allreduce`, all but the root's by
`bcast`. -/
def collWrites (op rank root : Nat) : Bool :=
  match op with
  | 0x39B => rank == root
  | 0x39C => true
  | 0x39D => rank != root
  | _ => false
/-- COLL_FAULT. -/
def collFault : Nat := 0xE12
/-- The pages of a virtual buffer translated at once for the dispatcher: their places by page, or the status where one fails or
lies on a fenced pseudo-channel (R31). -/
def collPages (s : State) (d pn : Nat) (write : Bool) : List Nat → State × Except Nat (SMap Nat)
  | [] => (s, .ok [])
  | vp :: l =>
    match xlateNow s d pn vp write with
    | (s1, .ok pp _) =>
      if isHbm (pp * 4096) && !pchanLive s1 (pp * 4096 / 2 ^ 31 % 256) then (s1, .error 0x10A)
      else
        let (s2, r) := collPages s1 d pn write l
        (s2, r.map fun m => mapPut m vp pp)
    | (s1, .fail _ _ _ _) => (s1, .error collFault)
/-- The address and translation checks of R300 for a buffer, whether it lies in another partition's memory tile, which ends the command
with PARTITION_BOUNDS (R29), and whether on a fenced unit (R31): its pages, or the status where it fails. -/
def collCheck (s : State) (d pn : Nat) (x : W64) (n align : Nat) (write : Bool) : State × Except Nat (SMap Nat) :=
  if x.toNat % align != 0 then (s, .error collFault)
  else match addrForm x with
    | .mt m off =>
      if !partMt (partOf s pn) m then (s, .error 0x109)
      else if !mtileLive s m then (s, .error 0x10A)
      else if isBuffer s m && decide (off + n ≤ 2 ^ 20) then (s, .ok []) else (s, .error collFault)
    | .virt va =>
      if va + n ≤ 2 ^ 48 then collPages s d pn write ((List.range ((va + n - 1) / 4096 - va / 4096 + 1)).map (va / 4096 + ·))
      else (s, .error collFault)
    | _ => (s, .error collFault)
/-- A participant whose buffer has passed its check: rank, arrival, pages. -/
abbrev Part_ := Nat × Arrival × SMap Nat
/-- An access of the dispatcher to m bytes at an offset of a participant's buffer, within one line. -/
def collAcc (d : Nat) (p : Part_) (op : AccOp) (off m data : Nat) : Acc :=
  { acc0 with agent := .disp d, holder := p.2.1.holder, part := p.2.1.part, rgn := p.2.1.rgn, op := op, addr := p.2.1.buf + BitVec.ofNat 64 off,
              loc := bteLoc p.2.1.buf p.2.2 none off, size := m, data := BitVec.ofNat 1024 data }
/-- A dispatcher's access made at once; the record of one that a race stops goes to the fault ring (R323). -/
def collDo (s : State) (a : Acc) : State × Acc :=
  let (s1, b) := homeAccess s a
  match b.race with
  | some r => (faultRecord s1 a.part a.agent r, b)
  | none => (s1, b)
/-- m bytes read at an offset of a buffer; false where a read meets an uncorrectable error. -/
def collRead (s : State) (d : Nat) (p : Part_) (off m : Nat) : State × Nat × Bool :=
  (linePieces p.2.1.buf off m).foldl (fun x q =>
    let (s1, b) := collDo x.1 (collAcc d p .read q.1 q.2 0)
    (s1, x.2.1 + b.val.toNat * 2 ^ (8 * (q.1 - off)), x.2.2 && b.cause != 0xA06)) (s, 0, true)
/-- m bytes written at an offset of a buffer. -/
def collWrite (s : State) (d : Nat) (p : Part_) (off m data : Nat) : State :=
  (linePieces p.2.1.buf off m).foldl (fun x q =>
    (collDo x (collAcc d p (.write (storeMask q.2)) q.1 q.2 (data / 2 ^ (8 * (q.1 - off))))).1) s
/-- op(r, x) of R351 on elements of a type. -/
def collOp (spec : W64) (r x : Nat) : Nat :=
  let n := collElem spec
  let f : Fmt := if n = 4 then .f32 else .f64
  match fld spec 5 4, fld spec 3 2 with
  | 2, 0 => amoNew 0 true n r x
  | 2, 1 => amoNew 2 true n r x
  | 2, _ => amoNew 3 true n r x
  | 3, 0 => amoNew 0 false n r x
  | 3, 1 => amoNew 2 false n r x
  | 3, _ => amoNew 3 false n r x
  | _, 0 => amoNew 1 false n r x
  | _, 1 => let v := fminV (fval f r) (fval f x); (fout false v (fvNeg v) f 0).1
  | _, _ => let v := fmaxV (fval f r) (fval f x); (fout false v (fvNeg v) f 0).1
/-- The values of every participant's element, in rank order. -/
def collGather (s : State) (d off n : Nat) (l : List Part_) : State × List Nat × Bool :=
  l.foldl (fun x p =>
    let (s1, v, ok) := collRead x.1 d p off n
    (s1, x.2.1 ++ [v], x.2.2 && ok)) (s, [], true)
/-- `reduce` and `allreduce`, element by element from offset `off`; false where a read meets an uncorrectable error. -/
def collReduce (s : State) (d op root : Nat) (spec : W64) (l : List Part_) (off : Nat) : Nat → State × Bool
  | 0 => (s, true)
  | k + 1 =>
    let n := collElem spec
    match collGather s d off n l with
    | (s1, v :: vs, true) =>
      let r := vs.foldl (collOp spec) v
      let s2 := (l.filter fun p => collWrites op p.1 root).foldl (fun x p => collWrite x d p off n r) s1
      collReduce s2 d op root spec l (off + n) k
    | (s1, [], true) => (s1, true)
    | (s1, _, false) => (s1, false)
/-- `bcast`, in units of 64 bytes from offset `off`, with n bytes left. -/
def collBcast (s : State) (d : Nat) (src : Part_) (dst : List Part_) (off n : Nat) : Nat → State × Bool
  | 0 => (s, true)
  | k + 1 =>
    let m := min 64 n
    match collRead s d src off m with
    | (s1, v, true) => collBcast (dst.foldl (fun x p => collWrite x d p off m v) s1) d src dst (off + m) (n - m) k
    | (s1, _, false) => (s1, false)
/-- Every buffer checked before any byte is written (R351). -/
def collChecks (s : State) (d op root n align : Nat) : List (Nat × Arrival) → State × Except Nat (List Part_)
  | [] => (s, .ok [])
  | (r, a) :: l =>
    let (s1, m) := if a.hasBuf then collCheck s d a.part a.buf n align (collWrites op r root) else (s, .ok [])
    match m with
    | .error st => (s1, .error st)
    | .ok pg =>
      let (s2, t) := collChecks s1 d op root n align l
      (s2, t.map fun t => (r, a, pg) :: t)
/-- The instance run (R351): the state and the status. -/
def collRun (s : State) (d : Nat) (i : Inst) : State × Nat :=
  match i.arr with
  | [] => (s, 0)
  | x :: _ =>
    let root := fld x.spec 35 20
    let rooted := x.op == 0x39B || x.op == 0x39D
    let red := x.op == 0x39B || x.op == 0x39C
    let n := collLen x.spec
    if i.arr.any fun a => a.op != x.op || a.spec != x.spec then (s, 0xE10)
    else if rooted && decide (i.snap.length ≤ root) then (s, 0xE11)
    else
      let l := i.snap.zipIdx.filterMap fun (c, r) => (i.arr.find? fun a => a.tile * 4 + a.bank == c).map fun a => (r, a)
      match collChecks s d x.op root n (if red then collElem x.spec else 1) l with
      | (s1, .error st) => (s1, st)
      | (s1, .ok ps) =>
        if red then
          let (s2, ok) := collReduce s1 d x.op root x.spec ps 0 (n / collElem x.spec)
          (s2, if ok then 0 else 0xA06)
        else if x.op = 0x39D then
          match ps.find? fun p => p.1 == root with
          | some src =>
            let (s2, ok) := collBcast s1 d src (ps.filter fun p => p.1 != root) 0 n ((n + 63) / 64)
            (s2, if ok then 0 else 0xA06)
          | none => (s1, 0)
        else (s1, 0)
/-- The clocks of a completion: every participant releases to the collective object, then acquires from it (R315). -/
def collClocks (s : State) (grp num : Nat) (l : List Arrival) : State :=
  let rel := fun x (a : Arrival) =>
    clkRelease x a.part a.holder (.coll grp num) 2 (tilePlace a.tile)
  let acq := fun x (a : Arrival) =>
    clkAcquire x a.part a.holder (.coll grp num) 2 (tilePlace a.tile) none
  l.foldl acq (l.foldl rel s)
/-- A barrier on a generation group (R320): the passed generation of every participant's holder, then the generation. -/
def collGen (s : State) (pn grp : Nat) (l : List Arrival) : State :=
  let p := partOf s pn
  if p.raceMode = 0 then s
  else
    let keys := (p.genGrp.filter fun e => e.2 == grp).map (·.1)
    modPart s pn fun p => keys.foldl (fun p k =>
      let g := genOf p k
      let hs := l.map (·.holder)
      let holders := hs.foldl (fun m h =>
        let x := holderOf p h
        mapPut m h { x with pg := x.pg.setIfInBounds (k / 1024) g }) p.holders
      { p with holders := holders, gens := mapPut p.gens k (g + 1) }) p
/-- Whether a group's first open instance can complete: every context of its snapshot has arrived, what the arrivals that name a
buffer issued before is performed (R352; a barrier without one orders nothing in memory, R308), and every participant's clock
has room for the releases of its holder's banks (R321). -/
def collReady (s : State) (i : Inst) : Bool :=
  i.snap.all (entered i)
    && i.arr.all fun a => !(a.hasBuf && pendingBelow s (.bank a.tile a.bank) a.after 2) && clockRooms (partOf s a.part) a.holder (i.arr.filter fun b => b.part == a.part && b.holder == a.holder).length
/-- COLLECTIVE_COMPLETE (R351, R352), of group `grp` = die * 1024 + index. -/
def execCollectiveComplete (grp : Nat) (s : State) : Host.Outcome State Fault Refusal :=
  let d := grp / 1024 % 4
  let ix := grp % 1024
  let g := grpAt s d ix
  match g.insts with
  | [] => .next s
  | i :: l =>
    if collReady s i then
      let id := futId d ix g.gen
      let (s1, st) := collRun s d i
      let s2 := collClocks s1 id i.num i.arr
      let s3 := if i.arr.any (fun a => a.op == 0x39A) && st == 0 then collGen s2 g.part id i.arr else s2
      let s4 := i.arr.foldl (fun x a => collAnswer x a i.num st) s3
      .next (setGrp s4 d ix (dissolve { g with insts := l }))
    else .next s

end Sys2Proof.Machine
end

