-- ==== Sys2Proof/Machine/Races.lean ====
section
/-! DEFINITION. The race checker's instructions (R327 to R330), its sweep (R321) and the clear of a mode change (R323). -/
namespace Sys2Proof.Machine

/-- What `clk.rd` reads for a selector and an index (R327). -/
def clkValue (p : Part) (h : Nat) (a : W64) : Option Nat :=
  let i := fld a 9 0
  if fld a 63 12 != 0 then none
  else match fld a 11 10 with
    | 0 => some (holderV p h i)
    | 1 => some (floorOf p i)
    | 2 => if i ≤ 3 then some ((holderOf p h).pg.getD i 0) else none
    | _ => if i = 0 then some h else none
/-- `clk.rd` (R327). -/
def execClkRd (a : BitVec 5) (d e t : BitVec 4) (s : State) : Host.Outcome State Fault Refusal :=
  pe s (.clkRd a d e t) fun st f o _ =>
    let h := tileHolder st f.tile
    let v := clkValue (partOf st h.2.1) h.1 o.ka
    .go { st := st, r1 := dataR (BitVec.ofNat 64 (v.getD 0)), flag := v.isSome, lat := 16 }
/-- Whether a page of 64 KiB belongs to a partition. -/
def pageOfPart (p : Part) (page : Nat) : Bool := partPchan p (page * 65536 / 2 ^ 31 % 256)
/-- The page summaries of a partition forgotten: its clocks begin again (R322, R323). -/
def dropSums (s : State) (pn : Nat) : State :=
  { s with sums := s.sums.filter fun e => !pageOfPart (partOf s pn) e.1 }
/-- A race mode set (R323): a change from off takes effect when its clear is done. Off, nothing is kept. -/
def setRaceMode (s : State) (pn mode : Nat) : State :=
  let p := partOf s pn
  if p.raceMode = 0 && mode != 0 then
    let (d, s1) := freeDelay s
    setPart s1 pn { p with raceNext := some (mode, s.cyc + 1 + d) }
  else if mode = 0 then
    setPart (dropSums s pn) pn { p with raceMode := 0, raceNext := none, sweep := none, holders := [], objs := [], floor := [], gens := [] }
  else setPart s pn { p with raceMode := mode, raceNext := none }
/-- `race.mode` (R328). -/
def execRaceMode (a : BitVec 5) (d e t : BitVec 4) (s : State) : Host.Outcome State Fault Refusal :=
  pe s (.raceMode a d e t) fun st f o _ =>
    let pn := (tileHolder st f.tile).2.1
    let p := partOf st pn
    let r := dataR (BitVec.ofNat 64 (p.raceMode + (if p.raceNext.isSome then 4 else 0)))
    if fld o.ka 63 3 != 0 || (o.ka.getLsbD 2 && (fld o.ka 1 0 == 3 || !partRaceProg p)) then .go { st := st, r1 := r, lat := 4 }
    else .go { st := if o.ka.getLsbD 2 then setRaceMode st pn (fld o.ka 1 0) else st, r1 := r, flag := true, lat := 4 }
/-- `race.log` (R329): n is LOG2 of the ring word. -/
def execRaceLog (a : BitVec 5) (d e t : BitVec 4) (s : State) : Host.Outcome State Fault Refusal :=
  pe s (.raceLog a d e t) fun st f o _ =>
    let p := partOf st (tileHolder st f.tile).2.1
    let w : W64 := BitVec.ofNat 64 (partFld p 168 8)
    let v : Option Nat := match o.ka.toNat with
      | 0 => some p.racePI
      | 1 => some p.raceDropped
      | 2 => some (ringBase w)
      | 3 => some (w.toNat % 16)
      | _ => none
    .go { st := st, r1 := dataR (BitVec.ofNat 64 (v.getD 0)), flag := v.isSome, lat := 4 }
/-- `race.gen` (R330). -/
def execRaceGen (a : BitVec 5) (d e t : BitVec 4) (s : State) : Host.Outcome State Fault Refusal :=
  pe s (.raceGen a d e t) fun st f o _ =>
    let pn := (tileHolder st f.tile).2.1
    let k := instKey (fld f.lit 1 0) (tilePlace f.tile)
    let r := dataR (BitVec.ofNat 64 (genOf (partOf st pn) k))
    if f.lit.getLsbD 8 then
      if (grpLive st pn o.ka.toNat).isSome then
        .go { st := modPart st pn fun p => { p with genGrp := mapPut p.genGrp k o.ka.toNat }, r1 := r, flag := true, lat := 16 }
      else .go { st := st, r1 := r, lat := 16 }
    else .go { st := st, r1 := r, flag := true, lat := 16 }

/-! ### The sweep and the clear (R321, R323) -/

/-- Whether a place's line belongs to a partition. -/
def lineOfPart (p : Part) (line : Nat) : Bool := partPchan p (line * 128 / 2 ^ 31 % 256)
/-- The metadata of a line after a sweep's visit: clocks below their targets are cleared (R321). -/
def sweepLine (p : Part) (tgt : SMap Nat) (home : Place) (m : BitVec 64) : BitVec 64 :=
  let below := fun h c => match mapFind tgt h with
    | some t => c != 0 && windowCovers (t - 1) c
    | none => false
  let w := below (lmWid m) (lmWclk m)
  let gen := genOf p (instKey (lmScope m) home)
  let old := lmMode m == 2 && decide (2 ^ 18 < (gen + 2 ^ 20 - lmRclk m) % 2 ^ 20) && windowCovers gen (lmRclk m)
  let r := (lmMode m == 1 && below (lmRid m) (lmRclk m)) || old
  lmWord (if w then 0 else lmWid m) (if w then 0 else lmWclk m) (lmScope m) (if r then 0 else lmRid m)
    (if r then 0 else lmRclk m) (if r then 0 else lmMode m)
/-- The line whose metadata lie at a byte of the carve-out. -/
def lineAtCarve (pa : Nat) : Nat := pa / 2 ^ 31 * 2 ^ 24 + (pa % 2 ^ 31 - 0x5A000000) / 8
/-- Every line of a partition EMPTY with no writer: in cache banks, in the carve-out, in its memory tiles. -/
def metaClear (s : State) (pn : Nat) : State :=
  let p := partOf s pn
  { s with lmeta := s.lmeta.filter fun e => !lineOfPart p e.1,
           mem := s.mem.filter fun e => !inCarve p e.1,
           mtiles := s.mtiles.map fun e => if partMt p e.1 then (e.1, { e.2 with lmeta := [] }) else e }
/-- The targets of a sweep: the own clock of every holder that has reached its floor + 2^18. -/
def sweepTargets (p : Part) : SMap Nat :=
  p.holders.filterMap fun e =>
    let c := holderV p e.1 e.1
    if floorOf p e.1 + 2 ^ 18 ≤ c then some (e.1, c) else none
/-- The lines of a partition that a sweep has to visit: those whose metadata are not zero, in cache banks, in the carve-out and in its
memory tiles. -/
def sweepLines (s : State) (p : Part) : List (Nat × Nat) :=
  ((((s.lmeta.filter fun e => lineOfPart p e.1).map (·.1)) ++ ((s.mem.filter fun e => inCarve p e.1).map fun e => lineAtCarve e.1)).eraseDups.map
      fun l => (0, l))
    ++ (s.mtiles.filter fun e => partMt p e.1).flatMap fun e => e.2.lmeta.map fun l => (e.1 + 1, l.1)
/-- A sweep's visit to a line: one step at its home (R295, R321). -/
def sweepAt (s : State) (pn : Nat) (p : Part) (t : SMap Nat) (l : Nat × Nat) : State :=
  match l.1 with
  | 0 => hbmMetaSet s pn (sweepLine p t (locPlace (.phys (l.2 * 128))) (hbmMeta s pn l.2)) l.2
  | m + 1 =>
    let x := mtileOf s m
    setMTile s m { x with lmeta := mapSet x.lmeta l.2 (sweepLine p t (locPlace (.mtile m (l.2 * 128))) (mapGet x.lmeta l.2 0)) 0 }
/-- RACE_SWEEP (R321): a sweep begins, visits its next line, or ends and raises the floors. -/
def execRaceSweep (part : Nat) (s : State) : Host.Outcome State Fault Refusal :=
  let p := partOf s part
  match p.sweep with
  | some (t, []) => .next (setPart s part { p with floor := t.foldl (fun m e => mapPut m e.1 e.2) p.floor, sweep := none })
  | some (t, l :: rest) => .next (modPart (sweepAt s part p t l) part fun q => { q with sweep := some (t, rest) })
  | none =>
    let t := sweepTargets p
    if p.raceMode = 0 || t.isEmpty then .next s
    else .next (setPart s part { p with sweep := some (t, sweepLines s p) })
/-- RACE_MODE_CLEAR (R323): every line EMPTY with no writer, and the new mode in effect. -/
def execRaceModeClear (part : Nat) (s : State) : Host.Outcome State Fault Refusal :=
  match (partOf s part).raceNext with
  | some (m, c) =>
    if c ≤ s.cyc then
      let s1 := dropSums (metaClear s part) part
      .next (modPart s1 part fun q => { q with raceMode := m, raceNext := none })
    else .next s
  | none => .next s

end Sys2Proof.Machine
end

