-- ==== Sys2Proof/Machine/Combine.lean ====
section
/-! DEFINITION. The combine instruction of a reducible operator applied to two values by a merge unit (R363, R365). -/
namespace Sys2Proof.Machine

/-- A control-plane result as a combined value. -/
def combineK (r : AluRes) : W512 × Raise := (r.val.setWidth 512, r.raise)
/-- A data-plane result as a combined value. -/
def combineV (r : VecRes) : W512 × Raise := (r.val, r.raise)
/-- K ⊕ x under a mode word: the two-source instruction that `.state reducible` names (R116), with the carry as its first
source; its result and the sticky flags it raises (R385). `.state` gives no literal and no predicate: those that `ins`, `vshuf` and
`sel` read are free values (DESIGN CHOICE, log 103). An instruction that takes no two sources of one plane leaves x as it is. -/
def combine (i : Instr) (mode : W64) (a b : W512) : W512 × Raise :=
  let x : W64 := a.setWidth 64
  let y : W64 := b.setWidth 64
  let m := fmode mode
  match i with
  | .add w _ _ _ _ _ => combineK (aluAdd w mode x y)
  | .sub w _ _ _ _ _ => combineK (aluSub w mode x y)
  | .mulLo w _ _ _ _ _ => combineK (aluMulLo w mode x y)
  | .mulHi w _ _ _ _ _ => combineK (aluMulHi w x y)
  | .div w _ _ _ _ _ => combineK (aluDiv w mode x y)
  | .rem w _ _ _ _ _ => combineK (aluRem w mode x y)
  | .min w _ _ _ _ _ => combineK (aluMin w x y)
  | .max w _ _ _ _ _ => combineK (aluMax w x y)
  | .cmpEq w _ _ _ _ _ => combineK (aluCmpEq w x y)
  | .cmpNe w _ _ _ _ _ => combineK (aluCmpNe w x y)
  | .cmpLt w _ _ _ _ _ => combineK (aluCmpLt w x y)
  | .cmpLe w _ _ _ _ _ => combineK (aluCmpLe w x y)
  | .sel _ _ _ _ _ => combineK (aluSel Config.combinePred x y)
  | .ins _ _ _ _ _ => combineK (aluIns x y Config.combineLit)
  | .swIdx _ _ _ _ _ => ((x + y).setWidth 512, raiseNone)
  | .and _ _ _ _ _ => combineK (aluLogic (x &&& y))
  | .or _ _ _ _ _ => combineK (aluLogic (x ||| y))
  | .xor _ _ _ _ _ => combineK (aluLogic (x ^^^ y))
  | .andn _ _ _ _ _ => combineK (aluLogic (x &&& ~~~y))
  | .shl _ _ _ _ _ => combineK (aluShl x y)
  | .shr _ _ _ _ _ => combineK (aluShr x y)
  | .sar _ _ _ _ _ => combineK (aluSar x y)
  | .rol _ _ _ _ _ => combineK (aluRol x y)
  | .ror _ _ _ _ _ => combineK (aluRor x y)
  | .extr _ _ _ _ _ => combineK (aluExtr x y)
  | .extrS _ _ _ _ _ => combineK (aluExtrS x y)
  | .fadd g _ _ _ _ _ => combineV (vFadd (gFmt g) m a b)
  | .fsub g _ _ _ _ _ => combineV (vFsub (gFmt g) m a b)
  | .fmul g _ _ _ _ _ => combineV (vFmul (gFmt g) m a b)
  | .fmin g _ _ _ _ _ => combineV (vFmin (gFmt g) m a b)
  | .fmax g _ _ _ _ _ => combineV (vFmax (gFmt g) m a b)
  | .fcmpEq g _ _ _ _ _ => combineV (vFcmp fvEq false (gFmt g) m a b)
  | .fcmpLt g _ _ _ _ _ => combineV (vFcmp fvLt true (gFmt g) m a b)
  | .fcmpLe g _ _ _ _ _ => combineV (vFcmp fvLe true (gFmt g) m a b)
  | .fcmpUn g _ _ _ _ _ => combineV (vFcmp fvUn false (gFmt g) m a b)
  | .fdiv g _ _ _ _ _ => combineV (vFdiv (gFmt g) m a b)
  | .vadd w _ _ _ _ _ => combineV (vIntWrap (· + ·) w (modeSat mode) a b)
  | .vsub w _ _ _ _ _ => combineV (vIntWrap (· - ·) w (modeSat mode) a b)
  | .vmul w _ _ _ _ _ => combineV (vIntWrap (· * ·) w (modeSat mode) a b)
  | .vmulh w _ _ _ _ _ => combineV (vMulh w a b)
  | .vmin w _ _ _ _ _ => combineV (vPick (fun p q => decide (p ≤ q)) w a b)
  | .vmax w _ _ _ _ _ => combineV (vPick (fun p q => decide (q ≤ p)) w a b)
  | .vshr w _ _ _ _ _ => combineV (vShr w a b)
  | .vcmpLt w _ _ _ _ _ => combineV (vCmpLt w a b)
  | .vshl w _ _ _ _ _ => combineV (vShl w a b)
  | .vcmpEq w _ _ _ _ _ => combineV (vCmpEq w a b)
  | .vand _ _ _ _ _ => combineV (vLogic (a &&& b))
  | .vor _ _ _ _ _ => combineV (vLogic (a ||| b))
  | .vxor _ _ _ _ _ => combineV (vLogic (a ^^^ b))
  | .cvtF32F64 _ _ _ _ _ => combineV (vCvtFF .f64 .f32 8 0 (8 * b.toNat % 16) m a)
  | .cvtF64F32 _ _ _ _ _ => combineV (vCvtFF .f32 .f64 8 (8 * b.toNat % 16) 0 m a)
  | .cvtBf16F32 _ _ _ _ _ => combineV (vCvtFF .f32 .bf16 16 0 (16 * b.toNat % 32) m a)
  | .cvtF32Bf16 _ _ _ _ _ => combineV (vCvtFF .bf16 .f32 16 (16 * b.toNat % 32) 0 m a)
  | .vshuf _ _ _ _ _ => (vShuf a b Config.combineLit, raiseNone)
  | .vperm _ _ _ _ _ => (vPerm a b, raiseNone)
  | .vrot _ _ _ _ _ => (vRot a b, raiseNone)
  | .vbcast _ _ _ _ _ => (vBcast a b, raiseNone)
  | _ => (b, raiseNone)

end Sys2Proof.Machine
end

