-- ==== Sys2Proof/Machine/Arbiter.lean ====
section
/-! DEFINITION. The bank arbiter of a PE (R58): the ready slots of a bank, the slot that fires, the bank switch; and the
request rule of an input port (R47). -/
namespace Sys2Proof.Machine

/-- The valid slots of the selected context, lowest first. -/
def ctxSlots (t : Tile) : List (Nat × Slot) :=
  (t.slots.filter fun e => e.1 / 64 == t.ctx && trV e.2.trig).map fun e => (e.1 % 64, e.2)
/-- The instruction of a slot, if its word decodes. -/
def slotInstr (x : Slot) : Option Instr := (decodeWord x.word).toOption
/-- The lowest-numbered ready slot of a bank (R58), with its instruction. -/
def readySlot (s : State) (tile bank : Nat) : Option (Instr × Firing) :=
  let t := tileOf s tile
  (ctxSlots t).findSome? fun (n, x) =>
    let f := firingOf tile bank t.ctx n x
    match slotInstr x with
    | some i => if peReady s i f false then some (i, f) else none
    | none => none
/-- Whether a slot of a tile is ready but for the cycle: clock gating, throttling, `yield` and a context switch put off
no more than the firing. -/
def couldFire (s : State) (tile : Nat) : Bool :=
  let s1 := modDie (modTile s tile fun t => { t with gated := false, wake := 0, yielded := none, resume := 0 }) (tileDie tile)
    fun d => { d with throttle := false }
  (List.range 4).any fun b => (readySlot s1 tile b).isSome
/-- A valid slot whose word decodes to nothing and whose trigger passes in some bank. -/
def badSlot (s : State) (tile : Nat) : Option (BitVec 32) :=
  let t := tileOf s tile
  if peRuns s tile then
    (ctxSlots t).findSome? fun (n, x) =>
      match slotInstr x with
      | some _ => none
      | none =>
        if (List.range 4).any fun b => triggerOk s (firingOf tile b t.ctx n x) false && predsOk s (firingOf tile b t.ctx n x)
        then some x.word else none
  else none
/-- The bank that the arbiter turns to when the current one has no ready slot (R58). -/
def nextBank (s : State) (tile : Nat) : Option Nat :=
  let b := (tileOf s tile).bank
  [(b + 1) % 4, (b + 2) % 4, (b + 3) % 4].find? fun c => (readySlot s tile c).isSome
/-- Whether a slot of a tile is ready but for an engine that cannot accept its command (R24): the command waits for
acceptance (R62). -/
def slotWaits (s : State) (tile : Nat) : Bool :=
  let t := tileOf s tile
  (ctxSlots t).any fun (n, x) =>
    match slotInstr x with
    | some i => (List.range 4).any fun b =>
        let f := firingOf tile b t.ctx n x
        engineFull s f i && peArmed s i f false
    | none => false
/-- Slots that are ready but for a hold that depends on their operands ask for what they wait on. -/
def postAll (s : State) (tile : Nat) : State :=
  let t := tileOf s tile
  (ctxSlots t).foldl (fun st (n, x) =>
    match slotInstr x with
    | some i => (List.range 4).foldl (fun st b =>
        let f := firingOf tile b t.ctx n x
        if peArmed s i f true && headsOk s i f && triggerOk s f false && heldOperand s f i then postHeld st f i else st) st
    | none => st) s
/-- Whether a slot names an input port, and would be ready in some bank if every port it names held a passing head
(R47). -/
def portWanted (s : State) (tile p : Nat) : Bool :=
  let t := tileOf s tile
  (ctxSlots t).any fun (n, x) =>
    match slotInstr x with
    | some i =>
      (trIrdy x.trig p || (namedPorts i).contains p)
        && (List.range 4).any fun b => peReady s i (firingOf tile b t.ctx n x) true
    | none => false

end Sys2Proof.Machine
end

