-- ==== Sys2Proof/Machine/Regions.lean ====
section
/-! DEFINITION. The elements of a region instance: the state that install gives them (R130, R193, R219, R234, R239, R242),
the reset of a reusable instance (R61), quiet and completion (R60), lulls (R62). -/
namespace Sys2Proof.Machine

/-! ### Elements of an instance -/

/-- PROD of the index source port (R401). -/
def indexProd : Nat := 0x7FFFF
/-- PROD of the argument source port (R401). -/
def argProd : Nat := 0x7FFFE
/-- Whether a producer is one of the dispatcher's source ports. -/
def isSource (ep : Nat) : Bool := decide (argProd ≤ ep)
/-- The compute tiles that an instance holds: those of its image, and those that hold copies. -/
def rgnTiles (s : State) (k : Nat) : List Nat := (s.tiles.filter fun t => t.2.rgn == some k).map (·.1)
/-- The memory tiles that an instance holds. -/
def rgnMTiles (s : State) (k : Nat) : List Nat := (s.mtiles.filter fun t => t.2.rgn == some k).map (·.1)
/-- The AGTs that an instance holds. -/
def rgnAgts (s : State) (k : Nat) : List Nat := (s.agts.filter fun t => t.2.rgn == some k).map (·.1)
/-- The BTE channels that an instance holds, as BTE number * 16 + channel. -/
def rgnBtes (s : State) (k : Nat) : List Nat := (s.btes.filter fun t => t.2.rgn == some k).map (·.1)
/-- The die of an instance: that of its origin. -/
def rgnDie (r : Region) : Nat := r.row0 / 32 * 2 + r.col0 / 64
/-- The BTE of a BTE table entry's locator. -/
def btePlaceOf (ep : Nat) : Nat := tileCluster (epTile ep)

/-! ### Channels -/

/-- A channel from its record (R94 to R96). -/
def chanFrom (k : Nat) (c : ChRec) : Chan :=
  { rgn := k, data := c.hdr.getLsbD 62, detach := fld c.hdr 61 60 == 1, w := fld c.hdr 59 44, blk := fld c.hdr 34 28,
    d := fld c.hdr 39 35, init := c.init, line := c.init, lpend := 0, prod := fld c.hdr 18 0,
    cons := c.cons.map fun x =>
      { ep := fld x 18 0, pf := fld x 21 19, attached := true, pend := 0, reqs := [], toks := [], stall := 0, lag := false },
    steer := [], merge := none, closed := false, gateq := [], owed := 0, passed := 0 }
/-- A channel back at its install state (R61): the delay line reloaded, detachments undone, nothing requested or on its
way. The layout stands: copies and folded-in ports stay joined, and the gate of a rewire under way stays closed (R371). -/
def chanReset (c : Chan) : Chan :=
  { c with line := c.init, lpend := 0, gateq := [], owed := 0, steer := c.steer.map fun u => (u.1, []),
           cons := c.cons.map fun x => { x with attached := true, pend := 0, reqs := [], toks := [], stall := 0, lag := false } }
/-- The ports of a channel joined to it, empty. -/
def joinPorts (s : State) (id : Nat) (c : Chan) : State :=
  let s1 := if isSource c.prod then s else setOutPort s c.prod { outPort0 with chan := some id }
  c.cons.foldl (fun x n => setInPort x n.ep { inPort0 with chan := some id }) s1
/-- The channels of an image made, in record order. -/
def addChans (s : State) (k : Nat) (l : List ChRec) : State × List Nat :=
  l.foldl (fun (x, ids) c =>
    let (id, x1) := freshId x
    let ch := chanFrom k c
    (joinPorts (setChan x1 id ch) id ch, ids ++ [id])) (s, [])

/-! ### Tiles, memory tiles, AGTs -/

/-- Whether slot `n` of a context in an image takes a task's packets, as a binding of it requires (R118, R334): it is valid with
TCH = 6. -/
def bindSlot (img : Image) (tile ctx n : Nat) : Bool :=
  ((img.pes.find? fun q => epTile q.ep == tile).bind fun q => mapFind q.slots (64 * ctx + n)).any fun x => trV x.trig && trTch x.trig == 6
/-- The bindings of a tile in an image (R118): each whose slot, in the binding word's own context, an `hbind` there would bind. The
table's entry holds the slot's number and no context (R333), so it serves whichever context is selected (DEDUCED, log 93). -/
def bindsOf (img : Image) (tile : Nat) : SMap Binding :=
  (img.hdls.filter fun w => epTile (fld w 18 0) == tile && bindSlot img tile (fld w 35 34) (fld w 31 26)).foldl
    (fun m w => mapPut m (fld w 25 19) ⟨fld w 31 26, fld w 33 32⟩) []
/-- The follow-ons that wait in block-transfer engines for a place in a tile's queue, kept with another state of the tile (R196). -/
def withFons (t u : Tile) : Tile := { u with fons := t.fons ++ u.fons }
/-- What a tile that its instance leaves keeps of the array: its state, bank 0's mode word, and the follow-ons that it has received,
which run on (R212). -/
def withArray (t u : Tile) : Tile :=
  withFons t (setBank { u with acc := t.acc, panels := t.panels, table := t.table, mcbRan := t.mcbRan,
                               cmdq := t.cmdq.filter (·.fon.isSome), runs := t.runs.filter (·.cmd.fon.isSome) } 0
    { bank0 with mode := (bankOf t 0).mode })
/-- The follow-ons of other instances' copies leave a tile's array, whose queue a new state of the tile empties (R193). DESIGN CHOICE
(log 106): each hands its copy a status that is a free value. -/
def fonsCut (s : State) (tile : Nat) : State :=
  let t := tileOf s tile
  (t.cmdq ++ t.runs.map (·.cmd)).foldl (fun x c => match c.fon with
    | some (_, bte, ch, seq) =>
      { fonReport x tile bte ch seq (Config.choice x.free % 65536) 0 0 with free := x.free + 1 }
    | none => x) s
/-- A tile with the state that install gives it, its local memory as it was (R130, R193, R219, R234, R239). -/
def tileFresh (t : Tile) (b : SMap Binding) : Tile :=
  withFons t
  { tile0 with rgn := t.rgn, slots := t.slots, njob := t.njob, lm := t.lm, bad := t.bad, sw := t.sw, bind := b, tbuf := t.present.toList ++ t.tbuf,
               lastLabel := t.lastLabel, half := t.half, gated := t.gated, wake := t.wake, lastFire := t.lastFire,
               lastBank := t.lastBank }
/-- A tile reset with its instance (R61): the layout and the context that a fold has selected stay. -/
def tileReset (t : Tile) (b : SMap Binding) : Tile :=
  { tileFresh t b with moveIn := t.moveIn, moveBanks := t.moveBanks, ctx := if t.moveBanks.isEmpty then 0 else t.ctx }
/-- An AGT with the configuration's walker words (R242, R243). -/
def agtFrom (k : Nat) (w : List W64) : Agt :=
  { agt0 with rgn := some k, w := (Vector.replicate 9 (0 : W64)).mapFinIdx fun i _ _ => w.getD i 0 }
/-- An AGT takes the implicit `agt.go` of a launch (R243). -/
def agtLaunch (a : Agt) : Agt := if (a.w.getD 0 0).getLsbD 35 then { a with goes := a.goes + 1 } else a
/-- The ports of a tile back at their install state (R61). -/
def portsReset (s : State) (tile : Nat) : State :=
  let s1 := (List.range 6).foldl (fun x i =>
    let p := inPortOf x (tileEp tile i)
    if p.chan.isSome then setInPort x (tileEp tile i) { inPort0 with chan := p.chan } else x) s
  (List.range 5).foldl (fun x j =>
    let p := outPortOf x (tileEp tile j)
    if p.chan.isSome then setOutPort x (tileEp tile j) { outPort0 with chan := p.chan } else x) s1
/-- Every other port of an instance's channels back at its install state. -/
def chanPortsReset (s : State) (c : Nat) : State :=
  match chanOf s c with
  | none => s
  | some ch =>
    let s1 := setChan s c (chanReset ch)
    let s2 := if isSource ch.prod then s1
      else setOutPort s1 ch.prod { outPort0 with chan := (outPortOf s1 ch.prod).chan }
    ch.cons.foldl (fun x n => setInPort x n.ep { inPort0 with chan := (inPortOf x n.ep).chan }) s2
/-- The state registers of a reducible operator's copy set to the identity, in every bank (R362, R363). -/
def identityRegs (s : State) (c : Clone) (tile : Nat) : State :=
  match c.cls with
  | .reducible _ _ idv =>
    (List.range 4).foldl (fun y n => c.regs.foldl (fun x r => modBank x tile n fun b =>
      if r < 8 then kSet b r (idv.setWidth 64) else vSet b (r - 8) idv) y) s
  | _ => s
/-- The identity of a reducible clone (R365). -/
def cloneIdentity (c : Clone) : W512 :=
  match c.cls with
  | .reducible _ _ idv => idv
  | _ => 0
/-- The steering and merge state of a clone at the beginning of a launch. -/
def cloneReset (c : Clone) : Clone :=
  { c with skip := 0, next := 0, hpos := 0, hrank := 0, run := 0, fresh := [], chunks := [], carry := cloneIdentity c, last := none, outs := [], at_ := [],
           given := [] }

/-- The reset of a reusable instance (R61). -/
def resetInstance (s : State) (k : Nat) : State :=
  match rgnOf s k with
  | none => s
  | some r =>
    let s1 := (rgnTiles s k).foldl (fun x n =>
      portsReset (setTile (fonsCut x n) n (tileReset (tileOf x n) (bindsOf r.img (writtenTile r n)))) n) s
    let s2 := r.chans.foldl chanPortsReset s1
    let s3 := r.clones.foldl (fun x c => c.copies.foldl (fun y n => if n = epTile c.op then y else identityRegs y c n) x) s2
    let s4 := (rgnMTiles s3 k).foldl (fun x m =>
      let t := mtileOf x m
      setMTile x m { t with rings := t.rings.map fun e => (e.1, { e.2 with p := 0, c := 0 }) }) s3
    let s5 := r.img.agts.foldl (fun x e => setAgt x (epAgt e.1) (agtFrom k e.2)) s4
    modRgn s5 k fun r => { r with sinks := r.sinks.map fun x => { x with seen := 0 }, clones := r.clones.map cloneReset,
                                  feed := none, argTok := none }

/-! ### Completion (R60) -/

/-- Whether an agent belongs to a region instance. -/
def agentOf (s : State) (k : Nat) : Agent → Bool
  | .bank t _ => (tileOf s t).rgn == some k
  | .walk n => (agtOf s n).rgn == some k
  | .bte n ch => (bteOf s n ch).rgn == some k
  | _ => false
/-- Whether every engine operation issued by an instance's elements has reported (R25, R60). -/
def enginesQuiet (s : State) (k : Nat) : Bool :=
  (rgnTiles s k).all (fun n =>
      let t := tileOf s n
      t.jobs.all (fun j => j.wait == .none) && t.cmdq.isEmpty && t.runs.isEmpty && t.fons.isEmpty
        && t.handles.toList.all fun h => !h.busy)
    && (rgnAgts s k).all (fun n =>
      let a := agtOf s n
      (a.st == .idle || a.st == .done) && a.reported && a.goes == 0 && !a.hand)
    && (rgnBtes s k).all (fun n =>
      let c := bteOf s (n / 16) (n % 16)
      c.q.isEmpty && c.run.isNone && c.rep.isEmpty && decide (c.tail ≤ c.taken))
    && !s.accs.any (fun a => agentOf s k a.agent && !a.done)
    && !s.futOps.any (fun o => (tileOf s o.tile).rgn == some k && o.src.isNone)
    && !s.arrivals.any fun a => (tileOf s a.tile).rgn == some k
/-- Whether an element of an instance has trapped: a PE, a FAULTED walker or one that a race has stopped (R162, R261, R324). A
walker STALLED on a page stops no other element (R259). -/
def rgnFaulted (s : State) (k : Nat) : Bool :=
  (rgnTiles s k).any (fun n => !(tileOf s n).traps.isEmpty)
    || (rgnAgts s k).any fun n => (agtOf s n).st == .faulted || (agtOf s n).raced.isSome
/-- Whether an element of an instance has trapped, faulted or stalled: it does not complete (R60). -/
def rgnTrapped (s : State) (k : Nat) : Bool :=
  rgnFaulted s k || (rgnAgts s k).any fun n => (agtOf s n).st == .stalled
/-- Whether every sink has reported. -/
def sinksDone (r : Region) : Bool := r.sinks.all fun k => decide (k.count ≤ k.seen)
/-- Whether an instance completes now (R60). -/
def completes (s : State) (k : Nat) (r : Region) : Bool :=
  r.st == .live && r.launch.isSome && !r.reusable && sinksDone r && enginesQuiet s k && !rgnTrapped s k

/-! ### Lulls (R62) -/

/-- Whether a channel holds a token outside its delay line or has a request on its way. -/
def chanBusy (c : Chan) : Bool :=
  !c.gateq.isEmpty || c.steer.any (fun u => !u.2.isEmpty) || c.cons.any fun x => !x.toks.isEmpty || !x.reqs.isEmpty
/-- Whether a firing whose results are not all written lets its region come to a lull (R62): an engine has accepted its
operation and not reported it, and it is no load. -/
def jobAccepted (j : Job) : Bool := j.wait == .matrix || (j.wait == .answer && !j.mem)
/-- Whether an engine command of an instance waits for acceptance (R62): of a slot that is held for its engine, a follow-on
without a place in its array's queue, an implicit `agt.go`, a published chain entry, an operation on its way to a
dispatcher. -/
def cmdsWait (s : State) (k : Nat) : Bool :=
  (rgnTiles s k).any (fun n => slotWaits s n || !(tileOf s n).fons.isEmpty)
    || (rgnAgts s k).any (fun n => (agtOf s n).goes != 0)
    || (rgnBtes s k).any (fun n => decide ((bteOf s (n / 16) (n % 16)).taken < (bteOf s (n / 16) (n % 16)).tail))
    || s.futOps.any (fun o => !o.done && o.src.isNone && (tileOf s o.tile).rgn == some k)
    || s.arrivals.any fun a => (tileOf s a.tile).rgn == some k
/-- Whether an instance is at a lull (R62). What an operation accepted by another engine still owes an output port is no token yet, and
a walker's tokens not yet written are its state (R264). -/
def atLull (s : State) (k : Nat) (r : Region) : Bool :=
  r.chans.all (fun id => match chanOf s id with
      | none => true
      | some c => !chanBusy c && c.cons.all (fun x => (inPortOf s x.ep).queue.isEmpty && (inPortOf s x.ep).errs.isEmpty)
          && s.outPorts.all fun e => e.2.chan != some id || e.2.outq.all (·.tok.isNone))
    && (rgnTiles s k).all (fun n => (tileOf s n).jobs.all jobAccepted) && !cmdsWait s k
    && (rgnMTiles s k).all (fun m => (mtileOf s m).fifo.isEmpty || (mtileOf s m).role.getLsbD 59)
    && r.clones.all (fun c => c.outs.all fun e => e.2.isEmpty)

end Sys2Proof.Machine
end

