-- ==== Sys2Proof/Machine/Launches.lean ====
section
/-! DEFINITION. Launches (R335 to R343, R408, R409, R240): acceptance, distribution, binding, index delivery, completion. -/
namespace Sys2Proof.Machine

/-! ### The descriptor (R335) -/

/-- CONF. -/
def ldConf (d : BitVec 512) : Nat := recFld d 0 4
/-- Priority. -/
def ldPrio (d : BitVec 512) : Nat := recFld d 4 1 % 4
/-- Tile-record mode. -/
def ldTrl (d : BitVec 512) : Bool := d.getLsbD 34
/-- BASE. -/
def ldBase (d : BitVec 512) : Nat := recFld d 8 8
/-- COUNT. -/
def ldCount (d : BitVec 512) : Nat := recFld d 16 8
/-- GRAIN. -/
def ldGrain (d : BitVec 512) : Nat := recFld d 24 8
/-- ARGS. -/
def ldArgs (d : BitVec 512) : Nat := recFld d 32 8
/-- DONE. -/
def ldDone (d : BitVec 512) : Nat := recFld d 40 8
/-- OPND. -/
def ldOpnd (d : BitVec 512) : Nat := recFld d 48 8
/-- OSTR. -/
def ldOstr (d : BitVec 512) : Nat := recFld d 56 8

/-! ### `launch`, `launch.try` and acceptance (R341 to R343) -/

/-- The accesses of a descriptor read: its first part, and its second where it has one. -/
def descIssue (s : State) (f : Firing) (x : W64) (jid : Nat) (try_ : Bool) (first second : Loc × Nat) : State :=
  let k := descHead x
  let a := { peAcc s f .read x first.1 k 0 with rel := some 2, toward := .launch jid, signed := try_ }
  let s1 := (accIssue s a first.2).2
  if k = 64 then s1 else (accIssue s1 { a with addr := descNext x, loc := second.1, size := 64 - k } second.2).2
/-- The effect of a launch (R342, R343): the descriptor's read, ordered after the bank's writes; the release follows them. -/
def launchEff (i : Instr) (try_ : Bool) (s : State) (f : Firing) (o : Opnd) (jid : Nat) : Effect :=
  match skipToken i o with
  | some t => skipEff s t 1
  | none =>
    match descCheck s f.tile o.ka with
    | .trap c d => .stop c d
    | .wait _ => .go { st := s }
    | .ok loc extra =>
      let second := match memCheck s f.tile (descNext o.ka) 1 false 2 with
        | .ok l e => (l, e)
        | _ => (loc, extra)
      .go { st := descIssue s f o.ka jid try_ (loc, extra) second, wait := .answer, mem := true }
/-- `launch` (R342). -/
def execLaunch (a : BitVec 5) (d e t : BitVec 4) (s : State) : Host.Outcome State Fault Refusal :=
  pe s (.launch a d e t) (launchEff (.launch a d e t) false)
/-- `launch.try` (R342). -/
def execLaunchTry (a : BitVec 5) (d e t : BitVec 4) (s : State) : Host.Outcome State Fault Refusal :=
  pe s (.launchTry a d e t) (launchEff (.launchTry a d e t) true)

/-- A launch as it is accepted. -/
def launchNew (seq pn : Nat) (desc : BitVec 512) (holder : Nat) (ag : Agent) : Launch :=
  { seq := seq, part := pn, desc := desc, holder := holder, agent := ag, checked := false, bad := false, whole := false, blocks := 0, out := 0,
    outs := [], dies := [], recs := [], ready := [], bound := [], reported := [], lost := [], last := 0, given := [],
    redo := [], gone := [], flags := 0, stuck := false }
/-- Whether a launch holds an entry of the queue: a block of it is still to be handed out (R341). Under replicated distribution the
blocks of a die that takes no more are not (R409). -/
def holdsEntry (elected : Bool) (l : Launch) : Bool :=
  !l.checked
    || (if elected then decide (l.out < l.blocks)
        else l.dies.zipIdx.any fun (d, j) => !l.gone.contains d && decide (j + l.dies.length * mapGet l.outs d 0 < l.blocks))
/-- Entries of the device launch queue in use. -/
def queueUsed (p : Part) : Nat := (p.devq.filter (holdsEntry (partElected p))).length
/-- A partition whose launches in spill have moved, in acceptance order, into the queue entries that are free (R341). -/
def spillFill (p : Part) : Part :=
  { p with devq := p.devq ++ p.spill.take (1024 - queueUsed p), spill := p.spill.drop (1024 - queueUsed p) }
/-- Whether a launch can be accepted, and into the queue or the spill area (R341): what stands in spill moves first. -/
def launchRoom (p : Part) : Option Bool :=
  let q := spillFill p
  if queueUsed q < 1024 && q.spill.isEmpty then some true
  else if q.spill.length < partFld p 148 4 then some false
  else none
/-- A launch accepted: its sequence number and the state. -/
def launchTake (s : State) (pn : Nat) (desc : BitVec 512) (holder : Nat) (ag : Agent) (inQueue : Bool) : Nat × State :=
  let p := spillFill (partOf s pn)
  let seq := (p.seq + 1) % 2 ^ 64
  let l := launchNew seq pn desc holder ag
  (seq, setPart s pn (if inQueue then { p with seq := seq, devq := p.devq ++ [l] } else { p with seq := seq, spill := p.spill ++ [l] }))
/-- The parts of a descriptor read, in order. -/
def descParts (s : State) (a : Acc) : List Acc := s.accs.filter fun b => b.agent == a.agent && b.toward == a.toward
/-- Whether a part of a descriptor read has returned, with its failure if any. -/
def partBack (s : State) (a : Acc) : Bool :=
  a.done && decide (a.back ≤ s.cyc) && (a.ok || a.cause != 0xF01 || a.race.isSome)
/-- The descriptor that its parts hold. -/
def descValue (l : List Acc) : BitVec 512 :=
  (l.foldr (fun (a : Acc) (x : BitVec 1024) => x <<< (8 * a.size) ||| (BitVec.ofNat 1024 (a.val.toNat % 2 ^ (8 * a.size)))) (0 : BitVec 1024)).setWidth 512
/-- What follows when every part of a descriptor read has returned (R342, R353); `a` is the first part that failed, else the
first part. -/
def launchReturn (s : State) (l : List Acc) (a : Acc) (tile jid : Nat) : State :=
  let job := jobOf (tileOf s tile) jid
  let s0 := l.foldl (fun x b => accDel x b.id) s
  if !a.ok then
    if a.cause = 0xF01 then
      takeTrap (accPut s { a with race := none }) tile
        { answerTrap s tile a.who 0xF01 0 with race := a.race, job := some jid }
    else
      let s1 := match job with
        | some j => dropJob s0 tile j
        | none => s0
      takeTrap s1 tile (answerTrap s tile a.who a.cause a.addr)
  else
    let s1 := s0
    match launchRoom (partOf s a.part) with
    | some q =>
      let (seq, s2) := launchTake s1 a.part (descValue l) a.holder a.agent q
      let s3 := clkRename s2 a.part (launchObj tile jid) (.launch seq)
      (match job with
       | some j => answerJob s3 tile j (BitVec.ofNat 512 seq) true
       | none => s3)
    | none =>
      if a.signed then
        match job with
        | some j => answerJob s1 tile j 0 false
        | none => s1
      else takeTrap s1 tile { answerTrap s tile a.who 0xE04 a.addr with again := some (jid, a.addr, false), job := some jid }
/-- LAUNCH_ACCEPT (R342): commands of one bank to its die's dispatcher are accepted in firing order (R23). -/
def execLaunchAccept (id : Nat) (s : State) : Host.Outcome State Fault Refusal :=
  match accOf s id with
  | none => .next s
  | some a =>
    match a.toward, a.agent with
    | .launch jid, .bank t _ =>
      let l := descParts s a
      if l.all (partBack s) && !dispEarlier s ((l.head?.map (·.id)).getD a.id) t (match a.agent with | .bank _ b => b | _ => 0) (tileDie t) then .next (launchReturn s l (((l.find? fun b => !b.ok).or l.head?).getD a) t jid) else .next s
    | _, _ => .next s
/-- SPILL_MOVE (R341): launches move into free queue entries in acceptance order. -/
def execSpillMove (part : Nat) (s : State) : Host.Outcome State Fault Refusal :=
  let p := partOf s part
  match p.spill with
  | [] => .next s
  | l :: rest => if queueUsed p < 1024 then .next (setPart s part { p with devq := p.devq ++ [l], spill := rest }) else .next s

/-! ### Checks and records (R336, R354) -/

/-- The lowest live die. -/
def lowDie (s : State) : Nat := ((List.range 4).find? fun d => !dieFenced s d).getD 0
/-- A LAUNCH_ERR record. -/
def launchErr (s : State) (pn reason seq idx conf : Nat) : State :=
  faultRecord s pn (.disp (lowDie s)) (recOf [(0, 2, 0x61), (2, 2, reason), (16, 8, seq), (24, 8, idx), (32, 4, conf), (56, 8, s.cyc)])
/-- The installed instances of a configuration in a partition, with their keys, in order of region id: LIVE, FROZEN or SHADOW; a
SAVED one holds no fabric (R336, R374). -/
def confRgns (s : State) (pn conf : Nat) : List (Nat × Region) :=
  s.rgns.filter fun e => e.2.part == pn && e.2.conf == conf && e.2.st != .saved
/-- Whether an instance under a configuration, other than `k`, disagrees on whether it names an index source port (R240): an
instance lives in every state of R374, a SAVED one too (R410). -/
def confDisagrees (s : State) (pn conf k : Nat) (idx : Bool) : Bool :=
  s.rgns.any fun e => e.2.part == pn && e.2.conf == conf && e.1 != k && e.2.idx.isSome != idx
/-- The dies of R409: the live dies that hold an instance of a configuration, ascending. -/
def confDies (s : State) (pn conf : Nat) : List Nat :=
  (List.range 4).filter fun d => !dieFenced s d && (confRgns s pn conf).any fun e => rgnDie e.2 == d
/-- Whether the instances of a configuration have no index source port (R240). -/
def confWhole (s : State) (pn conf : Nat) : Bool := (confRgns s pn conf).all fun e => e.2.idx.isNone
/-- The first check of R336 that a descriptor fails, by R354's reason. -/
def launchCheck (s : State) (pn : Nat) (d : BitVec 512) : Option Nat :=
  let trl := ldTrl d
  if (confDies s pn (ldConf d)).isEmpty then some 1
  else if ldCount d < 1 || decide ((if trl then 65536 else 2 ^ 48) < ldCount d) then some 2
  else if (if trl then ldGrain d != 0 else decide (ldGrain d < 1) || decide (2 ^ 32 < ldGrain d)) then some 3
  else if (trl && ldBase d % 16 != 0) || ldDone d % 8 != 0 then some 4
  else if recFld d 4 4 / 8 != 0 then some 5
  else none
/-- A launch's completion word written by the region controller of a die, a release at system scope (R60, R338, R431). -/
def writeDone (s : State) (pn d holder rk done word : Nat) : State :=
  (engineWrite s { acc0 with agent := .ctl d, holder := holder, part := pn, rgn := rk, rel := some 3 } d done word 8 d 2 3).1
/-- A launch that fails its check (R336): a record, and the flagged word where DONE is aligned. -/
def launchFail (s : State) (l : Launch) (reason : Nat) : State :=
  let s1 := launchErr s l.part reason l.seq 0 (ldConf l.desc)
  let s2 := if ldDone l.desc % 8 = 0 && decide (ldDone l.desc < 2 ^ 48) then
      writeDone s1 l.part (lowDie s1) l.holder (l.part * 2 ^ 32) (ldDone l.desc) ((l.seq + 2 ^ 63) % 2 ^ 64)
    else s1
  modPart s2 l.part fun p => { p with devq := p.devq.filter fun x => x.seq != l.seq }

/-! ### Distribution (R336, R409) -/

/-- A launch of a partition's queue replaced. -/
def setLaunch (s : State) (l : Launch) : State :=
  modPart s l.part fun p => { p with devq := p.devq.map fun x => if x.seq = l.seq then l else x }
/-- A launch of a partition by its sequence number. -/
def launchOf (s : State) (pn seq : Nat) : Option Launch := (partOf s pn).devq.find? fun l => l.seq == seq
/-- A block as tasks of a die (R337, R240); a tile record's tasks follow its read. -/
def blockOut (l : Launch) (b d : Nat) : Launch :=
  let l1 := { l with given := l.given ++ [(b, d, none)] }
  if ldTrl l.desc && !l.whole then { l1 with recs := l.recs ++ [(b, d)] }
  else
    let g := ldGrain l.desc
    let t : Task :=
      { seq := l.seq, num := b * 2 ^ 27, blk := b, first := if l.whole then ldBase l.desc else (ldBase l.desc + b * g) % 2 ^ 64,
        count := if l.whole then ldCount l.desc else min g (ldCount l.desc - b * g), trl := none, bypass := 0 }
    { l1 with ready := l.ready ++ [(d, t)] }
/-- Tasks of a launch ready on a die, or coming from records to be read. -/
def readyOn (l : Launch) (d : Nat) : Nat := (l.ready.filter fun t => t.1 == d).length + (l.recs.filter fun r => r.2 == d).length
/-- Whether an instance is open to a task: live, not stopped, draining or going. -/
def instOpen (r : Region) : Bool := r.st == .live && r.stopAt.isNone && r.drain.isNone && r.releasing.isNone
/-- Whether an instance has received its last task's indices and no closing marker. -/
def fed (r : Region) : Bool :=
  match r.feed with
  | some f => !f.lead && f.next == f.total && !f.marked
  | none => false
/-- Whether an instance can take a task of a launch (R337). -/
def canTake (r : Region) (seq : Nat) : Bool :=
  instOpen r && (r.reusable || ((r.launch.map (·.1)) == some seq && fed r))
/-- Whether a die of D takes no more blocks of a launch: it is fenced, or every instance it holds is lost (R338, R409). -/
def dieGone (s : State) (l : Launch) (d : Nat) : Bool := dieFenced s d || l.gone.contains d
/-- The next block that can be handed out, its die, and the launch without it (R409). Under replicated distribution a die
takes its blocks in order; under elected, one whose instance can take a task asks for the next. -/
def nextBlock (s : State) (l : Launch) : Option (Nat × Nat × Launch) :=
  if partElected (partOf s l.part) then
    match l.dies.find? fun d => !dieFenced s d && readyOn l d == 0
        && (confRgns s l.part (ldConf l.desc)).any (fun e => rgnDie e.2 == d && canTake e.2 l.seq) with
    | none => none
    | some d =>
      match l.redo with
      | b :: rest => some (b, d, { l with redo := rest })
      | [] => if l.out < l.blocks then some (l.out, d, { l with out := l.out + 1 }) else none
  else
    let n := l.dies.length
    (l.dies.zipIdx.find? fun (d, j) => !dieGone s l d && decide (readyOn l d < 16)
        && decide (j + n * mapGet l.outs d 0 < l.blocks)).map fun (d, j) =>
      (j + n * mapGet l.outs d 0, d, { l with out := l.out + 1, outs := mapPut l.outs d (mapGet l.outs d 0 + 1) })
/-- What distribution does next in a partition: a launch to check, or a block to hand out. -/
def distNext (s : State) (pn : Nat) : Option (Launch ⊕ (Nat × Nat × Launch)) :=
  (partOf s pn).devq.findSome? fun l =>
    if l.checked then (nextBlock s l).map .inr else if clockRooms (partOf s pn) l.holder 1 then some (.inl l) else none
/-- LAUNCH_DISTRIBUTION (R336, R409). -/
def execLaunchDistribution (part : Nat) (s : State) : Host.Outcome State Fault Refusal :=
  match distNext s part with
  | none => .next s
  | some (.inl l) =>
    (match launchCheck s part l.desc with
     | some r => .next (launchFail s l r)
     | none =>
       let d := l.desc
       let n := if confWhole s part (ldConf d) then 1 else if ldTrl d then ldCount d else (ldCount d + ldGrain d - 1) / ldGrain d
       .next (setLaunch s { l with checked := true, whole := confWhole s part (ldConf d), blocks := n, dies := confDies s part (ldConf d) }))
  | some (.inr (b, d, l)) => .next (setLaunch s (blockOut l b d))

/-! ### Tile records (R339) -/

/-- The 16 bytes of a tile record, or none where its read fails: a fenced channel is read as little as a page that does not translate
(R31, R339). -/
def recordRead (s : State) (l : Launch) (b d : Nat) : State × Option Nat :=
  let va := ldBase l.desc + 16 * b
  if 2 ^ 48 ≤ va then (s, none)
  else match xlateNow s d l.part (va / 4096) false with
    | (s1, .ok pp _) =>
      (match physLoc (pp * 4096 + va % 4096) with
       | .remote _ _ => (s1, none)
       | loc =>
         if deadLoc s1 loc then (s1, none)
         else
         let (s2, a) := collDo s1 { acc0 with agent := .disp d, holder := l.holder, part := l.part, rgn := l.part * 2 ^ 32,
                                              addr := BitVec.ofNat 64 va, loc := loc, size := 16 }
         (s2, if a.ok then some a.val.toNat else none))
    | (s1, .fail _ _ _ _) => (s1, none)
/-- The tasks of a record (R339). -/
def recordTasks (l : Launch) (b item base rows flags : Nat) : List Task :=
  (List.range ((rows + 31) / 32)).map fun t =>
    { seq := l.seq, num := b * 2 ^ 27 + t, blk := b, first := base + 32 * t, count := min 32 (rows - 32 * t),
      trl := some (flags, item), bypass := 0 }
/-- TILE_RECORD_READ (R339): the record of the next block of a launch, in list order. -/
def execTileRecordRead (part seq : Nat) (s : State) : Host.Outcome State Fault Refusal :=
  match launchOf s part seq with
  | none => .next s
  | some l =>
    match l.recs with
    | [] => .next s
    | (b, d) :: rest =>
      let (s1, v) := recordRead s l b d
      let none_ := fun x : Nat × Nat × Option Nat => !(x.1 == b && x.2.1 == d && x.2.2.isNone)
      let bad := fun x : State =>
        launchErr (setLaunch x { l with recs := rest, flags := l.flags ||| 2, given := l.given.filter none_ }) part 6 seq b
          (ldConf l.desc)
      match v with
      | none => .next (bad s1)
      | some x =>
        let item := x % 2 ^ 32
        let rows := x / 2 ^ 64 % 2 ^ 32
        let flags := x / 2 ^ 96 % 2 ^ 32
        if 65535 < item || 65535 < flags then .next (bad s1)
        else if rows = 0 then .next (setLaunch s1 { l with recs := rest, given := l.given.filter none_ })
        else .next (setLaunch s1 { l with recs := rest, ready := l.ready ++
               (recordTasks l b item (x / 2 ^ 32 % 2 ^ 32) rows flags).map fun t => (d, t) })

/-! ### Binding (R337, R340, R343) -/

/-- Whether a task's probe hits (R340): the line at OPND + OSTR * r is in a cache bank of the partition on the die. -/
def probeHit (s : State) (l : Launch) (d : Nat) (t : Task) : Bool :=
  let r := if t.trl.isSome then t.first else (t.first + 2 ^ 64 - ldBase l.desc) % 2 ^ 64
  let va := (ldOpnd l.desc + ldOstr l.desc * r) % 2 ^ 64
  if ldOpnd l.desc = 0 || decide (2 ^ 48 ≤ va) then false
  else match walkTables s l.part (va / 4096) false with
    | .ok pp _ =>
      let pa := pp * 4096 + va % 4096
      isHbm pa && hbmDie pa == d && cached s l.part pa
    | .fail _ _ _ _ => false
/-- Whether a task is older than another (R340): by acceptance of the launch, then by task number. -/
def older (a b : Task) : Bool := decide (a.seq < b.seq) || (a.seq == b.seq && decide (a.num < b.num))
/-- The oldest of some tasks. -/
def oldest (l : List Task) : Option Task := l.foldl (fun m t => match m with
  | none => some t
  | some x => if older t x then some t else some x) none
/-- The candidates of an instance on a die (R340): the ready tasks of the launches it may take, of the highest priority. -/
def candidates (s : State) (d : Nat) (r : Region) : List (Launch × Task) :=
  let ls := (partOf s r.part).devq.filter fun l => l.checked && ldConf l.desc == r.conf && canTake r l.seq
  let top := (ls.filter fun l => l.ready.any fun t => t.1 == d).foldl (fun m l => max m (ldPrio l.desc)) 0
  (ls.filter fun l => ldPrio l.desc == top).flatMap fun l => (l.ready.filter fun t => t.1 == d).map fun t => (l, t.2)
/-- The choice of R340. -/
def chooseTask (s : State) (d b : Nat) (c : List (Launch × Task)) : Option Task :=
  match oldest ((c.filter fun x => decide (b ≤ x.2.bypass)).map (·.2)) with
  | some t => some t
  | none =>
    match oldest ((c.filter fun x => probeHit s x.1 d x.2).map (·.2)) with
    | some t => some t
    | none => oldest (c.map (·.2))
/-- The instance that takes a task next on a die, and the task. -/
def bindNext (s : State) (pn d : Nat) : Option (Nat × Region × Task) :=
  s.rgns.findSome? fun (k, r) =>
    if r.part == pn && rgnDie r == d && instOpen r then
      (chooseTask s d (partBypass (partOf s pn)) (candidates s d r)).map fun t => (k, r, t)
    else none
/-- A task taken from its launch by an instance: older candidates are bypassed, and the block is under way there. -/
def taskTaken (s : State) (k d : Nat) (r : Region) (t : Task) : State :=
  let cs := (candidates s d r).map fun c => (c.2.seq, c.2.num)
  let s1 := modPart s r.part fun p => { p with devq := p.devq.map fun l =>
    { l with ready := l.ready.map fun x =>
        if x.1 = d && cs.contains (x.2.seq, x.2.num) && older x.2 t then (x.1, { x.2 with bypass := x.2.bypass + 1 }) else x } }
  match launchOf s1 r.part t.seq with
  | none => s1
  | some l =>
    let ready := l.ready.filter fun x => !(x.1 == d && x.2.num == t.num)
    let more := ready.any fun x => x.1 == d && x.2.blk == t.blk
    let given := if more then l.given else l.given.filter fun g => !(g.1 == t.blk && g.2.1 == d && g.2.2.isNone)
    setLaunch s1 { l with ready := ready, given := given ++ [(t.blk, d, some k)], bound := if l.bound.contains k then l.bound else l.bound ++ [k] }
/-- What the index source port has to deliver for a task. -/
def feedOf (t : Task) (lead : Bool) : Feed :=
  { seq := t.seq, lead := lead, next := 0, total := if t.trl.isSome then 32 else t.count, task := t, marked := false }
/-- A reusable instance bound to a launch (R337, R61, R343): reset where an earlier launch ran on it, told of the launch,
and an acquire from it. -/
def bindInstance (s : State) (k : Nat) (r : Region) (t : Task) : State :=
  match launchOf s r.part t.seq with
  | none => s
  | some l =>
    let s1 := if r.started then resetInstance s k else s
    let s2 := (rgnAgts s1 k).foldl (fun x n => setAgt x n (agtLaunch (agtOf x n))) s1
    let sc := match l.agent with | .host _ => 3 | _ => 2
    let s3 := clkAcquire s2 r.part r.holder (.launch l.seq) sc (diePlace (rgnDie r)) none
    modRgn s3 k fun r =>
      { r with launch := some (l.seq, ldBase l.desc, ldCount l.desc, ldArgs l.desc), started := true, reusable := false,
               argTok := r.arg.map fun _ => BitVec.ofNat 64 (ldArgs l.desc),
               feed := r.idx.map fun _ => feedOf t false }
/-- TASK_BIND (R337). -/
def execTaskBind (part die : Nat) (s : State) : Host.Outcome State Fault Refusal :=
  match bindNext s part die with
  | none => .next s
  | some (k, r, t) =>
    let s1 := taskTaken s k die r t
    if r.reusable then .next (bindInstance s1 k r t)
    else .next (modRgn s1 k fun r => { r with feed := some (feedOf t true) })

/-! ### Index delivery (R39, R337, R339) -/

/-- Whether a source port's channel has a request pending for one more token. -/
def sourceReady (s : State) (c : Option Nat) (prod : Nat) : Bool :=
  match c.bind (chanOf s) with
  | some x => chanTakes s x prod 0
  | none => false
/-- A token sent by a source port. -/
def sourceSend (s : State) (c : Option Nat) (prod : Nat) (t : Token) : State :=
  match c with
  | none => s
  | some k =>
    match chanOf s k with
    | some x => enterChan (setChan s k (chanConsume x)) k prod 0 t
    | none => s
/-- A DATA token of the control plane with tag 0. -/
def dataTok (x : Nat) : Token := ⟨.data, 0, BitVec.ofNat 512 (x % 2 ^ 64)⟩
/-- Token i of a task (R39, R339). -/
def taskTok (t : Task) (i : Nat) : Token :=
  match t.trl with
  | none => dataTok (t.first + i)
  | some (flags, item) =>
    if i < t.count then dataTok (flags * 2 ^ 48 + item * 2 ^ 32 + (t.first + i) % 2 ^ 32) else ⟨.null, 0, 0⟩
/-- Whether no further task of a launch can come to a die. -/
def noneLeft (s : State) (l : Launch) (d : Nat) : Bool :=
  readyOn l d == 0
    && (if partElected (partOf s l.part) then decide (l.blocks ≤ l.out) && l.redo.isEmpty
        else match l.dies.zipIdx.find? fun x => x.1 == d with
          | some (_, j) => decide (l.blocks ≤ j + l.dies.length * mapGet l.outs d 0)
          | none => true)
/-- What a source port of an instance sends next, on which port, and the instance after it: the argument token, the
rank 1 marker between tasks, an index, or the rank 7 marker when the die holds no further task of the launch. -/
def feedNext (s : State) (r : Region) : Option (Option Nat × Nat × Token × Region) :=
  match r.argTok with
  | some x => some (r.arg, argProd, dataTok x.toNat, { r with argTok := none })
  | none =>
    match r.feed with
    | none => none
    | some f =>
      if f.lead then some (r.idx, indexProd, markTok 1 0, { r with feed := some { f with lead := false } })
      else if f.next < f.total then
        some (r.idx, indexProd, taskTok f.task f.next, { r with feed := some { f with next := f.next + 1 } })
      else if f.marked then none
      else match launchOf s r.part f.seq with
        | some l => if noneLeft s l (rgnDie r) then
            some (r.idx, indexProd, markTok 7 0, { r with feed := some { f with marked := true } }) else none
        | none => some (r.idx, indexProd, markTok 7 0, { r with feed := some { f with marked := true } })
/-- Whether a source port of an instance sends: the instance moves, and a drain under way has it pass a further token (R376,
R421). -/
def sourcesOpen (s : State) (k : Nat) (r : Region) (prod : Nat) : Bool :=
  rgnMoves s (some k) && (match r.drain with | some d => decide (1 ≤ mapGet d.left prod 0) | none => true)
/-- An instance whose source port has passed one more token while a drain is under way. -/
def sourcePass (r : Region) (prod : Nat) : Region :=
  { r with drain := r.drain.map fun d => { d with left := mapPut d.left prod (mapGet d.left prod 0 - 1) } }
/-- INDEX_DELIVERY (R39, R337). -/
def execIndexDelivery (rgn : Nat) (s : State) : Host.Outcome State Fault Refusal :=
  match rgnOf s rgn with
  | none => .next s
  | some r =>
    match feedNext s r with
    | some (c, prod, t, r1) =>
      if sourcesOpen s rgn r prod && sourceReady s c prod then .next (sourceSend (setRgn s rgn (sourcePass r1 prod)) c prod t) else .next s
    | none => .next s

/-! ### Completion (R60, R338) -/

/-- REGION_COMPLETION (R60): the instance has reported: it is reusable, and its blocks are finished. -/
def execRegionCompletion (rgn : Nat) (s : State) : Host.Outcome State Fault Refusal :=
  match rgnOf s rgn with
  | none => .next s
  | some r =>
    if completes s rgn r then
      let s1 := setRgn s rgn { r with reusable := true, feed := none }
      match r.launch.bind fun l => launchOf s r.part l.1 with
      | some l => .next (setLaunch s1
          { l with bound := l.bound.filter (· != rgn), reported := l.reported ++ [rgn], last := rgnDie r,
                   given := l.given.filter fun g => g.2.2 != some rgn })
      | none => .next s1
    else .next s
/-- Whether a launch is complete: every block handed out and finished, and every bound instance reported. -/
def launchDone (s : State) (l : Launch) : Bool :=
  l.checked && !l.stuck && l.ready.isEmpty && l.recs.isEmpty && l.given.isEmpty && l.redo.isEmpty && l.bound.isEmpty
    && (if partElected (partOf s l.part) then decide (l.blocks ≤ l.out)
        else l.dies.zipIdx.all fun (d, j) => dieGone s l d || decide (l.blocks ≤ j + l.dies.length * mapGet l.outs d 0))
/-- LAUNCH_COMPLETION (R338): the completion word, a release that waits for its holder's clock (R321), and the launch ends. -/
def execLaunchCompletion (part seq : Nat) (s : State) : Host.Outcome State Fault Refusal :=
  match launchOf s part seq with
  | none => .next s
  | some l =>
    let rk := (l.reported.getLast?).getD (part * 2 ^ 32)
    let h := ((rgnOf s rk).map (·.holder)).getD l.holder
    if launchDone s l && clockRooms (partOf s part) h 1 then
      let d := if l.reported.isEmpty || dieFenced s l.last then lowDie s else l.last
      let word := (l.seq + l.flags * 2 ^ 61) % 2 ^ 64
      let s1 := writeDone s part d h rk (ldDone l.desc) word
      .next (modPart s1 part fun p => { p with devq := p.devq.filter fun x => x.seq != seq })
    else .next s

end Sys2Proof.Machine
end

