-- ==== Sys2Proof/Machine/Rings.lean ====
section
/-! DEFINITION. The group 10 instructions (R219 to R237), the steps of the read stream, of scratchpad rings and of token
FIFOs (R222, R230, R232 to R238). -/
namespace Sys2Proof.Machine

/-! ### Streams and local memory (R224, R225) -/

/-- The operator that a stream belongs to once a firing has set or started it: one folded in, by its bank, or the tile's own
(R370). -/
def strOwner (s : State) (f : Firing) : Option Nat := if foldedFiring (tileOf s f.tile) f then some f.bank else none
/-- `ss.set` (R224). -/
def execSsSet (a b : BitVec 5) (t : BitVec 4) (s : State) : Host.Outcome State Fault Refusal :=
  pe s (.ssSet a b t) fun st f o _ =>
    if strBad o.ka o.kb then .stop 0xA01 o.ka
    else .go { st := modTile st f.tile fun x =>
      if o.ka.getLsbD 63 then { x with wr := { x.wr with w0 := o.ka, w1 := o.kb, own := strOwner st f } }
      else { x with rd := { x.rd with w0 := o.ka, w1 := o.kb, own := strOwner st f } } }
/-- `ss.go` (R224). -/
def execSsGo (a : BitVec 5) (t : BitVec 4) (s : State) : Host.Outcome State Fault Refusal :=
  pe s (.ssGo a t) fun st f o _ =>
    .go { st := modTile st f.tile fun x =>
      if o.ka.getLsbD 0 then { x with wr := { strGo x.wr st.cyc with own := strOwner st f } }
      else { x with rd := { strGo x.rd st.cyc with own := strOwner st f } } }
/-- `ss.stop` (R224). -/
def execSsStop (a : BitVec 5) (t : BitVec 4) (s : State) : Host.Outcome State Fault Refusal :=
  pe s (.ssStop a t) fun st f o _ =>
    .go { st := modTile st f.tile fun x =>
      if o.ka.getLsbD 0 then { x with wr := strStop x.wr } else { x with rd := strStop x.rd } }
/-- `ss.stat` (R224): the flag is RUN. -/
def execSsStat (a : BitVec 5) (d e t : BitVec 4) (s : State) : Host.Outcome State Fault Refusal :=
  pe s (.ssStat a d e t) fun st f o _ =>
    let x := tileOf s f.tile
    let r := if o.ka.getLsbD 0 then x.wr else x.rd
    .go { st := st, r1 := (.data, (strStat r).setWidth 512), flag := r.st == .run }
/-- `lm.ld` (R225): an uncorrectable error delivers nothing and traps (R238). -/
def execLmLd (a : BitVec 5) (d e t : BitVec 4) (s : State) : Host.Outcome State Fault Refusal :=
  pe s (.lmLd a d e t) fun st f o _ =>
    let x := tileOf st f.tile
    let p := lmWord8 o.ka
    if lmBad x p 8 then .go { st := errNote st (.lm f.tile p), lat := 3, drop := true, after := some (0xA06, BitVec.ofNat 64 p) }
    else .go { st := st, r1 := (.data, BitVec.ofNat 512 (lmRead x p 8)), lat := 3 }
/-- `lm.st` (R225): performed in the cycle after the firing. -/
def execLmSt (a b : BitVec 5) (t : BitVec 4) (s : State) : Host.Outcome State Fault Refusal :=
  pe s (.lmSt a b t) fun st f o _ =>
    .go { st := modTile st f.tile fun x => { x with lmsts := x.lmsts ++ [(o.kb.toNat, o.ka)] } }
/-- STREAM_FETCH (R222): a running read stream fetches its next element. -/
def execStreamFetch (tile : Nat) (s : State) : Host.Outcome State Fault Refusal :=
  let t := tileOf s tile
  if fetchDue s t then .next (setTile s tile (fetchNext s t)) else .next s

/-! ### Ring instructions (R235, R236) -/

/-- A tile's handle replaced. -/
def setHandle (t : Tile) (h : Nat) (x : Handle) : Tile := { t with handles := t.handles.setIfInBounds h x }
/-- `ring.bind` (R236): the view is fetched from the memory tile. -/
def execRingBind (t : BitVec 4) (s : State) : Host.Outcome State Fault Refusal :=
  pe s (.ringBind t) fun st f o _ =>
    let m := epMt (fld o.lit 26 8)
    let n := fld o.lit 30 27
    let r := mapGet (mtileOf st m).rings n ⟨0, 0, 0⟩
    let due := st.cyc + roundTrip st (tileCluster f.tile) (mtCluster m)
    let h := handleOf (tileOf st f.tile) o.lit
    let h1 : Handle := { h with ring := some (m, n), busy := true, binding := true, ups := [(due, r.p, r.c)] }
    .go { st := modTile st f.tile fun x => setHandle x (o.lit.toNat % 8) h1 }
/-- A satisfied wait (R236, R237): the slot number, and the acquire from the ring. -/
def ringWait (full : Bool) (st : State) (f : Firing) (o : Opnd) : Effect :=
  let h := handleOf (tileOf st f.tile) o.lit
  match h.ring, ringWordOf st h with
  | some (m, n), some w =>
    let ns := ringSlots w
    if ns < ringN o.lit then .stop 0xA03 (BitVec.ofNat 64 (ringN o.lit + ns * 2 ^ 16))
    else
      let x := tileHolder st f.tile
      .go { st := clkAcquire st x.2.1 x.1 (.ring m n) 2 (tilePlace f.tile) none,
            r1 := (.data, BitVec.ofNat 512 ((if full then h.c else h.p) % ns)) }
  | _, _ => .stop 0xA02 (BitVec.ofNat 64 (o.lit.toNat % 8))
/-- `ring.waitf` (R236). -/
def execRingWaitf (d e t : BitVec 4) (s : State) : Host.Outcome State Fault Refusal :=
  pe s (.ringWaitf d e t) fun st f o _ => ringWait true st f o
/-- `ring.waite` (R236). -/
def execRingWaite (d e t : BitVec 4) (s : State) : Host.Outcome State Fault Refusal :=
  pe s (.ringWaite d e t) fun st f o _ => ringWait false st f o
/-- The access of a ring instruction on a bound handle. -/
def ringAcc (st : State) (f : Firing) (lit : W64) (m n : Nat) (op : AccOp) (off : W64) (size data : Nat) (toward : AccTo)
    (rel : Option Nat) : State :=
  (accIssue st { peAcc st f op off (.mtile m 0) size data with ring := some (lit.toNat % 8, m, n), rel := rel, toward := toward } 0).2
/-- An advance sent to the memory tile (R236): a release at fabric scope. -/
def ringAdvEff (prod : Bool) (st : State) (f : Firing) (o : Opnd) : Effect :=
  match (handleOf (tileOf st f.tile) o.lit).ring with
  | none => .stop 0xA02 (BitVec.ofNat 64 (o.lit.toNat % 8))
  | some (m, n) =>
    let st1 := modTile st f.tile fun x => setHandle x (o.lit.toNat % 8) { handleOf x o.lit with busy := true }
    .go { st := ringAcc st1 f o.lit m n (.ringAdv prod (ringN o.lit)) 0 0 0 .none (some 2) }
/-- `ring.advp` (R236). -/
def execRingAdvp (t : BitVec 4) (s : State) : Host.Outcome State Fault Refusal :=
  pe s (.ringAdvp t) fun st f o _ => ringAdvEff true st f o
/-- `ring.advc` (R236). -/
def execRingAdvc (t : BitVec 4) (s : State) : Host.Outcome State Fault Refusal :=
  pe s (.ringAdvc t) fun st f o _ => ringAdvEff false st f o
/-- A read of the ring's head slot (R236). -/
def ringRdEff (size : Nat) (st : State) (f : Firing) (o : Opnd) (jid : Nat) : Effect :=
  match (handleOf (tileOf st f.tile) o.lit).ring with
  | none => .stop 0xA02 (BitVec.ofNat 64 (o.lit.toNat % 8))
  | some (m, n) => .go { st := ringAcc st f o.lit m n .ringRead o.ka size 0 (.job f.tile jid) none, wait := .answer, mem := true }
/-- A write of the ring's head slot (R236). -/
def ringWrEff (size : Nat) (st : State) (f : Firing) (o : Opnd) : Effect :=
  match (handleOf (tileOf st f.tile) o.lit).ring with
  | none => .stop 0xA02 (BitVec.ofNat 64 (o.lit.toNat % 8))
  | some (m, n) => .go { st := ringAcc st f o.lit m n .ringWrite o.kb size o.a.toNat .none none }
/-- `ring.rd` (R236). -/
def execRingRd (a : BitVec 5) (d e t : BitVec 4) (s : State) : Host.Outcome State Fault Refusal :=
  pe s (.ringRd a d e t) (ringRdEff 8)
/-- `ring.wr` (R236). -/
def execRingWr (a b : BitVec 5) (t : BitVec 4) (s : State) : Host.Outcome State Fault Refusal :=
  pe s (.ringWr a b t) fun st f o _ => ringWrEff 8 st f o
/-- `ring.rdv` (R236). -/
def execRingRdv (a : BitVec 5) (d e t : BitVec 4) (s : State) : Host.Outcome State Fault Refusal :=
  pe s (.ringRdv a d e t) (ringRdEff 64)
/-- `ring.wrv` (R236). -/
def execRingWrv (a b : BitVec 5) (t : BitVec 4) (s : State) : Host.Outcome State Fault Refusal :=
  pe s (.ringWrv a b t) fun st f o _ => ringWrEff 64 st f o

/-! ### Steps of a ring (R234, R236, R237) -/

/-- The updates on their way to a handle: the view that a bind fetches is none. -/
def viewUps (h : Handle) : List (Nat × Nat × Nat) := if h.binding then h.ups.drop 1 else h.ups
/-- The cycle in which the last update on its way from a memory tile to a PE arrives. -/
def viewLast (t : Tile) (m : Nat) : Nat :=
  t.handles.toList.foldl (fun x h => if h.ring.any fun r => r.1 == m then max x (((viewUps h).getLast?.map (·.1)).getD 0) else x) 0
/-- A view on its way to a handle bound to a ring: 4 cycles from a memory tile of the cluster, longer from farther; never
ahead of an earlier update from that memory tile (R234). One that comes before the view that a bind fetches is in that view. -/
def viewUp (s : State) (tile m n p c extra last : Nat) (h : Handle) : Handle :=
  if h.ring = some (m, n) then
    let far := (roundTrip s (mtCluster m) (tileCluster tile) - 10) / 2
    let t := max (s.cyc + 4 + far + (if far = 0 then 0 else extra)) last
    match h.ups with
    | [(d, p0, c0)] => { h with ups := if h.binding && decide (t ≤ d) then [(d, p, c)] else [(d, p0, c0), (t, p, c)] }
    | l => { h with ups := l ++ [(t, p, c)] }
  else h
/-- The new P and C sent to every handle bound to a ring (R234). -/
def sendViews (s : State) (m n p c : Nat) : State :=
  let (d, s1) := freeDelay s
  { s1 with tiles := s1.tiles.map fun (k, t) => (k, { t with handles := t.handles.map (viewUp s1 k m n p c d (viewLast t m)) }) }
/-- An advance performed or refused at its ring (R236). -/
def ringAdvance (s : State) (a : Acc) : State :=
  match a.ring, a.op with
  | some (_, m, n), .ringAdv prod k =>
    let t := mtileOf s m
    let r := mapGet t.rings n ⟨0, 0, 0⟩
    let ns := ringSlots r.word
    let filled := ringFilled r.p r.c
    let b := { a with done := true, back := s.cyc + a.back }
    if (if prod then decide (ns < filled + k) else decide (filled < k)) then
      accPut s { b with ok := false, cause := if prod then 0xA04 else 0xA05,
                        val := BitVec.ofNat 1024 (k + filled * 2 ^ 16 + (mtEp m 0 + n * 2 ^ 19) * 2 ^ 32) }
    else
      let r1 : Ring := if prod then { r with p := (r.p + k) % 2 ^ 16 } else { r with c := (r.c + k) % 2 ^ 16 }
      let s1 := setMTile s m { t with rings := mapPut t.rings n r1 }
      let s2 := clkRelease s1 a.part a.holder (.ring m n) 2 (agentPlace a.agent)
      sendViews (accPut s2 b) m n r1.p r1.c
  | _, _ => s
/-- Whether an advance can be performed now. -/
def advanceDue (s : State) (a : Acc) : Bool :=
  (match a.op with | .ringAdv _ _ => true | _ => false) && !a.done && decide (a.due ≤ s.cyc) && !accBlocked s a
    && mtWakes s (mtileOf s (accMt s a))
/-- RING_ADVANCE (R236). -/
def execRingAdvance (id : Nat) (s : State) : Host.Outcome State Fault Refusal :=
  match accOf s id with
  | some a => if advanceDue s a then .next (ringAdvance s a) else .next s
  | none => .next s
/-- Whether the answer of an advance returns now. -/
def advanceBack (s : State) (a : Acc) : Bool :=
  (match a.op with | .ringAdv _ _ => true | _ => false) && a.done && decide (a.back ≤ s.cyc)
/-- ADVANCE_ANSWER (R236): later ring instructions on the handle go on; a refused advance traps (R238). -/
def execAdvanceAnswer (id : Nat) (s : State) : Host.Outcome State Fault Refusal :=
  match accOf s id with
  | none => .next s
  | some a =>
    match a.agent, a.ring with
    | .bank t _, some (h, _, _) =>
      if advanceBack s a then
        let s1 := modTile (accDel s id) t fun x => setHandle x h { x.handles.getD h handle0 with busy := false }
        if a.ok then .next s1
        else .next (takeTrap s1 t (answerTrap s t a.who a.cause (a.val.setWidth 64)))
      else .next s
    | _, _ => .next s
/-- Whether a handle's next view has arrived. -/
def viewDue (s : State) (h : Handle) : Bool :=
  match h.ups with
  | (c, _, _) :: _ => decide (c ≤ s.cyc)
  | [] => false
/-- HANDLE_VIEW_UPDATE (R234): a handle receives P and C; a bind's view ends its hold (R236). -/
def execHandleViewUpdate (tile hdl : Nat) (s : State) : Host.Outcome State Fault Refusal :=
  let h := (tileOf s tile).handles.getD hdl handle0
  match h.ups with
  | (c, p, q) :: l =>
    if c ≤ s.cyc then
      .next (modTile s tile fun x => setHandle x hdl
        { h with p := p, c := q, ups := l, busy := h.busy && !h.binding, binding := false })
    else .next s
  | [] => .next s

/-! ### Token FIFOs (R230, R238) -/

/-- Tokens that a FIFO holds at most: SIZE * 256 control-plane or SIZE * 64 data-plane tokens. -/
def fifoCap (m : MTile) : Nat := (fld m.role 39 32 + 1) * (if m.role.getLsbD 60 then 64 else 256)
/-- Byte offset of the FIFO's head entry in its memory tile. -/
def fifoOff (m : MTile) : Nat := fld m.role 31 24 * 4096 + m.fifoPos * (if m.role.getLsbD 60 then 64 else 16)
/-- Whether a memory tile acts as a token FIFO now. -/
def fifoRuns (s : State) (mt : Nat) : Bool :=
  mtRole (mtileOf s mt) == some 1 && rgnMoves s (mtileOf s mt).rgn && mtWakes s (mtileOf s mt) && mtileLive s mt
/-- The place of a memory tile. -/
def mtPlace (mt : Nat) : Place := locPlace (.mtile mt 0)
/-- Whether a FIFO's port 0 leads into an inter-partition queue, with the region that holds it. -/
def gwRgn (s : State) (mt : Nat) : Option Region :=
  if (mtileOf s mt).role.getLsbD 59 then (mtileOf s mt).rgn.bind (rgnOf s) else none
/-- Whether a region may enqueue into an inter-partition queue: its clock has room (R321). -/
def gwRoom (s : State) (mt : Nat) : Bool :=
  match gwRgn s mt with
  | some r => clockRoom (partOf s r.part) r.holder
  | none => true
/-- Whether an enqueue into an inter-partition queue still waits: for the accesses that the producing region had issued when its token
was ready at the port (R296 item 3, R307; DEDUCED, log 117). -/
def gwWaits (s : State) (mt : Nat) : Bool :=
  let m := mtileOf s mt
  match gwRgn s mt with
  | some r => s.accs.any fun x => decide (x.id < m.relAt.getD s.nid) && x.part == r.part && x.holder == r.holder && !performed x
      && inScope 2 (mtPlace mt) (locPlace x.loc)
  | none => false
/-- An enqueue into an inter-partition queue releases to the queue (R307, R412). -/
def gwRelease (s : State) (mt port : Nat) : State :=
  match gwRgn s mt with
  | some r => if port = 0 then clkRelease s r.part r.holder (.queue mt) 2 (mtPlace mt) else s
  | none => s
/-- The partition that a memory tile belongs to. -/
def mtOwner (s : State) (m : Nat) : Option Nat :=
  (List.range 16).find? fun p => (partOf s p).isSet && partMt (partOf s p) m
/-- A dequeue at the far end of an inter-partition queue acquires from the queue (R307, R412), whose clock the producing
tile's partition keeps, whatever has become of its region. -/
def gwAcquire (s : State) (mt : Nat) : State :=
  match gwRgn s mt, (mtileOf s mt).feeder with
  | some r, some a =>
    let q := (mtOwner s a).getD r.part
    let p := partOf s q
    if (partOf s r.part).raceMode = 0 then s
    else match objFind p.objs (objFor p (.queue a)) with
      | some o =>
        if pairs o 2 (mtPlace mt) none then
          modPart s r.part fun x =>
            let h := holderOf x r.holder
            { x with holders := mapPut x.holders r.holder { h with v := joinV h.v o.v } }
        else s
      | none => s
  | _, _ => s
/-- Whether the FIFO can take the token at a consuming port. -/
def fifoTakes (s : State) (mt port : Nat) : Bool :=
  (port == 0 || port == 3) && fifoRuns s mt && (headAt s (mtEp mt port)).isSome
    && decide ((mtileOf s mt).fifo.length < fifoCap (mtileOf s mt)) && gwRoom s mt
/-- FIFO_ENQUEUE (R230). Into an inter-partition queue the token goes once its release can be performed. -/
def execFifoEnqueue (mt port : Nat) (s : State) : Host.Outcome State Fault Refusal :=
  if fifoTakes s mt port then
    match headAt s (mtEp mt port) with
    | some t =>
      if port = 0 && gwWaits s mt then .next (setMTile s mt { mtileOf s mt with relAt := some ((mtileOf s mt).relAt.getD s.nid) })
      else
        let s1 := gwRelease (deqHead s (mtEp mt port)) mt port
        let m := mtileOf s1 mt
        .next (setMTile s1 mt { m with fifo := m.fifo ++ [t], relAt := if port = 0 then none else m.relAt })
    | none => .next s
  else .next s
/-- The FIFO's head as its consumer gets it: an uncorrectable error gives ERR MEM_UNCORR (R238). -/
def fifoHead (m : MTile) : Option Token :=
  m.fifo.head?.map fun t => if m.fifoBad.contains 0 then ⟨.err, t.tag, errPay 0xA06 (fifoOff m)⟩ else t
/-- An uncorrectable error of the head as it is read counts towards fencing (R227). -/
def fifoNote (s : State) (mt : Nat) : State :=
  if (mtileOf s mt).fifoBad.contains 0 then errNote s (.mtile mt (fifoOff (mtileOf s mt))) else s
/-- The memory tile with an error at a byte: of a token FIFO, the entry that lies there, where one does (R238). -/
def fifoMark (m : MTile) (addr : Nat) : MTile :=
  let cap := fifoCap m
  let i := (addr - fld m.role 31 24 * 4096) / (if m.role.getLsbD 60 then 64 else 16)
  let k := (i + cap - m.fifoPos) % cap
  if mtRole m == some 1 && decide (fld m.role 31 24 * 4096 ≤ addr) && decide (i < cap) && decide (k < m.fifo.length) then
    { m with fifoBad := k :: m.fifoBad.filter (· != k) }
  else m
/-- A FIFO with its head removed. -/
def fifoPop (m : MTile) : MTile :=
  { m with fifo := m.fifo.drop 1, fifoPos := (m.fifoPos + 1) % fifoCap m,
           fifoBad := (m.fifoBad.filter (0 < ·)).map (· - 1) }
/-- Tokens that a FIFO fed from outside its region still passes before DRAIN, while a drain is under way (R376, R421). -/
def gateLeft (s : State) (mt : Nat) : Option Nat :=
  ((mtileOf s mt).rgn.bind (rgnOf s)).bind fun r => r.drain.bind fun d => mapFind d.left (mtEp mt 0)
/-- One more such token passed. -/
def gatePass (s : State) (mt : Nat) : State :=
  match (mtileOf s mt).rgn, gateLeft s mt with
  | some k, some n => modRgn s k fun r => { r with drain := r.drain.map fun d => { d with left := mapPut d.left (mtEp mt 0) (n - 1) } }
  | _, _ => s
/-- Whether the FIFO can answer a request of its consumer. -/
def fifoGives (s : State) (mt port : Nat) : Bool :=
  port == 1 && fifoRuns s mt && !(mtileOf s mt).fifo.isEmpty && outWritable s (mtEp mt 1)
    && (match gateLeft s mt with | some n => decide (1 ≤ n) | none => true)
/-- FIFO_DEQUEUE (R230): the head goes to its consumer, with kind and tag kept. -/
def execFifoDequeue (mt port : Nat) (s : State) : Host.Outcome State Fault Refusal :=
  if fifoGives s mt port then
    match fifoHead (mtileOf s mt) with
    | some t =>
      let s0 := fifoNote s mt
      let s1 := gwAcquire (gatePass (setMTile s0 mt (fifoPop (mtileOf s0 mt))) mt) mt
      .next (queueOut (takeRequest s1 (mtEp mt 1)) (mtEp mt 1) 0 (some t))
    | none => .next s
  else .next s

end Sys2Proof.Machine
end

