-- ==== Sys2Proof/Machine/Flow.lean ====
section
/-! DEFINITION. The movement of tokens and requests (R44 to R53, R131, R133): result writes, bank switches, arrivals, the
request rule, delay lines, watchdogs, switch elements; and the stop of a region that traps (R162, R163). -/
namespace Sys2Proof.Machine

/-! ### Results and banks (R131, R58) -/

/-- Whether a job's results are written now. -/
def resultDue (s : State) (j : Job) : Bool := j.wait == .none && decide (j.due ≤ s.cyc)
/-- RESULT_WRITE (R131). -/
def execResultWrite (tile job : Nat) (s : State) : Host.Outcome State Fault Refusal :=
  match jobOf (tileOf s tile) job with
  | some j => .next (if resultDue s j then finishJob s tile j else s)
  | none => .next s
/-- Whether a PE's arbiter leaves its bank in this cycle, and for which (R58). -/
def switchTo (s : State) (tile : Nat) : Option Nat :=
  if (readySlot s tile (tileOf s tile).bank).isSome then none else nextBank s tile
/-- BANK_SWITCH (R58): a bubble. -/
def execBankSwitch (tile : Nat) (s : State) : Host.Outcome State Fault Refusal :=
  match switchTo s tile with
  | some b => .next (modTile s tile fun t => { t with bank := b })
  | none => .next s

/-! ### Arrivals (R45, R47, R48, R42) -/

/-- A consumer of a channel. -/
def consAt (c : Chan) (i : Nat) : Option Cons := c.cons[i]?
/-- A channel with a consumer changed. -/
def modCons (c : Chan) (i : Nat) (f : Cons → Cons) : Chan :=
  { c with cons := c.cons.zipIdx.map fun (x, n) => if n = i then f x else x }
/-- Whether an input port has room for a token: a free place, or a MARK that it joins (R42). -/
def portRoom (p : InPort) (t : Token) : Bool :=
  decide (p.queue.length < 4)
    || (t.kind == .mark && (match p.queue.getLast? with | some (_, l) => l.kind == .mark | none => false))
/-- Whether the ports of a channel stand in the fabric: its region is neither saved nor in shadow storage (R374). -/
def chanHere (s : State) (c : Chan) : Bool :=
  match rgnOf s c.rgn with
  | some r => r.st == .live || r.st == .frozen
  | none => true
/-- Whether an input port belongs to an operator that moves in steps 3 and 4 of a rewire: no token arrives there (R371). -/
def portHeld (s : State) (c : Chan) (ep : Nat) : Bool :=
  (rgnOf s c.rgn).any fun r => r.rewire.any fun w => w.step == 3 && w.ports.contains ep
/-- The token that reaches a consumer of a channel now. -/
def tokDue (s : State) (c : Chan) (x : Cons) : Option Token :=
  if !chanHere s c || portHeld s c x.ep then none else match x.toks with
  | (c, t) :: _ => if decide (c ≤ s.cyc) && portRoom (inPortOf s x.ep) t then some t else none
  | [] => none
/-- What the steering unit has set for a copy's port taken by it, with the token that begins a chunk (R364, R365). -/
def freshen (s : State) (k ep : Nat) (c : Clone) : State :=
  match mapFind c.fresh (epTile ep) with
  | none => s
  | some e =>
    let s1 := modRgn s k fun r => { r with clones := r.clones.map fun x => if x.op = c.op then { x with fresh := mapDel x.fresh (epTile ep) } else x }
    let s2 := setInPort s1 ep { inPortOf s1 ep with hpos := e.hpos, hrank := e.hrank, run := e.run }
    if e.ident then identityRegs s2 c (epTile ep) else s2
/-- The same, at a port whose consumer is a copy's. -/
def freshenAt (s : State) (c : Chan) (x : Cons) : State :=
  match x.copy.bind (cloneOf s c.rgn) with
  | some k => freshen s c.rgn x.ep k
  | none => s
/-- TOKEN_ARRIVAL (R47): the token enters the queue, and a request is answered. DRAIN answers none (R376). -/
def execTokenArrival (chan cons : Nat) (s : State) : Host.Outcome State Fault Refusal :=
  match chanOf s chan with
  | none => .next s
  | some c =>
    match consAt c cons with
    | none => .next s
    | some x =>
      match tokDue s c x with
      | none => .next s
      | some t =>
        let s1 := setChan s chan (modCons c cons fun x => { x with toks := x.toks.drop 1 })
        let s2 := enqueueTok (freshenAt s1 c x) x.ep c.blk t
        let p := inPortOf s2 x.ep
        .next (setInPort s2 x.ep { p with o := if t.kind = .drain then p.o else p.o - 1 })
/-- Whether a port's AGT can act on its next token (R241). -/
def agtWaits (s : State) (n port : Nat) : Bool :=
  let a := agtOf s n
  match port with
  | 0 => agtPort0 s n
  | 2 => a.st == .run && agtDir a && !a.ended && !a.stopping && agtMoves s n
  | _ => rgnMoves s a.rgn
/-- Whether a switch element waits for a token at a port: an index always, a value once its index is there. -/
def switchWaits (s : State) (tile port : Nat) : Bool :=
  let sw := (tileOf s tile).sw
  let idx := (headAt s (swEp tile 8)).bind fun t => if t.kind = .data then some (t.pay.toNat % 2 ^ 64) else none
  sw.getLsbD 63 && (port == 8 || (if sw.getLsbD 61 then port == 9 && idx.isSome else idx == some port))
/-- `waiting` of R47 for a port, given that it holds no token. -/
def portWaits (s : State) (ep : Nat) : Bool :=
  match epEk ep with
  | 0 => portWanted s (epTile ep) (epPort ep)
  | 2 => agtWaits s (epAgt ep) (epPort ep)
  | 3 => switchWaits s (epTile ep) (epPort ep)
  | _ => false
/-- Whether the element of a port takes part in R47: a trapped or stopped PE sends no request (R162), nor does a port that
has received DRAIN (R376) or an element of a fenced unit. -/
def portOpen (s : State) (ep : Nat) : Bool :=
  !(inPortOf s ep).queue.any (fun t => t.2.kind == .drain)
    && (match epEk ep with
        | 0 => tileLive s (epTile ep) && !(tileOf s (epTile ep)).stopped
        | 1 => mtileLive s (epMt ep)
        | 2 => pchanLive s (epAgt ep)
        | _ => clusterLive s (tileCluster (epTile ep)))
/-- Whether the steering unit of a copy's operator holds a token for it still: of a detached operator, those before its ERR and
the ERR itself (R50). -/
def unitHolds (c : Chan) (x : Cons) : Bool := x.copy.any fun op => c.steer.any fun u => u.1 == op && !u.2.isEmpty
/-- Whether a port sends a request now (R47; for a token FIFO, R230). -/
def portAsks (s : State) (c : Chan) (x : Cons) : Bool :=
  let p := inPortOf s x.ep
  let held := p.queue.length + p.o
  (x.attached || unitHolds c x) && decide (held < 4) && rgnMoves s (some c.rgn) && portOpen s x.ep
    && (if epEk x.ep = 1 then
          let m := mtileOf s (epMt x.ep)
          mtRole m == some 1 && decide (m.fifo.length + held < fifoCap m)
        else decide (held < x.pf) || (held == 0 && portWaits s x.ep))
/-- PORT_REQUEST (R47). -/
def execPortRequest (chan cons : Nat) (s : State) : Host.Outcome State Fault Refusal :=
  match chanOf s chan with
  | none => .next s
  | some c =>
    match consAt c cons with
    | none => .next s
    | some x =>
      if portAsks s c x then
        let p := inPortOf s x.ep
        let s1 := setInPort s x.ep { p with o := p.o + 1 }
        .next (setChan s1 chan (modCons c cons fun x => { x with reqs := x.reqs ++ [s.cyc + chanRoute s c x.ep c.prod] }))
      else .next s
/-- Whether a request of a consumer arrives now. -/
def reqDue (s : State) (x : Cons) : Bool :=
  match x.reqs with
  | c :: _ => decide (c ≤ s.cyc)
  | [] => false
/-- REQUEST_ARRIVAL (R48): the count of pending requests never exceeds 4. -/
def execRequestArrival (chan cons : Nat) (s : State) : Host.Outcome State Fault Refusal :=
  match chanOf s chan with
  | none => .next s
  | some c =>
    match consAt c cons with
    | none => .next s
    | some x =>
      if reqDue s x then
        .next (setChan s chan (modCons c cons fun x => { x with reqs := x.reqs.drop 1, pend := min 4 (x.pend + 1) }))
      else .next s

/-! ### Watchdogs (R49 to R51) -/

/-- Whether a consumer as written (R35) has a pending request: a cloned operator, one of its copies' that no token in its
steering unit takes. -/
def consAsks (c : Chan) (x : Cons) : Bool :=
  match x.copy with
  | none => decide (1 ≤ x.pend)
  | some op => decide ((((c.steer.find? fun u => u.1 == op).map fun u => u.2.length).getD 0) < opPend c op)
/-- Whether a consumer stands for a consumer as written: any but the clones of an operator, whose original comes first. -/
def consWritten (c : Chan) (i : Nat) (x : Cons) : Bool := x.copy.isNone || !(c.cons.take i).any fun y => y.copy == x.copy
/-- Whether a consumer as written holds a multicast channel back: it has no pending request while another attached one has
(R49). -/
def consStalls (c : Chan) (i : Nat) : Bool :=
  match consAt c i with
  | some x => x.attached && consWritten c i x && !consAsks c x
      && c.cons.any fun y => y.attached && (y.copy.isNone || y.copy != x.copy) && consAsks c y
  | none => false
/-- The watchdog of a channel at the passage to the next cycle: consecutive cycles of each consumer's stall. A stall whose
LAGGARD record is written keeps its length until the record of its end. -/
def watchTick (c : Chan) : Chan :=
  if c.w = 0 || c.cons.length < 2 then c
  else { c with cons := c.cons.zipIdx.map fun (x, i) =>
    if consStalls c i then { x with stall := x.stall + 1 } else if x.lag then x else { x with stall := 0 } }
/-- Whether a consumer as written (R35) is detached now. -/
def detachDue (c : Chan) (i : Nat) : Bool :=
  c.detach && decide (1 ≤ c.w)
    && (match consAt c i with | some x => x.attached && consWritten c i x && decide (c.w ≤ x.stall) | none => false)
/-- A port's number in a field of three bits, as the DETACHED detail and the LAGGARD record hold it (R43, R51). DESIGN CHOICE
(log 85): ports 8 and 9 of a switch element show their low three bits, and the tile-number field of a memory tile or an
AGT holds its element number. -/
def portField (ep : Nat) : Nat := epPort ep % 8
/-- The ERR DETACHED of a consumer (R50). DESIGN CHOICE (log 86): the token's tag is 0. -/
def detachTok (ep : Nat) : Token := ⟨.err, 0, errPay 1 (epEn ep + epDie ep * 2 ^ 11 + portField ep * 2 ^ 13)⟩
/-- A consumer out of the attached set. -/
def consOff (x : Cons) : Cons := { x with attached := false, pend := 0, reqs := [], stall := 0 }
/-- MULTICAST_DETACH (R50): the consumer leaves the attached set and will receive ERR DETACHED; a cloned operator with all its
copies, and through its steering unit, behind the tokens that it holds. -/
def execMulticastDetach (chan cons : Nat) (s : State) : Host.Outcome State Fault Refusal :=
  match chanOf s chan with
  | none => .next s
  | some c =>
    match consAt c cons with
    | none => .next s
    | some x =>
      if detachDue c cons && chanHere s c then
        match x.copy with
        | none =>
          let p := inPortOf s x.ep
          .next (setChan (setInPort s x.ep { p with errs := p.errs ++ [detachTok x.ep] }) chan (modCons c cons consOff))
        | some op =>
          let s1 := c.cons.foldl (fun y n => if n.copy == some op then setInPort y n.ep { inPortOf y n.ep with o := n.toks.length } else y) s
          .next (setChan s1 chan { c with cons := c.cons.map fun n => if n.copy == some op then consOff n else n,
                                          steer := c.steer.map fun u => if u.1 = op then (u.1, u.2 ++ [detachTok x.ep]) else u })
      else .next s
/-- Whether a detached consumer's ERR enters its queue now: after the tokens sent to it (DESIGN CHOICE, log 109: R50 speaks only of
the tokens in its queue), and once a place is free. -/
def detachedDue (s : State) (c : Chan) (x : Cons) : Bool :=
  let p := inPortOf s x.ep
  chanHere s c && !portHeld s c x.ep && !p.errs.isEmpty && x.toks.isEmpty && decide (p.queue.length < 4)
/-- DETACHED (R50). -/
def execDetached (chan cons : Nat) (s : State) : Host.Outcome State Fault Refusal :=
  match (chanOf s chan).bind fun c => (consAt c cons).map fun x => (c, x) with
  | none => .next s
  | some (c, x) =>
    match (inPortOf s x.ep).errs with
    | t :: l =>
      if detachedDue s c x then
        let p := inPortOf s x.ep
        .next (setInPort s x.ep { p with errs := l, queue := p.queue ++ [(s.cyc, (arriving s x.ep c.blk p.run t).1)] })
      else .next s
    | [] => .next s
/-- Producer or consumer of a LAGGARD record (R51): die [14:13], tile number [12:2], port [31:29]. -/
def lagEnd (ep : Nat) : Nat := epEn ep * 4 + epDie ep * 2 ^ 13 + portField ep * 2 ^ 29
/-- A LAGGARD record (R51). -/
def lagRecord (s : State) (c : Chan) (x : Cons) (final : Nat) : State :=
  match rgnOf s c.rgn with
  | none => s
  | some r =>
    faultRecord s r.part (.ctl (epDie c.prod)) (recOf [(0, 2, 0x40), (2, 2, r.version.toNat), (4, 4, r.id), (8, 4, lagEnd c.prod), (12, 4, lagEnd x.ep),
      (16, 8, x.stall), (24, 8, s.cyc), (63, 1, final)])
/-- Whether a lockstep stall has reached its channel's W. -/
def lagDue (c : Chan) (i : Nat) : Bool :=
  !c.detach && decide (1 ≤ c.w)
    && (match consAt c i with | some x => x.attached && !x.lag && decide (c.w ≤ x.stall) | none => false)
/-- LAGGARD (R51): the record of the threshold. -/
def execLaggard (chan cons : Nat) (s : State) : Host.Outcome State Fault Refusal :=
  match chanOf s chan with
  | none => .next s
  | some c =>
    match consAt c cons with
    | none => .next s
    | some x =>
      if lagDue c cons then
        .next (lagRecord (setChan s chan (modCons c cons fun x => { x with lag := true })) c x 0)
      else .next s
/-- Whether a recorded stall has ended. -/
def lagEnds (c : Chan) (i : Nat) : Bool :=
  (match consAt c i with | some x => x.lag | none => false) && !consStalls c i
/-- LAGGARD_END (R51): the record of the end, with the total length. -/
def execLaggardEnd (chan cons : Nat) (s : State) : Host.Outcome State Fault Refusal :=
  match chanOf s chan with
  | none => .next s
  | some c =>
    match consAt c cons with
    | none => .next s
    | some x =>
      if lagEnds c cons then
        .next (lagRecord (setChan s chan (modCons c cons fun x => { x with lag := false, stall := 0 })) c x 1)
      else .next s

/-! ### Switch elements (R52, R53) -/

/-- A token written to an output port by an element that is no PE. -/
def elemOut (s : State) (ep : Nat) (t : Token) : State := queueOut (takeRequest s ep) ep 0 (some t)
/-- ERR SWITCH_INDEX with the index token's tag. -/
def switchErr (t : Token) : Token := ⟨.err, t.tag, errPay 2 (t.pay.toNat % 2 ^ 64)⟩
/-- Number of value ports of a switch element. -/
def switchPorts (w : W64) : Nat := fld w 60 58 + 1
/-- Whether a tile's switch element works in a direction. -/
def switchRuns (s : State) (tile : Nat) (scatter : Bool) : Bool :=
  let t := tileOf s tile
  t.sw.getLsbD 63 && t.sw.getLsbD 61 == scatter && clusterLive s (tileCluster tile) && rgnMoves s t.rgn
/-- What a gather element does next (R52, R53). -/
def gatherNext (s : State) (tile : Nat) : Option State :=
  if !switchRuns s tile false || !outWritable s (swEp tile 9) then none
  else match headAt s (swEp tile 8) with
    | none => none
    | some t =>
      let s1 := deqHead s (swEp tile 8)
      let i := t.pay.toNat % 2 ^ 64
      if t.kind != .data then some (elemOut s1 (swEp tile 9) t)
      else if switchPorts (tileOf s tile).sw ≤ i then some (elemOut s1 (swEp tile 9) (switchErr t))
      else (headAt s (swEp tile i)).map fun v => elemOut (deqHead s1 (swEp tile i)) (swEp tile 9) v
/-- SWITCH_GATHER (R52). -/
def execSwitchGather (tile : Nat) (s : State) : Host.Outcome State Fault Refusal := .next ((gatherNext s tile).getD s)
/-- What a scatter element does next (R52, R53). -/
def scatterNext (s : State) (tile : Nat) : Option State :=
  if !switchRuns s tile true then none
  else match headAt s (swEp tile 8) with
    | none => none
    | some t =>
      let s1 := deqHead s (swEp tile 8)
      let m := switchPorts (tileOf s tile).sw
      let i := t.pay.toNat % 2 ^ 64
      if t.kind != .data then
        (if (List.range m).all fun j => outWritable s (swEp tile j) then
          some ((List.range m).foldl (fun x j => elemOut x (swEp tile j) t) s1) else none)
      else match headAt s (swEp tile 9) with
        | none => none
        | some v =>
          let j := if i < m then i else 0
          if outWritable s (swEp tile j) then
            some (elemOut (deqHead s1 (swEp tile 9)) (swEp tile j) (if i < m then v else switchErr t))
          else none
/-- SWITCH_SCATTER (R52). -/
def execSwitchScatter (tile : Nat) (s : State) : Host.Outcome State Fault Refusal := .next ((scatterNext s tile).getD s)

/-! ### Traps and stops (R162, R163) -/

/-- The trap of a tile whose record is written next: every result of the firings before it is written, but for those that
the trap itself keeps pending, and the fault ring has room for the record (R405: the PE stays stopped until it is written). -/
def trapDue (s : State) (tile : Nat) : Option Trap :=
  let t := tileOf s tile
  if faultRoom s (tilePart s tile) && t.jobs.all fun j => t.traps.any fun r => r.job == some j.id then
    t.traps.find? fun r => !r.written
  else none
/-- The six head entries of a trap record (R163). -/
def trapHeads (s : State) (tile : Nat) : List (Nat × Nat × Nat) :=
  (List.range 6).map fun i =>
    let q := (inPortOf s (tileEp tile i)).queue
    (32 + 2 * i, 2, match q with
      | (_, h) :: _ => sideBits h + 128 + q.length * 256
      | [] => 0)
/-- A PE_TRAP record, or the RACE_TRAP record in its place (R163, R324). -/
def trapRec (s : State) (tile rid : Nat) (r : Trap) : BitVec 512 :=
  match r.race with
  | some x => stampRec x s.cyc
  | none =>
    let z := fun x : Nat => if r.bare then 0 else x
    recOf ([(0, 2, 0x10), (2, 2, r.ver.toNat), (4, 4, rid), (8, 4, trapElem tile r.bank (z r.slot) (z r.ctx)), (12, 2, r.cause),
      (14, 2, r.preds.toNat + r.loopOn.toNat * 16), (16, 4, z r.trig.toNat), (20, 4, z r.word.toNat), (24, 8, z r.lit.toNat),
      (48, 8, r.detail.toNat), (56, 8, r.time)] ++ (if r.bare then [] else trapHeads s tile))
/-- The first unwritten trap marked as written. -/
def markTrap : List Trap → List Trap
  | [] => []
  | r :: l => if r.written then r :: markTrap l else { r with written := true } :: l
/-- TRAP_RECORD (R162 step 3): the region is FROZEN from its record on (R374). -/
def execTrapRecord (tile : Nat) (s : State) : Host.Outcome State Fault Refusal :=
  match trapDue s tile with
  | none => .next s
  | some r =>
    let s1 := modTile s tile fun t => { t with traps := markTrap t.traps }
    let rid := ((tileRgn s tile).map fun x => x.2.id).getD 0
    .next (faultRecord s1 (tilePart s tile) (.bank tile r.bank) (trapRec s tile rid r))
/-- Whether a region's controller stops its elements now (R162 step 4). -/
def stopDue (s : State) (k : Nat) (r : Region) : Bool :=
  (match r.stopAt with | some c => decide (c ≤ s.cyc) | none => false)
    && (r.st == .live || (rgnTiles s k).any fun n => !(tileOf s n).stopped)
    && ((partOf s r.part).swap.isNone || rgnTrapped s k)
/-- REGION_STOP (R162 step 4, R374): no element fires any more; the region is FROZEN. -/
def execRegionStop (rgn : Nat) (s : State) : Host.Outcome State Fault Refusal :=
  match rgnOf s rgn with
  | none => .next s
  | some r =>
    if stopDue s rgn r then
      let s1 := (rgnTiles s rgn).foldl (fun x n => modTile x n fun t => { t with stopped := true }) s
      .next (modRgn s1 rgn fun r => { r with st := if r.st = .live then .frozen else r.st })
    else .next s

end Sys2Proof.Machine
end

