-- ==== Sys2Proof/Machine/Image.lean ====
section
/-! DEFINITION. The configuration image (R84, R94 to R100): reading it, and the translation of image endpoints to elements at
an origin (R114, R410). -/
namespace Sys2Proof.Machine

/-! ### Errors of a configuration (R104, R105) -/

/-- A failed check: the Element, Context and Index fields of its record, word type, width and low bit of the field, the
field's value, and the status. -/
structure CfgErr where
  ep : Nat := 0
  ctx : Nat := 0
  idx : Nat := 0xFF
  wt : Nat
  lo : Nat
  width : Nat
  val : Nat
  st : Nat
  deriving DecidableEq, Repr

/-- CFG_RESERVED. -/
def stReserved : Nat := 0x101
/-- CFG_TRIGGER. -/
def stTrigger : Nat := 0x102
/-- CFG_OPERAND. -/
def stOperand : Nat := 0x103
/-- CFG_PLANE. -/
def stPlane : Nat := 0x104
/-- CFG_RANGE. -/
def stRange : Nat := 0x105
/-- CFG_ENDPOINT. -/
def stEndpoint : Nat := 0x106
/-- CFG_BUSY. -/
def stBusy : Nat := 0x107
/-- CFG_OWNER. -/
def stOwner : Nat := 0x108
/-- PARTITION_BOUNDS. -/
def stBounds : Nat := 0x109
/-- FENCED. -/
def stFenced : Nat := 0x10A

/-! ### Reading an image (R100) -/

/-- An image in a partition's memory: reader of `n` bytes at an offset. -/
def imgGet (s : State) (pn va off n : Nat) : Nat := (virtGet s pn (va + off) n).getD 0
/-- Whether every page of a range translates for a read. -/
def imgReads (s : State) (pn va n : Nat) : Bool :=
  (List.range ((va + n + 4095) / 4096 - va / 4096)).all fun i =>
    match walkTables s pn (va / 4096 + i) false with
    | .ok _ _ => true
    | .fail _ _ _ _ => false
/-- The image header: bounding box, entry counts and table offsets, in the order of R100's tables. -/
structure ImgHead where
  rows : Nat
  cols : Nat
  cnt : List Nat
  off : List Nat
  deriving DecidableEq, Repr
/-- Entries of table `i`. -/
def ImgHead.n (h : ImgHead) (i : Nat) : Nat := h.cnt.getD i 0
/-- Offset of table `i`. -/
def ImgHead.at_ (h : ImgHead) (i : Nat) : Nat := h.off.getD i 0
/-- The header of an image. -/
def imgHead (g : Nat → Nat → Nat) : ImgHead :=
  { rows := g 4 2, cols := g 6 2, cnt := (List.range 8).map fun i => g (8 + 4 * i) 4, off := (List.range 8).map fun i => g (40 + 8 * i) 8 }
/-- Consumers of a channel record. -/
def recNc (hdr : W64) : Nat := fld hdr 43 40 + 1
/-- Initial values that a channel header announces. -/
def recD (hdr : W64) : Nat := fld hdr 39 35
/-- Bytes of a channel record (R96). -/
def recSize (hdr : W64) : Nat := 8 * (recNc hdr + 1) + recD hdr * (if hdr.getLsbD 62 then 64 else 8)
/-- Bytes from an offset that `n` channel records take. -/
def chansSize (g : Nat → Nat → Nat) (off : Nat) : Nat → Nat
  | 0 => 0
  | n + 1 => let k := recSize (BitVec.ofNat 64 (g off 8)); k + chansSize g (off + k) n
/-- Bytes from an offset that `n` fold entries take. -/
def foldsSize (g : Nat → Nat → Nat) (off : Nat) : Nat → Nat
  | 0 => 0
  | n + 1 => let k := 1088 + 8 * g (off + 8) 4; k + foldsSize g (off + k) n
/-- Bytes of table `i`. -/
def tableSize (g : Nat → Nat → Nat) (h : ImgHead) (i : Nat) : Nat :=
  match i with
  | 1 => chansSize g (h.at_ 1) (h.n 1)
  | 6 => foldsSize g (h.at_ 6) (h.n 6)
  | _ => h.n i * (match i with | 0 => 4160 | 2 => 144 | 3 => 80 | 4 => 264 | _ => 8)
/-- A word of an image. -/
def word8 (g : Nat → Nat → Nat) (off : Nat) : W64 := BitVec.ofNat 64 (g off 8)
/-- The slots of `n` contexts from an offset: those whose trigger and instruction words are not both zero (R84). -/
def imgSlots (g : Nat → Nat → Nat) (off n : Nat) : SMap Slot :=
  (List.range (64 * n)).filterMap fun i =>
    let x : Slot := ⟨BitVec.ofNat 32 (g (off + 16 * i) 4), BitVec.ofNat 32 (g (off + 16 * i + 4) 4), word8 g (off + 16 * i + 8)⟩
    if x.trig = 0 && x.word == 0 then none else some (i, x)
/-- `n` channel records from an offset. -/
def imgChans (g : Nat → Nat → Nat) (off : Nat) : Nat → List ChRec
  | 0 => []
  | n + 1 =>
    let hdr := word8 g off
    let k := 8 * (recNc hdr + 1)
    let w := if hdr.getLsbD 62 then 64 else 8
    { hdr := hdr, cons := (List.range (recNc hdr)).map fun i => word8 g (off + 8 + 8 * i),
      init := (List.range (recD hdr)).map fun i => BitVec.ofNat 512 (g (off + k + w * i) w) } :: imgChans g (off + recSize hdr) n
/-- `n` fold entries from an offset. -/
def imgFolds (g : Nat → Nat → Nat) (off : Nat) : Nat → List FoldEnt
  | 0 => []
  | n + 1 =>
    let h := word8 g off
    let nr := g (off + 8) 4
    { src := fld h 18 0, dst := fld h 37 19, bank := fld h 39 38, ctx := fld h 41 40, slots := imgSlots g (off + 64) 1,
      remap := (List.range nr).map fun i => let w := word8 g (off + 1088 + 8 * i); (fld w 18 0, fld w 37 19, w.getLsbD 38) }
      :: imgFolds g (off + 1088 + 8 * nr) n
/-- The image that a header describes, its endpoints as written. -/
def imgParse (g : Nat → Nat → Nat) (h : ImgHead) : Image :=
  { rows := h.rows, cols := h.cols,
    pes := (List.range (h.n 0)).map fun i => let o := h.at_ 0 + 4160 * i; ⟨g o 8, word8 g (o + 8), imgSlots g (o + 64) 4⟩,
    chs := imgChans g (h.at_ 1) (h.n 1),
    mts := (List.range (h.n 2)).map fun i => let o := h.at_ 2 + 144 * i
      (g o 8, word8 g (o + 8), (List.range 16).map fun j => word8 g (o + 16 + 8 * j)),
    agts := (List.range (h.n 3)).map fun i => let o := h.at_ 3 + 80 * i
      (g o 8, (List.range 9).map fun j => word8 g (o + 8 + 8 * j)),
    btes := (List.range (h.n 4)).map fun i => let o := h.at_ 4 + 264 * i
      (g o 8, (List.range 16).map fun j => (word8 g (o + 8 + 16 * j), word8 g (o + 16 + 16 * j))),
    sinks := (List.range (h.n 5)).map fun i => word8 g (h.at_ 5 + 8 * i),
    folds := imgFolds g (h.at_ 6) (h.n 6),
    hdls := (List.range (h.n 7)).map fun i => word8 g (h.at_ 7 + 8 * i) }

/-- An image without the channel records and sink entries whose V is 0. -/
def imgOn (i : Image) : Image :=
  { i with chs := i.chs.filter (fun c => c.hdr.getLsbD 63), sinks := i.sinks.filter fun w => w.getLsbD 63 }

/-! ### The limits of the header and the tables (R100) -/

/-- A breach of R100, at a byte offset of the image. -/
def imgErr (off width val : Nat) : CfgErr := { wt := 13, lo := 8 * off % 64, width := width, val := val, st := stRange }
/-- Breaches that name an element. -/
def atElem (ep : Nat) (l : List CfgErr) : List CfgErr := l.map fun e => { e with ep := ep }
/-- Offsets of `k`-byte entries' 8-byte words that must be zero and are not. -/
def zeroWords (g : Nat → Nat → Nat) (offs : List Nat) : List CfgErr :=
  (offs.filter fun o => g o 8 != 0).map fun o => imgErr o 64 (g o 8)
/-- Whether two ranges of bytes meet. -/
def meets (a m b n : Nat) : Bool := decide (a < b + n) && decide (b < a + m) && decide (0 < m) && decide (0 < n)
/-- The header's breaches: a field outside its range, a bad offset, overlapping tables, a reserved byte. -/
def headErrs (g : Nat → Nat → Nat) (h : ImgHead) : List CfgErr :=
  (if g 0 2 = 1 then [] else [imgErr 0 16 (g 0 2)])
    ++ (if g 2 2 = 0 then [] else [imgErr 2 16 (g 2 2)])
    ++ (if 4 ≤ h.rows && h.rows ≤ 64 && h.rows % 4 == 0 then [] else [imgErr 4 16 h.rows])
    ++ (if 4 ≤ h.cols && h.cols ≤ 128 && h.cols % 4 == 0 then [] else [imgErr 6 16 h.cols])
    ++ (if h.n 3 ≤ 256 then [] else [imgErr 20 32 (h.n 3)])
    ++ (if 1 ≤ h.n 5 && h.n 5 ≤ 32 then [] else [imgErr 28 32 (h.n 5)])
    ++ ((List.range 8).filter fun i => h.at_ i % 64 != 0 || (h.n i == 0) != (h.at_ i == 0)).map (fun i => imgErr (40 + 8 * i) 64 (h.at_ i))
    ++ zeroWords g [104, 112, 120]
/-- Tables that overlap another table or the header. -/
def overlapErrs (g : Nat → Nat → Nat) (h : ImgHead) : List CfgErr :=
  ((List.range 8).filter fun i =>
    meets (h.at_ i) (tableSize g h i) 0 128
      || (List.range i).any fun j => meets (h.at_ i) (tableSize g h i) (h.at_ j) (tableSize g h j)).map fun i =>
    imgErr (40 + 8 * i) 64 (h.at_ i)
/-! ### Image endpoints -/

/-- The package row and column of an endpoint's tile. -/
def epPr (e : Nat) : Nat := epDie e / 2 * 32 + epEn e / 64
/-- The package column of an endpoint's tile. -/
def epPc (e : Nat) : Nat := epDie e % 2 * 64 + epEn e % 64
/-- Whether a locator word names a compute tile of a bounding box of tiles (R100, R114). -/
def peLoc (rows cols x : Nat) : Bool :=
  decide (x < 2 ^ 19) && x % 16 == 0 && epEk x == 0 && decide (epPr x < rows) && decide (epPc x < cols)
/-- Whether a locator word names a memory tile of a bounding box. -/
def mtLoc (rows cols x : Nat) : Bool :=
  decide (x < 2 ^ 19) && x % 16 == 0 && epEk x == 1 && decide (epEn x < 256) && decide (4 * (epDie x / 2 * 8 + epEn x / 32) < rows)
    && decide (4 * (epDie x % 2 * 16 + epEn x / 2 % 16) < cols)
/-- Whether a locator word names an entry of an AGT list of `n`. -/
def agtLoc (n x : Nat) : Bool := decide (x < 2 ^ 19) && x % 16 == 0 && epEk x == 2 && epDie x == 0 && decide (epEn x < n)
/-- Whether a locator word names tile t(4·crow, 4·ccol) of a cluster of a bounding box. -/
def clLoc (rows cols x : Nat) : Bool := peLoc rows cols x && epPr x % 4 == 0 && epPc x % 4 == 0
/-- Entries whose key is lower than the one before it, or, where `strict`, equal to it: two entries of one element are out of order
(DESIGN CHOICE, log 91: R100 says ordered, and not what equal locators are). -/
def orderErrs (strict : Bool) : List (Nat × Nat) → List CfgErr
  | (_, a) :: (o, b) :: t => (if b < a || (strict && b == a) then [imgErr o 19 b] else []) ++ orderErrs strict ((o, b) :: t)
  | _ => []
/-- Offset of fold entry `i`. -/
def foldOff (g : Nat → Nat → Nat) (h : ImgHead) (i : Nat) : Nat := h.at_ 6 + foldsSize g (h.at_ 6) i
/-- A word that holds an endpoint in [18:0], translated by `f`, as the records of configuration errors give it (R100). -/
def entWord (f : Nat → Nat) (x : Nat) : Nat := x / 2 ^ 19 * 2 ^ 19 + f (x % 2 ^ 19) % 2 ^ 19
/-- Breaches of the tables: a locator, a reserved byte, an entry out of order. Each names the entry's element, its endpoint
translated by `f` (R105). -/
def entryErrs (g : Nat → Nat → Nat) (h : ImgHead) (f : Nat → Nat) : List CfgErr :=
  let el := fun x => f (x % 2 ^ 19) / 16 * 16
  let tab := fun t k => (List.range (h.n t)).map fun i => (h.at_ t + k * i, g (h.at_ t + k * i) 8)
  let loc := fun (ok : Nat → Bool) (l : List (Nat × Nat)) =>
    l.flatMap fun x => if ok x.2 then [] else atElem (el x.2) [imgErr x.1 64 (entWord f x.2)]
  let ord := fun strict (l : List (Nat × Nat)) => (orderErrs strict l).map fun e => { e with ep := f (e.val % 2 ^ 19), val := entWord f e.val }
  let pe := peLoc h.rows h.cols
  let ps := tab 0 4160
  let ms := tab 2 144
  let as := tab 3 80
  let bs := tab 4 264
  let cs := (List.range (h.n 1)).map fun i => let o := h.at_ 1 + chansSize g (h.at_ 1) i; (o, g o 8 % 2 ^ 19)
  let ks := (tab 5 8).map fun x => (x.1, x.2 % 2 ^ 19)
  let fs := (List.range (h.n 6)).map fun i => (foldOff g h i, g (foldOff g h i) 8 % 2 ^ 19)
  let hs := tab 7 8
  loc pe ps ++ loc (mtLoc h.rows h.cols) ms ++ loc (agtLoc (h.n 3)) as ++ loc (clLoc h.rows h.cols) bs
    ++ ps.flatMap (fun x => atElem (el x.2) (zeroWords g ((List.range 6).map fun j => x.1 + 16 + 8 * j)))
    ++ fs.flatMap (fun x => atElem (el x.2) ((if g x.1 8 < 2 ^ 42 && pe x.2 && pe (g x.1 8 / 2 ^ 19 % 2 ^ 19) then []
          else [imgErr x.1 64 (entWord f (g x.1 8 % 2 ^ 19) + 2 ^ 19 * entWord f (g x.1 8 / 2 ^ 19))])
        ++ (if g (x.1 + 12) 4 = 0 then [] else [imgErr (x.1 + 12) 32 (g (x.1 + 12) 4)])
        ++ zeroWords g ((List.range 6).map fun j => x.1 + 16 + 8 * j)
        ++ ((List.range (g (x.1 + 8) 4)).filter fun j => decide (2 ^ 39 ≤ g (x.1 + 1088 + 8 * j) 8)).map fun j =>
          imgErr (x.1 + 1088 + 8 * j) 64 (g (x.1 + 1088 + 8 * j) 8)))
    ++ hs.flatMap (fun x => if x.2 < 2 ^ 36 && pe (x.2 % 2 ^ 19) then [] else atElem (el x.2) [imgErr x.1 64 (entWord f x.2)])
    ++ ord true ps ++ ord false cs ++ ord true ms ++ ord true as ++ ord true bs
    ++ ord false ks ++ ord false fs ++ ord false (hs.map fun x => (x.1, x.2 % 2 ^ 19))
/-- Whether the part can read the whole of an image: its header, and then its tables. -/
def imgReadable (s : State) (pn va : Nat) : Bool :=
  va < 2 ^ 48 && imgReads s pn va 128
    && (let g := imgGet s pn va
        let h := imgHead g
        (List.range 8).all fun i => h.n i == 0 || imgReads s pn (va + h.at_ i) (tableSize g h i))

/-! ### Translation of endpoints (R100, R114, R410) -/

/-- The endpoint of kind `ek` at a package row and column of tiles. -/
def epAtTile (ek pr pc port : Nat) : Nat := epOf (pr / 32 * 2 + pc / 64) ek (pr % 32 * 64 + pc % 64) port
/-- The endpoint of a memory tile in the cluster at a package row and column of clusters. -/
def epAtMt (cr cc k port : Nat) : Nat := epOf (cr / 8 * 2 + cc / 16) 1 (2 * (16 * (cr % 8) + cc % 16) + k) port
/-- An image endpoint translated at an origin; an AGT entry through AGTMAP (R410). The dispatcher's source ports stand for
themselves. An EN that R93 does not give its kind stays outside the kind's range: a memory tile beyond 255 as it is, an entry beyond
the AGT list as AGT 1,024 + n, which no list holds (R243), and an AGT entry that is no entry of a list at all, or with a DIE, as
AGT 2,047. -/
def shiftEp (r0 c0 : Nat) (agts : List Nat) (e : Nat) : Nat :=
  if argProd ≤ e then e
  else match epEk e with
    | 1 =>
      let i := epEn e / 2
      if 256 ≤ epEn e then e
      else epAtMt (epDie e / 2 * 8 + i / 16 + r0 / 4) (epDie e % 2 * 16 + i % 16 + c0 / 4) (epEn e % 2) (epPort e)
    | 2 =>
      if epDie e != 0 || decide (256 ≤ epEn e) then epOf 0 2 2047 (epPort e)
      else match agts[epEn e]? with
        | some w => w / 16 % 2 ^ 15 * 16 + epPort e
        | none => epOf 0 2 (1024 + epEn e) (epPort e)
    | k => epAtTile k (epPr e + r0) (epPc e + c0) (epPort e)
/-- The destination of a `tsend` translated by `f` from an origin (rows and columns it moves by). One that lands off the package
grid names no compute tile: the installed word holds an endpoint of kind 0b11. -/
def routeEp (f : Nat → Nat) (dr dc e : Nat) : Nat :=
  if epEk e = 0 && (decide (64 ≤ epPr e + dr) || decide (128 ≤ epPc e + dc)) then epOf 0 3 0 0 else f e
/-- A word whose bits [hi:lo] hold an endpoint, translated. -/
def shiftFld (f : Nat → Nat) (lo : Nat) (w : W64) : W64 :=
  let e := w.toNat / 2 ^ lo % 2 ^ 19
  BitVec.ofNat 64 (w.toNat - e * 2 ^ lo + f e % 2 ^ 19 * 2 ^ lo)
/-- A slot's literal with the endpoint that it holds translated: the ring reference of `ring.bind` (R235), the destination of
`tsend` with RK = 0 (R333). -/
def shiftLit (f g : Nat → Nat) (x : Slot) : Slot :=
  match slotInstr x with
  | some (.ringBind _) => { x with lit := shiftFld f 8 x.lit }
  | some (.tsend _ _ _) => if x.lit.getLsbD 30 then x else { x with lit := shiftFld g 7 x.lit }
  | _ => x
/-- The slots of a context or a PE translated. -/
def shiftSlots (f g : Nat → Nat) (l : SMap Slot) : SMap Slot :=
  l.map fun e => (e.1, if trV e.2.trig then shiftLit f g e.2 else e.2)
/-- An image with every endpoint translated. -/
def shiftImage (f g : Nat → Nat) (i : Image) : Image :=
  { i with
    pes := i.pes.map fun p => ⟨f p.ep, p.sw, shiftSlots f g p.slots⟩,
    chs := i.chs.map fun c => ⟨shiftFld f 0 c.hdr, c.cons.map (shiftFld f 0), c.init⟩,
    mts := i.mts.map fun m => (f m.1, m.2),
    agts := i.agts.map fun a => (f a.1, a.2),
    btes := i.btes.map fun b => (f b.1, b.2),
    sinks := i.sinks.map (shiftFld f 0),
    folds := i.folds.map fun v =>
      ⟨f v.src, f v.dst, v.bank, v.ctx, shiftSlots f g v.slots, v.remap.map fun m => (f m.1, f m.2.1, m.2.2)⟩,
    hdls := i.hdls.map (shiftFld f 0) }

end Sys2Proof.Machine
end

