-- ==== Sys2Proof/Machine/Rewire.lean ====
section
/-! DEFINITION. The rebalancer (18_rebalancer.md, 19_program_running_sum.md): barometers and the layout descriptor, plans and
proposals, the rewiring protocol, steering and merge units. -/
namespace Sys2Proof.Machine

/-! ### The policy word (R358) -/

/-- GALE. -/
def polGale (p : W64) : Nat := fld p 63 52
/-- CALM. -/
def polCalm (p : W64) : Nat := fld p 51 40
/-- CHUNK. -/
def polChunk (p : W64) : Nat := fld p 39 32
/-- MAXC. -/
def polMaxc (p : W64) : Nat := fld p 31 29
/-- HYST. -/
def polHyst (p : W64) : Nat := fld p 27 24
/-- DLIM in cycles. -/
def polDlim (p : W64) : Nat := (if fld p 23 8 = 0 then 65536 else fld p 23 8) * 64

/-! ### Operators (R359) -/

/-- The fold in force of an operator, with its variant. -/
def foldOf (r : Region) (op : Nat) : Option (FoldOn × FoldEnt) :=
  r.folds.findSome? fun f => (r.img.folds[f.idx]?).bind fun v => if v.src = op then some (f, v) else none
/-- The tile where an operator's slots stand: its own, or the target of its fold. -/
def opHost (r : Region) (op : Nat) : Nat := ((foldOf r op).map fun x => epTile x.2.dst).getD (epTile op)
/-- Where a port of an operator as written stands now. -/
def opPort (r : Region) (op : Nat) (out : Bool) (ep : Nat) : Nat :=
  ((foldOf r op).bind fun x => (x.2.remap.find? fun m => m.1 == ep && m.2.2 == out).map fun m => m.2.1).getD ep
/-- The input ports of an operator as written, lowest first: port endpoint, channel, consumer index. -/
def opIns (r : Region) (op : Nat) : List (Nat × Nat × Nat) :=
  (List.range 6).filterMap fun i => (r.img.chs.zip r.chans).findSome? fun (c, id) =>
    (c.cons.zipIdx.find? fun x => fld x.1 18 0 == op + i).map fun x => (op + i, id, x.2)
/-- The output ports of an operator as written: port endpoint and channel. -/
def opOuts (r : Region) (op : Nat) : List (Nat × Nat) :=
  (List.range 5).filterMap fun j => ((r.img.chs.zip r.chans).find? fun (c, _) => fld c.hdr 18 0 == op + j).map fun x => (op + j, x.2)
/-- The operators of a region, by written tile endpoint: the PEs of its image that hold a slot in C0. -/
def rgnOps (r : Region) : List Nat := (r.img.pes.filter fun p => p.slots.any fun x => decide (x.1 < 64) && trV x.2.trig).map (·.ep)
/-- The clone record of an operator. -/
def opClone (r : Region) (op : Nat) : Option Clone := r.clones.find? fun c => c.op == op
/-- The copies of an operator. -/
def opCopies (r : Region) (op : Nat) : List Nat :=
  match opClone r op with
  | some c => c.copies
  | none => [opHost r op]
/-- The region without one clone record, and with one put in its place. -/
def putClone (r : Region) (c : Clone) : Region :=
  { r with clones := (r.clones.filter fun x => x.op != c.op) ++ [c] }
/-- The slots of an operator that decode, in its host tile's selected context: trigger word and instruction. -/
def opSlots (s : State) (r : Region) (op : Nat) : List (BitVec 32 × Instr) :=
  (ctxSlots (tileOf s (opHost r op))).filterMap fun x => (slotInstr x.2).map fun i => (x.2.trig, i)
/-- Input ports that a slot reads. -/
def slotIns (x : BitVec 32 × Instr) : List Nat := (List.range 6).filter fun p => trIrdy x.1 p || (namedPorts x.2).contains p
/-- The input ports that an operator's slots read (R361). -/
def usedIns (s : State) (r : Region) (op : Nat) : List Nat :=
  (List.range 6).filter fun p => (opSlots s r op).any fun x => (slotIns x).contains p
/-- The output ports that an operator's slots write (R361). -/
def usedOuts (s : State) (r : Region) (op : Nat) : List Nat :=
  (List.range 5).filter fun p => (opSlots s r op).any fun x => (outPorts x.2).contains p
/-- The input port of an operator, with its channel (R371, R383): the one that its slots read, where it is one, as for an
operator that may be cloned; else the lowest-numbered (DEDUCED, log 56). -/
def opIn (s : State) (r : Region) (op : Nat) : Option (Nat × Nat × Nat) :=
  let one := match opClone r op with
    | some c => [c.inPort]
    | none => if (foldOf r op).isSome then [] else usedIns s r op
  match one with
  | [p] => ((opIns r op).find? fun x => epPort x.1 == p).orElse fun _ => (opIns r op).head?
  | _ => (opIns r op).head?
/-- The output port of an operator that its slots write, with its channel. -/
def opOut (s : State) (r : Region) (op : Nat) : Option (Nat × Nat) := (opOuts r op).find? fun x => (usedOuts s r op).contains (epPort x.1)
/-- The input channel of an operator. -/
def opChan (s : State) (r : Region) (op : Nat) : Option Nat := (opIn s r op).map fun x => x.2.1
/-- Tokens that have passed the output port of an operator's input channel since install (R383). -/
def opPassed (s : State) (r : Region) (op : Nat) : Nat := (((opChan s r op).bind (chanOf s)).map (·.passed)).getD 0
/-- Opcode of an instruction (R102). -/
def opcodeOf (i : Instr) : Nat := ((fields i).map fun f => f.op.toNat).getD 0
/-- Whether an instruction bars its operator from being cloned (R361). -/
def barsClone (i : Instr) : Bool :=
  let g := opcodeOf i / 64
  (g == 10 && (match i with
    | .lmLd _ _ _ _ => false
    | .lmSt _ _ _ => false
    | _ => true)) || g == 11 || g == 13 || g == 14
    || (match i with
        | .trap _ _ => true
        | .cfgSel _ _ => true
        | .dbgBrk _ _ => true
        | _ => false)
/-- The state class of an operator (R116), which the source text declares for a tile of the image and no word of the image
carries. DESIGN CHOICE (log 36): it depends on the image's address and the tile within the image alone, so images that
partitions hold at one address, or that one address holds in turn, declare the same classes. -/
def classOf (r : Region) (op : Nat) : OpClass :=
  Config.opClass r.imgVA (epAtTile 0 (epPr op - r.row0) (epPc op - r.col0) 0)
/-- Whether an operator may be cloned (R361). -/
def cloneable (s : State) (r : Region) (op : Nat) : Bool :=
  let l := opSlots s r op
  (match classOf r op with
    | .sequential => false
    | .reducible ex _ _ => !ex
    | _ => true)
    && (usedIns s r op).length == 1 && (usedOuts s r op).length == 1
    && l.all (fun x => trTch x.1 != 6 && !barsClone x.2)
    && (foldOf r op).isNone && (opIns r op).any (fun x => (usedIns s r op).contains (epPort x.1)) && (opOut s r op).isSome
/-- Whether a tile is idle (R362): no valid slot in any context, and no fold has placed an operator on it. -/
def tileIdle (s : State) (k tile : Nat) : Bool :=
  let t := tileOf s tile
  t.slots.all (fun x => !trV x.2.trig) && t.moveBanks.isEmpty && (t.rgn.isNone || t.rgn == some k)
/-- Whether a tile lies in the region's own clusters: those of its bounding box that its partition holds (R29, R362). -/
def rgnHasTile (s : State) (r : Region) (tile : Nat) : Bool :=
  let pr := tileDie tile / 2 * 32 + tileRow tile
  let pc := tileDie tile % 2 * 64 + tileCol tile
  partTile (partOf s r.part) tile && decide (r.row0 ≤ pr) && decide (pr < r.row0 + r.img.rows) && decide (r.col0 ≤ pc) && decide (pc < r.col0 + r.img.cols)

/-! ### The layout descriptor (R37, R360) -/

/-- A write of the region controller at an offset of the layout descriptor (R431); a release at die scope where `rel`. -/
def descWrite (s : State) (k : Nat) (rel : Bool) (off x n : Nat) : State :=
  match rgnOf s k with
  | none => s
  | some r =>
    let d := rgnDie r
    let a : Acc := { acc0 with agent := .ctl d, holder := r.holder, part := r.part, rgn := k, rel := if rel then some 1 else none }
    (engineWrite s a d (Config.layoutVA r.part r.id + off) x n d 2 7).1
/-- The operator entries (R360): written tile, host tile, bank, role, copy index, context. -/
def opEntries (s : State) (r : Region) : List (Nat × Nat × Nat × Nat × Nat × Nat) :=
  (rgnOps r).flatMap fun op =>
    match foldOf r op with
    | some (_, v) => [(op, v.dst, v.bank, 2, 0, (tileOf s (epTile v.dst)).ctx)]
    | none => (opCopies r op).zipIdx.map fun (t, i) => (op, tileEp t 0, 0, if i = 0 then 0 else 1, i, (tileOf s t).ctx)
/-- The barometer entries: channel number, consumer index, port. -/
def baroPorts (s : State) (r : Region) : List (Nat × Nat × Nat) :=
  r.chans.zipIdx.flatMap fun (id, n) => match chanOf s id with
    | some c => c.cons.zipIdx.map fun (x, i) => (n, i, x.ep)
    | none => []
/-- An operator entry. -/
def opEntry (e : Nat × Nat × Nat × Nat × Nat × Nat) : Nat :=
  let (op, host, bank, role, ix, ctx) := e
  op + (host + bank * 2 ^ 30) * 2 ^ 32 + role * 2 ^ 64 + ix * 2 ^ 72 + ctx * 2 ^ 80
/-- A barometer entry: the counts of the last completed window. -/
def baroEntry (r : Region) (b : Nat × Nat × Nat) : Nat :=
  let v := (mapGet r.baros b.2.2 baro0).last
  b.1 + b.2.1 * 2 ^ 16 + v.1 * 2 ^ 32 + v.2.1 * 2 ^ 64 + v.2.2 * 2 ^ 96
/-- The barometer entries written, with the counts of the last completed window, and WIN after them as a release (R360). -/
def writeBaros (s : State) (k : Nat) : State :=
  match rgnOf s k with
  | none => s
  | some r =>
    let base := 64 + 16 * (opEntries s r).length
    let s1 := (baroPorts s r).zipIdx.foldl (fun x (b, j) => descWrite x k false (base + 16 * j) (baroEntry r b) 16) s
    descWrite s1 k true 16 r.win 8
/-- The bytes 8 to 15 of the descriptor: region id, NOPS, NCH. -/
def layoutHead (s : State) (r : Region) : Nat := r.id + (opEntries s r).length * 2 ^ 32 + (baroPorts s r).length * 2 ^ 48
/-- A copy of the layout descriptor, in 16-byte pieces (R360, R380). -/
def descCopy (s : State) (r : Region) : List Nat :=
  [r.version.toNat % 2 ^ 64 + layoutHead s r * 2 ^ 64, r.win, 0, 0] ++ (opEntries s r).map opEntry ++ (baroPorts s r).map (baroEntry r)
/-- The descriptor written (R37): the body, then the version word as a release at die scope. -/
def writeDesc (s : State) (k : Nat) : State :=
  match rgnOf s k with
  | none => s
  | some r =>
    let es := opEntries s r
    let s1 := descWrite s k false 8 (layoutHead s r) 8
    let s2 := descWrite s1 k false 24 0 40
    let s3 := es.zipIdx.foldl (fun x (e, i) => descWrite x k false (64 + 16 * i) (opEntry e) 16) s2
    descWrite (writeBaros s3 k) k true 0 r.version.toNat 8

/-! ### Barometers (R357, R359) -/

/-- Whether a PE has a slot that is ready but for an output that is not writable, of output j (R357). -/
def readyButOut (s : State) (tile j : Nat) : Bool :=
  let t := tileOf s tile
  (ctxSlots t).any fun (n, x) => match slotInstr x with
    | some i =>
      (trOdem x.trig j || (outPorts i).contains j)
        && (List.range 4).any fun b =>
          let f := firingOf tile b t.ctx n x
          !outWritable s (tileEp tile j) && peReadyBut s i f j
    | none => false
where
  /-- The conditions of R56 but for the writability of output j. -/
  peReadyBut (s : State) (i : Instr) (f : Firing) (j : Nat) : Bool :=
    peRuns s f.tile && bankRuns s f.tile f.bank && triggerOk s f false && headsOk s i f && predsOk s f && regFree s i f
      && queuesOk s i f && lmOk s i f && unitFree s i f && acqFree s i f && !heldStatic s f i && !heldDynamic s f i
      && (List.range 5).all fun o => o == j || !(trOdem f.trig o || (outPorts i).contains o) || outWritable s (tileEp f.tile o)
/-- The barometers of a region counted for one cycle (R357): SE at an empty port that waits, SD at a consumer without a
pending request for which its producer waits. -/
def baroTick (s : State) (r : Region) : Region :=
  let ports := r.chans.flatMap fun id => match chanOf s id with
    | some c => c.cons.map fun x => (c, x)
    | none => []
  { r with baros := ports.foldl (fun m (c, x) =>
      let b := mapGet m x.ep baro0
      let se := (inPortOf s x.ep).queue.isEmpty && portWaits s x.ep
      let sd := x.attached && x.pend == 0 && !consAsks c x && epEk c.prod == 0 && !isSource c.prod && readyButOut s (epTile c.prod) (epPort c.prod)
      if se || sd then mapPut m x.ep { b with se := b.se + se.toNat, sd := b.sd + sd.toNat } else m) r.baros }
/-- A barometer's history after a window. -/
def baroEnd (p : W64) (b : Baro) : Baro :=
  { tok := 0, se := 0, sd := 0, last := (b.tok, b.se, b.sd), gale := if polGale p < b.sd then b.gale + 1 else 0, calm := if b.tok < polCalm p then b.calm + 1 else 0 }
/-- The barometers of every consumer port of a region's channels after a window (R357). -/
def barosEnd (s : State) (r : Region) : SMap Baro :=
  (baroPorts s r).foldl (fun m b => mapPut m b.2.2 (baroEnd r.policy (mapGet r.baros b.2.2 baro0))) []
/-- TOK of an operator's input channel, over all its copies. -/
def cloneTok (r : Region) (c : Clone) : Nat :=
  c.copies.foldl (fun n t => n + (mapGet r.baros (tileEp t c.inPort) baro0).tok) 0
/-- The history of a clone's calm windows. -/
def cloneEnd (r : Region) (c : Clone) : Clone := { c with calm := if cloneTok r c < polCalm r.policy then c.calm + 1 else 0 }
/-- The end of a window at the passage to a cycle that begins one (R357): the counters of the completed window are kept for the
descriptor and set to 0, whenever the controller comes to write them. -/
def windowTick (s : State) (r : Region) : Region :=
  if (s.cyc + 1) % 4096 == 0 && (r.st == .live || r.st == .frozen) then
    { r with win := r.win + 1, winDue := true, clones := r.clones.map (cloneEnd r), baros := barosEnd s r }
  else r
/-- The barometer of the port of an operator. -/
def opBaro (r : Region) (op ep : Nat) : Baro := mapGet r.baros (opPort r op false ep) baro0
/-- A rewire that barometers ask for. -/
def baroPlan (action op target : Nat) : Plan :=
  { action := action, op := op, target := target, cut := none, num := 0, armed := false, held := false, window := 0 }
/-- The lowest idle live tile for a clone of an operator (R362). -/
def cloneTarget (s : State) (k : Nat) (r : Region) (op : Nat) : Option Nat :=
  (List.range 2048).findSome? fun n =>
    let t := epDie op * 2048 + n
    if rgnHasTile s r t && tileIdle s k t && tileLive s t then some t else none
/-- The index among the image's variants of the first variant of an operator that could be applied now (R359, R384). -/
def foldChoice (r : Region) (op : Nat) : Option Nat :=
  (r.img.folds.zipIdx.find? fun (v, n) =>
    v.src == op && (foldOf r v.dst).isNone
      && r.img.folds.zipIdx.all fun (w, m) => !(decide (m < n) && w.dst == v.dst) || r.folds.any fun f => f.idx == m).map (·.2)
/-- The barometers of an operator's input channel, one for each of its copies, with the channel's number. -/
def opInBaros (s : State) (r : Region) (op : Nat) : List (Baro × Nat) :=
  match opIn s r op with
  | some (ep, id, _) => (opCopies r op).map fun t =>
      (if (opClone r op).isSome then mapGet r.baros (tileEp t (epPort ep)) baro0 else opBaro r op ep, r.chans.idxOf id)
  | none => []
/-- The barometers of all an operator's input channels, with the channels' numbers. -/
def opAllBaros (r : Region) (op : Nat) : List (Baro × Nat) := (opIns r op).map fun x => (opBaro r op x.1, r.chans.idxOf x.2.1)
/-- What an operator is a candidate for at a window's end (R359), with the barometers of the channels that make it one. GALE = 0
disables cloning alone (R358). -/
def candidateOf (s : State) (k : Nat) (r : Region) (op : Nat) : Option (Plan × List (Baro × Nat)) :=
  let h := polHyst r.policy
  let ins := opInBaros s r op
  let all := opAllBaros r op
  let gale := decide (1 ≤ h) && ins.any fun x => decide (h ≤ x.1.gale)
  let calm := polCalm r.policy != 0 && !all.isEmpty && all.all fun x => decide (h ≤ x.1.calm)
  let clone := if gale && polGale r.policy != 0 && decide ((opCopies r op).length < polMaxc r.policy + 1) && cloneable s r op then
      (cloneTarget s k r op).map fun t => (baroPlan 1 op (tileEp t 0), ins)
    else none
  match foldOf r op, opClone r op with
  | some _, _ => if gale && tileIdle s k (epTile op) then some (baroPlan 4 op 0, ins) else none
  | none, some c => if polCalm r.policy != 0 && decide (h ≤ c.calm) then some (baroPlan 2 op 0, ins) else clone
  | none, none => clone.orElse fun _ => if calm then (foldChoice r op).map fun n => (baroPlan 3 op n, all) else none
/-- Whether a channel comes before another (R359): the higher SD in the last window, then the lower channel number. -/
def baroBefore (a b : Nat × Nat) : Bool := decide (b.1 < a.1) || (a.1 == b.1 && decide (a.2 < b.2))
/-- The first of some channels in that order. -/
def baroFirst (l : List (Baro × Nat)) : Nat × Nat :=
  match l.map fun x => (x.1.last.2.2, x.2) with
  | [] => (0, 0)
  | x :: t => t.foldl (fun m y => if baroBefore y m then y else m) x
/-- The candidate that a window's end chooses (R359): that of the first channel. -/
def chooseRewire (s : State) (k : Nat) (r : Region) : Option Plan :=
  let l := (rgnOps r).filterMap fun op => (candidateOf s k r op).map fun p => (baroFirst p.2, p.1)
  (l.foldl (fun (m : Option ((Nat × Nat) × Plan)) x => match m with
    | none => some x
    | some y => if baroBefore x.1 y.1 then some x else some y) none).map (·.2)
/-- A rewire that has just been started (R371). -/
def rewireNew (s : State) (r : Region) (p : Plan) : Rewire :=
  { plan := p, step := 1, chan := (opChan s r p.op).getD 0, cut := 0, start := s.cyc, writes := [], moves := [], ports := [] }
/-- A record of R377. -/
def rewireRec (s : State) (r : Region) (kind elem action status value : Nat) : BitVec 512 :=
  recOf [(0, 2, kind), (2, 2, r.version.toNat), (4, 4, r.id), (8, 4, elem), (12, 2, action), (14, 2, status), (16, 8, value), (56, 8, s.cyc)]
/-- The index of a variant among its operator's own. -/
def foldNumber (r : Region) (op n : Nat) : Nat := ((r.img.folds.take n).filter fun v => v.src == op).length
/-- Whether the counters of a window that has ended are written now: their release needs room in the clock (R321). -/
def windowDue (s : State) (r : Region) : Bool :=
  r.winDue && (r.st == .live || r.st == .frozen) && clockRooms (partOf s r.part) r.holder 1
/-- BAROMETER_WINDOW (R357, R359, R360): the counters of the window that has ended written, and a rewire chosen. -/
def execBarometerWindow (rgn : Nat) (s : State) : Host.Outcome State Fault Refusal :=
  match rgnOf s rgn with
  | none => .next s
  | some r =>
    if windowDue s r then
      let r1 := { r with winDue := false }
      let s2 := writeBaros (setRgn s rgn r1) rgn
      if r.st = .live && r.rewire.isNone && r.plans.isEmpty && r.stopAt.isNone && r.drain.isNone then
        match chooseRewire s2 rgn r1 with
        | none => .next s2
        | some p =>
          if r.policy.getLsbD 28 then
            let n := (r.nprop + 1) % 65536
            let v := if p.action = 3 then foldNumber r p.op p.target else p.target
            .next (mgmtRecord (setRgn s2 rgn { r1 with nprop := n, proposals := r1.proposals ++ [{ p with num := n, window := r1.win }] }) (.ctl (rgnDie r))
              (rewireRec s r 0x70 p.op p.action n v))
          else .next (setRgn s2 rgn { r1 with rewire := some (rewireNew s r p) })
      else .next s2
    else .next s
/-- Whether a proposal lapses now: a window has ended since the one that made it. -/
def lapses (r : Region) : Bool := r.proposals.any fun p => decide (p.window < r.win)
/-- PROPOSAL_LAPSE (R377). -/
def execProposalLapse (rgn : Nat) (s : State) : Host.Outcome State Fault Refusal :=
  .next (modRgn s rgn fun r => { r with proposals := r.proposals.filter fun p => decide (r.win ≤ p.window) })

/-! ### Plans (R382, R383) -/

/-- The plan that is to be armed next: the first one, once the plan before it has completed or failed (R383). -/
def planToArm (r : Region) : Option Plan :=
  match r.plans with
  | p :: _ => if p.armed then none else some p
  | [] => none
/-- A channel with its gate closed: tokens in line at the output port take their requests when the gate opens. -/
def closeGate (s : State) (c : Chan) : Chan :=
  let q := if isSource c.prod then 0 else (outPortOf s c.prod).outq.length
  if c.merge.isSome || atGate c then { c with closed := true }
  else if 1 ≤ c.d then { c with closed := true, owed := q, lpend := c.lpend + q }
  else { c with closed := true, owed := q, cons := c.cons.map fun x => if plainCons x then { x with pend := x.pend + q } else x }
/-- The channel whose gate an armed plan closes now: its count equals the cut (R383). -/
def planAtCut (s : State) (r : Region) : Option (Nat × Chan) :=
  match r.plans with
  | p :: _ =>
    if p.armed && !p.held && p.cut == some (opPassed s r p.op) then
      (opChan s r p.op).bind fun id => (chanOf s id).map fun c => (id, c)
    else none
  | [] => none
/-- The gate of an armed plan closed at its cut, whatever else the region's controller does (R383). -/
def holdGate (s : State) (k : Nat) : State :=
  match rgnOf s k with
  | none => s
  | some r =>
    match planAtCut s r with
    | some (id, c) =>
      setChan (setRgn s k { r with plans := (r.plans.take 1).map (fun p => { p with held := true }) ++ r.plans.drop 1 }) id (closeGate s c)
    | none => s
/-- A region's next plan armed; one whose cut has passed fails as LATE, and the plan after it is armed (R383). -/
def armPlans : Nat → State → Nat → State
  | 0, s, _ => s
  | n + 1, s, k =>
    match rgnOf s k with
    | none => s
    | some r =>
      match planToArm r with
      | none => s
      | some p =>
        if p.cut.getD 0 < opPassed s r p.op then
          armPlans n (mgmtRecord (setRgn s k { r with plans := r.plans.drop 1 }) (.ctl (rgnDie r)) (rewireRec s r 0x71 p.op 4 0 (p.cut.getD 0))) k
        else setRgn s k { r with plans := { p with armed := true } :: r.plans.drop 1 }
/-- A region's next plan armed, its gate closed at once where its cut has come (R383). A region holds at most 8 plans. -/
def planArm (s : State) (rgn : Nat) : State := holdGate (armPlans 9 s rgn) rgn
/-- PLAN_ARM (R383). -/
def execPlanArm (rgn : Nat) (s : State) : Host.Outcome State Fault Refusal := .next (planArm s rgn)
/-- The channel whose gate a region's plan holds closed. -/
def planGate (s : State) (r : Region) : Option Nat :=
  match r.plans with
  | p :: _ => if p.held then opChan s r p.op else none
  | [] => none
/-- A channel's gate opened, unless the region's plan holds it closed. -/
def gateOpens (s : State) (k id : Nat) : State :=
  match chanOf s id with
  | some c => setChan s id { c with closed := (rgnOf s k).any fun r => planGate s r == some id }
  | none => s
/-- The rewire that is gated now: one that barometers or an approval have started, or the plan that holds its gate. -/
def gateNow (s : State) (k : Nat) (r : Region) : Option Plan :=
  if !rgnMoves s (some k) then none
  else match r.rewire with
    | some w => if w.step = 1 then some w.plan else none
    | none => match r.plans with
      | p :: _ => if p.held then some p else none
      | [] => none
/-- The gate of a region's rewire closed, where it closes now, at the cut (R371 step 1). -/
def gating (s : State) (rgn : Nat) : State :=
  match rgnOf s rgn with
  | none => s
  | some r =>
    match gateNow s rgn r with
    | none => s
    | some p =>
      match (opChan s r p.op).bind fun id => (chanOf s id).map fun c => (id, c) with
      | none => s
      | some (id, c) =>
        setChan (setRgn s rgn { r with rewire := some { rewireNew s r p with step := 2, chan := id, cut := c.passed } }) id (closeGate s c)
/-- GATING (R371 step 1). -/
def execGating (rgn : Nat) (s : State) : Host.Outcome State Fault Refusal := .next (gating s rgn)

/-! ### Draining and the checks of step 3 (R371, R372, R384) -/

/-- The tiles of a rewire's operator. -/
def rewireTiles (r : Region) (w : Rewire) : List Nat := opCopies r w.plan.op
/-- Whether a chunk of a clone is the one in progress and its copy has consumed every token of it steered so far: it ends at
the cut, early, where the rewire completes (R368), and goes on where it fails (R372). -/
def chunkAtRest (c : Clone) (k : Chunk) : Bool :=
  !k.ended && k.toward.all fun x => decide (k.len ≤ (mapGet c.at_ x.1 ⟨0, 0, 0⟩).deq)
/-- Whether an output of a copy counts towards a chunk that has not begun (R366): it does not hold a rewire back, and passes once
the last chunk has ended (R368). -/
def chunkToCome (c : Clone) (n ord : Nat) : Bool := decide (mapGet c.given n 0 ≤ ord)
/-- Whether step 2 has ended: queues empty, no result pending, outputs enqueued downstream. A folded operator's firings are
those of its bank. -/
def rewireDrained (s : State) (r : Region) (w : Rewire) : Bool :=
  let op := w.plan.op
  let ts := rewireTiles r w
  let inEps := (opIns r op).flatMap fun x =>
    if (opClone r op).isSome then ts.map fun t => tileEp t (epPort x.1) else [opPort r op false x.1]
  let bank := (foldOf r op).map fun x => x.2.bank
  inEps.all (fun e => (inPortOf s e).queue.isEmpty && (inPortOf s e).errs.isEmpty)
    && (opIns r op).all (fun x => match chanOf s x.2.1 with
        | some c => c.cons.all (fun y => !inEps.contains y.ep || y.toks.isEmpty)
            && c.steer.all fun u => u.1 != op || u.2.isEmpty
        | none => true)
    && ts.all (fun t => (tileOf s t).jobs.all fun j => match bank with | some b => j.bank != b | none => false)
    && (opOuts r op).all (fun x => match chanOf s x.2 with
        | some c => c.cons.all (fun y => y.toks.isEmpty) && c.gateq.isEmpty && c.steer.all (fun u => u.2.isEmpty)
            && (match opClone r op with
                | some k => ts.all fun t => (outPortOf s (tileEp t (epPort x.1))).outq.all fun o => chunkToCome k t o.ord
                | none => (outPortOf s (opPort r op true x.1)).outq.isEmpty)
        | none => true)
    && (match opClone r op with
        | some c => c.chunks.all (chunkAtRest c) && c.outs.all fun e => e.2.all fun o => chunkToCome c e.1 o.1
        | none => true)
/-- The variant of a fold: the PLAN's TARGET counts among the operator's own variants (R382). -/
def foldIdx (r : Region) (p : Plan) : Option Nat :=
  if p.cut.isSome then
    ((r.img.folds.zipIdx.filter fun x => x.1.src == p.op)[p.target]?).map (·.2)
  else some p.target
/-- Whether a tile of the region holds a copy of a cloned operator or a cloned operator. -/
def holdsCopy (r : Region) (tile : Nat) : Bool := r.clones.any fun c => c.copies.contains tile
/-- The status with which step 3 is refused, if it is (R371, R372). -/
def installRefused (s : State) (k : Nat) (r : Region) (p : Plan) : Option Nat :=
  match p.action with
  | 1 =>
    if !tileLive s (epTile p.target) then some 0x10A
    else if !rgnHasTile s r (epTile p.target) then some 0x109
    else if !tileIdle s k (epTile p.target) then some 0x107
    else if !cloneable s r p.op || decide (polMaxc r.policy + 1 ≤ (opCopies r p.op).length) then some 0x116 else none
  | 2 => if (opClone r p.op).isSome then none else some 0x116
  | 3 =>
    (match (foldIdx r p).bind fun n => (r.img.folds[n]?).map fun v => (n, v) with
     | none => some 0x116
     | some (n, v) =>
       if !tileLive s (epTile v.dst) then some 0x10A
       else if (foldOf r p.op).isSome || (foldOf r v.dst).isSome || holdsCopy r (epTile p.op) || holdsCopy r (epTile v.dst)
         || r.img.folds.zipIdx.any (fun (w, m) => decide (m < n) && w.dst == v.dst && !r.folds.any fun f => f.idx == m)
       then some 0x116 else none)
  | _ =>
    (match foldOf r p.op with
     | none => some 0x116
     | some (f, v) =>
       if !tileLive s (epTile p.op) then some 0x10A
       else if !tileIdle s k (epTile p.op) then some 0x107
       else if r.folds.any fun g => decide (f.idx < g.idx) && (r.img.folds[g.idx]?).any fun w => w.dst == v.dst then some 0x116
       else none)
/-- Why a rewire fails now, by R377's reason and the status, if it does (R372, R373). R377 names no reason for a
pre-emption: a free value. -/
def failNow (s : State) (k : Nat) (r : Region) : Option (Nat × Nat) :=
  match r.rewire with
  | none => none
  | some w =>
    let swap := (partOf s r.part).swap.isSome
    if w.step = 3 then none
    else if (r.stopAt.isSome && !swap) || rgnFaulted s k then some (3, 0)
    else if r.drain.isSome || swap then some (Config.choice s.free % 65536, 0)
    else if w.step = 1 then none
    else if rewireDrained s r w then (installRefused s k r w.plan).map fun c => (2, c)
    else if w.start + polDlim r.policy ≤ s.cyc then some (1, 0) else none
/-- A rewire that fails: its record, the gate opens, and nothing has changed (R372). The next plan is armed (R383). -/
def rewireFails (s : State) (k reason status : Nat) : State :=
  match rgnOf s k with
  | none => s
  | some r =>
    match r.rewire with
    | none => s
    | some w =>
      let r1 := { r with rewire := none, plans := if w.plan.cut.isSome then r.plans.drop 1 else r.plans }
      let cut := if w.step = 1 then opPassed s r w.plan.op else w.cut
      let s1 := mgmtRecord (setRgn s k r1) (.ctl (rgnDie r)) (rewireRec s r 0x71 w.plan.op reason status cut)
      gating (planArm (gateOpens s1 k w.chan) k) k
/-- A pre-emption request that meets a rewire in its steps 1 and 2: the rewire fails, for a reason to which R377 gives no
number (R373). -/
def preempt (s : State) (k : Nat) : State :=
  match (rgnOf s k).bind (·.rewire) with
  | some w => if w.step = 3 then s else rewireFails { s with free := s.free + 1 } k (Config.choice s.free % 65536) 0
  | none => s
/-- The tiles whose context store step 3 of a rewire writes. -/
def rewireWrites (r : Region) (p : Plan) : List Nat :=
  match p.action with
  | 1 => [epTile p.target]
  | 2 => (opCopies r p.op).drop 1
  | 3 => ((foldIdx r p).bind fun n => (r.img.folds[n]?).map fun v => [epTile v.dst, epTile v.src]).getD []
  | _ => ((foldOf r p.op).map fun x => [epTile x.2.dst, epTile p.op]).getD []
/-- The contexts of a rewire's operator, which stand still in its steps 3 and 4: all banks of its tiles, or a folded operator's
bank. -/
def rewireMoves (r : Region) (p : Plan) : List Nat :=
  match foldOf r p.op with
  | some x => [epTile x.2.dst * 4 + x.2.bank]
  | none => (opCopies r p.op).flatMap fun n => (List.range 4).map fun b => n * 4 + b
/-- Its input ports, at which no token arrives in those steps. -/
def rewirePorts (r : Region) (op : Nat) : List Nat :=
  (opIns r op).flatMap fun x =>
    if (opClone r op).isSome then (opCopies r op).map fun t => tileEp t (epPort x.1) else [opPort r op false x.1]
/-- A cloned operator whose chunk in progress ends at the cut, early (R368), with every copy's chunk finished. Outputs that
count towards a copy's next chunk make one of their own, which holds no token and passes after it, in chunk order. -/
def endChunks (s : State) (c : Clone) : Clone :=
  let at1 := fun n : Nat => let a := mapGet c.at_ n ⟨0, 0, 0⟩
    if c.chunks.any fun k => k.toward.any fun x => x.1 == n && x.2.1 == a.ord then a.ord + 1 else a.ord
  let m := c.copies.length
  let more := (List.range m).filterMap fun i =>
    let n := c.copies.getD ((c.next + i) % m) 0
    if (mapGet c.outs n []).isEmpty && (outPortOf s (tileEp n c.outPort)).outq.isEmpty then none
    else some (⟨c.next + i, [(n, at1 n, true)], 0, false, true, false⟩ : Chunk)
  { c with chunks := (c.chunks.map fun k => { k with ended := true, toward := k.toward.map fun x => (x.1, x.2.1, true) }) ++ more,
           at_ := c.copies.foldl (fun l n => mapPut l n ⟨at1 n, 0, 0⟩) c.at_ }
/-- The passage to the next cycle of a region whose rewire has ended its step 2 and is not refused (R371): step 3 begins, not
within the cycles of a `cfg.sel` of a PE whose context store it writes (R158). Its writes end after a free time. -/
def rewireTick (s : State) (k : Nat) : State :=
  match rgnOf s k with
  | none => s
  | some r =>
    match r.rewire with
    | none => s
    | some w =>
      let l := rewireWrites r w.plan
      if w.step == 2 && (failNow s k r).isNone && rewireDrained s r w && l.all fun n => decide ((tileOf s n).resume ≤ s.cyc + 1) then
        let d := freeDelay s
        let r1 := match opClone r w.plan.op with
          | some c => putClone r (endChunks s c)
          | none => r
        setRgn d.2 k { r1 with rewire := some { w with step := 3, start := s.cyc + 1 + d.1, writes := l, moves := rewireMoves r w.plan,
                                                       ports := rewirePorts r w.plan.op } }
      else s
/-- REWIRE_FAIL (R372). -/
def execRewireFail (rgn : Nat) (s : State) : Host.Outcome State Fault Refusal :=
  match (rgnOf s rgn).bind (failNow s rgn) with
  | some (a, b) => .next (rewireFails { s with free := s.free + 1 } rgn a b)
  | none => .next s

/-! ### Clones (R362, R363, R365) -/

/-- The state registers of an operator (R363): k by number, v by 8 + number. -/
def stateRegs (s : State) (r : Region) (op : Nat) (comb : Instr) : List Nat :=
  let ws := (opSlots s r op).filter fun x => opcodeOf x.2 == opcodeOf comb
  (List.range 16).filter fun n => ws.any fun x =>
    let w := opnds x.2
    (info x.2).dst != .none && (info x.2).pd == decide (8 ≤ n) && (w.d.toNat == 6 + n % 8 || w.e.toNat == 6 + n % 8)
/-- A register set of a bank given a value. -/
def setRegs (b : Bank) (regs : List Nat) (v : W512) : Bank :=
  regs.foldl (fun x n => if n < 8 then kSet x n (v.setWidth 64) else vSet x (n - 8) v) b
/-- The state of a cloned operator brought back to the original (R365, R368): the last carry, which the merge unit has formed with
the last chunk, into the state registers of its merge bank; HPOS, HRANK and the block count of its port. -/
def collapse (s : State) (c : Clone) : State :=
  let t := epTile c.op
  let s1 := match c.cls with
    | .reducible _ _ _ => modBank s t c.mergeBank fun b => setRegs b c.regs c.carry
    | _ => s
  let p := inPortOf s1 (c.op + c.inPort)
  setInPort s1 (c.op + c.inPort) { p with hpos := c.hpos, hrank := c.hrank, run := c.run }
/-- A clone placed (R362): context, banks, ports, and the steering and merge units. DESIGN CHOICE (log 110): the array of the
idle tile that takes it is all zero, as install leaves one (R193). -/
def placeClone (s0 : State) (k : Nat) (r0 : Region) (op target : Nat) : State :=
  let s := match opClone r0 op with
    | some c => collapse s0 c
    | none => s0
  match opIn s r0 op, opOut s r0 op with
  | some (iep, ich, _), some (oep, och) =>
    let o := tileOf s (epTile op)
    let n := epTile target
    let old := tileOf s n
    let cls := classOf r0 op
    let regs := match cls with
      | .reducible _ comb _ => stateRegs s r0 op comb
      | _ => []
    let slots := (o.slots.filter fun x => x.1 / 64 == o.ctx).map fun x => (x.1 % 64, x.2)
    let s1 := setTile (fonsCut s n) n <| withFons old <|
                          { tile0 with rgn := some k, slots := slots, banks := o.banks, lm := old.lm, bad := old.bad,
                                       njob := old.njob, sw := old.sw, bind := old.bind, half := old.half, lastFire := s.cyc,
                                       gated := old.gated, wake := old.wake }
    let s2 := setInPort s1 (tileEp n (epPort iep)) { inPort0 with chan := some ich }
    let s3 := setOutPort s2 (tileEp n (epPort oep)) { outPort0 with chan := some och }
    let ip := inPortOf s iep
    let copies := opCopies r0 op ++ [n]
    let c0 : Clone :=
      { op := op, copies := copies, inch := ich, outch := och, inPort := epPort iep, outPort := epPort oep,
        size := polChunk r0.policy, cls := cls, mergeBank := o.lastBank, mode := (bankOf o o.lastBank).mode, regs := regs,
        skip := 0, next := 0, hpos := ip.hpos, hrank := ip.hrank, run := ip.run, fresh := [], chunks := [], carry := 0, last := none, outs := [], at_ := [],
        given := [], calm := 0 }
    let c1 := { c0 with carry := cloneIdentity c0 }
    let s4 := match chanOf s3 ich with
      | some x =>
        let pf := ((x.cons.find? fun y => y.ep == iep).map (·.pf)).getD 0
        let new : Cons :=
          { ep := tileEp n (epPort iep), pf := pf, attached := true, pend := 0, reqs := [], toks := [], stall := 0, lag := false, copy := some op }
        setChan s3 ich { x with cons := x.cons.map (fun y => if y.ep == iep then { y with copy := some op } else y) ++ [new],
                                steer := if x.steer.any fun u => u.1 == op then x.steer else x.steer ++ [(op, [])] }
      | none => s3
    let s5 := match chanOf s4 och with
      | some x => setChan s4 och { x with merge := some op }
      | none => s4
    let c2 := { c1 with skip := ((chanOf s5 ich).map fun x => x.line.length).getD 0 }
    modRgn (identityRegs s5 c2 n) k fun r => putClone r c2
  | _, _ => s
/-- A compute tile left idle: nothing of an operator stays but its local memory, and of the array what R212 gives. -/
def tileVacant (s : State) (n : Nat) (keep : Bool) : State :=
  let t := tileOf s n
  setTile s n <| withArray t
              { tile0 with rgn := if keep then t.rgn else none, lm := t.lm, bad := t.bad, njob := t.njob, sw := t.sw, bind := t.bind,
                           tbuf := t.tbuf, lastLabel := t.lastLabel, half := t.half, lastFire := t.lastFire, gated := t.gated, wake := t.wake }
/-- The clones of an operator retired (R368): state and sticky flags to the original, the tiles idle, the units removed. -/
def retireClones (s : State) (k : Nat) (c : Clone) : State :=
  let t := epTile c.op
  let cl := c.copies.filter (· != t)
  let s1 := collapse s c
  let s2 := (List.range 4).foldl (fun x b => modBank x t b fun y =>
    { y with mode := cl.foldl (fun m n => modeRaise m (modeSticky (bankOf (tileOf s n) b).mode)) y.mode }) s1
  let s3 := cl.foldl (fun x n =>
    let x1 := tileVacant x n ((tileOf x n).sw.getLsbD 63)
    { x1 with inPorts := mapDel x1.inPorts (tileEp n c.inPort), outPorts := mapDel x1.outPorts (tileEp n c.outPort) }) s2
  let s4 := match chanOf s3 c.inch with
    | some x => setChan s3 c.inch
        { x with cons := (x.cons.filter fun y => !(cl.any fun n => y.ep == tileEp n c.inPort)).map fun y =>
                   if y.copy == some c.op then { y with copy := none } else y,
                 steer := x.steer.filter fun u => u.1 != c.op }
    | none => s3
  let s5 := match chanOf s4 c.outch with
    | some x => setChan s4 c.outch { x with merge := none }
    | none => s4
  modRgn s5 k fun r => { r with clones := r.clones.filter fun x => x.op != c.op,
                                baros := cl.foldl (fun m n => mapDel m (tileEp n c.inPort)) r.baros }

/-! ### Folds (R369, R370, R384) -/

/-- A port moved with its channel, its counts and its barometer. -/
def movePort (s : State) (k a b : Nat) (out : Bool) : State :=
  if out then
    let p := outPortOf s a
    let s1 := setOutPort { s with outPorts := mapDel s.outPorts a } b p
    match p.chan with
    | some id => match chanOf s1 id with
      | some c => setChan s1 id { c with prod := b }
      | none => s1
    | none => s1
  else
    let p := inPortOf s a
    let s1 := setInPort { s with inPorts := mapDel s.inPorts a } b p
    let s2 := match p.chan with
      | some id => match chanOf s1 id with
        | some c => setChan s1 id { c with cons := c.cons.map fun x => if x.ep = a then { x with ep := b } else x }
        | none => s1
      | none => s1
    modRgn s2 k fun r => match mapFind r.baros a with
      | some v => { r with baros := mapPut (mapDel r.baros a) b v }
      | none => r
/-- Whether an operator has used a stream: its state moves with the operator (R371 step 4). -/
def streamUsed (x : Stream) : Bool := !(x.st = .idle && x.w0 == 0 && x.w1 == 0)
/-- The slots of a context replaced. -/
def putCtx (l : SMap Slot) (ctx : Nat) (new : SMap Slot) : SMap Slot :=
  new.foldl (fun m x => mapPut m (64 * ctx + x.1) x.2) (l.filter fun x => x.1 / 64 != ctx)
/-- The stream of a tile after an operator has moved into it: the operator's, where it has used one. Its reservations are told
apart from those of both before. -/
def movedStream (a t : Stream) (b : Nat) : Stream := if streamUsed a then { a with own := some b, gen := a.gen + t.gen + 1 } else t
/-- A fold applied (R369). -/
def applyFold (s : State) (k n : Nat) (v : FoldEnt) : State :=
  let a := epTile v.src
  let b := epTile v.dst
  let src := tileOf s a
  let prev := (tileOf s b).ctx
  let ins := (v.remap.filter fun m => !m.2.2).map fun m => epPort m.2.1
  let dst := tileOf s b
  let s1 := modTile s b fun t =>
    { setBank t v.bank (bankOf src 0) with
        rd := movedStream src.rd t.rd v.bank, wr := movedStream src.wr t.wr v.bank,
        slots := putCtx t.slots v.ctx v.slots, ctx := v.ctx, resume := s.cyc + 3, moveBanks := t.moveBanks ++ [v.bank],
        moveIn := ins.foldl (fun m i => mapPut m i v.bank) t.moveIn }
  let s2 := v.remap.foldl (fun x m => movePort x k m.1 m.2.1 m.2.2) s1
  modRgn (tileVacant s2 a true) k fun r => { r with folds := r.folds ++
    [{ idx := n, prev := prev, ctx := src.ctx, slots := src.slots, rd := dst.rd, wr := dst.wr }] }
/-- A fold undone (R370): the operator is back in bank 0 of its own tile and context, with bank b's state; a stream that is its own,
moved with it or set or started by it since, moves back, and the target's own of the fold is put back. -/
def undoFold (s : State) (k : Nat) (f : FoldOn) (v : FoldEnt) : State :=
  let a := epTile v.src
  let b := epTile v.dst
  let dst := tileOf s b
  let ins := (v.remap.filter fun m => !m.2.2).map fun m => epPort m.2.1
  let mine := fun x : Stream => x.own == some v.bank
  let s1 := modTile s a fun t =>
    { setBank t 0 (bankOf dst v.bank) with
        slots := f.slots, ctx := f.ctx, rgn := some k, lastBank := 0,
        rd := if mine dst.rd then { dst.rd with own := none } else t.rd, wr := if mine dst.wr then { dst.wr with own := none } else t.wr }
  let s2 := modTile s1 b fun t =>
    { setBank t v.bank bank0 with rd := if mine t.rd then { f.rd with gen := t.rd.gen + 1 } else t.rd,
                                  wr := if mine t.wr then { f.wr with gen := t.wr.gen + 1 } else t.wr, ctx := f.prev, resume := s.cyc + 3, moveBanks := t.moveBanks.filter (· != v.bank),
                                  moveIn := ins.foldl (fun m i => mapDel m i) t.moveIn }
  let s3 := v.remap.foldl (fun x m => movePort x k m.2.1 m.1 m.2.2) s2
  modRgn s3 k fun r => { r with folds := r.folds.filter fun g => g.idx != f.idx }

/-! ### Steering (R364, R367) -/

/-- H(k) of R367: the XOR of the four 16-bit pieces. -/
def keyHash (k : Nat) : Nat := ((k % 65536) ^^^ (k / 2 ^ 16 % 65536) ^^^ (k / 2 ^ 32 % 65536) ^^^ (k / 2 ^ 48 % 65536))
/-- Whether the next token begins a chunk (R364). -/
def chunkFresh (c : Clone) : Bool :=
  match c.chunks.getLast? with
  | some k => k.ended
  | none => true
/-- The copies that a token goes to: those of the chunk in progress; the original, for a value that stood in the delay line at
the cut; copy j mod m for chunk j (R364); by key, or every copy for a MARK, of a keyed operator (R367). -/
def steerTo (c : Clone) (t : Token) : List Nat :=
  match c.chunks.getLast? with
  | some k => if k.ended then fresh else k.toward.map (·.1)
  | none => fresh
where
  /-- The copies of a chunk that the token begins. -/
  fresh : List Nat :=
    if 1 ≤ c.skip then [epTile c.op]
    else match c.cls with
      | .keyed _ m n =>
        if t.kind = .mark then c.copies
        else [c.copies.getD (keyHash (t.pay.toNat / 2 ^ n % 2 ^ (m + 1 - n)) % c.copies.length) 0]
      | _ => [c.copies.getD (c.next % c.copies.length) 0]
/-- A clone record after a token has been steered, on a channel with a block length. -/
def steered (blk : Nat) (c : Clone) (t : Token) : Clone :=
  let mk := t.kind == .mark
  let one := match c.cls with
    | .keyed _ _ _ => true
    | _ => false
  let ends := fun n : Nat => if 1 ≤ c.skip then c.skip == 1 else mk || one || decide (c.size ≤ n)
  let c1 := { c with hpos := if mk then 0 else if isDataNull t.kind then c.hpos + 1 else c.hpos,
                     hrank := if mk then BitVec.ofNat 3 (markRank t) else c.hrank, run := (blockRun blk c.run t).1,
                     skip := c.skip - 1 }
  if chunkFresh c then
    let toward := steerTo c t
    { c1 with next := if 1 ≤ c.skip then c.next else c.next + 1,
              chunks := c.chunks ++ [{ num := c.next, toward := toward.map fun n => (n, mapGet c.given n 0, false), len := 1,
                                       mark := mk, ended := ends 1, pre := decide (1 ≤ c.skip) }],
              given := toward.foldl (fun m n => mapPut m n (mapGet m n 0 + 1)) c.given }
  else
    { c1 with chunks := c.chunks.dropLast ++ (c.chunks.getLast?.toList.map fun k =>
        { k with len := k.len + 1, mark := mk, ended := ends (k.len + 1) }) }
/-- Whether a copy has finished every chunk given to it: only then does it take its next one (R366). -/
def copyFree (c : Clone) (n : Nat) : Bool := c.chunks.all fun k => k.toward.all fun x => x.1 != n || x.2.2
/-- Whether a steered channel's consumer is the port of one of some copies of an operator. -/
def isCopyOf (k : Clone) (l : List Nat) (x : Cons) : Bool := x.copy == some k.op && l.any fun n => x.ep == tileEp n k.inPort
/-- Whether a steering unit can pass a token: its copies ask, and those that begin a chunk with it have finished theirs. DRAIN
needs no request (R376). -/
def steerReady (c : Chan) (k : Clone) (t : Token) : Bool :=
  t.kind == .drain
    || ((!chunkFresh k || (steerTo k t).all (copyFree k))
        && c.cons.all fun x => !isCopyOf k (steerTo k t) x || decide (1 ≤ x.pend))
/-- What the copies take that a token begins a chunk for (R364, R365): HPOS, HRANK and the block count as the original's port
would hold them, and the identity, but for chunk 0 and what comes before it. They take it as the token arrives. -/
def chunkBegin (k : Clone) (l : List Nat) : Clone :=
  let f : Fresh := ⟨k.hpos, k.hrank, k.run, !(decide (1 ≤ k.skip) || k.next == 0)⟩
  { k with fresh := l.foldl (fun m n => mapPut m n f) k.fresh }
/-- A token sent by the steering unit of a cloned operator. DRAIN goes to every copy (R376). -/
def steerSend (s : State) (id : Nat) (c : Chan) (k : Clone) (t : Token) : State :=
  let l := if t.kind = .drain then k.copies else steerTo k t
  let go := fun x : Cons =>
    if isCopyOf k l x then
      { x with pend := if t.kind = .drain then x.pend else x.pend - 1, toks := x.toks ++ [(s.cyc + route s c.prod x.ep, t)] }
    else x
  let s1 := setChan s id { c with cons := c.cons.map go, steer := c.steer.map fun u => if u.1 = k.op then (u.1, u.2.drop 1) else u }
  if t.kind = .drain then s1
  else
    let k1 := if chunkFresh k then chunkBegin k l else k
    modRgn s1 c.rgn fun r => putClone r (steered c.blk k1 t)
/-- The clone and the token of the first steering unit of a channel that passes one now. -/
def steerNext (s : State) (c : Chan) : Option (Clone × Token) :=
  if rgnMoves s (some c.rgn) then
    c.steer.findSome? fun u => match u.2, cloneOf s c.rgn u.1 with
      | t :: _, some k => if steerReady c k t then some (k, t) else none
      | _, _ => none
  else none
/-- STEER_TOKEN (R364, R367). -/
def execSteerToken (chan : Nat) (s : State) : Host.Outcome State Fault Refusal :=
  match chanOf s chan with
  | none => .next s
  | some c =>
    match steerNext s c with
    | some (k, t) => .next (steerSend s chan c k t)
    | none => .next s

/-! ### Delay lines (R46, R149) -/

/-- The token that the head of a delay line leaves as. -/
def lineTok (c : Chan) : Option Token := (c.line.head?).map fun v => ⟨.data, 0, v⟩
/-- Whether the head of a delay line leaves now: every consumer asks, the region moves (R162), and no rewire moves the line's
stages (R371 step 4). -/
def delayDue (s : State) (id : Nat) (c : Chan) : Bool :=
  decide (1 ≤ c.d) && !c.line.isEmpty && consReady c 0 && rgnMoves s (some c.rgn)
    && !((rgnOf s c.rgn).any fun r => r.rewire.any fun w => w.step == 3 && w.chan == id)
/-- DELAY_LINE_DEPART (R46): the head goes to the consumers as DATA with tag 0, and the line asks the producer for one
token. -/
def execDelayLineDepart (chan : Nat) (s : State) : Host.Outcome State Fault Refusal :=
  match chanOf s chan with
  | none => .next s
  | some c =>
    match lineTok c with
    | some t =>
      if delayDue s chan c then
        .next (setChan s chan (sendAll s (fanConsume { c with line := c.line.drop 1, lpend := c.lpend + 1 }) c.prod t))
      else .next s
    | none => .next s

/-! ### Copies and the merge unit (R365 to R367, R385) -/

/-- Whether a copy has finished its present chunk (R366): the last token dequeued, and the results of the firing that dequeued it
written. -/
def chunkDone (s : State) (n : Nat) (k : Chunk) (a : CopyAt) : Bool :=
  k.ended && decide (k.len ≤ a.deq) && (tileOf s n).jobs.all fun j => j.id != a.job
/-- The chunk at a copy's place. -/
def chunkAt (c : Clone) (n ord : Nat) : Option Chunk := c.chunks.find? fun k => k.toward.any fun x => x.1 == n && x.2.1 == ord
/-- One copy brought up to date: its present chunk finished (R366). -/
def copyTick (s : State) (k op n : Nat) : State :=
  match (rgnOf s k).bind fun r => opClone r op with
  | none => s
  | some c =>
    let a := mapGet c.at_ n ⟨0, 0, 0⟩
    match chunkAt c n a.ord with
    | none => s
    | some x =>
      if chunkDone s n x a then
        let fin := fun y : Chunk =>
          { y with toward := y.toward.map fun z => if z.1 == n && z.2.1 == a.ord then (z.1, z.2.1, true) else z }
        modRgn s k fun r => putClone r { c with chunks := c.chunks.map fin, at_ := mapPut c.at_ n ⟨a.ord + 1, 0, a.job⟩ }
      else s
/-- Whether a copy has an output of one of its chunks that the merge unit has not passed. -/
def outWaits (s : State) (c : Clone) (n ord : Nat) : Bool :=
  (mapGet c.outs n []).any (fun o => o.1 == ord) || (outPortOf s (tileEp n c.outPort)).outq.any fun o => o.ord == ord
/-- What the firings of a tile without a further input token may still change: predicates and queue registers, by bank. -/
structure Reach where
  preds : List (Nat × Nat)
  queues : List (Nat × Nat)
/-- The predicates that a slot may update, and the queue registers that it pops or pushes. -/
def slotChanges (x : BitVec 32) (i : Instr) : List Nat × List Nat :=
  ((List.range 4).filter fun p => (trPop x != 0 && trPsel x == p) || (match i with | .pset _ _ _ => true | _ => false),
   (List.range 2).filter fun q => popsQ i q || pushesQ i q)
/-- Whether a slot could come to fire without a further input token: its trigger and heads pass, and its predicates and queues
do or may change. -/
def slotReach (s : State) (i : Instr) (f : Firing) (a : Reach) : Bool :=
  let b := bankOf (tileOf s f.tile) f.bank
  trV f.trig && triggerOk s f false && headsOk s i f
    && (List.range 4).all (fun p => !(trPcare f.trig).getLsbD p || a.preds.contains (f.bank, p)
        || b.p.getLsbD p == (trPval f.trig).getLsbD p)
    && (List.range 2).all fun q => a.queues.contains (f.bank, q)
        || ((!popsQ i q || !(qGet b q).isEmpty) && (!pushesQ i q || popsQ i q || decide ((qGet b q).length < qDepth b q)))
/-- The firings of a tile's slots: instruction and firing, in every bank. -/
def slotFirings (s : State) (tile : Nat) : List (Instr × Firing) :=
  (ctxSlots (tileOf s tile)).flatMap fun (n, x) => match slotInstr x with
    | some i => (List.range 4).map fun b => (i, firingOf tile b (tileOf s tile).ctx n x)
    | none => []
/-- What the firings that could come may change, in as many rounds as there are predicates and queue registers. -/
def reachIn (s : State) (l : List (Instr × Firing)) : Nat → Reach → Reach
  | 0, a => a
  | n + 1, a => reachIn s l n <| (l.filter fun x => slotReach s x.1 x.2 a).foldl (fun m x =>
      let c := slotChanges x.2.trig x.1
      { preds := (m.preds ++ c.1.map fun p => (x.2.bank, p)).eraseDups, queues := (m.queues ++ c.2.map fun q => (x.2.bank, q)).eraseDups }) a
/-- Whether a copy of a keyed operator could still write an output that is attributed to the last token it has consumed (R367):
a slot that writes the merged port could fire before its next token. -/
def keyedMore (s : State) (c : Clone) (n : Nat) : Bool :=
  let t := tileOf s n
  let a0 : Reach :=
    { preds := t.jobs.filterMap fun j => j.pred.map fun p => (j.bank, p.1),
      queues := t.jobs.flatMap fun j => [j.da, j.db].filterMap fun d => match d with | .q i => some (j.bank, i) | _ => none }
  let l := slotFirings s n
  let a := reachIn s l 24 a0
  l.any fun x => (outPorts x.1).contains c.outPort && slotReach s x.1 x.2 a
/-- Whether a chunk of a copy is finished and its outputs have all passed. Of a keyed operator, the outputs that its token brings
are all there once its copy has consumed another or can write no more (DEDUCED, log 57). -/
def copyPassed (s : State) (c : Clone) (x : Nat × Nat × Bool) : Bool :=
  x.2.2 && !outWaits s c x.1 x.2.1
    && (match c.cls with
        | .keyed _ _ _ =>
          let a := mapGet c.at_ x.1 ⟨0, 0, 0⟩
          decide (x.2.1 + 1 < a.ord) || decide (1 ≤ a.deq) || !keyedMore s c x.1
        | _ => true)
/-- Whether the oldest chunk is finished and its outputs all passed. -/
def chunkPassed (s : State) (c : Clone) (k : Chunk) : Bool := k.ended && k.toward.all (copyPassed s c)
/-- The merge unit moves on to the next chunk, with its carry (R365). -/
def mergeMove (s : State) (c : Clone) : Clone :=
  match c.chunks with
  | k :: rest =>
    if chunkPassed s c k then
      { c with chunks := rest, carry := if k.mark then cloneIdentity c else if k.pre then c.carry else c.last.getD c.carry, last := none }
    else c
  | [] => c
/-- The clones of a region at the passage to the next cycle. -/
def cloneTick (s : State) (k : Nat) : State :=
  match rgnOf s k with
  | none => s
  | some r =>
    r.clones.foldl (fun x c =>
      let x1 := c.copies.foldl (fun y n => copyTick y k c.op n) x
      modRgn x1 k fun q => match opClone q c.op with
        | some d => putClone q (mergeMove x1 d)
        | none => q) s
/-- The first of a copy's outputs at the merge unit, with the place of its chunk. -/
def outHead (s : State) (c : Clone) (n : Nat) : Option (Nat × Token) :=
  match mapGet c.outs n [] with
  | (o, at1, t) :: _ => if at1 ≤ s.cyc then some (o, t) else none
  | [] => none
/-- A clone without the first waiting output of some copies. -/
def popOuts (c : Clone) (l : List Nat) : Clone := { c with outs := l.foldl (fun m n => mapPut m n ((mapGet m n []).drop 1)) c.outs }
/-- The act of the merge unit that passes a copy's first output: the clone after it, the token, and the flags it raises. The
merged DATA outputs of a reducible operator's chunks take the carry (R365). -/
def mergePass (c : Clone) (pre : Bool) (n : Nat) (t : Token) : Clone × Option Token × Raise :=
  match c.cls, t.kind, pre with
  | .reducible _ i _, .data, false =>
    let (v, f) := combine i c.mode c.carry t.pay
    ({ popOuts c [n] with last := some v }, some { t with pay := v }, f)
  | _, _, _ => (popOuts c [n], some t, raiseNone)
/-- An output of a keyed copy attributed to a token whose chunk the merge unit has left behind. -/
def outLate (c : Clone) (n ord : Nat) : Bool :=
  decide (ord < mapGet c.given n 0) && (chunkAt c n ord).isNone
/-- What the merge unit does next: the clone after it, the token it passes if any, and the flags it raises. DRAIN passes once it
has come from every copy (R376); of the MARKs of a keyed operator's copies, the last (R367). -/
def mergeStep (s : State) (c : Clone) : Option (Clone × Option Token × Raise) :=
  if c.copies.all fun n => (match outHead s c n with | some (_, t) => t.kind == .drain | none => false) then
    (outHead s c (epTile c.op)).map fun x => (popOuts c c.copies, some x.2, raiseNone)
  else
    (c.copies.findSome? fun n => match outHead s c n with
      | some (o, t) => if outLate c n o && t.kind != .drain then some (mergePass c true n t) else none
      | none => none).orElse fun _ =>
    match c.chunks with
    | [] => none
    | k :: _ =>
      k.toward.findSome? fun (n, ord, _) => match outHead s c n with
        | some (o, t) =>
          let others := k.toward.filter fun x => x.1 != n
          if o != ord || t.kind == .drain then none
          else if t.kind != .mark || others.isEmpty then some (mergePass c k.pre n t)
          else if others.any fun x => !x.2.2 || (outPortOf s (tileEp x.1 c.outPort)).outq.any fun z => z.ord == x.2.1 then none
          else if others.any fun x => (mapGet c.outs x.1 []).any fun z => z.1 == x.2.1 && z.2.2.kind == .mark then
            some (popOuts c [n], none, raiseNone)
          else some (mergePass c k.pre n t)
        | none => none
/-- Whether a token past the merge unit can go on: a place at the gate or the steering unit behind it, or its requests. -/
def mergeRoom (c : Chan) (t : Token) : Bool :=
  t.kind == .drain || (if atGate c then decide (c.gateq.length < 4) else passReady c)
/-- The merge unit's next act on a channel, with its clone (R366). -/
def mergeNext (s : State) (c : Chan) : Option (Clone × Option Token × Raise) :=
  match c.merge, rgnOf s c.rgn with
  | some op, some r =>
    (opClone r op).bind fun k =>
      match mergeStep s k with
      | some (k1, t, f) => if t.all (mergeRoom c) && rgnMoves s (some c.rgn) then some (k1, t, f) else none
      | none => none
  | _, _ => none
/-- A token that a merge unit passes enters its channel: the gate, the delay line, or the way to the consumers (R45). DRAIN needs no
request. -/
def mergeSend (s : State) (c : Chan) (t : Token) : Chan :=
  if t.kind = .drain then (if 1 ≤ c.d then c else sendAll s c c.prod t)
  else if atGate c then { c with gateq := c.gateq ++ [t] }
  else passTok s (passConsume c) c.prod t
/-- The merge unit's flags raised in the mode word of the merge bank (R385). -/
def mergeRaise (s : State) (c : Clone) (f : Raise) : State :=
  modBank s (epTile c.op) c.mergeBank fun b => { b with mode := modeRaise b.mode f }
/-- MERGE_OUTPUT (R365, R366, R385). -/
def execMergeOutput (chan : Nat) (s : State) : Host.Outcome State Fault Refusal :=
  match chanOf s chan with
  | none => .next s
  | some c =>
    match mergeNext s c with
    | none => .next s
    | some (k1, t, f) =>
      let s2 := mergeRaise (modRgn s c.rgn fun r => putClone r k1) k1 f
      match t with
      | none => .next s2
      | some t => .next (setChan s2 chan (mergeSend s c t))
/-- Whether a cloned operator's copies have emitted their last output and its merge unit is empty (R368). -/
def mergeEmpty (s : State) (c : Clone) : Bool :=
  c.chunks.isEmpty && c.copies.all fun n => (mapGet c.outs n []).isEmpty && (outPortOf s (tileEp n c.outPort)).outq.isEmpty
/-- The outputs that a merge unit still holds, merged in order: the clone after them, the tokens, the flags. -/
def mergeFlush (s : State) : Nat → Clone → List Token → Raise → Clone × List Token × Raise
  | 0, c, l, f => (c, l, f)
  | n + 1, c, l, f =>
    match mergeStep s c with
    | some (c1, t, g) => mergeFlush s n c1 (l ++ t.toList) (f ||| g)
    | none => mergeFlush s n (mergeMove s c) l f
/-- A merge unit emptied at the end of a rewire in a region that does not move (R373): its outputs, merged, wait at the gate of
their channel. In a region that moves it is empty. -/
def mergeEmptied (s : State) (k : Nat) (c : Clone) : State × Clone :=
  if mergeEmpty s c then (s, c)
  else
    let outs := c.copies.foldl (fun m n => mapPut m n ((mapGet m n []).map (fun o => (o.1, 0, o.2.2))
      ++ (outPortOf s (tileEp n c.outPort)).outq.filterMap fun o => o.tok.map fun t => (o.ord, 0, t))) c.outs
    let s1 := c.copies.foldl (fun x n => setOutPort x (tileEp n c.outPort) { outPortOf x (tileEp n c.outPort) with outq := [] }) s
    let (c1, l, f) := mergeFlush s1 128 { c with outs := outs } [] raiseNone
    let s2 := modRgn (mergeRaise s1 c1 f) k fun r => putClone r c1
    (match chanOf s2 c.outch with
     | some x => setChan s2 c.outch { x with gateq := x.gateq ++ l }
     | none => s2, c1)

/-! ### Steps 3 to 5 (R371) -/

/-- The consumers that were detached attached again, on a channel that a rewire has rewired (R50): they ask afresh. -/
def reattach (s : State) (id : Nat) : State :=
  match chanOf s id with
  | none => s
  | some c =>
    let s1 := setChan s id { c with cons := c.cons.map fun x => if x.attached then x else { x with attached := true, pend := 0, reqs := [], stall := 0 } }
    c.cons.foldl (fun x n => if n.attached then x else setInPort x n.ep { inPortOf x n.ep with o := 0 }) s1
/-- The channels that a rewire of an operator rewires: those of its ports. -/
def opChans (r : Region) (op : Nat) : List Nat := (opIns r op).map (fun x => x.2.1) ++ (opOuts r op).map (·.2)
/-- The end of a rewire: the version rises, the descriptor is written, the gate opens. The region's next plan is armed, and its
gate closes at once where its cut has come (R383). -/
def openGate (s0 : State) (k chan : Nat) : State :=
  let s := match rgnOf s0 k with
    | some r => (match r.rewire with
        | some w => (opChans r w.plan.op).foldl reattach s0
        | none => s0)
    | none => s0
  let s1 := modRgn s k fun r =>
    { r with version := r.version + 1, rewire := none,
             plans := if (r.rewire.bind fun w => w.plan.cut).isSome then r.plans.drop 1 else r.plans }
  gating (planArm (gateOpens (writeDesc s1 k) k chan) k) k
/-- The rewire of a region whose step 3 has written everything, of the kinds that `p` admits: the merge unit of its operator is empty,
but in a region that does not move and completes its rewire all the same (R373); the releases that end it wait for the
clock (R321). -/
def rewireReady (s : State) (k : Nat) (r : Region) (p : Nat → Bool) : Option Rewire :=
  match r.rewire with
  | some w =>
    if w.step == 3 && p w.plan.action && decide (w.start ≤ s.cyc) && clockRooms (partOf s r.part) r.holder 2
        && ((opClone r w.plan.op).all (mergeEmpty s) || !rgnMoves s (some k)) then some w
    else none
  | none => none
/-- UNGATE (R371 steps 3 to 5) of a clone, a fold or an unfold. -/
def execUngate (rgn : Nat) (s : State) : Host.Outcome State Fault Refusal :=
  match rgnOf s rgn with
  | none => .next s
  | some r =>
    match rewireReady s rgn r (· != 2) with
    | none => .next s
    | some w =>
      let s1 := match w.plan.action with
        | 1 =>
          let s0 := match opClone r w.plan.op with
            | some c => (mergeEmptied s rgn c).1
            | none => s
          placeClone s0 rgn ((rgnOf s0 rgn).getD r) w.plan.op w.plan.target
        | 3 =>
          (match (foldIdx r w.plan).bind fun n => (r.img.folds[n]?).map fun v => (n, v) with
           | some (n, v) => applyFold s rgn n v
           | none => s)
        | _ =>
          (match foldOf r w.plan.op with
           | some (f, v) => undoFold s rgn f v
           | none => s)
      .next (openGate s1 rgn w.chan)
/-- RETIREMENT (R368). -/
def execRetirement (rgn : Nat) (s : State) : Host.Outcome State Fault Refusal :=
  match rgnOf s rgn with
  | none => .next s
  | some r =>
    match rewireReady s rgn r (· == 2) with
    | none => .next s
    | some w =>
      match opClone r w.plan.op with
      | some c =>
        let x := mergeEmptied s rgn c
        .next (openGate (retireClones x.1 rgn x.2) rgn w.chan)
      | none => .next s

end Sys2Proof.Machine
end

