-- ==== Sys2Proof/Machine/Drain.lean ====
section
/-! DEFINITION. Draining a region (R376, R421): sources, elements, the lull, stops and the STOP record (R422). -/
namespace Sys2Proof.Machine

/-! ### Sources (R376) -/

/-- DRAIN. -/
def drainTok : Token := ⟨.drain, 0, 0⟩
/-- Whether a memory tile is a FIFO fed from outside its region: a gateway with a channel at port 1. -/
def gateIn (s : State) (m : Nat) : Bool := (mtileOf s m).role.getLsbD 59 && (outPortOf s (mtEp m 1)).chan.isSome
/-- Tokens that a read walk passes before DRAIN: its current one for a DRAIN_SAVE (R376), complete or begun; k for a step or a halt
(R421). -/
def agtLeft (a : Agt) (d : Drain) : Nat := if d.kind = 0 then (!a.out1.isEmpty || a.npart != 0).toNat else d.k
/-- A drain begun: what each source still passes. -/
def drainBegin (s : State) (k : Nat) (d : Drain) : State :=
  let l := ((rgnMTiles s k).filter (gateIn s)).foldl (fun m t => mapPut m (mtEp t 0) d.k) []
  let s1 := (rgnAgts s k).foldl (fun x n =>
    let a := agtOf x n
    if agtDir a then x else setAgt x n { a with leftTok := some (agtLeft a d) }) s
  modRgn s1 k fun r => { r with drain := some { d with left := mapPut (mapPut l argProd d.k) indexProd d.k } }
/-- The passage to the next cycle of a region whose drain has just been asked for. -/
def drainTick (s : State) (k : Nat) : State :=
  match (rgnOf s k).bind (·.drain) with
  | some d => if d.left.isEmpty then drainBegin s k d else s
  | none => s

/-! ### Elements (R376) -/

/-- The elements of a region that take part in a drain, by endpoint with PORT 0; a source port by its PROD. -/
def drainElems (s : State) (r : Region) : List Nat :=
  let l := r.chans.flatMap fun id => match chanOf s id with
    | some c => (if isSource c.prod then c.prod else c.prod / 16 * 16) :: c.cons.map fun x => x.ep / 16 * 16
    | none => []
  l.eraseDups
/-- Whether every input port of an element that holds it back has DRAIN at its head: those of channels without a delay
line. -/
def drainHeld (s : State) (e : Nat) : Bool :=
  s.inPorts.all fun (ep, p) => ep / 16 * 16 != e || (match p.chan.bind (chanOf s) with
    | some c => decide (1 ≤ c.d) || (match p.queue with | (_, t) :: _ => t.kind == .drain | [] => false)
    | none => true)
/-- Whether no output port of an element has a token in line, but, for a stop, those that operations accepted by other engines
still owe: they do not prevent a lull (R62, R421). -/
def outsPassed (s : State) (d : Drain) (e : Nat) : Bool :=
  s.outPorts.all fun (ep, p) => ep / 16 * 16 != e || p.outq.all fun o => d.kind != 0 && o.tok.isNone
/-- Whether a source port has no token left to pass. -/
def sourceEmpty (r : Region) (prod : Nat) : Bool :=
  if prod = argProd then r.argTok.isNone
  else match r.feed with
    | none => true
    | some f => !f.lead && f.next == f.total && f.marked
/-- Whether an element of a draining region is drained now. -/
def elemDrained (s : State) (r : Region) (d : Drain) (e : Nat) : Bool :=
  if d.gone.contains e || d.left.isEmpty then false
  else if isSource e then mapGet d.left e 0 == 0 || sourceEmpty r e
  else drainHeld s e && outsPassed s d e && (match epEk e with
    | 0 =>
      let t := tileOf s (epTile e)
      !t.stopped && t.jobs.all (fun j => jobAccepted j && (d.kind != 0 || (!dstReg j.da && !dstReg j.db))) && !couldFire s (epTile e) && !slotWaits s (epTile e)
    | 1 =>
      let m := mtileOf s (epMt e)
      (m.fifo.isEmpty || m.role.getLsbD 59) && (match mapFind d.left e with
        | some n => n == 0 || m.fifo.isEmpty
        | none => true)
    | 2 =>
      let a := agtOf s (epAgt e)
      (a.st == .stalled || (a.npart == 0 && a.taken == 0)) && a.out3.isEmpty && !(a.handTok && agtHasOut s (epAgt e) 4)
        && (a.st != .run && a.out1.isEmpty || agtDir a || (match a.leftTok with | some n => n == 0 | none => false))
    | _ => true)
/-- DRAIN written on every output port of an element, before the tokens that are still owed there. -/
def drainOuts (s : State) (e : Nat) : State :=
  (s.outPorts.filter fun x => x.1 / 16 * 16 == e && x.2.chan.isSome).foldl (fun x p =>
    setOutPort x p.1 { outPortOf x p.1 with outq := ⟨0, some drainTok, outOrdOf x p.1 0⟩ :: (outPortOf x p.1).outq }) s
/-- The element stops. A gateway consumes DRAIN (R412). -/
def elemStop (s : State) (e : Nat) : State :=
  match epEk e with
  | 0 => modTile s (epTile e) fun t => { t with drained := true }
  | 1 =>
    let p := inPortOf s (mtEp (epMt e) 0)
    if (mtileOf s (epMt e)).role.getLsbD 59 && p.chan.isSome then setInPort s (mtEp (epMt e) 0) { p with queue := p.queue.drop 1 } else s
  | 2 => setAgt s (epAgt e) { agtOf s (epAgt e) with frozen := true }
  | _ => s
/-- The region that an ELEMENT_DRAINED names: `elem` is an element's endpoint, or PROD + 2^20 * (region key + 1) of a source
port. -/
def drainRgn (s : State) (elem : Nat) : Option Nat :=
  if 2 ^ 20 ≤ elem then some (elem / 2 ^ 20 - 1)
  else match epEk elem with
    | 1 => (mtileOf s (epMt elem)).rgn
    | 2 => (agtOf s (epAgt elem)).rgn
    | _ => (tileOf s (epTile elem)).rgn
/-- Whether an element is drained now, with its region and its drain. -/
def drainNow (s : State) (elem : Nat) : Option (Nat × Region × Drain) :=
  (drainRgn s elem).bind fun k => (rgnOf s k).bind fun r => r.drain.bind fun d =>
    if rgnMoves s (some k) && (drainElems s r).contains (elem % 2 ^ 20) && elemDrained s r d (elem % 2 ^ 20) then some (k, r, d) else none
/-- ELEMENT_DRAINED (R376). -/
def execElementDrained (elem : Nat) (s : State) : Host.Outcome State Fault Refusal :=
  match drainNow s elem with
  | none => .next s
  | some (k, r, d) =>
    let e := elem % 2 ^ 20
    let s1 := modRgn s k fun r => { r with drain := some { d with gone := d.gone ++ [e] } }
    if isSource e then
      match if e = argProd then r.arg else r.idx with
      | some c => .next (enterChan s1 c e 0 drainTok)
      | none => .next s1
    else .next (elemStop (drainOuts s1 e) e)

/-! ### The end of a drain -/

/-- Whether DRAIN has left every exit port of a region, and nothing of it is on its way. -/
def drainDone (s : State) (k : Nat) (r : Region) (d : Drain) : Bool :=
  !d.left.isEmpty && (drainElems s r).all d.gone.contains
    && r.chans.all (fun id => match chanOf s id with
        | some c => c.gateq.all (fun t => t.kind == .drain) && c.steer.all (fun u => u.2.all fun t => t.kind == .drain)
            && c.cons.all (fun x => x.reqs.isEmpty && x.toks.isEmpty)
        | none => true)
    && (rgnTiles s k).all (fun n => (tileOf s n).jobs.all jobAccepted) && !cmdsWait s k
/-- Whether the operations that a region has issued to other engines have reported (R25, R376). -/
def opsReported (s : State) (k : Nat) : Bool :=
  !s.accs.any (fun a => agentOf s k a.agent && !a.done) && (rgnTiles s k).all (fun n => (tileOf s n).jobs.isEmpty)
    && (rgnBtes s k).all (fun n =>
      let c := bteOf s (n / 16) (n % 16)
      c.q.isEmpty && c.run.isNone && c.rep.isEmpty && decide (c.tail ≤ c.taken))
    && !s.futOps.any (fun o => (tileOf s o.tile).rgn == some k && o.src.isNone)
    && !s.arrivals.any fun a => (tileOf s a.tile).rgn == some k
/-- A queue without DRAIN. -/
def noDrain (l : List Token) : List Token := l.filter fun t => t.kind != .drain
/-- A channel without DRAIN; requests begin afresh where `fresh` (R421). -/
def chanUndrain (fresh : Bool) (c : Chan) : Chan :=
  let one := fun x : Cons =>
    let y := { x with toks := x.toks.filter fun t => t.2.kind != .drain }
    if fresh then { y with pend := 0, reqs := [], stall := 0 } else y
  { c with gateq := noDrain c.gateq, steer := c.steer.map fun u => (u.1, noDrain u.2), cons := c.cons.map one }
/-- DRAIN removed from a region, its drain over: elements no longer hold it (R376). Where `fresh`, each input port applies
R47 afresh. -/
def undrain (s : State) (k : Nat) (fresh : Bool) : State :=
  match rgnOf s k with
  | none => s
  | some r =>
    let s1 := r.chans.foldl (fun x id => match chanOf x id with
      | some c =>
        let x1 := setChan x id (chanUndrain fresh c)
        c.cons.foldl (fun y n =>
          let p := inPortOf y n.ep
          setInPort y n.ep { p with queue := p.queue.filter fun t => t.2.kind != .drain, o := if fresh then 0 else p.o }) x1
      | none => x) s
    let s2 := { s1 with outPorts := s1.outPorts.map fun (e, p) =>
      (e, if p.chan.any r.chans.contains then
            { p with outq := p.outq.filter fun o => match o.tok with | some t => t.kind != .drain | none => true } else p) }
    let s3 := (rgnTiles s2 k).foldl (fun x n => modTile x n fun t => { t with drained := false }) s2
    let s4 := (rgnAgts s3 k).foldl (fun x n => setAgt x n { agtOf x n with leftTok := none, frozen := false }) s3
    modRgn s4 k fun r => { r with drain := none, clones := r.clones.map fun c =>
      { c with outs := c.outs.map fun e => (e.1, e.2.filter fun x => x.2.2.kind != .drain) } }
/-- A region's elements stopped at once; it is FROZEN (R374). -/
def stopNow (s : State) (k : Nat) : State :=
  let s1 := (rgnTiles s k).foldl (fun x n => modTile x n fun t => { t with stopped := true }) s
  modRgn s1 k fun r => { r with st := .frozen }
/-- The STOP record (R422). -/
def stopRec (s : State) (r : Region) (d : Drain) (status : Nat) : BitVec 512 :=
  recOf [(0, 2, 0xB2), (2, 2, r.version.toNat), (4, 4, r.id), (8, 4, d.elem), (12, 2, d.cause), (14, 2, status),
    (16, 8, d.value.toNat), (56, 8, s.cyc)]
/-- The STOP record written to the management queue and placed in DBGVAL; a HALT or STEP that waits for it is done (R422,
R426). -/
def reportStop (s : State) (k : Nat) (r : Region) (d : Drain) (status : Nat) : State :=
  let x := stopRec s r d status
  modHost (mgmtRecord s (.ctl (rgnDie r)) x) fun h =>
    if h.dbgHold == some k then { h with dbgVal := x, dbgHold := none, dbgDone := true, dbgStatus := 0 } else { h with dbgVal := x }
/-- Whether a stop of a region ends now, with its status: at the lull, or because an element has trapped (R421). -/
def stopEnds (s : State) (k : Nat) (r : Region) : Option (Drain × Nat) :=
  r.drain.bind fun d =>
    if d.kind = 0 then none
    else if r.st = .frozen then some (d, 0x135)
    else if rgnMoves s (some k) && drainDone s k r d then some (d, 0) else none
/-- STOP (R421, R422). -/
def execStop (rgn : Nat) (s : State) : Host.Outcome State Fault Refusal :=
  match rgnOf s rgn with
  | none => .next s
  | some r =>
    match stopEnds s rgn r with
    | none => .next s
    | some (d, st) =>
      if st = 0 then .next (reportStop (stopNow (undrain s rgn true) rgn) rgn r d st)
      else .next (reportStop (undrain s rgn false) rgn r d st)
/-- Whether a drain of a region has lasted DLIM * 64 cycles. -/
def drainLate (s : State) (r : Region) (save : Bool) : Option Drain :=
  r.drain.bind fun d =>
    if (d.kind == 0) == save && ((decide (d.start + polDlim r.policy ≤ s.cyc) && r.st == .live) || (save && r.st == .frozen)) then some d
    else none
/-- STEP_TIMEOUT (R421): the region is stopped as R162 step 4 gives. -/
def execStepTimeout (rgn : Nat) (s : State) : Host.Outcome State Fault Refusal :=
  match rgnOf s rgn with
  | none => .next s
  | some r =>
    match drainLate s r false with
    | none => .next s
    | some d => .next (reportStop (stopNow (undrain s rgn false) rgn) rgn r d 0x132)
/-- The slot breakpoint of a region that has reached its count. -/
def brkHit (r : Region) (i : Nat) : Option Nat := (mapFind r.brks i).bind fun b => if b.left = 0 then b.hit else none
/-- SLOT_BREAKPOINT (R424). -/
def execSlotBreakpoint (rgn brk : Nat) (s : State) : Host.Outcome State Fault Refusal :=
  match (rgnOf s rgn).bind fun r => brkHit r brk with
  | none => .next s
  | some e => .next (startHalt (modRgn s rgn fun r => { r with brks := mapDel r.brks brk }) rgn 2 (BitVec.ofNat 64 brk) e)

end Sys2Proof.Machine
end

