-- ==== Sys2Proof/Machine/Checks.lean ====
section
/-! DEFINITION. The checks of a configuration's words (R103, R104): instruction, trigger and literal of every slot, channels,
switch elements, memory tiles, walkers, block-transfer channels, sinks, folds and the policy word. -/
namespace Sys2Proof.Machine

/-! ### The instruction word (R87 to R90, R102) -/

/-- A failed field of a slot: word type (0 trigger, 1 instruction, 2 literal), low bit, width, status. -/
structure FieldErr where
  wt : Nat
  lo : Nat
  width : Nat
  st : Nat
  deriving DecidableEq, Repr
/-- A field of the instruction word refused under a condition. -/
def iErr (c : Bool) (lo width st : Nat) : List FieldErr := if c then [⟨1, lo, width, st⟩] else []
/-- A field of the trigger word refused under a condition. -/
def tErr (c : Bool) (lo width st : Nat) : List FieldErr := if c then [⟨0, lo, width, st⟩] else []
/-- A field of the literal refused under a condition. -/
def lErr (c : Bool) (lo width st : Nat) : List FieldErr := if c then [⟨2, lo, width, st⟩] else []
/-- Whether a source select is reserved on its plane (R88). -/
def srcReserved (data : Bool) (c : Nat) : Bool := if data then c == 15 || decide (18 ≤ c) else decide (26 ≤ c)
/-- Whether a destination select is reserved on its plane (R89). -/
def dstReserved (data : Bool) (c : Nat) : Bool := data && c == 15
/-- Whether an instruction takes a spec from its literal, so that A and B may not read LIT (R299, R394, R400). -/
def litBarred (i : Instr) : Bool :=
  opcodeGroup i == 12 || (match i with
    | .xdDispatch _ _ _ _ _ => true
    | .xdLoad _ _ _ _ => true
    | .xdTab _ _ _ _ => true
    | .xdVer _ _ _ _ => true
    | _ => false)
where
  /-- The group of the instruction's opcode. -/
  opcodeGroup (i : Instr) : Nat := ((fields i).map fun f => f.op.toNat / 64).getD 0
/-- Failed fields of an instruction's operands that need no more than the word itself (R88 to R92, R143, R150, R173, R202,
R206, R299). DB equal to DA names no further destination, so that field is refused once (DEDUCED: R89, R90). DA = 15 of a
data-plane instruction that reads DA fails twice: its reserved code comes before its breach of R173 (DESIGN CHOICE, log 114: R105
gives no order for two failures of one field). -/
def instrErrs (i : Instr) : List FieldErr :=
  let n := info i
  let f := opnds i
  let a := f.a.toNat
  let b := f.b.toNat
  let d := f.d.toNat
  let e := f.e.toNat
  iErr (n.ua && srcReserved n.pa a) 17 5 stReserved
    ++ iErr (n.ua && n.aPort && decide (6 ≤ a)) 17 5 stOperand
    ++ iErr (n.ua && n.aQ && a != 14 && a != 15) 17 5 stOperand
    ++ iErr (n.ua && a == 16 && litBarred i) 17 5 stOperand
    ++ iErr (n.ub && srcReserved n.pb b) 12 5 stReserved
    ++ iErr (n.ub && b == 16 && litBarred i) 12 5 stOperand
    ++ iErr (n.dst != .none && dstReserved n.pd d) 8 4 stReserved
    ++ iErr (n.dst != .none && e != d && dstReserved n.pd e) 4 4 stReserved
    ++ iErr ((n.dst == .outs || n.dst == .done || n.dst == .out1) && decide (6 ≤ d)) 8 4 stOperand
    ++ iErr (n.dst == .out1 && d == 5) 8 4 stOperand
    ++ iErr ((n.dst == .outs || n.dst == .done) && e != d && decide (6 ≤ e)) 4 4 stOperand
    ++ iErr ((n.dst == .one || n.dst == .out1) && e != d) 4 4 stOperand
    ++ (match i with
        | .accRd _ _ _ _ => []
        | _ => iErr (n.dst == .pair && d == e && d != 5) 4 4 stOperand)
    ++ (match i with
        | .fma _ _ _ _ _ _ => iErr (decide (d < 6) || decide (14 ≤ d)) 8 4 stOperand
        | .fms _ _ _ _ _ _ => iErr (decide (d < 6) || decide (14 ≤ d)) 8 4 stOperand
        | .fnma _ _ _ _ _ _ => iErr (decide (d < 6) || decide (14 ≤ d)) 8 4 stOperand
        | .amoCas _ _ _ _ _ _ => iErr (decide (d < 6) || decide (14 ≤ d)) 8 4 stOperand
        | .mmaSpBf16 _ _ _ _ _ => iErr (decide (5 ≤ d)) 8 4 stOperand
        | .mmaSpCb4 _ _ _ _ _ => iErr (decide (5 ≤ d)) 8 4 stOperand
        | _ => [])
    ++ iErr (decide (12 ≤ f.t.toNat)) 0 4 stReserved

/-- The instruction word with its operand fields at the values of unused fields (R90). -/
def plainWord (w : BitVec 32) : BitVec 32 := (w &&& 0xFFC0000F) ||| 0x00231550
/-- The instruction word with the fields that its instruction uses, and the others at the values of unused fields. -/
def looseWord (w : BitVec 32) (n : Info) : BitVec 32 :=
  let m : BitVec 32 := 0xFFC0000F ||| (if n.ua then 0x003E0000 else 0) ||| (if n.ub then 0x0001F000 else 0)
    ||| (if n.dst == .none then 0 else 0x00000FF0)
  (w &&& m) ||| (0x00231550 &&& ~~~m)
/-- The instruction of a word whose opcode is assigned, whatever its unused fields hold. -/
def looseInstr (w : BitVec 32) : Option Instr :=
  match decodeWord w with
  | .ok i => some i
  | .error _ =>
    match decodeWord (plainWord w) with
    | .error _ => none
    | .ok i => match decodeWord (looseWord w (info i)) with | .ok j => some j | .error _ => none
/-- Failed fields of an instruction word: an unassigned opcode and a reserved tag action beside it, or unused fields that hold
another value than R90 requires and the failed fields of its operands. -/
def wordErrs (w : BitVec 32) : List FieldErr :=
  match looseInstr w with
  | none => iErr true 22 10 stReserved ++ iErr (decide (12 ≤ (w.extractLsb' 0 4).toNat)) 0 4 stReserved
  | some i =>
    let n := info i
    iErr (!n.ua && fA w != 17) 17 5 stOperand ++ iErr (!n.ub && fB w != 17) 12 5 stOperand
      ++ iErr (n.dst == .none && fD w != 5) 8 4 stOperand ++ iErr (n.dst == .none && fE w != 5) 4 4 stOperand
      ++ instrErrs i

/-! ### The trigger word (R86) -/

/-- Failed fields of a trigger word that need no more than the slot itself. -/
def trigErrs (x : Slot) (i : Option Instr) : List FieldErr :=
  let t := x.trig
  if !trV t then tErr (t != 0) 1 31 stTrigger ++ iErr (x.word != 0) 0 32 stTrigger
  else
    let c := trTch t
    tErr (decide (c ≤ 5) && !trIrdy t c) 18 3 stTrigger
      ++ tErr (decide (6 ≤ c) && trSte t) 17 1 stTrigger
      ++ tErr (decide (6 ≤ c) && trStv t != 0) 15 2 stTrigger
      ++ tErr (decide (6 ≤ c) && trKind t != 0) 13 2 stTrigger
      ++ tErr (trPop t == 3 && (match i with | some i => !(info i).flag | none => false)) 1 2 stTrigger
      ++ (match i with
          | some i =>
            let n := info i
            let f := opnds i
            let side := fun (u : Bool) (data : Bool) (a : Nat) => u && !data && decide (18 ≤ a) && decide (a ≤ 20) && c == 7
            let task := fun (u : Bool) (data : Bool) (a : Nat) => u && !data && (a == 24 || a == 25) && c != 6
            iErr (side n.ua n.pa f.a.toNat || task n.ua n.pa f.a.toNat) 17 5 stOperand
              ++ iErr (side n.ub n.pb f.b.toNat || task n.ub n.pb f.b.toNat) 12 5 stOperand
              ++ (match i with
                  | .accRd a _ _ _ => iErr (a != 17 && (a.toNat != c || decide (6 ≤ c))) 17 5 stOperand
                  | .retag a _ _ => iErr (decide (a.toNat < 6) && !trIrdy t a.toNat) 17 5 stOperand
                  | .retagD a _ _ => iErr (decide (a.toNat < 6) && !trIrdy t a.toNat) 17 5 stOperand
                  | .posReset a _ => iErr (decide (a.toNat < 6) && !trIrdy t a.toNat) 17 5 stOperand
                  | .posResetD a _ => iErr (decide (a.toNat < 6) && !trIrdy t a.toNat) 17 5 stOperand
                  | _ => [])
          | none => [])

/-! ### The literal -/

/-- The fields that an instruction's literal defines, lowest first as (low, high), where any other set bit is refused, and the
status of that refusal; an empty field (n, n − 1) parts two reserved fields at bit n. -/
def litFields (i : Instr) : Option (Nat × List (Nat × Nat)) :=
  let mma := [(0, 6), (8, 8), (9, 9), (10, 10)]
  let ch := [(24, 27)]
  match i with
  | .dlGet _ _ _ _ | .dlPut _ _ _ | .dlGetD _ _ _ _ | .dlPutD _ _ _ => some (stRange, [(0, 2)])
  | .mmaBf16 _ _ _ _ | .mmaF32 _ _ _ _ | .mmaF64 _ _ _ _ | .mmaCb4 _ _ _ _ =>
    some (stReserved, mma ++ [(12, 11), (16, 15)])
  | .mmaSpBf16 _ _ _ _ _ | .mmaSpCb4 _ _ _ _ _ => some (stReserved, mma ++ [(12, 15)])
  | .mpl _ _ _ _ => some (stReserved, [(0, 4), (8, 8), (9, 9)])
  | .mcb _ _ _ _ _ => some (stReserved, [])
  | .accZero _ _ _ => some (stReserved, [(0, 6), (8, 14)])
  | .accWr _ _ _ _ => some (stReserved, [(0, 6), (8, 8), (9, 9)])
  | .accCp _ _ _ => some (stReserved, [(0, 6), (8, 14), (16, 16)])
  | .accRd _ _ _ _ => some (stReserved, mma)
  | .sacc _ _ _ _ _ => some (stReserved, [(0, 6), (8, 14), (16, 16)])
  | .ringBind _ => some (stReserved, [(0, 2), (8, 26), (27, 30)])
  | .ringWaitf _ _ _ | .ringWaite _ _ _ | .ringAdvp _ | .ringAdvc _ => some (stReserved, [(0, 2), (8, 14)])
  | .agtDim _ _ _ _ _ => some (stRange, [(0, 2)])
  | .agtCfg _ _ _ _ => some (stRange, [(0, 2), (8, 8)])
  | .ld _ _ _ _ | .ldAcq _ _ _ _ _ | .amoMin _ _ _ _ _ _ | .amoMax _ _ _ _ _ _ => some (stReserved, [(0, 1), (4, 4)])
  | .st _ _ _ | .stRel _ _ _ _ | .amoAdd _ _ _ _ _ _ | .amoFadd _ _ _ _ _ _ | .amoAnd _ _ _ _ _ _ | .amoOr _ _ _ _ _ _
  | .amoXor _ _ _ _ _ _ | .amoExch _ _ _ _ _ _ | .amoCas _ _ _ _ _ _ => some (stReserved, [(0, 1)])
  | .fence _ _ => some (stReserved, [])
  | .bteCopy _ _ _ _ _ => some (stReserved, [(0, 23), (24, 27), (28, 28)])
  | .bteCopyMx _ _ _ _ _ => some (stReserved, [(0, 23), (24, 27), (28, 28), (32, 43)])
  | .bteAppend _ _ _ _ | .bteTail _ _ | .bteProm _ _ _ _ | .bteSeq _ _ _ _ | .bteStat _ _ _ => some (stReserved, ch)
  | .sleepUntil a _ => if a = 16 then none else some (stReserved, [])
  | .tsend _ _ _ => some (stReserved, [(0, 6), (7, 25), (27, 29), (30, 30), (31, 31)])
  | .hbind _ => some (stReserved, [(0, 6), (8, 13), (16, 17)])
  | .hunbind _ => some (stReserved, [(0, 6)])
  | .launch _ _ _ _ | .launchTry _ _ _ _ => some (stReserved, [])
  | .futNew _ _ _ => some (stReserved, [(0, 7)])
  | .futRd _ _ _ _ => some (stReserved, [(0, 0)])
  | .futReg _ b _ _ _ => if b = 16 then none else some (stReserved, [])
  | .futRes _ b _ => if b = 16 then none else some (stReserved, [])
  | .futFault _ b _ => if b = 16 then none else some (stReserved, [])
  | .futWait _ _ _ _ => some (stReserved, [])
  | .join _ _ _ _ | .leave _ _ | .grpNew _ _ _ | .grpSize _ _ _ _ => some (stReserved, [])
  | .barrier _ b _ _ _ => some (stReserved, if b = 17 then [] else [(36, 55)])
  | .reduce _ _ _ _ _ => some (stReserved, [(2, 3), (4, 5), (20, 35), (36, 55)])
  | .allreduce _ _ _ _ _ => some (stReserved, [(2, 3), (4, 5), (36, 55)])
  | .bcast _ _ _ _ _ => some (stReserved, [(20, 35), (36, 55)])
  | .xdDispatch _ _ _ _ _ => some (stReserved, [(0, 5)])
  | .xdLoad _ _ _ _ => some (stReserved, [(0, 5), (8, 8)])
  | .xdTab _ _ _ _ => some (stReserved, [(0, 5), (8, 11), (12, 13)])
  | .xdVer _ _ _ _ => some (stReserved, [(0, 5), (8, 9)])
  | .xdStat _ _ _ => some (stReserved, [])
  | .raceGen _ _ _ _ => some (stReserved, [(0, 1), (8, 8)])
  | _ => none
/-- The gaps below 64 that a list of fields leaves from a bit on, as (low, width). -/
def gapsFrom (lo : Nat) : List (Nat × Nat) → List (Nat × Nat)
  | [] => if lo < 64 then [(lo, 64 - lo)] else []
  | (a, b) :: t => (if lo < a then [(lo, a - lo)] else []) ++ gapsFrom (b + 1) t
/-- Failed fields of a literal that need no more than the slot itself. -/
def litErrs (i : Instr) (tch : Nat) (lit : W64) : List FieldErr :=
  (match litFields i with
   | some (st, l) => ((gapsFrom 0 l).filter fun g => fld lit (g.1 + g.2 - 1) g.1 != 0).map fun g => ⟨2, g.1, g.2, st⟩
   | none => [])
    ++ (match i with
        | .dlGet _ _ _ _ | .dlPut _ _ _ | .dlGetD _ _ _ _ | .dlPutD _ _ _ => lErr (decide (5 ≤ fld lit 2 0)) 0 3 stOperand
        | .mmaBf16 _ _ _ _ | .mmaF32 _ _ _ _ | .mmaF64 _ _ _ _ | .mmaCb4 _ _ _ _ | .mmaSpCb4 _ _ _ _ _ | .mpl _ _ _ _
        | .accWr _ _ _ _ => lErr (lit.getLsbD 9 && decide (6 ≤ tch)) 9 1 stOperand
        | .mmaSpBf16 _ _ _ _ _ => lErr (lit.getLsbD 9 && decide (6 ≤ tch)) 9 1 stOperand ++ lErr (fld lit 6 0 % 2 == 1) 0 7 stRange
        | .accZero _ _ _ => lErr (decide (128 < fld lit 6 0 + fld lit 14 8 + 1)) 8 7 stRange
        | .accRd _ d e _ => lErr (lit.getLsbD 9 && decide (6 ≤ tch)) 9 1 stOperand ++ lErr (d != e && lit.getLsbD 8) 8 1 stReserved
        | .sacc _ _ _ _ _ => lErr (fld lit 6 0 == fld lit 14 8) 8 7 stRange
        | .amoAdd _ _ _ _ _ _ | .amoFadd _ _ _ _ _ _ | .amoMin _ _ _ _ _ _ | .amoMax _ _ _ _ _ _ | .amoAnd _ _ _ _ _ _
        | .amoOr _ _ _ _ _ _ | .amoXor _ _ _ _ _ _ | .amoExch _ _ _ _ _ _ | .amoCas _ _ _ _ _ _ =>
          lErr (decide (fld lit 1 0 ≤ 1)) 0 2 stRange
        | .tsend _ b _ =>
          lErr (lit.getLsbD 30 && fld lit 6 0 != 0) 0 7 stReserved ++ lErr (lit.getLsbD 30 && fld lit 25 7 != 0) 7 19 stReserved
            ++ iErr (!lit.getLsbD 31 && b != 17) 12 5 stOperand
        | .futNew _ _ _ => lErr (fld lit 7 0 == 0) 0 8 stRange
        | .reduce _ _ _ _ _ | .allreduce _ _ _ _ _ =>
          lErr (fld lit 3 2 == 3) 2 2 stReserved
            ++ lErr ((fld lit 55 36 + 1) % (if fld lit 5 4 = 0 then 4 else 8) != 0) 36 20 stRange
        | .xdTab _ _ _ _ => lErr (fld lit 13 12 == 3) 12 2 stReserved
        | .xdVer a _ _ _ => lErr (fld lit 9 8 == 3) 8 2 stReserved ++ iErr (fld lit 9 8 == 1 && a != 17) 17 5 stOperand
        | _ => [])

/-! ### A slot in its place: ports, channels, engines -/

/-- The plane of the channel that an input port consumes from, if it belongs to one. -/
def inPlane (chs : List ChRec) (tile i : Nat) : Option Bool :=
  (chs.find? fun c => c.cons.any fun x => fld x 18 0 == tileEp tile i).map fun c => c.hdr.getLsbD 62
/-- The channel that an output port produces for. -/
def outRec (chs : List ChRec) (tile j : Nat) : Option ChRec := chs.find? fun c => fld c.hdr 18 0 == tileEp tile j
/-- A port that belongs to no channel, or to one of another plane, in an operand's field. -/
def portErr (p : Option Bool) (plane : Bool) (lo width : Nat) : List FieldErr :=
  match p with
  | none => [⟨1, lo, width, stOperand⟩]
  | some q => iErr (q != plane) lo width stPlane
/-- The endpoint of a channel's only consumer. -/
def soleCons (c : ChRec) : Option Nat := match c.cons with | [x] => some (fld x 18 0) | _ => none
/-- Failed fields of a slot that depend on the configuration it stands in. -/
def placeErrs (img : Image) (chs : List ChRec) (tile : Nat) (x : Slot) (i : Instr) : List FieldErr :=
  let n := info i
  let f := opnds i
  let src := fun (u data : Bool) (c : BitVec 5) (lo : Nat) =>
    if u && decide (c.toNat < 6) then portErr (inPlane chs tile c.toNat) data lo 5 else []
  let dst := fun (c : BitVec 4) (lo : Nat) =>
    if n.dst != .none && decide (c.toNat < 5) then portErr ((outRec chs tile c.toNat).map fun c => c.hdr.getLsbD 62) n.pd lo 4 else []
  let line := fun (data : Bool) =>
    let ok := match outRec chs tile (fld x.lit 2 0) with
      | some c => decide (1 ≤ recD c.hdr) && c.hdr.getLsbD 62 == data
      | none => false
    lErr (decide (fld x.lit 2 0 ≤ 4) && !ok) 0 3 stOperand
  let goesTo := fun (d : BitVec 4) (ok : Nat → Bool) =>
    iErr (decide (d.toNat < 5) && !((outRec chs tile d.toNat).any fun c => (soleCons c).any ok)) 8 4 stOperand
  let cmd := fun (d : BitVec 4) => goesTo d fun e => epEk e == 2 && epPort e == 0
  let chan := fun (ok : W64 → Bool) =>
    let w := ((img.btes.find? fun b => btePlaceOf b.1 == tileCluster tile).bind fun b => b.2[fld x.lit 27 24]?).map (·.1)
    lErr (!(w.any fun w => w.getLsbD 63 && ok w)) 24 4 stOperand
  src n.ua n.pa f.a 17 ++ src n.ub n.pb f.b 12 ++ dst f.d 8 ++ (if f.e = f.d then [] else dst f.e 4)
    ++ (match i with
        | .dlGet _ _ _ _ | .dlPut _ _ _ => line false
        | .dlGetD _ _ _ _ | .dlPutD _ _ _ => line true
        | .swIdx _ _ d _ _ => goesTo d fun e => epEk e == 3 && epPort e == 8
        | .agtSet _ d _ _ | .agtBase _ d _ _ | .agtCfg _ d _ _ => cmd d
        | .agtDim _ _ d _ _ => cmd d
        | .agtGo d _ _ | .agtStop d _ _ | .agtHand d _ _ | .agtResume d _ _ | .agtStat d _ _ => cmd d
        | .ringBind _ =>
          let m := fld x.lit 26 8
          let ok := img.mts.any fun e => e.1 == m && (e.2.2.getD (fld x.lit 30 27) 0).getLsbD 63
          lErr (!ok) 8 19 stOperand
        | .bteCopy _ _ _ _ _ | .bteCopyMx _ _ _ _ _ => chan fun w => !w.getLsbD 62
        | .bteAppend _ _ _ _ | .bteTail _ _ => chan fun w => w.getLsbD 62
        | .bteProm _ _ _ _ | .bteSeq _ _ _ _ | .bteStat _ _ _ => chan fun _ => true
        | _ => [])
/-- Failed fields of a slot (R86, R88, R90, R101, R104). -/
def slotErrs (img : Image) (chs : List ChRec) (tile : Nat) (x : Slot) : List FieldErr :=
  let i := if trV x.trig then looseInstr x.word else none
  trigErrs x i
    ++ (if trV x.trig then
          tErr ((List.range 6).any fun p => trIrdy x.trig p && (inPlane chs tile p).isNone) 26 6 stTrigger
            ++ tErr ((List.range 5).any fun p => trOdem x.trig p && (outRec chs tile p).isNone) 21 5 stTrigger
            ++ wordErrs x.word
            ++ (match i with
                | some i => litErrs i (trTch x.trig) x.lit ++ placeErrs img chs tile x i
                | none => [])
        else [])
/-- The value of a slot's field. -/
def slotVal (x : Slot) (e : FieldErr) : Nat :=
  let w : W64 := match e.wt with | 0 => x.trig.setWidth 64 | 1 => x.word.setWidth 64 | _ => x.lit
  w.toNat / 2 ^ e.lo % 2 ^ e.width
/-- The failed fields of the slots of a PE or a context, as records. -/
def slotsErrs (img : Image) (chs : List ChRec) (tile : Nat) (ctx0 : Nat) (l : SMap Slot) : List CfgErr :=
  l.flatMap fun (n, x) => (slotErrs img chs tile x).map fun e =>
    { ep := tileEp tile 0, ctx := ctx0 + n / 64, idx := n % 64, wt := e.wt, lo := e.lo, width := e.width, val := slotVal x e, st := e.st }

/-! ### Endpoints (R93, R241) -/

/-- Whether a port can produce (`out`) or consume (R93, R230, R241); a switch element's ports follow its word, one whose V is 0
among them (DESIGN CHOICE, log 113: R97 does not say that a channel may not name one). A port of an entry beyond the AGT list is in
its range: `agtListed` refuses it. -/
def portOk (img : Image) (out : Bool) (e : Nat) : Bool :=
  let p := epPort e
  match epEk e with
  | 0 => decide (p < if out then 5 else 6)
  | 1 => decide (epEn e < 256) && (match img.mts.find? fun m => m.1 == e / 16 * 16 with
    | some m => if out then p == 1 || (p == 2 && m.2.1.getLsbD 59) else p == 0 || (p == 3 && m.2.1.getLsbD 59)
    | none => decide (p < 4))
  | 2 => (decide (epEn e < 64) || (decide (1024 ≤ epEn e) && decide (epEn e < 1280)))
    && (if out then p == 1 || p == 3 || p == 4 else p == 0 || p == 2 || p == 5)
  | _ => match img.pes.find? fun q => epTile q.ep == epTile e with
    | some q =>
      let m := fld q.sw 60 58 + 1
      if q.sw.getLsbD 61 then (if out then decide (p < m) else p == 8 || p == 9)
      else if out then p == 9 else p == 8 || decide (p < m)
    | none => decide (p < 10)
/-- The plane that a port's element requires of its channel, if it requires one (R97, R98, R241). -/
def portPlane (img : Image) (e : Nat) : Option Bool :=
  match epEk e with
  | 1 => (img.mts.find? fun m => m.1 == e / 16 * 16 && m.2.1.getLsbD 63 && fld m.2.1 62 61 == 1).map fun m => m.2.1.getLsbD 60
  | 2 => some (epPort e == 1 || epPort e == 2)
  | 3 => if epPort e = 8 then some false else (img.pes.find? fun q => epTile q.ep == epTile e).map fun q => q.sw.getLsbD 62
  | _ => none
/-- Whether an endpoint lies in the bounding box of a region at an origin; an AGT lies anywhere. -/
def inBox (img : Image) (r0 c0 e : Nat) : Bool :=
  match epEk e with
  | 2 => true
  | 1 =>
    let cr := (epDie e / 2 * 8 + epEn e % 256 / 2 / 16) * 4
    let cc := (epDie e % 2 * 16 + epEn e % 256 / 2 % 16) * 4
    decide (r0 ≤ cr) && decide (cr < r0 + img.rows) && decide (c0 ≤ cc) && decide (cc < c0 + img.cols)
  | _ => decide (r0 ≤ epPr e) && decide (epPr e < r0 + img.rows) && decide (c0 ≤ epPc e) && decide (epPc e < c0 + img.cols)
/-- The AGT table entry of a translated AGT endpoint. -/
def agtEnt (img : Image) (e : Nat) : Option (List W64) := (img.agts.find? fun a => a.1 == e / 16 * 16).map (·.2)
/-- Whether an AGT endpoint names an entry of the list in use (R243); one that is no entry of any list fails R93 alone. -/
def agtListed (img : Image) (e : Nat) : Bool := epEk e != 2 || epEn e == 2047 || ((agtEnt img e).any fun w => (w.getD 0 0).getLsbD 63)

/-! ### Channels (R94 to R96) -/

/-- A channel's own failed fields. Word types: 3 header, 4 consumer word. -/
def chanErrs (img : Image) (r0 c0 : Nat) (c : ChRec) : List CfgErr :=
  let h := c.hdr
  let p := fld h 18 0
  let hd := fun (b : Bool) (lo width st : Nat) =>
    if b then [{ ep := p, wt := 3, lo := lo, width := width, val := fld h (lo + width - 1) lo, st := st : CfgErr }] else []
  let src := isSource p
  hd (decide (2 ≤ fld h 61 60)) 60 2 stReserved
    ++ hd (fld h 61 60 == 1 && fld h 59 44 == 0) 44 16 stRange
    ++ hd (fld h 43 40 == 0 && fld h 61 60 != 0) 60 2 stRange
    ++ hd (fld h 43 40 == 0 && fld h 59 44 != 0) 44 16 stRange
    ++ hd (decide (16 < recD h)) 35 5 stRange
    ++ hd (if h.getLsbD 62 then decide (fld h 34 28 < 1) || decide (64 < fld h 34 28) else fld h 34 28 != 0) 28 7 stRange
    ++ hd (fld h 27 19 != 0) 19 9 stReserved
    ++ hd (!src && !(portOk img true p && inBox img r0 c0 p)) 0 19 stRange
    ++ hd (!src && !agtListed img p) 0 19 stEndpoint
    ++ hd (!src && (portPlane img p).any (· != h.getLsbD 62)) 62 1 stPlane
    ++ hd (src && h.getLsbD 62) 62 1 stPlane
    ++ hd (src && decide (1 < c.cons.length)) 0 19 stEndpoint
    ++ c.cons.zipIdx.flatMap (fun (w, n) =>
      let e := fld w 18 0
      let co := fun (b : Bool) (lo width st : Nat) =>
        if b then [{ ep := e, idx := n, wt := 4, lo := lo, width := width, val := fld w (lo + width - 1) lo, st := st : CfgErr }] else []
      co (fld w 63 22 != 0) 22 42 stReserved
        ++ co (decide (5 ≤ fld w 21 19)) 19 3 stRange
        ++ co (!(portOk img false e && inBox img r0 c0 e) || (src && epEk e != 0)) 0 19 stRange
        ++ co (!agtListed img e) 0 19 stEndpoint
        ++ co ((portPlane img e).any (· != h.getLsbD 62)) 0 19 stPlane
        ++ co ((c.cons.take n).any fun y => fld y 18 0 == e) 0 19 stEndpoint)
/-- Ports that stand in two channels (R96); a source port that stands in two (R401). -/
def sharedErrs (chs : List ChRec) : List CfgErr :=
  chs.zipIdx.flatMap fun (c, i) =>
    let before := chs.take i
    let p := fld c.hdr 18 0
    (if before.any fun d => fld d.hdr 18 0 == p then
        [{ ep := p, wt := 3, lo := 0, width := 19, val := p, st := stEndpoint : CfgErr }] else [])
      ++ c.cons.zipIdx.flatMap fun (w, n) =>
        if before.any fun d => d.cons.any fun y => fld y 18 0 == fld w 18 0 then
          [{ ep := fld w 18 0, idx := n, wt := 4, lo := 0, width := 19, val := fld w 18 0, st := stEndpoint : CfgErr }] else []

/-! ### Switch elements, memory tiles and rings (R97, R98, R233) -/

/-- Failed fields of one word of an element. -/
def fieldErr (ep idx wt : Nat) (w : W64) (b : Bool) (lo width st : Nat) : List CfgErr :=
  if b then [{ ep := ep, idx := idx, wt := wt, lo := lo, width := width, val := fld w (lo + width - 1) lo, st := st }] else []
/-- A switch-element word's failed fields. -/
def swErrs (ep : Nat) (w : W64) : List CfgErr :=
  let e := fieldErr ep 0xFF 6 w
  e (w.getLsbD 63 && fld w 60 58 == 0) 58 3 stRange
    ++ e (fld w 57 0 != 0) 0 58 stReserved
/-- The bytes of a ring: first byte and length. -/
def ringRange (w : W64) : Nat × Nat := (64 * fld w 50 37, (fld w 62 57 + 1) * (64 * (fld w 56 51 + 1)))
/-- A memory tile's failed fields: its role word and its ring words. -/
def mtErrs (m : Nat × W64 × List W64) : List CfgErr :=
  let (ep, w, rs) := m
  let e := fieldErr ep 0xFF 7 w
  let v := w.getLsbD 63
  let fifo := fld w 62 61 == 1
  e (fld w 62 61 == 3) 61 2 stReserved
    ++ e (fld w 58 40 != 0) 40 19 stReserved
    ++ e (fld w 23 0 != 0) 0 24 stReserved
    ++ e (!fifo && w.getLsbD 60) 60 1 stRange
    ++ e (!fifo && w.getLsbD 59) 59 1 stRange
    ++ e (!fifo && fld w 39 32 != 0) 32 8 stRange
    ++ e (fifo && decide (256 < fld w 31 24 + fld w 39 32 + 1)) 24 8 stRange
    ++ rs.zipIdx.flatMap fun (x, n) =>
      let r := fieldErr ep n 10 x
      let on := x.getLsbD 63
      let (a, l) := ringRange x
      r (fld x 36 0 != 0) 0 37 stReserved
        ++ r (on && !(v && fld w 62 61 == 0)) 63 1 stRange
        ++ r (on && fld x 62 57 == 0) 57 6 stRange
        ++ r (on && decide (2 ^ 20 < a + l)) 37 14 stRange
        ++ r (on && (rs.take n).any fun y => y.getLsbD 63 && meets a l (ringRange y).1 (ringRange y).2) 37 14 stRange

/-! ### Walkers and block-transfer channels (R243, R253, R267) -/

/-- A walker's failed fields. -/
def walkerErrs (a : Nat × List W64) : List CfgErr :=
  let w := fun i => a.2.getD i 0
  let e := fun (b : Bool) (i lo width st : Nat) => fieldErr a.1 i 8 (w i) b lo width st
  let v := (w 0).getLsbD 63
  let lv := fld (w 0) 58 56
  e (fld (w 0) 61 59 == 7) 0 59 3 stRange
    ++ e (decide (5 ≤ lv)) 0 56 3 stRange
    ++ e (decide (lv < 4) && fld (w 0) 55 (44 + 3 * lv) != 0) 0 (44 + 3 * lv) (12 - 3 * lv) stRange
    ++ e (fld (w 0) 31 0 != 0) 0 0 32 stReserved
    ++ e (fld (w 1) 63 48 != 0) 1 48 16 stReserved
    ++ e (fld (w 2) 63 48 != 0) 2 48 16 stReserved
    ++ e (fld (w 2) 11 0 != 0) 2 0 12 stRange
    ++ e (fld (w 3) 63 36 != 0) 3 36 28 stReserved
    ++ e ((v && fld (w 3) 35 0 == 0) || decide (2 ^ 48 < fld (w 2) 47 0 + 4096 * fld (w 3) 35 0)) 3 0 36 stRange
    ++ (List.range 5).flatMap fun k =>
      e (decide (k ≤ lv) && fld (w (4 + k)) 63 56 != 0) (4 + k) 56 8 stReserved
        ++ e (decide (lv < k) && w (4 + k) != 0) (4 + k) 0 64 stRange
/-- HCH of a walker (R243). -/
def wkHch (w : List W64) : Nat := fld (w.getD 0 0) 39 36
/-- HOLD of a walker. -/
def wkHold (w : List W64) : Bool := (w.getD 0 0).getLsbD 40
/-- The window of a walker: first byte and length (R253). -/
def wkWindow (w : List W64) : Nat × Nat := (fld (w.getD 2 0) 47 0, 4096 * fld (w.getD 3 0) 35 0)
/-- Breaches of R253. -/
def ownerErrs (img : Image) : List CfgErr :=
  let l := img.agts.filter fun a => (a.2.getD 0 0).getLsbD 63
  let e := fun (b : Bool) (a : Nat × List W64) (i lo width : Nat) => fieldErr a.1 i 8 (a.2.getD i 0) b lo width stOwner
  l.zipIdx.flatMap (fun (a, n) =>
    let h := wkHch a.2
    e ((l.take n).any fun b => meets (wkWindow a.2).1 (wkWindow a.2).2 (wkWindow b.2).1 (wkWindow b.2).2 && !(h != 0 && h == wkHch b.2)) a 2 0 48
      ++ e ((l.take n).any fun b => h != 0 && h == wkHch b.2 && wkWindow a.2 != wkWindow b.2) a 2 0 48
      ++ e (h != 0 && !((l.take n).any fun b => wkHch b.2 == h) && (l.filter fun b => wkHch b.2 == h && wkHold b.2).length != 1) a 0 40 1
      ++ e (h == 0 && !wkHold a.2) a 0 40 1)
    ++ img.chs.flatMap fun c =>
      let p := fld c.hdr 18 0
      if isSource p || epEk p != 2 || epPort p != 4 then []
      else
        let ok := (soleCons c).any fun q => epEk q == 2 && epPort q == 5 && q / 16 != p / 16
          && (match agtEnt img p, agtEnt img q with
              | some x, some y => wkHch x != 0 && wkHch x == wkHch y
              | _, _ => false)
        if ok then [] else [{ ep := p, wt := 3, lo := 0, width := 19, val := p, st := stOwner }]
/-- The block-transfer channels of an image in use: table entry's endpoint, channel, words, in table order. -/
def bteList (img : Image) : List (Nat × Nat × W64 × W64) :=
  img.btes.flatMap fun b => (b.2.zipIdx.filter fun w => w.1.1.getLsbD 63).map fun w => (b.1, w.2, w.1)
/-- The failed fields of a BTE's channel words. -/
def bteErrs (b : Nat × List (W64 × W64)) : List CfgErr :=
  b.2.zipIdx.flatMap fun (w, n) =>
    let e := fun (i : Nat) => fieldErr b.1 (2 * n + i) 11 (if i = 0 then w.1 else w.2)
    let v := w.1.getLsbD 63
    e 0 (v && (decide (fld w.1 61 58 < 1) || decide (12 < fld w.1 61 58))) 58 4 stRange
      ++ e 0 (fld w.1 4 0 != 0) 0 5 stRange
      ++ e 1 (fld w.2 63 48 != 0) 48 16 stReserved
      ++ e 1 (fld w.2 2 0 != 0) 0 3 stRange
/-- Holders of block-transfer channels outside the partition (R267, R410): channel j takes HOLDER + 1 + j. -/
def bteHolderErrs (p : Part) (holder : Nat) (img : Image) : List CfgErr :=
  ((bteList img).zipIdx.filter fun x => !partHolder p (holder + 1 + x.2)).map fun (b, j) =>
    { ep := b.1, idx := 2 * b.2.1, wt := 11, lo := 48, width := 10, val := holder + 1 + j, st := stBounds }

/-! ### Sinks, folds and the policy word (R99, R100, R103, R358) -/

/-- A sink entry's failed fields. A sink whose port belongs to no channel is accepted (DESIGN CHOICE, log 113: R104's "a port named
that belongs to no channel" stands among the failures of operands). -/
def sinkErrs (img : Image) (r0 c0 : Nat) (n : Nat) (w : W64) : List CfgErr :=
  let e := fieldErr (fld w 18 0) n 9 w
  e (fld w 62 60 == 0) 60 3 stRange
    ++ e (fld w 59 44 == 0) 44 16 stRange
    ++ e (fld w 43 19 != 0) 19 25 stReserved
    ++ e (!(portOk img false (fld w 18 0) && inBox img r0 c0 (fld w 18 0))) 0 19 stRange
    ++ e (!agtListed img (fld w 18 0)) 0 19 stEndpoint
/-- The channels of an image once a variant's remap words have moved its ports. -/
def remapChans (v : FoldEnt) (l : List ChRec) : List ChRec :=
  let toward := fun (out : Bool) (e : Nat) => ((v.remap.find? fun m => m.1 == e && m.2.2 == out).map (·.2.1)).getD e
  l.map fun c => ⟨shiftFld (toward true) 0 c.hdr, c.cons.map (shiftFld (toward false) 0), c.init⟩
/-- Whether a port belongs to a channel, in a direction. -/
def portUsed (l : List ChRec) (out : Bool) (e : Nat) : Bool :=
  l.any fun c => if out then fld c.hdr 18 0 == e else c.cons.any fun x => fld x 18 0 == e
/-- The ports of a tile that belong to channels: endpoint and direction. -/
def tilePorts (l : List ChRec) (ep : Nat) : List (Nat × Bool) :=
  ((List.range 6).map fun i => (ep + i, false)) ++ ((List.range 5).map fun j => (ep + j, true)) |>.filter fun x => portUsed l x.2 x.1
/-- The channels as the variants before variant `n` for its target have moved them. -/
def chansBefore (img : Image) (n : Nat) (v : FoldEnt) : List ChRec :=
  ((img.folds.take n).filter fun w => w.dst == v.dst).foldl (fun l w => remapChans w l) img.chs
/-- A fold variant's failures: a port of the moved operator without its one remap word, the source operator's field; a remap
word's DIR that is not its port's, and its target port's field; its bank rule, and its context as it would stand on its target
(R100, R103, R369). -/
def foldErrs (img : Image) (n : Nat) (v : FoldEnt) : List CfgErr :=
  let before := chansBefore img n v
  let e := fun (b : Bool) (lo width val : Nat) =>
    if b then [{ ep := v.src, wt := 13, lo := lo, width := width, val := val, st := stEndpoint : CfgErr }] else []
  let ports := tilePorts img.chs v.src
  e (ports.any fun p => ((v.remap.filter fun m => m.1 == p.1 && m.2.2 == p.2).length != 1)) 0 19 v.src
    ++ v.remap.zipIdx.flatMap (fun (m, i) =>
      e (!ports.contains (m.1, m.2.2)) 38 1 m.2.2.toNat
        ++ e (m.2.1 / 16 != v.dst / 16 || !portOk img m.2.2 m.2.1 || portUsed before m.2.2 m.2.1
          || (v.remap.take i).any fun k => k.2.1 == m.2.1 && k.2.2 == m.2.2) 19 19 m.2.1)
    ++ (let chs := remapChans v before
        let own := (img.pes.filter fun p => p.ep == v.dst).flatMap fun p => (p.slots.filter fun s => decide (s.1 < 64)).map (·.1)
        let prior := ((img.folds.take n).filter fun w => w.dst == v.dst).flatMap fun w => w.slots.map (·.1)
        slotsErrs img chs (epTile v.dst) v.ctx v.slots
          ++ (v.slots.filter fun s => trV s.2.trig && trTch s.2.trig == 7 && v.bank != 0 && !own.contains s.1 && !prior.contains s.1).map fun s =>
            { ep := v.dst, ctx := v.ctx, idx := s.1, wt := 0, lo := 18, width := 3, val := 7, st := stTrigger })
/-- The policy word's failed fields. -/
def policyErrs (w : W64) : List CfgErr :=
  let e := fieldErr 0 0xFF 12 w
  e (fld w 63 52 != 0 && fld w 39 32 == 0) 32 8 stRange
    ++ e ((fld w 63 52 != 0 || fld w 51 40 != 0) && fld w 27 24 == 0) 24 4 stRange
    ++ e (fld w 7 0 != 0) 0 8 stRange

/-! ### A whole image -/

/-- A channel record that is not valid: its reserved bits and values, and the fields that R94 and R95 refuse at any value of V
(R103). -/
def chanOffErrs (c : ChRec) : List CfgErr :=
  let hd := fun (b : Bool) (lo width st : Nat) => fieldErr (fld c.hdr 18 0) 0xFF 3 c.hdr b lo width st
  hd (decide (2 ≤ fld c.hdr 61 60)) 60 2 stReserved ++ hd (decide (16 < recD c.hdr)) 35 5 stRange ++ hd (fld c.hdr 27 19 != 0) 19 9 stReserved
    ++ c.cons.zipIdx.flatMap fun (w, n) =>
      let co := fieldErr (fld w 18 0) n 4 w
      co (fld w 63 22 != 0) 22 42 stReserved ++ co (decide (5 ≤ fld w 21 19)) 19 3 stRange
/-- The failures of a translated image's words at an origin, in no order. Channel records and sink entries that are not valid are
checked by themselves and stand for no channel and no sink. -/
def wordsErrs (all : Image) (r0 c0 : Nat) : List CfgErr :=
  let img := imgOn all
  (all.chs.filter fun c => !c.hdr.getLsbD 63).flatMap chanOffErrs ++
  img.pes.flatMap (fun q => slotsErrs img img.chs (epTile q.ep) 0 q.slots ++ swErrs (swEp (epTile q.ep) 0) q.sw)
    ++ img.chs.flatMap (chanErrs img r0 c0) ++ sharedErrs img.chs
    ++ img.mts.flatMap mtErrs ++ img.agts.flatMap walkerErrs ++ ownerErrs img ++ img.btes.flatMap bteErrs
    ++ all.sinks.zipIdx.flatMap (fun (w, n) =>
      if w.getLsbD 63 then sinkErrs img r0 c0 n w else fieldErr (fld w 18 0) n 9 w (fld w 43 19 != 0) 19 25 stReserved)
    ++ img.folds.zipIdx.flatMap (fun (v, n) => foldErrs img n v)
/-- The place of an error in the order of R105: element, context, slot, low bit. -/
def errKey (e : CfgErr) : Nat := ((e.ep * 4 + e.ctx) * 256 + e.idx) * 64 + e.lo
/-- An error put in its place. -/
def errInsert (e : CfgErr) : List CfgErr → List CfgErr
  | [] => [e]
  | x :: t => if errKey e < errKey x then e :: x :: t else x :: errInsert e t
/-- Errors in R105's order. -/
def errSort (l : List CfgErr) : List CfgErr := l.foldl (fun m e => errInsert e m) []
/-- The CFG_ERROR record of an error (R105). The width subfield of a field of 64 bits holds 64 mod 64 = 0, and the low bit 0
(DESIGN CHOICE, log 92: six bits hold no 64). -/
def cfgRec (s : State) (rgn : Nat) (e : CfgErr) (more : Bool) : BitVec 512 :=
  recOf [(0, 2, 0x30), (2, 2, e.st), (4, 4, rgn), (8, 4, e.ep % 2 ^ 19), (12, 1, e.idx), (13, 1, e.ctx % 4 + more.toNat * 128),
    (14, 2, e.wt * 2 ^ 12 + e.width % 64 * 2 ^ 6 + e.lo % 64), (16, 8, e.val), (24, 8, s.cyc)]
/-- The records of a refused configuration: the first 16 in order, the sixteenth with MORE where there are others. -/
def cfgRecords (s : State) (pn rgn : Nat) (l : List CfgErr) : State :=
  ((l.take 16).zipIdx).foldl (fun x (e, n) => faultRecord x pn .port (cfgRec s rgn e (n == 15 && decide (16 < l.length)))) s

end Sys2Proof.Machine
end

