-- ==== Sys2Proof/Machine/Install.lean ====
section
/-! DEFINITION. The INSTALL request (R106, R231, R239, R410): its checks, and the elements written. -/
namespace Sys2Proof.Machine

/-! ### Live and shadow state (R381) -/

/-- Whether an endpoint's port belongs to a tile, memory tile or switch element of a partition that shadow state can stand
for: a memory tile that is no cache bank. -/
def shadowEp (s : State) (p : Part) (e : Nat) : Bool :=
  match epEk e with
  | 1 => partMt p (epMt e) && mtRole (mapGet s.mtiles (epMt e) mtile0) != some 2
  | 2 => false
  | _ => partTile p (epTile e)
/-- Two sparse maps, each with the entries that a test picks taken from the other. -/
def swapPick {α : Type} (f : Nat → Bool) (a b : SMap α) : SMap α :=
  (b.filter fun x => f x.1).foldl (fun m x => mapPut m x.1 x.2) (a.filter fun x => !f x.1)
/-- A tile's configuration and state taken from one record, what belongs to the silicon from another: its bytes, which half of
them is live, and its clock gate. -/
def tileBody (t : Tile) (real : Tile) : Tile :=
  { t with lm := real.lm, bad := real.bad, half := real.half, njob := max t.njob real.njob, idle := real.idle, gated := real.gated,
           wake := real.wake }
/-- The same for a memory tile. -/
def mtBody (t : MTile) (real : MTile) : MTile :=
  { t with mem := real.mem, bad := real.bad, lmeta := real.lmeta, half := real.half, pq := real.pq, idle := real.idle,
           gated := real.gated, wake := real.wake }
/-- The live and the shadow state of a partition's elements exchanged (R381); the bytes of memory stay. -/
def exchange (s : State) (pn : Nat) : State :=
  let p := partOf s pn
  let tf := fun n => partTile p n
  let mf := fun n => shadowEp s p (mtEp n 0)
  let pf := fun e => shadowEp s p e
  let tl := swapPick tf s.tiles ((s.tiles.filter fun x => tf x.1).foldl (fun m x =>
    mapPut m x.1 (tileBody (mapGet s.shadows x.1 tile0) x.2)) (s.shadows.map fun x => (x.1, tileBody x.2 (tileOf s x.1))))
  let ml := swapPick mf s.mtiles ((s.mtiles.filter fun x => mf x.1).foldl (fun m x =>
    mapPut m x.1 (mtBody (mapGet s.shadowMts x.1 mtile0) x.2)) (s.shadowMts.map fun x => (x.1, mtBody x.2 (mtileOf s x.1))))
  { s with tiles := tl, shadows := swapPick tf s.shadows s.tiles, mtiles := ml, shadowMts := swapPick mf s.shadowMts s.mtiles,
           inPorts := swapPick pf s.inPorts s.shadowPorts, shadowPorts := swapPick pf s.shadowPorts s.inPorts,
           outPorts := swapPick pf s.outPorts s.shadowOuts, shadowOuts := swapPick pf s.shadowOuts s.outPorts }
/-- A change made in the shadow state of a partition. -/
def inShadow (s : State) (pn : Nat) (f : State → State) : State := exchange (f (exchange s pn)) pn

/-! ### The request (R410) -/

/-- A field of a request entry. -/
def reqFld (e : BitVec 512) (off len : Nat) : Nat := recFld e off len
/-- The partition of a request. -/
def reqPart (e : BitVec 512) : Nat := reqFld e 2 1
/-- TAG. -/
def reqTag (e : BitVec 512) : Nat := reqFld e 4 4
/-- SHADOW of an INSTALL. -/
def insShadow (e : BitVec 512) : Bool := (reqFld e 26 2).testBit 13
/-- HOLDER of an INSTALL. -/
def insHolder (e : BitVec 512) : Nat := reqFld e 26 2 % 1024
/-- A request field refused. -/
def reqErr (b : Bool) (off width val st : Nat) : List CfgErr :=
  if b then [{ wt := 14, lo := off, width := width, val := val, st := st }] else []
/-- AGTMAP: the words of its `n` entries, or none where a page does not translate. -/
def agtMap (s : State) (pn va n : Nat) : Option (List Nat) :=
  (List.range n).foldr (fun i l => l.bind fun l => (virtGet s pn (va + 4 * i) 4).map fun x => x :: l) (some [])
/-- Errors of AGTMAP's entries. -/
def agtMapErrs (s : State) (pn : Nat) (l : List Nat) : List CfgErr :=
  let p := partOf s pn
  l.zipIdx.flatMap fun (w, n) =>
    let e := w % 2 ^ 19
    let err := fun st => [{ ep := e, idx := n, wt := 14, lo := 48, width := 32, val := w, st := st : CfgErr }]
    if 2 ^ 19 ≤ w || epEk e != 2 || epPort e != 0 || decide (64 ≤ epEn e) then err stRange
    else
      let a := epAgt e
      if !partPchan p a then err stBounds
      else if !pchanLive s a then err stFenced
      else if (agtOf s a).rgn.isSome || l.zipIdx.any (fun v => v.2 != n && v.1 % 2 ^ 19 == e) then err stBusy else []
/-- The consumer that an image declares for a source port: the channel's index and the consumer's endpoint. -/
def sourceCons (img : Image) (prod : Nat) : Option (Nat × Nat) :=
  img.chs.zipIdx.findSome? fun (c, i) => if fld c.hdr 18 0 = prod then (c.cons.head?).map fun w => (i, fld w 18 0) else none
/-- A request's source port that is not the one the image declares (R401). -/
def sourceErr (img : Image) (f : Nat → Nat) (prod off w : Nat) : List CfgErr :=
  reqErr (w.testBit 31 && (match sourceCons img prod with | some (_, e) => f (w % 2 ^ 19) % 2 ^ 19 != e | none => true)) off 32 w stEndpoint
/-- The failures of the request's own fields. -/
def fieldsErrs (s : State) (pn : Nat) (e : BitVec 512) (rows cols : Nat) : List CfgErr :=
  let p := partOf s pn
  let r0 := reqFld e 24 1
  let c0 := reqFld e 25 1
  let rid := reqFld e 20 4
  let conf := reqFld e 16 4
  let idx := (reqFld e 28 4).testBit 31
  reqErr (r0 % 4 != 0 || decide (64 < r0 + rows)) 24 8 r0 stRange
    ++ reqErr (c0 % 4 != 0 || decide (128 < c0 + cols)) 25 8 c0 stRange
    ++ reqErr (rgnOf s (rgnKey pn rid)).isSome 20 32 rid stBusy
    ++ reqErr (confDisagrees s pn conf (rgnKey pn rid) idx) 16 32 conf stEndpoint
    ++ reqErr (!partHolder p (insHolder e)) 26 10 (insHolder e) stBounds
    ++ reqErr (insShadow e && !p.isArmed) 26 1 1 stBusy
    ++ policyErrs (BitVec.ofNat 64 (reqFld e 40 8))

/-! ### The elements an image names (R29, R31, R106) -/

/-- The tiles that an image names and takes: those of its PE table, and of its channels' ports. -/
def imgTiles (img : Image) : List Nat :=
  let of := fun e => if epEk e = 0 || epEk e == 3 then [epTile e] else []
  (img.pes.map (fun q => epTile q.ep) ++ img.chs.flatMap fun c =>
    (if isSource (fld c.hdr 18 0) then [] else of (fld c.hdr 18 0)) ++ c.cons.flatMap fun w => of (fld w 18 0)).eraseDups
/-- The memory tiles that an image takes. -/
def imgMts (img : Image) : List Nat :=
  let of := fun e => if epEk e = 1 then [epMt e] else []
  (img.mts.map (fun m => epMt m.1) ++ img.chs.flatMap fun c =>
    (if isSource (fld c.hdr 18 0) then [] else of (fld c.hdr 18 0)) ++ c.cons.flatMap fun w => of (fld w 18 0)).eraseDups
/-- An error of an element that an image names. -/
def elemErr (ep st : Nat) : CfgErr := { ep := ep, wt := 13, lo := 0, width := 19, val := ep, st := st }
/-- A field that names an element, at a low bit of its word. -/
def elemField (ep lo : Nat) : CfgErr := { elemErr ep 0 with lo := lo }
/-- The tiles that an image names without taking them: of folds and handlers. The destination of a `tsend` is checked at the
firing (R334). -/
def namedFields (img : Image) : List CfgErr :=
  img.folds.flatMap (fun v => [elemField v.src 0, elemField v.dst 19]) ++ img.hdls.map fun w => elemField (fld w 18 0) 0
/-- The fields by which an image takes tiles and memory tiles: its table entries, and the ports of its channels where they name
an element that no table entry names. -/
def takenFields (img : Image) (r0 c0 : Nat) : List CfgErr :=
  let tabs := img.pes.map (fun q => elemField q.ep 0) ++ img.mts.map fun m => elemField m.1 0
  let ports := img.chs.flatMap fun c =>
    let p := fld c.hdr 18 0
    (if isSource p then [] else [{ elemField p 0 with wt := 3 }])
      ++ c.cons.zipIdx.map fun (w, n) => { elemField (fld w 18 0) 0 with wt := 4, idx := n }
  tabs ++ ports.filter fun x : CfgErr => epEk x.ep != 2 && inBox img r0 c0 x.ep && !tabs.any fun t : CfgErr => t.ep / 16 == x.ep / 16
/-- The errors of the elements that an image names: outside the partition, fenced, or held. -/
def elemErrs (s : State) (pn : Nat) (shadow : Bool) (img : Image) (r0 c0 : Nat) : List CfgErr :=
  let p := partOf s pn
  let one := fun (x : CfgErr) (own live free : Bool) =>
    if !own then [{ x with st := stBounds }] else if !live then [{ x with st := stFenced }]
    else if !free then [{ x with st := stBusy }] else []
  let ts := imgTiles img
  let role := fun m => (img.mts.find? fun x => epMt x.1 == m).bind fun x => if x.2.1.getLsbD 63 then some (fld x.2.1 62 61) else none
  (takenFields img r0 c0).flatMap (fun x =>
      if epEk x.ep = 1 then
        let m := epMt x.ep
        let cache := role m == some 2
        let was := mtRole (mtileOf s m) == some 2
        one x (partMt p m) (mtileLive s m) (if shadow && (cache || was) then cache && was else (mtileOf s m).rgn.isNone)
      else
        let t := epTile x.ep
        one x (partTile p t) (tileLive s t) (tileOf s t).rgn.isNone)
    ++ ((namedFields img).filter fun x : CfgErr => !ts.contains (epTile x.ep)).flatMap (fun x =>
      one x (partTile p (epTile x.ep)) (tileLive s (epTile x.ep)) true)
    ++ img.btes.flatMap (fun b =>
      let n := btePlaceOf b.1
      one (elemField b.1 0) (partCluster p n) (clusterLive s n) true
        ++ if partCluster p n && clusterLive s n then
             b.2.zipIdx.flatMap fun (w, i) =>
               fieldErr b.1 (2 * i) 11 w.1 (w.1.getLsbD 63 && (bteOf s n i).rgn.isSome) 63 1 stBusy
           else [])

/-! ### Accepting an install -/

/-- The image of a request translated at its origin, with the errors of its header and tables; or the errors of an image that
does not read, or of a list of AGTs that does not. -/
def insImage (s : State) (pn : Nat) (e : BitVec 512) : Except (List CfgErr) (Image × List Nat × List CfgErr) :=
  let va := reqFld e 8 8
  if !imgReadable s pn va then .error [imgErr 0 16 va]
  else
    let g := imgGet s pn va
    let h := imgHead g
    let errs := headErrs g h ++ overlapErrs g h
    let f := shiftEp (reqFld e 24 1) (reqFld e 25 1)
    match agtMap s pn (reqFld e 48 8) (min (h.n 3) 256) with
    | none =>
      .error (errs ++ entryErrs g h (f []) ++ fieldsErrs s pn e h.rows h.cols ++ reqErr true 48 64 (reqFld e 48 8) stRange)
    | some l =>
      let img := shiftImage (f l) (routeEp (f l) (reqFld e 24 1) (reqFld e 25 1)) (imgParse g h)
      .ok (img, l, errs ++ entryErrs g h (f l) ++ if h.n 5 != 0 && (imgOn img).sinks.isEmpty then [imgErr 28 32 0] else [])
/-- Whether an origin is one of R410. -/
def originOk (r0 c0 rows cols : Nat) : Bool := r0 % 4 == 0 && c0 % 4 == 0 && decide (r0 + rows ≤ 64) && decide (c0 + cols ≤ 128)
/-- The failures of a request whose image reads (R103, R410), `all` the image translated. At an origin that R410 refuses, the
image's words have no place to be checked at, and only the request's fields are (DEDUCED, log 30). -/
def insErrs (s : State) (pn : Nat) (e : BitVec 512) (all : Image) (agts : List Nat) : List CfgErr :=
  let img := imgOn all
  let r0 := reqFld e 24 1
  let c0 := reqFld e 25 1
  let f := shiftEp r0 c0 agts
  fieldsErrs s pn e img.rows img.cols ++ sourceErr img f indexProd 28 (reqFld e 28 4) ++ sourceErr img f argProd 32 (reqFld e 32 4)
    ++ agtMapErrs s pn agts
    ++ if originOk r0 c0 img.rows img.cols then
         wordsErrs all r0 c0 ++ bteHolderErrs (partOf s pn) (insHolder e) img
           ++ elemErrs (if insShadow e then exchange s pn else s) pn (insShadow e) img r0 c0
       else []

/-! ### Writing the elements (R106, R231, R239) -/

/-- The cache banks of a die emptied: their lines leave them (R231, R322). -/
def flushBanks (s : State) (pn : Nat) (l : List Nat) : State :=
  l.foldl (fun x m =>
    let lines := (mtileOf x m).sets.flatMap fun e => e.2.map (·.line)
    lines.foldl (fun y n => noteEvict y pn n) (setMTile x m { mtileOf x m with sets := [] })) s
/-- The banks of a partition emptied on the dies where a change has altered which tiles are its cache banks. -/
def banksChanged (s t : State) (pn : Nat) : State :=
  (List.range 4).foldl (fun x d =>
    if cacheTiles s pn d = cacheTiles t pn d then x
    else flushBanks x pn (cacheTiles s pn d ++ (cacheTiles t pn d).filter fun m => !(cacheTiles s pn d).contains m)) t
/-- The compute tiles of an image written. -/
def putTiles (s : State) (k : Nat) (armed : Bool) (img : Image) : State :=
  (imgTiles img).foldl (fun x n =>
    let t := tileOf x n
    let q := img.pes.find? fun q => epTile q.ep == n
    let t1 := { t with rgn := some k, slots := (q.map (·.slots)).getD [], sw := (q.map (·.sw)).getD 0,
                       half := if armed then some (t.half.getD false) else t.half, lastBank := 0 }
    setTile (fonsCut x n) n (tileFresh t1 (bindsOf img n))) s
/-- The rings of a memory tile's ring words (R233). -/
def ringsOf (l : List W64) : SMap Ring := (l.zipIdx.filter fun w => w.1.getLsbD 63).map fun w => (w.2, ⟨w.1, 0, 0⟩)
/-- The metadata that an install leaves in a memory tile's array (R317): none of the half that it writes; an armed tile's other half
keeps its own. -/
def metaLeft (shadow : Bool) (m : MTile) : SMap (BitVec 64) :=
  match shadow, m.half with
  | false, none => []
  | false, some h => m.lmeta.filter fun e => (e.1 / 4096 == 1) != h
  | true, h => m.lmeta.filter fun e => (e.1 / 4096 == 1) == h.getD false
/-- The memory tiles of an image written, their metadata EMPTY (R317). The tokens of an end of an inter-partition queue stay where
the tile is one again (R412). -/
def putMts (s : State) (k : Nat) (armed shadow : Bool) (img : Image) : State :=
  (imgMts img).foldl (fun x n =>
    let m := mtileOf x n
    let e := img.mts.find? fun e => epMt e.1 == n
    let role := (e.map (·.2.1)).getD 0
    let cache := role.getLsbD 63 && fld role 62 61 == 2
    let gw := fun w : W64 => w.getLsbD 63 && fld w 62 61 == 1 && w.getLsbD 59
    let same := gw m.role && gw role && m.role == role
    if shadow && cache then x
    else setMTile x n
      { m with rgn := some k, role := role, lmeta := metaLeft shadow m, rings := (e.map fun e => ringsOf e.2.2).getD [],
               fifo := if same then m.fifo else [], fifoPos := if same then m.fifoPos else 0,
               fifoBad := if same then m.fifoBad else [], link := if same then m.link else none,
               half := if armed && !cache then some (m.half.getD false) else if cache then none else m.half }) s
/-- The AGTs of an image written. -/
def putAgts (s : State) (k : Nat) (img : Image) : State :=
  img.agts.foldl (fun x a => setAgt x (epAgt a.1) (agtFrom k a.2)) s
/-- The block-transfer channels of an image written. -/
def putBtes (s : State) (k holder : Nat) (img : Image) : State :=
  (bteList img).zipIdx.foldl (fun x (b, j) =>
    setBte x (btePlaceOf b.1) b.2.1 { bteCh0 with rgn := some k, w0 := b.2.2.1, w1 := b.2.2.2, holder := holder + 1 + j }) s
/-- A region instance as it is installed. -/
def regionOf (pn : Nat) (e : BitVec 512) (img : Image) (chans : List Nat) : Region :=
  let src := fun (off prod : Nat) =>
    if (reqFld e off 4).testBit 31 then (sourceCons img prod).bind fun x => chans[x.1]? else none
  { id := reqFld e 20 4, part := pn, conf := reqFld e 16 4, row0 := reqFld e 24 1, col0 := reqFld e 25 1, imgVA := reqFld e 8 8,
    img := img, holder := insHolder e, maint := (reqFld e 26 2).testBit 14, shadow := insShadow e, idx := src 28 indexProd,
    arg := src 32 argProd, policy := BitVec.ofNat 64 (reqFld e 40 8), st := if insShadow e then .shadow else .live, version := 0,
    sinks := img.sinks.map fun w => ⟨fld w 18 0, fld w 62 60, fld w 59 44, 0⟩, launch := none, started := false, reusable := true,
    feed := none, argTok := none, stopAt := none, drain := none, wasFrozen := false, brks := [], plans := [], proposals := [],
    nprop := 0, rewire := none, clones := [], folds := [], baros := [], chans := chans, win := 0, winDue := false, releasing := none, unitGone := false,
    image := none }
/-- The elements of a region instance written, and its channels made. -/
def putRegion (s : State) (k : Nat) (r : Region) : State :=
  let armed := (partOf s r.part).isArmed
  let s1 := putMts (putTiles s k armed r.img) k armed r.shadow r.img
  let (s2, ids) := addChans s1 k r.img.chs
  let s3 := putBtes (putAgts s2 k r.img) k r.holder r.img
  setRgn s3 k { r with chans := ids }
/-- A region instance installed (R106): its elements, its record, its layout descriptor. -/
def installRegion (s : State) (pn : Nat) (e : BitVec 512) (img : Image) : State :=
  let k := rgnKey pn (reqFld e 20 4)
  let go := fun x : State =>
    let (x1, r) := (x, regionOf pn e img [])
    let y := putRegion x1 k r
    match rgnOf y k with
    | some q => setRgn y k { regionOf pn e img q.chans with chans := q.chans }
    | none => y
  let s1 := if insShadow e then inShadow s pn go else go s
  writeDesc (banksChanged s s1 pn) k
/-- Whether a request of INSTALL has a reserved bit set. -/
def insReserved (e : BitVec 512) : Bool :=
  reqFld e 36 4 != 0 || reqFld e 56 8 != 0 || (reqFld e 26 2).testBit 15 || reqFld e 26 2 / 1024 % 8 != 0
    || reqFld e 28 4 / 2 ^ 19 % 2 ^ 12 != 0 || reqFld e 32 4 / 2 ^ 19 % 2 ^ 12 != 0
/-- The outcome of an INSTALL: its status and the state. -/
def installDo (s : State) (e : BitVec 512) : State × Nat :=
  let pn := reqPart e
  let refuse := fun (l : List CfgErr) =>
    let l := errSort l
    (cfgRecords s pn (reqFld e 20 4) l, ((l.head?).map (·.st)).getD 0)
  if insReserved e then (s, 0x117)
  else match insImage s pn e with
    | .error l => refuse l
    | .ok (img, agts, errs) =>
      let l := errs ++ insErrs s pn e img agts
      if l.isEmpty then (installRegion s pn e (imgOn img), 0) else refuse l

end Sys2Proof.Machine
end

