-- ==== Sys2Proof/Machine/Saves.lean ====
section
/-! DEFINITION. Saving, restoring, resuming and releasing a region (R374 to R380), and the shadow exchange (R381). -/
namespace Sys2Proof.Machine

/-! ### Requests under way (R407) -/

/-- A long request begun: no further request of its partition is taken until its response is written. -/
def reqBegin (s : State) (e : BitVec 512) (todo : List Nat) : State :=
  modHost (modPart s (reqPart e) fun p => { p with busy := some (reqTag e) }) fun h => { h with reqs := h.reqs ++ [⟨e, todo⟩] }
/-- Whether a request is under way. -/
def reqPending (s : State) (e : BitVec 512) : Bool := s.host.reqs.any fun q => q.entry == e
/-- A request answered (R407). -/
def reqEnd (s : State) (e : BitVec 512) (status val : Nat) : State :=
  let s1 := modHost (modPart s (reqPart e) fun p => { p with busy := none }) fun h =>
    { h with reqs := h.reqs.filter fun q => q.entry != e }
  respond s1 (reqTag e) status val
/-- A request of a partition answered that was begun in another event, by its TAG. -/
def tagEnd (s : State) (pn tag status val : Nat) : State :=
  let s1 := modHost (modPart s pn fun p => { p with busy := none }) fun h =>
    { h with reqs := h.reqs.filter fun q => !(reqPart q.entry == pn && reqTag q.entry == tag) }
  respond s1 tag status val
/-- The region key that a region request names (R407). -/
def reqKey (e : BitVec 512) : Nat := rgnKey (reqPart e) (reqFld e 8 4)

/-! ### The elements of an instance leave the fabric -/

/-- The endpoints of the ports that an instance's channels join. -/
def rgnPorts (s : State) (r : Region) : List Nat × List Nat :=
  r.chans.foldl (fun (i, o) id => match chanOf s id with
    | some c => (i ++ c.cons.map (·.ep), if isSource c.prod then o else o ++ [c.prod])
    | none => (i, o)) ([], [])
/-- A memory tile left by its instance: an end of an inter-partition queue keeps its tokens and its link (R412). -/
def mtVacant (m : MTile) : MTile :=
  if m.role.getLsbD 63 && fld m.role 62 61 == 1 && m.role.getLsbD 59 then { m with rgn := none }
  else { mtile0 with mem := m.mem, bad := m.bad, lmeta := m.lmeta, half := m.half, pq := m.pq, idle := m.idle, gated := m.gated, wake := m.wake }
/-- A compute tile left by its instance: local memory stays, and the array as R212 gives. -/
def tileFree (t : Tile) : Tile :=
  withArray t { tile0 with lm := t.lm, bad := t.bad, njob := t.njob, half := t.half, lastFire := t.lastFire, gated := t.gated, wake := t.wake }
/-- The fabric of an instance freed: tiles, ports, channels, memory tiles, AGTs and block-transfer channels. -/
def freeFabric (s : State) (k : Nat) (r : Region) : State :=
  let (ins, outs) := rgnPorts s r
  let s1 := { s with inPorts := s.inPorts.filter fun x => !ins.contains x.1, outPorts := s.outPorts.filter fun x => !outs.contains x.1,
                     chans := s.chans.filter fun x => !r.chans.contains x.1 }
  let s2 := (rgnTiles s1 k).foldl (fun x n => setTile x n (tileFree (tileOf x n))) s1
  let s3 := (rgnMTiles s2 k).foldl (fun x n => setMTile x n (mtVacant (mtileOf x n))) s2
  { s3 with agts := s3.agts.filter fun x => x.2.rgn != some k, btes := s3.btes.filter fun x => x.2.rgn != some k }
/-- An instance freed, with the cache banks that leave their role emptied (R231). -/
def freeRegion (s : State) (k : Nat) (r : Region) : State :=
  let s1 := if r.st = .shadow then inShadow s r.part fun x => freeFabric x k r else freeFabric s k r
  banksChanged s s1 r.part

/-! ### Taking a save (R376, R379, R380) -/

/-- The accesses of an instance that a race has stopped. -/
def racedAccs (s : State) (k : Nat) : List Acc := s.accs.filter fun a => agentOf s k a.agent && a.done && !a.ok && a.cause == 0xF01
/-- An AGT as a save holds it: it asks for a page walk again, and keeps the sector that a performed read has brought (R258, R264). -/
def agtSaved (s : State) (n : Nat) (a : Agt) : Agt :=
  let sect := match a.sect, s.accs.find? fun x => x.agent == .walk n && x.op == .read && x.done && (x.ok || x.cause != 0xF01) with
    | some (k, none, _), some x => some (k, some (x.val.setWidth 512), !x.ok)
    | y, _ => y
  { a with xl := none, tlbAt := none, sect := sect }
/-- What a save of an instance holds: of its arrays no entry, since those that stand there then are other instances' follow-ons. Local
memory and addressed buffers are in it with KEEPMEM. An element that waits for a page
walk asks for it again. -/
def takeSnap (s : State) (k : Nat) (r : Region) (full drained keep frozen : Bool) (body : List Byte) : Snap :=
  let (ins, outs) := rgnPorts s r
  { rgn := r, full := full, drained := drained, keep := keep, frozen := frozen,
    tiles := (s.tiles.filter fun x => x.2.rgn == some k).map (fun x => (x.1, { x.2 with cmdq := [], runs := [], fons := [] })), inPorts := s.inPorts.filter fun x => ins.contains x.1,
    outPorts := s.outPorts.filter fun x => outs.contains x.1, chans := s.chans.filter fun x => r.chans.contains x.1,
    mtiles := s.mtiles.filter fun x => x.2.rgn == some k,
    agts := (s.agts.filter fun x => x.2.rgn == some k).map fun x => (x.1, agtSaved s x.1 x.2),
    btes := s.btes.filter fun x => x.2.rgn == some k, accs := racedAccs s k, body := body }
/-- The header of a save image at an address (R380): n bytes of records, then the copy of the layout descriptor. -/
def saveHead (s : State) (r : Region) (va n : Nat) (full drained keep frozen : Bool) : BitVec 512 :=
  recOf [(0, 2, 0x80), (2, 2, r.version.toNat), (4, 4, r.id), (8, 8, r.imgVA),
    (16, 1, full.toNat + 2 * drained.toNat + 4 * keep.toNat + 8 * frozen.toNat), (24, 8, 64 + n + 16 * (descCopy s r).length),
    (32, 8, va + 64 + n)]
/-- The elements of an instance in endpoint order: compute tiles, memory tiles, AGTs, and each cluster with a block-transfer
channel by its first tile. -/
def saveElems (s : State) (k : Nat) : List Nat :=
  let l := (rgnTiles s k).map (tileEp · 0) ++ (rgnMTiles s k).map (mtEp · 0) ++ (rgnAgts s k).map (agtEp · 0)
    ++ (rgnBtes s k).map fun n => tileEp (clusterTile (n / 16) 0) 0
  (l.foldl (fun (m : SMap Unit) e => mapPut m e ()) []).map (·.1)
/-- The low n bytes of a number, lowest first. -/
def bytesOf (x : Nat) : Nat → List Byte
  | 0 => []
  | n + 1 => BitVec.ofNat 8 x :: bytesOf (x / 256) n
/-- A save image (R380), each part with the element whose record it is: the records' bytes are free values; the header and the
copy of the layout descriptor are put to the first element. -/
def saveParts (s : State) (k : Nat) (r : Region) (va : Nat) (full drained keep frozen : Bool) : List (Nat × List Byte) :=
  let es := saveElems s k
  let recs := es.map fun e => (e, (List.range (Config.saveLen s.free e)).map (Config.saveByte s.free e))
  let e0 := es.headD 0
  (e0, bytesOf (saveHead s r va (recs.map fun x => x.2.length).sum full drained keep frozen).toNat 64) :: recs
    ++ [(e0, (descCopy s r).flatMap fun x => bytesOf x 16)]
/-- A store of one byte into a save area: the reason bits where it faults, or 0 where it would reach a fenced channel (R31). -/
def savePut (s : State) (k : Nat) (r : Region) (va : Nat) (x : Byte) : State × Option Nat :=
  if 2 ^ 48 ≤ va then (s, some (reasonBits true false false true false 4))
  else
    let d := rgnDie r
    match xlateNow s d r.part (va / 4096) true with
    | (s1, .ok pp _) =>
      if deadPa s1 (pp * 4096 + va % 4096) then (s1, some 0) else
      let a : Acc := { acc0 with agent := .ctl d, holder := r.holder, part := r.part, rgn := k, addr := BitVec.ofNat 64 va }
      ((enginePieces s1 a (pp * 4096 + va % 4096) x.toNat 2 1).1, none)
    | (s1, .fail why _ _ _) => (s1, some why)
/-- Bytes stored into a save area: the reason of the first store that faults. -/
def saveRun (s : State) (k : Nat) (r : Region) (va : Nat) : List Byte → State × Option Nat
  | [] => (s, none)
  | x :: l =>
    match savePut s k r va x with
    | (s1, none) => saveRun s1 k r (va + 1) l
    | (s1, some why) => (s1, some why)
/-- A save image stored part by part: the element and reason of the first store that faults. -/
def saveStore (s : State) (k : Nat) (r : Region) (va : Nat) : List (Nat × List Byte) → State × Option (Nat × Nat)
  | [] => (s, none)
  | (e, b) :: l =>
    match saveRun s k r va b with
    | (s1, none) => saveStore s1 k r (va + b.length) l
    | (s1, some x) => (s1, some (e, x))
/-- Whether an address lies in the pinned save area of a partition (R379). -/
def areaPinned (p : Part) (va : Nat) : Bool :=
  match p.armed with
  | some (b, n) => decide (b ≤ va) && decide (va < b + 4096 * n)
  | none => false
/-- Whether an instance stands frozen or is about to: a trap, a FAULTED walker or a race has stopped it (R374). -/
def rgnFroze (s : State) (k : Nat) (r : Region) : Bool :=
  r.st == .frozen || r.stopAt.isSome || (rgnTiles s k).any (fun n => !(tileOf s n).traps.isEmpty)
    || (rgnAgts s k).any fun n => (agtOf s n).st == .faulted || (agtOf s n).raced.isSome
/-- A region stopped for a full save (R374): what stood frozen is FROZEN in the image. -/
def saveStop (s : State) (k : Nat) (r : Region) : State :=
  let was := rgnFroze s k r
  modRgn (if r.st = .live then stopNow s k else s) k fun r => { r with wasFrozen := was }
/-- The status that answers a save which has aborted: FENCED where a store would reach a fenced channel (R31), and else a free value,
for R379 gives none. -/
def saveStatus (s : State) (why : Nat) : Nat := if why = 0 then 0x10A else Config.choice s.free % 65536
/-- A save made (R376, R379), with the status that answers its request: the image, the instance SAVED, its fabric free; or a SAVE_FAULT
record, whose Value is the save area's address (R377), and the instance FROZEN and intact. What has trapped while the save waited
is FROZEN in the image as well. -/
def saveMake (s : State) (k va : Nat) (full drained keep : Bool) : State × Nat :=
  match rgnOf s k with
  | none => (s, saveStatus s 1)
  | some r =>
    let frozen := r.wasFrozen || rgnFroze s k { r with st := .live }
    let parts := saveParts s k r va full drained keep frozen
    match saveStore { s with free := s.free + 1 } k r va parts with
    | (s1, none) =>
      let snap := takeSnap s1 k r full drained keep frozen (parts.flatMap (·.2))
      let s2 := freeRegion { s1 with saves := mapPut s1.saves (r.part * 2 ^ 52 + va) snap,
                                     accs := s1.accs.filter fun a => !(agentOf s1 k a.agent) } k r
      (setRgn s2 k { r with st := .saved, image := some va, drain := none, chans := [], stopAt := none }, 0)
    | (s1, some (e, why)) =>
      let rec_ := recOf [(0, 2, 0x72), (2, 2, r.version.toNat), (4, 4, r.id), (8, 4, e), (12, 2, why), (16, 8, va), (56, 8, s1.cyc)]
      (stopNow (mgmtRecord s1 (.ctl (rgnDie r)) rec_) k, saveStatus s1 why)
/-- A save's response, by TAG. -/
def saveAnswer (s : State) (pn tag st : Nat) : State := tagEnd { s with free := s.free + 1 } pn tag st 0
/-- Whether a firing takes part in a collective that has not answered: others may never arrive while the region stands, and a
frozen region can always be saved (R20). The answer finds the firing in the save. -/
def collHolds (s : State) (tile : Nat) (j : Job) : Bool :=
  let mine := fun a : Arrival => a.tile == tile && a.job == j.id
  s.arrivals.any mine || s.dies.any fun d => d.grps.any fun g => g.2.insts.any fun i => i.arr.any mine
/-- Whether the results that an instance's firings wait for have been written, but for those that a trap keeps for a resume, and
those that a collective owes to output ports (R381). -/
def jobsSettled (s : State) (k : Nat) : Bool :=
  (rgnTiles s k).all fun n => let t := tileOf s n
    t.jobs.all fun j => t.traps.any (fun r => r.job == some j.id) || (collHolds s n j && !dstReg j.da && !dstReg j.db)
/-- Whether a walker holds nothing that keeps its region from being saved whole (R20, R376): a running walk stands at a token
boundary, or, as a FAULTED or STALLED one or one that `agt.stop` ends, keeps what it has with its saved state. -/
def walkSettled (a : Agt) : Bool := a.st != .run || (a.npart == 0 && a.taken == 0)
/-- Whether the operations that a stopped instance has issued have reported (R25, R376): accesses performed and answered,
walks settled, commands reported. -/
def opsSettled (s : State) (k : Nat) : Bool :=
  s.accs.all (fun a => !agentOf s k a.agent || (a.done && !a.ok && a.cause == 0xF01 && a.race.isNone)
      || (a.done && (match a.agent with | .walk _ => true | _ => false)))
    && (rgnTiles s k).all (fun n => let t := tileOf s n
      t.jobs.all (fun j => t.traps.any (fun r => r.job == some j.id) || collHolds s n j)
        && t.cmdq.isEmpty && t.runs.isEmpty && t.fons.isEmpty && t.traps.all fun r => r.written)
    && (rgnAgts s k).all (fun n => walkSettled (agtOf s n))
    && (rgnBtes s k).all (fun n =>
      let c := bteOf s (n / 16) (n % 16)
      c.q.isEmpty && c.run.isNone && c.rep.isEmpty && decide (c.tail ≤ c.taken))
    && !s.futOps.any fun o => (tileOf s o.tile).rgn == some k && o.src.isNone

/-- Whether a drained region can be saved now. -/
def saveDue (s : State) (k : Nat) : Option (Region × Drain) :=
  (rgnOf s k).bind fun r => r.drain.bind fun d =>
    if d.kind = 0 && rgnMoves s (some k) && drainDone s k r d && opsReported s k then some (r, d) else none
/-- SAVE_DONE (R376): the drained region is saved. -/
def execSaveDone (rgn : Nat) (s : State) : Host.Outcome State Fault Refusal :=
  match saveDue s rgn with
  | none => .next s
  | some (r, d) =>
    let (s1, st) := saveMake (undrain s rgn true) rgn d.area false true d.keep
    .next (saveAnswer s1 r.part d.tag st)
/-- DRAIN_TIMEOUT (R376): the region is stopped as R162 step 4 gives; a full save of it follows once its operations have
reported. A region that a trap has stopped meanwhile is saved whole as well. -/
def execDrainTimeout (rgn : Nat) (s : State) : Host.Outcome State Fault Refusal :=
  match rgnOf s rgn with
  | none => .next s
  | some r =>
    match drainLate s r true with
    | none => .next s
    | some d =>
      let s1 := saveStop (undrain s rgn false) rgn r
      let e : BitVec 512 := recOf [(0, 2, 6), (2, 1, r.part), (4, 4, d.tag), (8, 4, r.id), (16, 8, d.area), (24, 1, d.keep.toNat)]
      .next (reqBegin s1 e [1])

/-! ### Restoring (R380) -/

/-- The move of an endpoint between two origins; an AGT stays. -/
def moveEp (r : Region) (r1 c1 : Nat) (e : Nat) : Nat :=
  if argProd ≤ e then e
  else match epEk e with
    | 1 =>
      let i := epEn e % 256 / 2
      epAtMt (epDie e / 2 * 8 + i / 16 - r.row0 / 4 + r1 / 4) (epDie e % 2 * 16 + i % 16 - r.col0 / 4 + c1 / 4) (epEn e % 2) (epPort e)
    | 2 => e
    | k => epAtTile k (epPr e - r.row0 + r1) (epPc e - r.col0 + c1) (epPort e)
/-- The move of the destination of a `tsend`. -/
def moveRoute (r : Region) (r1 c1 : Nat) (e : Nat) : Nat :=
  if epEk e = 0 && (decide (64 ≤ epPr e - r.row0 + r1) || decide (128 ≤ epPc e - r.col0 + c1)) then epOf 0 3 0 0 else moveEp r r1 c1 e
/-- The move of a tile. -/
def moveTile (r : Region) (r1 c1 n : Nat) : Nat := epTile (moveEp r r1 c1 (tileEp n 0))
/-- The move of a memory tile. -/
def moveMt (r : Region) (r1 c1 n : Nat) : Nat := epMt (moveEp r r1 c1 (mtEp n 0))
/-- The move of a block-transfer engine. -/
def moveBte (r : Region) (r1 c1 n : Nat) : Nat := tileCluster (moveTile r r1 c1 (clusterTile n 0))
/-- A sparse map with its keys moved. -/
def moveKeys {α : Type} (f : Nat → Nat) (m : SMap α) : SMap α := m.foldl (fun l x => mapPut l (f x.1) x.2) []
/-- A region record moved to another origin. -/
def moveRegion (r : Region) (r1 c1 : Nat) : Region :=
  let f := moveEp r r1 c1
  let t := moveTile r r1 c1
  { r with
    row0 := r1, col0 := c1, img := shiftImage f (moveRoute r r1 c1) r.img, sinks := r.sinks.map fun x => { x with ep := f x.ep },
    brks := r.brks.map fun b => (b.1, { b.2 with tile := t b.2.tile }),
    plans := r.plans.map fun p => { p with op := f p.op, target := if p.action = 1 then f p.target else p.target },
    proposals := [], rewire := none,
    clones := r.clones.map fun c =>
      { c with op := f c.op, copies := c.copies.map t, outs := moveKeys t c.outs, at_ := moveKeys t c.at_, given := moveKeys t c.given,
               fresh := moveKeys t c.fresh,
               chunks := c.chunks.map fun k => { k with toward := k.toward.map fun x => (t x.1, x.2) } },
    folds := r.folds.map fun x => { x with slots := shiftSlots f (moveRoute r r1 c1) x.slots },
    baros := moveKeys f r.baros }
/-- A tile's record moved. Without KEEPMEM the bytes of local memory are those of the new place. -/
def tileMoved (f g : Nat → Nat) (mt : Nat → Nat) (keep : Bool) (armed : Bool) (k : Nat) (old new : Tile) : Tile :=
  withFons old
  { new with
    rgn := some k, slots := shiftSlots f g new.slots,
    handles := new.handles.map fun h => { h with ring := h.ring.map fun x => (mt x.1, x.2) },
    lm := if keep then new.lm else old.lm, bad := if keep then new.bad else old.bad, njob := max old.njob new.njob,
    half := if armed then some (old.half.getD false) else old.half, gated := old.gated, wake := old.wake, idle := 0 }
/-- A memory tile's record moved: an addressed buffer's bytes come back with KEEPMEM only, and its metadata is EMPTY, as where a role
word is installed (R317). -/
def mtMoved (keep : Bool) (armed : Bool) (k : Nat) (old new : MTile) : MTile :=
  let buf := mtRole new == some 0
  { new with
    rgn := some k, mem := if keep && buf then new.mem else old.mem, bad := if keep && buf then new.bad else old.bad, lmeta := metaLeft false old,
    sets := [], pq := old.pq, served := old.served, half := if armed && mtRole new != some 2 then some (old.half.getD false) else none,
    gated := old.gated, wake := old.wake, idle := 0 }
/-- A stopped access moved with its tile. -/
def accMoved (f mt : Nat → Nat) (a : Acc) : Acc :=
  { a with
    agent := (match a.agent with | .bank t b => .bank (f t) b | x => x), toward := (match a.toward with | .job t j => .job (f t) j | x => x),
    ring := a.ring.map fun x => (x.1, mt x.2.1, x.2.2) }
/-- The contexts of a partition's groups and open collectives that stood on the tiles of a save, moved with them. -/
def moveGroups (s : State) (pn : Nat) (t : Nat → Nat) (ts : List Nat) : State :=
  let tile := fun n => if ts.contains n then t n else n
  let ctx := fun c => tile (c / 4) * 4 + c % 4
  let arr := fun a : Arrival => if a.part = pn then { a with tile := tile a.tile } else a
  let inst := fun i : Inst => { i with snap := i.snap.map ctx, arr := i.arr.map arr }
  let grp := fun g : Grp => if g.part = pn then { g with members := g.members.map ctx, insts := g.insts.map inst } else g
  { s with arrivals := s.arrivals.map arr, dies := s.dies.map fun d => { d with grps := d.grps.map fun e => (e.1, grp e.2) } }
/-- The state of a save put at an origin: the configuration with its clones and folds, and the state saved. A drained image
holds no tokens. DESIGN CHOICE (log 88): its contexts stay members of their groups at the new place. -/
def putSnap (s : State) (k : Nat) (x : Snap) (r1 c1 : Nat) : State :=
  let r := x.rgn
  let f := moveEp r r1 c1
  let t := moveTile r r1 c1
  let m := moveMt r r1 c1
  let armed := (partOf s r.part).isArmed
  let s1 := x.tiles.foldl (fun y e => setTile (fonsCut y (t e.1)) (t e.1) (tileMoved f (moveRoute x.rgn r1 c1) m x.keep armed k (tileOf y (t e.1)) e.2)) s
  let s2 := x.mtiles.foldl (fun y e => setMTile y (m e.1) (mtMoved x.keep armed k (mtileOf y (m e.1)) e.2)) s1
  let s3 := x.inPorts.foldl (fun y e => setInPort y (f e.1) e.2) s2
  let s4 := x.outPorts.foldl (fun y e => setOutPort y (f e.1) e.2) s3
  let s5 := x.chans.foldl (fun y e => setChan y e.1
    { e.2 with prod := f e.2.prod, cons := e.2.cons.map (fun c => { c with ep := f c.ep, copy := c.copy.map f }),
               steer := e.2.steer.map (fun u => (f u.1, u.2)), merge := e.2.merge.map f }) s4
  let s6 := x.agts.foldl (fun y e => setAgt y e.1 e.2) s5
  let s7 := x.btes.foldl (fun y e => setBte y (moveBte r r1 c1 (e.1 / 16)) (e.1 % 16) e.2) s6
  let s8 := { s7 with accs := s7.accs ++ (x.accs.map (accMoved t m)).zipIdx.map fun a => { a.1 with id := s7.nid + a.2 },
                      nid := s7.nid + x.accs.length }
  let s9 := moveGroups s8 r.part t (x.tiles.map (·.1))
  setRgn s9 k { moveRegion r r1 c1 with st := if x.frozen then .frozen else .live, drain := none, image := none, stopAt := none }
/-- Whether the image that a save stored still stands at its address as stored: the header and every byte after it. -/
def imageStands (s : State) (pn va : Nat) (x : Snap) : Bool :=
  virtGet s pn va x.body.length == some (x.body.foldr (fun b n => b.toNat + 256 * n) 0)
/-- The save of a region whose image stands at an address of its partition's memory: the one stored there, or one whose image has
been copied there (log 60). -/
def snapAt (s : State) (pn id va : Nat) : Option Snap :=
  let fits := fun x : Snap => x.rgn.part == pn && x.rgn.id == id && imageStands s pn va x
  ((mapFind s.saves (pn * 2 ^ 52 + va)).filter fits).orElse fun _ => (s.saves.find? fun e => fits e.2).map (·.2)
/-- The failures of a moved configuration: its origin, another instance under its CONF that disagrees on an index source port (R240),
and the elements that cannot be taken, with copies of clones among the tiles. -/
def restoreErrs (s : State) (x : Snap) (r1 c1 : Nat) : List CfgErr :=
  let r := moveRegion x.rgn r1 c1
  let pn := r.part
  let p := partOf s pn
  let copies := r.clones.flatMap fun c => (c.copies.filter fun n => !(imgTiles r.img).contains n).map fun n =>
    if !partTile p n then [elemErr (tileEp n 0) stBounds] else if !tileLive s n then [elemErr (tileEp n 0) stFenced]
    else if (tileOf s n).rgn.isSome then [elemErr (tileEp n 0) stBusy] else []
  reqErr (r1 % 4 != 0 || decide (64 < r1 + r.img.rows)) 24 8 r1 stRange
    ++ reqErr (c1 % 4 != 0 || decide (128 < c1 + r.img.cols)) 25 8 c1 stRange
    ++ reqErr (confDisagrees s pn r.conf (rgnKey pn r.id) r.idx.isSome) 16 32 r.conf stEndpoint
    ++ (if originOk r1 c1 r.img.rows r.img.cols then elemErrs s pn false r.img r1 c1 ++ copies.flatten else [])
    ++ r.img.agts.flatMap fun a =>
      if !partPchan p (epAgt a.1) then [elemErr a.1 stBounds] else if !pchanLive s (epAgt a.1) then [elemErr a.1 stFenced]
      else if (agtOf s (epAgt a.1)).rgn.isSome then [elemErr a.1 stBusy] else []

/-! ### Resuming (R378, R164, R310, R324, R353) -/

/-- Whether a cause is recoverable: PROGRAM, PROMISE_MISSED, MEM_XLATE, LAUNCH_EXHAUSTED, RACE. -/
def recoverable (c : Nat) : Bool := c == 0x1 || c == 0xD10 || c == 0xC02 || c == 0xE04 || c == 0xF01
/-- Whether a frozen region may be resumed: every trap record has a recoverable cause, one that names a unit of a region without
compute tiles among them (R161, R164), and no walker is FAULTED. -/
def rgnRecovers (s : State) (k : Nat) : Bool :=
  !(rgnOf s k).any (·.unitGone) && (rgnTiles s k).all (fun n => (tileOf s n).traps.all fun t => recoverable t.cause)
    && (rgnAgts s k).all fun n => (agtOf s n).st != .faulted
/-- Whether every trap record of a region has been written (R405: until then its engines stay stopped). -/
def recordsWritten (s : State) (k : Nat) : Bool :=
  (rgnTiles s k).all (fun n => (tileOf s n).traps.all fun t => t.written) && (partOf s (k / 2 ^ 32)).heldFault.isEmpty
/-- The place of a part of a descriptor read again: translated through a page walk where its page is not held, or the detail of
the failure. -/
def againAt (s : State) (tile : Nat) (x : W64) : State × Except W64 Loc :=
  match addrForm x with
  | .mt m off => (s, .ok (.mtile m off))
  | .virt v =>
    match xlateNow s (tileDie tile) (tileHolder s tile).2.1 (v / 4096) false with
    | (s1, .ok pp _) => (s1, .ok (physLoc (pp * 4096 + v % 4096)))
    | (s1, .fail why _ _ _) => (s1, .error (BitVec.ofNat 64 (v + why % 256 * 2 ^ 48)))
  | _ => (s, .error x)
/-- A trapped launch presented again (R353): its descriptor is read again. -/
def launchAgain (s : State) (tile : Nat) (t : Trap) : State :=
  match t.again with
  | none => s
  | some (jid, x, try_) =>
    let trapAgain := fun (y : State) (d : W64) => takeTrap y tile { t with cause := 0xC02, detail := d, written := false, time := s.cyc }
    match againAt s tile x with
    | (s1, .error d) => trapAgain s1 d
    | (s1, .ok l1) =>
      match if descHead x = 64 then (s1, .ok l1) else againAt s1 tile (descNext x) with
      | (s2, .error d) => trapAgain s2 d
      | (s2, .ok l2) =>
        descIssue s2 (firingOf tile t.bank t.ctx t.slot ⟨t.trig, t.word, t.lit⟩) x jid try_ (l1, 0) (l2, 0)
/-- A trapped PE re-enters arbitration on the bank of its record; accesses that a race stopped are presented again. DESIGN CHOICE
(log 111): of several trap records, the last one's bank. -/
def resumeTile (s : State) (n : Nat) : State :=
  let ts := (tileOf s n).traps
  let s1 := modTile s n fun t =>
    { t with stopped := false, traps := [], xfails := [], bank := (ts.getLast?.map (·.bank)).getD t.bank }
  let s2 := { s1 with accs := s1.accs.map fun a =>
    match a.agent with
    | .bank t _ => if t = n && a.done && !a.ok && a.cause == 0xF01 then
        { a with done := false, ok := true, cause := 0, race := none, due := s.cyc + 1, port := none } else a
    | _ => a }
  ts.foldl (fun x t => launchAgain x n t) s2
/-- A region resumed (R378): every element works again. STALLED walkers stay STALLED, but for one that a race has stalled, whose
access is presented again (R324; DEDUCED, log 87). -/
def resumeRegion (s : State) (k : Nat) : State :=
  let s1 := modRgn s k fun r => { r with st := .live, stopAt := none, wasFrozen := false }
  let s2 := (rgnTiles s1 k).foldl resumeTile s1
  (rgnAgts s2 k).foldl (fun x n => if (agtOf x n).raced.isSome then agtResumeNow x n else x) s2

/-! ### Releasing (R374) -/

/-- Whether a rewire of a region is past the steps in which an event fails it: it completes first (R373). -/
def rewireEnds (r : Region) : Bool := r.rewire.any fun w => w.step == 3
/-- Every walk of a region ends as `agt.stop` ends it (R248), and unpublished chain entries are discarded (R280). A rewire in its
first two steps fails (R373). -/
def releaseStart (s0 : State) (k : Nat) : State :=
  let s := preempt s0 k
  let s1 := (rgnAgts s k).foldl (fun x n =>
    let a := agtOf x n
    if agtResting a then x
    else setAgt { x with accs := x.accs.filter fun y => !(y.agent == .walk n && y.cause == 0xF01) } n (agtGiveUp a)) s
  let s2 := (rgnBtes s1 k).foldl (fun x n =>
    let c := bteOf x (n / 16) (n % 16)
    setBte x (n / 16) (n % 16) (if c.w0.getLsbD 62 then { c with issued := max c.tail c.taken } else c)) s1
  let s3 := if (rgnOf s k).any fun r => r.st == .live then stopNow s2 k else s2
  modRgn (undrain s3 k false) k fun r => { r with releasing := some 0 }
/-- Whether a release can end: every walk has ended, every command has reported, and a rewire past its second step is complete
(R373). -/
def releaseReady (s : State) (k : Nat) : Bool :=
  !(rgnOf s k).any rewireEnds && (rgnAgts s k).all (fun n => let a := agtOf s n
    !a.stopping && agtResting a && agtQuiet s n && a.buf.isEmpty)
    && (rgnBtes s k).all fun n =>
      let c := bteOf s (n / 16) (n % 16)
      c.q.isEmpty && c.run.isNone && c.rep.isEmpty && decide (c.tail ≤ c.taken)
/-- What a released region still has under way dropped: nothing of it answers any more, and a launch that it was bound to does not
complete (R338). -/
def releaseEnd (s : State) (k : Nat) (r : Region) : State :=
  let ts := rgnTiles s k
  let s1 := { s with accs := s.accs.filter (fun a => !(agentOf s k a.agent && (a.done || (match a.op with | .read => true | _ => false)))),
                     futOps := s.futOps.filter (fun o => !(ts.contains o.tile && o.op == 4)) }
  let here := fun x : State => (x.tiles.filter fun t => t.2.rgn == some k).foldl (dropAll r.part r.id) x
  let s2 := freeRegion (if r.st = .shadow then inShadow s1 r.part here else here s1) k r
  let s3 := { s2 with rgns := mapDel s2.rgns k }
  modPart s3 r.part fun p => { p with devq := p.devq.map fun l =>
    { l with stuck := l.stuck || l.bound.contains k, bound := l.bound.filter (· != k), given := l.given.filter fun g => g.2.2 != some k } }

/-! ### Shadow swap (R381) -/

/-- The region instances of a partition in some state. -/
def partRgns (s : State) (pn : Nat) : List (Nat × Region) := s.rgns.filter fun x => x.2.part == pn
/-- Whether a partition's elements may be exchanged now: 64 cycles are over, no firing waits for a result, and no load is
outstanding. -/
def exchangeDue (s : State) (pn : Nat) : Option Nat :=
  (partOf s pn).swap.bind fun (c, tag) =>
    if c + 64 ≤ s.cyc && (partRgns s pn).all (fun x => x.2.st == .shadow || x.2.st == .saved || (jobsSettled s x.1 && recordsWritten s x.1
        && !rewireEnds x.2
        && s.accs.all fun a => match a.agent with
          | .bank _ _ => !agentOf s x.1 a.agent || !answered a || (a.done && a.race.isNone && !a.ok)
          | _ => true)) then some tag else none
/-- The regions of a partition after an exchange: those that were live or frozen are in shadow storage, the others take the
states they had before. -/
def exchangeSt (r : Region) : Region :=
  match r.st with
  | .live => { r with st := .shadow, wasFrozen := false, stopAt := none }
  | .frozen => { r with st := .shadow, wasFrozen := true, stopAt := none }
  | .shadow => { r with st := if r.wasFrozen then .frozen else .live, wasFrozen := false }
  | .saved => r
/-- The live halves of local memory and of memory tiles exchanged (R217, R381). -/
def flipHalves (s : State) (pn : Nat) : State :=
  let p := partOf s pn
  { s with tiles := s.tiles.map (fun x => if partTile p x.1 then (x.1, { x.2 with half := x.2.half.map not }) else x),
           mtiles := s.mtiles.map fun x => if partMt p x.1 then (x.1, { x.2 with half := x.2.half.map not }) else x }
/-- SHADOW_EXCHANGE (R381). -/
def execShadowExchange (part : Nat) (s : State) : Host.Outcome State Fault Refusal :=
  match exchangeDue s part with
  | none => .next s
  | some tag =>
    let s1 := flipHalves (exchange s part) part
    let s2 := { s1 with rgns := s1.rgns.map fun x => if x.2.part = part then (x.1, exchangeSt x.2) else x }
    let s3 := (partRgns s2 part).foldl (fun x e => if e.2.st = .live then
      (rgnTiles x e.1).foldl (fun y n => modTile y n fun t => { t with stopped := !t.traps.isEmpty }) x else x) s2
    .next (tagEnd (modPart s3 part fun p => { p with swap := none }) part tag 0 0)

end Sys2Proof.Machine
end

