-- ==== Sys2Proof/Machine/Requests.lean ====
section
/-! DEFINITION. The host requests on regions, partitions, translations and inter-partition queues (R374, R375, R377, R381,
R382, R407, R410 to R412). A request that can wait is begun and carried on by the same event. -/
namespace Sys2Proof.Machine

/-! ### The shape of a request (R407) -/

/-- A status or a record field whose value the spec does not give: a free value. -/
def openStatus (s : State) : Nat := Config.choice s.free % 65536
/-- The state with a free value used. -/
def useFree (s : State) : State := { s with free := s.free + 1 }
/-- Whether a byte of a request's body outside the fields given (offset, length) is not zero. -/
def reqReserved (e : BitVec 512) (l : List (Nat × Nat)) : Bool :=
  (List.range 56).any fun i => !(l.any fun f => decide (f.1 ≤ i + 8) && decide (i + 8 < f.1 + f.2)) && reqFld e (i + 8) 1 != 0
/-- What refuses a request before its own rule is looked at: NOT_READY before BOOTDONE, REQ_FORMAT. -/
def reqBar (s : State) (e : BitVec 512) (bad : Bool) : Option Nat :=
  if !s.host.booted then some 0x118 else if reqFld e 3 1 != 0 || decide (16 ≤ reqPart e) || bad then some 0x117 else none
/-- Whether the clock of a request's region has room for the two releases of its layout descriptor (R321, R360): an INSTALL's, by
the holder that it gives, or a RESTORE's. -/
def reqRoom (s : State) (e : BitVec 512) : Bool :=
  match reqFld e 0 2 with
  | 0x02 => clockRooms (partOf s (reqPart e)) (insHolder e) 2
  | 0x09 => (rgnOf s (rgnKey (reqPart e) (reqFld e 8 4))).all fun r => clockRooms (partOf s r.part) r.holder 2
  | _ => true
/-- The partitions that a request names: its own, and for QLINK those of its two tiles (R407, R412). -/
def reqNames (s : State) (e : BitVec 512) : List Nat :=
  reqPart e :: if reqFld e 0 2 = 0x0F then (mtOwner s (epMt (reqFld e 8 4))).toList ++ (mtOwner s (epMt (reqFld e 12 4))).toList else []
/-- Whether a request cannot be begun: one that names a partition of its own is under way, a response is still to be written (R407),
or die 0 is fenced and takes no host work (R34). -/
def reqBusy (s : State) (e : BitVec 512) : Bool :=
  (reqNames s e).any (fun p => (partOf s p).busy.isSome || s.host.reqs.any fun q => (reqNames s q.entry).contains p)
    || recWaits s .port || dieFenced s 0
/-- A request that takes effect at once: its status and value. -/
def reqOnce (s : State) (e : BitVec 512) (bad : Bool) (act : State → State × Nat × Nat) : Host.Outcome State Fault Refusal :=
  if reqBusy s e then .next s
  else match reqBar s e bad with
    | some st => .next (respond s (reqTag e) st 0)
    | none =>
      let (s1, st, v) := act s
      .next (respond s1 (reqTag e) st v)
/-- What a request under way has still to do. -/
def reqTodo (s : State) (e : BitVec 512) : Option (List Nat) := (s.host.reqs.find? fun q => q.entry == e).map (·.todo)
/-- What a request under way has to do next, replaced. -/
def reqSet (s : State) (e : BitVec 512) (l : List Nat) : State :=
  modHost s fun h => { h with reqs := h.reqs.map fun q => if q.entry = e then { q with todo := l } else q }
/-- A request that can wait: `first` answers it or begins it, `more` carries it on. -/
def reqLong (s : State) (e : BitVec 512) (bad : Bool) (first : State → State × (Nat ⊕ List Nat)) (more : State → List Nat → State) :
    Host.Outcome State Fault Refusal :=
  match reqTodo s e with
  | some l => .next (more s l)
  | none =>
    if reqBusy s e then .next s
    else match reqBar s e bad with
      | some st => .next (respond s (reqTag e) st 0)
      | none => match first s with
        | (s1, .inl st) => .next (respond s1 (reqTag e) st 0)
        | (s1, .inr l) => .next (reqBegin s1 e l)
/-- The region instance that a request names at an offset, or the status that refuses it (R374). -/
def reqRgn (s : State) (e : BitVec 512) (off : Nat) (ok : RgnSt → Bool) : Except Nat (Nat × Region) :=
  let k := rgnKey (reqPart e) (reqFld e off 4)
  match rgnOf s k with
  | none => .error 0x109
  | some r => if ok r.st then .ok (k, r) else .error 0x111
/-- LIVE or FROZEN. -/
def stLiveFrozen (x : RgnSt) : Bool := x == .live || x == .frozen

/-! ### PART_SET (R28, R411) -/

/-- A field of a descriptor. -/
def descFld (d : BitVec 2048) (off len : Nat) : Nat := recFld d off len
/-- Reserved bits of a descriptor, a race mode that does not exist, and shares that include index 0 of die 0 (R356). -/
def descBad (d : BitVec 2048) : Bool :=
  descFld d 108 1 / 64 != 0 || descFld d 108 1 / 16 % 4 == 3 || descFld d 109 1 / 16 != 0 || descFld d 110 2 != 0
    || descFld d 216 40 != 0 || (descFld d 184 2 == 0 && descFld d 186 2 != 0) || (descFld d 188 2 == 0 && descFld d 190 2 != 0)
/-- Whether two ranges meet. -/
def rangesMeet (a m b n : Nat) : Bool := decide (0 < m) && decide (0 < n) && decide (a < b + n) && decide (b < a + m)
/-- The ranges of a descriptor: offsets of base and count, their lengths, and how many there are in the part. -/
def descRanges : List (Nat × Nat × Nat × Nat) :=
  [(96, 100, 4, 8192), (104, 106, 2, 1024)] ++ (List.range 4).flatMap fun d => [(184 + 8 * d, 186 + 8 * d, 2, 4096), (188 + 8 * d, 190 + 8 * d, 2, 1024)]
/-- Whether a resource of one descriptor belongs to the other. -/
def descsMeet (a b : BitVec 2048) : Bool :=
  a.setWidth 768 &&& b.setWidth 768 != 0
    || descRanges.any fun (o, c, n, _) => rangesMeet (descFld a o n) (descFld a c n) (descFld b o n) (descFld b c n)
/-- Whether a descriptor names a resource that the part does not have. -/
def descPast (d : BitVec 2048) : Bool := descRanges.any fun (o, c, n, m) => decide (0 < descFld d c n) && decide (m < descFld d o n + descFld d c n)
/-- Whether a descriptor holds less than R28's minimum: a cluster, a pseudo-channel, a work queue and a clock-holder id. -/
def descShort (d : BitVec 2048) : Bool := descFld d 0 64 == 0 || descFld d 64 32 == 0 || descFld d 100 4 == 0 || descFld d 106 2 == 0
/-- A future of a share set again: a retired one can be allocated once more (R344). -/
def futAgain (f : Fut) : Fut := if f.retired then { f with retired := false, gen := 0 } else f
/-- A group of a share set again. -/
def grpAgain (g : Grp) : Grp := if g.retired then { g with retired := false, gen := 0 } else g
/-- The futures and groups of a partition's shares on a die. -/
def sharesAgain (x : Die) (d : BitVec 2048) (n : Nat) : Die :=
  let inR := fun (o c i : Nat) => decide (descFld d o 2 ≤ i) && decide (i < descFld d o 2 + descFld d c 2)
  { x with futs := x.futs.map (fun f => if inR (184 + 8 * n) (186 + 8 * n) f.1 then (f.1, futAgain f.2) else f),
           grps := x.grps.map fun g => if inR (188 + 8 * n) (190 + 8 * n) g.1 then (g.1, grpAgain g.2) else g }
/-- A partition's descriptor written. Indices of a ring whose word changes begin at 0 again, and so does a pool that
changes. -/
def partWrite (s : State) (pn : Nat) (d : BitVec 2048) : State :=
  let p := partOf s pn
  let same := fun (o n : Nat) => p.isSet && descFld p.desc o n == descFld d o n
  let p1 := { p with
    desc := d, isSet := true, faultPI := if same 152 8 then p.faultPI else 0, racePI := if same 168 8 then p.racePI else 0,
    poolNext := if same 120 16 then p.poolNext else 0 }
  let s1 := { setPart s pn p1 with dies := s.dies.mapFinIdx fun i x _ => sharesAgain x d i }
  let m := descFld d 108 1 / 16 % 4
  if m = p.raceMode && p.raceNext.isNone then s1 else setRaceMode s1 pn m
/-- PART_SET (R411). Fewer resources than R28's minimum are refused with a status that the spec does not give (log 65). -/
def execPartSet (e : BitVec 512) (s : State) : Host.Outcome State Fault Refusal :=
  reqOnce s e (reqReserved e [(8, 8)]) fun s =>
    let pn := reqPart e
    let d : BitVec 2048 := BitVec.ofNat 2048 (physGet s (reqFld e 8 8) 256)
    if !(partRgns s pn).isEmpty then (s, 0x11A, 0)
    else if descBad d then (s, 0x117, 0)
    else if descPast d || (List.range 16).any (fun q => q != pn && (partOf s q).isSet && descsMeet d (partOf s q).desc) then (s, 0x109, 0)
    else if descShort d then (useFree s, openStatus s, 0)
    else (partWrite s pn d, 0, 0)

/-! ### INSTALL, RELEASE (R410, R374) -/

/-- INSTALL (R106, R410). -/
def execInstall (e : BitVec 512) (s : State) : Host.Outcome State Fault Refusal :=
  reqOnce s e false fun s => let (s1, st) := installDo s e; (s1, st, 0)
/-- A stop of a region that a request overtakes: its STOP record, with a status that R422 does not give. -/
def stopOvertaken (s : State) (k : Nat) (r : Region) : State :=
  match r.drain with
  | some d => if d.kind = 0 then s else reportStop (useFree s) k r d (openStatus s)
  | none => s
/-- A request under way ended without a response: a release that the placement engine has asked for (R398). -/
def reqDrop (s : State) (e : BitVec 512) : State := modHost s fun h => { h with reqs := h.reqs.filter fun q => q.entry != e }
/-- A SAVED region released: its save goes, and with it the packets that waited at its tiles (R393). -/
def savedEnd (s : State) (k : Nat) (r : Region) : State :=
  match r.image.map fun va => r.part * 2 ^ 52 + va with
  | some va =>
    let s1 := ((mapFind s.saves va).map (·.tiles)).getD [] |>.foldl (dropAll r.part r.id) s
    { s1 with rgns := mapDel s1.rgns k, saves := mapDel s1.saves va }
  | none => { s with rgns := mapDel s.rgns k }
/-- RELEASE (R374). -/
def execRelease (e : BitVec 512) (s : State) : Host.Outcome State Fault Refusal :=
  reqLong s e (reqReserved e [(8, 4)])
    (fun s => match reqRgn s e 8 (fun _ => true) with
      | .error st => (s, .inl st)
      | .ok (k, r) =>
        if r.st = .saved then
          (savedEnd s k r, .inl 0)
        else (releaseStart (stopOvertaken s k r) k, .inr [0]))
    fun s l =>
      let k := reqKey e
      let fin := fun x : State => if l == [1] then reqDrop x e else reqEnd x e 0 0
      match rgnOf s k with
      | none => fin s
      | some r => if releaseReady s k then fin (releaseEnd s k r) else s

/-! ### SHRINK (R375) -/

/-- The end of a tile list. -/
def listEnd : Nat := 0xFFFFFFFF
/-- A tile list: 4-byte endpoints up to `listEnd`; none where a page does not translate. -/
def tileList (s : State) (pn va : Nat) : Nat → Option (List Nat)
  | 0 => some []
  | n + 1 =>
    match virtGet s pn va 4 with
    | none => none
    | some x => if x = listEnd then some [] else (tileList s pn (va + 4) n).map fun l => x :: l
/-- The operators that stand on tiles of a set. -/
def shrinkOps (r : Region) (ts : List Nat) : List Nat := (rgnOps r).filter fun op => ts.contains (opHost r op)
/-- An operator with a copy on a tile of the set: its clones are retired first. -/
def shrinkRetire (r : Region) (ts : List Nat) : Option Nat := (r.clones.find? fun c => c.copies.any ts.contains).map (·.op)
/-- The variants chosen for the operators of a set, in order of declaration, each with the operator it moves. -/
def shrinkFolds (r : Region) (ts : List Nat) : List (Nat × Nat) :=
  r.img.folds.zipIdx.foldl (fun l (v, n) =>
    if (shrinkOps r ts).contains v.src && !(l.any fun x => x.2 == v.src) && (foldOf r v.src).isNone && !ts.contains (epTile v.dst)
        && (foldOf r v.dst).isNone && !(r.clones.any fun c => c.copies.contains (epTile v.dst) && !(c.copies.any ts.contains))
        && r.img.folds.zipIdx.all (fun (w, m) => !(decide (m < n) && w.dst == v.dst) || r.folds.any (fun f => f.idx == m)
            || l.any fun x => x.1 == m)
    then l ++ [(n, v.src)] else l) []
/-- Whether the variants cover a set. -/
def shrinkCovers (s : State) (r : Region) (ts : List Nat) : Bool :=
  (shrinkOps r ts).all fun op => (opChan s r op).isSome && (shrinkFolds r ts).any fun x => x.2 == op
/-- The next rewire of a SHRINK: retirements first, then the variants. -/
def shrinkNext (r : Region) (ts : List Nat) : Option Plan :=
  match shrinkRetire r ts with
  | some op => some (baroPlan 2 op 0)
  | none => ((shrinkFolds r ts).head?).map fun x => baroPlan 3 x.2 x.1
/-- The set of a SHRINK, or the status that refuses it. -/
def shrinkSet (s : State) (e : BitVec 512) (k : Nat) : Except Nat (List Nat) :=
  match tileList s (reqPart e) (reqFld e 16 8) 8192 with
  | none => .error 0x117
  | some l =>
    if l.any fun x => decide (2 ^ 19 ≤ x) || epEk x != 0 || epPort x != 0 then .error 0x117
    else if l.any fun x => !partTile (partOf s (reqPart e)) (epTile x) then .error 0x109
    else if l.any fun x => (tileOf s (epTile x)).rgn != some k then .error 0x117
    else .ok (l.map epTile)
/-- SHRINK (R375). -/
def execShrink (e : BitVec 512) (s : State) : Host.Outcome State Fault Refusal :=
  reqLong s e (reqReserved e [(8, 4), (16, 8)])
    (fun s => match reqRgn s e 8 (· == .live) with
      | .error st => (s, .inl st)
      | .ok (k, r) => match shrinkSet s e k with
        | .error st => (s, .inl st)
        | .ok ts => if shrinkCovers s r ts then (preempt s k, .inr (0 :: 0 :: ts)) else (s, .inl 0x112))
    fun s l =>
      let k := reqKey e
      let ts := l.drop 2
      match rgnOf s k with
      | none => reqEnd (useFree s) e (openStatus s) 0
      | some r =>
        if r.st != .live then reqEnd (useFree s) e (openStatus s) 0
        else if r.rewire.isSome || !r.plans.isEmpty || r.drain.isSome || r.stopAt.isSome then s
        else match shrinkNext r ts with
          | none => reqEnd s e (if (shrinkOps r ts).isEmpty then 0 else 0x112) 0
          | some p =>
            if l.take 2 == [p.action, p.op] then reqEnd (useFree s) e (openStatus s) 0
            else reqSet (setRgn s k { r with rewire := some (rewireNew s r p) }) e (p.action :: p.op :: ts)

/-! ### DRAIN_SAVE, FULL_SAVE, SWAP (R376, R379, R381) -/

/-- A request for a full save pre-empts a rewire (R373), and stops the region where none is to complete first: what it has to do. -/
def saveBegin (s : State) (k : Nat) (r : Region) : State × List Nat :=
  if rewireEnds r then (s, [3]) else
    let s1 := preempt s k
    (match rgnOf s1 k with
     | some q => saveStop s1 k q
     | none => s1, [1])
/-- A full save taken once nothing that the region has issued is under way; 3 waits for a rewire to complete. -/
def fullMore (s : State) (e : BitVec 512) : State :=
  let k := reqKey e
  match rgnOf s k with
  | none => reqEnd (useFree s) e (openStatus s) 0
  | some r =>
    if reqTodo s e = some [3] then (if rewireEnds r then s else reqSet (saveBegin s k r).1 e (saveBegin s k r).2)
    else if r.drain.isNone && opsSettled s k then
      let (s1, st) := saveMake s k (reqFld e 16 8) true false ((reqFld e 24 1).testBit 0)
      saveAnswer s1 (reqPart e) (reqTag e) st
    else s
/-- The drain of a DRAIN_SAVE. -/
def saveDrain (s : State) (e : BitVec 512) : Drain :=
  { kind := 0, start := s.cyc, k := 0, area := reqFld e 16 8, keep := (reqFld e 24 1).testBit 0, cause := 0, value := 0, elem := 0,
    part := reqPart e, tag := reqTag e, resp := true, left := [], gone := [] }
/-- Reserved bits of a save request. -/
def saveReserved (e : BitVec 512) : Bool := reqReserved e [(8, 4), (16, 8), (24, 1)] || reqFld e 24 1 / 2 != 0
/-- DRAIN_SAVE (R376): 0 the drain is to be begun, 1 a full save follows, 2 draining, 3 a rewire completes before a full save. -/
def execDrainSave (e : BitVec 512) (s : State) : Host.Outcome State Fault Refusal :=
  reqLong s e (saveReserved e)
    (fun s => match reqRgn s e 8 stLiveFrozen with
      | .error st => (s, .inl st)
      | .ok (k, r) =>
        if !areaPinned (partOf s (reqPart e)) (reqFld e 16 8) then (s, .inl 0x113)
        else if r.st = .frozen then ((saveBegin s k r).1, .inr (saveBegin s k r).2) else (s, .inr [0]))
    fun s l => match l with
      | 0 :: _ =>
        let k := reqKey e
        (match rgnOf s k with
         | none => reqEnd (useFree s) e (openStatus s) 0
         | some r =>
           if r.st = .frozen then reqSet (saveBegin s k r).1 e (saveBegin s k r).2
           else if r.drain.isSome || rewireEnds r then s
           else reqSet (setRgn s k { r with drain := some (saveDrain s e) }) e [2])
      | 2 :: _ => s
      | _ => fullMore s e
/-- FULL_SAVE (R379). -/
def execFullSave (e : BitVec 512) (s : State) : Host.Outcome State Fault Refusal :=
  reqLong s e (saveReserved e)
    (fun s => match reqRgn s e 8 stLiveFrozen with
      | .error st => (s, .inl st)
      | .ok (k, r) =>
        if !areaPinned (partOf s (reqPart e)) (reqFld e 16 8) then (s, .inl 0x113)
        else ((saveBegin s k r).1, .inr (saveBegin s k r).2))
    fun s _ => fullMore s e
/-- The regions of a partition told to stop for an exchange, each within 64 cycles (R381). -/
def swapStops (s : State) (pn : Nat) : State :=
  (partRgns s pn).foldl (fun x e => if e.2.st = .live then stopRegion x e.1 else x) s
/-- SWAP (R381): accepted once no region of the partition drains; the exchange answers it. -/
def execSwap (e : BitVec 512) (s : State) : Host.Outcome State Fault Refusal :=
  reqLong s e (reqReserved e [(8, 4)])
    (fun s => match reqRgn s e 8 (· != .saved) with
      | .error st => (s, .inl st)
      | .ok _ => if (partOf s (reqPart e)).isArmed then (s, .inr [0]) else (useFree s, .inl (openStatus s)))
    fun s l => match l with
      | 0 :: _ =>
        let pn := reqPart e
        if (partRgns s pn).any fun x => x.2.drain.isSome || x.2.releasing.isSome || rewireEnds x.2 then s
        else reqSet (swapStops (modPart s pn fun p => { p with swap := some (s.cyc, reqTag e) }) pn) e [1]
      | _ => s

/-! ### RESUME, RESTORE (R378, R380) -/

/-- RESUME (R378): decided once the stop that a trap has begun is made and every trap record of the region is written. -/
def execResume (e : BitVec 512) (s : State) : Host.Outcome State Fault Refusal :=
  reqLong s e (reqReserved e [(8, 4)])
    (fun s => match reqRgn s e 8 stLiveFrozen with
      | .error st => (s, .inl st)
      | .ok (_, r) => if r.st = .live && r.stopAt.isNone then (s, .inl 0) else (s, .inr [0]))
    fun s _ =>
      let k := reqKey e
      match rgnOf s k with
      | none => reqEnd (useFree s) e (openStatus s) 0
      | some r =>
        if r.st = .live || r.drain.isSome || !recordsWritten s k then s
        else if rgnRecovers s k then reqEnd (resumeRegion s k) e 0 0
        else reqEnd s e 0x115 0
/-- RESTORE (R380). -/
def execRestore (e : BitVec 512) (s : State) : Host.Outcome State Fault Refusal :=
  reqOnce s e (reqReserved e [(8, 4), (16, 8), (24, 2)]) fun s =>
    match reqRgn s e 8 (· == .saved) with
    | .error st => (s, st, 0)
    | .ok (k, r) =>
      match snapAt s r.part r.id (reqFld e 16 8) with
      | none => (useFree s, openStatus s, 0)
      | some x =>
        let r1 := reqFld e 24 1
        let c1 := reqFld e 25 1
        match errSort (restoreErrs s x r1 c1) with
        | er :: l => (cfgRecords s r.part r.id (er :: l), er.st, 0)
        | [] =>
          let s1 := putSnap s k x r1 c1
          (writeDesc (banksChanged s s1 r.part) k, 0, 0)

/-! ### APPROVE, PLAN (R377, R382) -/

/-- APPROVE (R377): the proposed rewire starts, where no window has ended since (it has lapsed then), unless one is under way or a plan is pending. -/
def execApprove (e : BitVec 512) (s : State) : Host.Outcome State Fault Refusal :=
  reqOnce s e (reqReserved e [(8, 6)]) fun s =>
    match reqRgn s e 8 (· == .live) with
    | .error st => (s, st, 0)
    | .ok (k, r) =>
      match r.proposals.find? fun p => p.num == reqFld e 12 2 && p.window == r.win with
      | none => (useFree s, openStatus s, 0)
      | some p =>
        if r.rewire.isSome || !r.plans.isEmpty then (useFree s, openStatus s, 0)
        else (setRgn s k { r with rewire := some (rewireNew s r p),
                                  proposals := r.proposals.filter fun q => q.num != p.num }, 0, 0)
/-- Whether a plan is bad (R382). -/
def planBad (s : State) (e : BitVec 512) (r : Region) : Bool :=
  let act := reqFld e 8 2
  let op := reqFld e 16 4
  let tgt := reqFld e 20 4
  act == 0 || decide (4 < act) || reqFld e 10 2 != 0 || reqFld e 32 8 != 0 || !(rgnOps r).contains op || (opChan s r op).isNone
    || decide (8 ≤ r.plans.length)
    || (match act with
        | 1 => !cloneable s r op || (foldOf r op).isSome || decide (polMaxc r.policy + 1 ≤ (opCopies r op).length)
            || polChunk r.policy == 0 || decide (2 ^ 19 ≤ tgt) || epEk tgt != 0 || epPort tgt != 0 || !rgnHasTile s r (epTile tgt)
            || epDie tgt != epDie op
        | 3 => decide ((r.img.folds.filter fun v => v.src == op).length ≤ tgt)
        | _ => tgt != 0)
/-- PLAN (R382): the plan joins the region's plans; the first is armed at once (R383). -/
def execPlan (e : BitVec 512) (s : State) : Host.Outcome State Fault Refusal :=
  reqOnce s e (reqReserved e [(8, 32)]) fun s =>
    match reqRgn s e 12 (· == .live) with
    | .error st => (s, st, 0)
    | .ok (k, r) =>
      if planBad s e r then (s, 0x116, 0)
      else
        let p : Plan := { action := reqFld e 8 2, op := reqFld e 16 4, target := reqFld e 20 4, cut := some (reqFld e 24 8), num := 0,
                          armed := false, held := false, window := r.win }
        (planArm (setRgn s k { r with plans := r.plans ++ [p] }) k, 0, 0)

/-! ### ARM, AGT_RESUME, INVAL (R379, R381, R263, R257) -/

/-- Whether every page of an area translates for writing. -/
def armPages (s : State) (d pn vp : Nat) : Nat → State × Bool
  | 0 => (s, true)
  | n + 1 =>
    if 2 ^ 36 ≤ vp then (s, false)
    else match xlateNow s d pn vp true with
      | (s1, .ok _ _) => armPages s1 d pn (vp + 1) n
      | (s1, .fail _ _ _ _) => (s1, false)
/-- The tiles and memory tiles of a partition armed (R217, R381): a cache bank is not. -/
def armTiles (s : State) (pn : Nat) : State :=
  let p := partOf s pn
  let s1 := (List.range 8192).foldl (fun x n =>
    if partTile p n then modTile x n fun t => { t with half := some (t.half.getD false) } else x) s
  (List.range 1024).foldl (fun x n =>
    if partMt p n && mtRole (mtileOf x n) != some 2 then setMTile x n { mtileOf x n with half := some ((mtileOf x n).half.getD false) } else x) s1
/-- ARM (R379, R381). -/
def execArm (e : BitVec 512) (s : State) : Host.Outcome State Fault Refusal :=
  reqOnce s e (reqReserved e [(16, 16)]) fun s =>
    let pn := reqPart e
    let va := reqFld e 16 8
    match armPages s (lowDie s) pn (va / 4096) (reqFld e 24 8) with
    | (s1, true) => (armTiles (modPart s1 pn fun p => { p with armed := some (va / 4096 * 4096, reqFld e 24 8), isArmed := true }) pn, 0, 0)
    | (s1, false) => (s1, 0x113, 0)
/-- AGT_RESUME (R263, R407). -/
def execAgtResumeRequest (e : BitVec 512) (s : State) : Host.Outcome State Fault Refusal :=
  reqOnce s e (reqReserved e [(8, 4)]) fun s =>
    let x := reqFld e 8 4
    let n := epAgt x
    if decide (2 ^ 19 ≤ x) || epEk x != 2 || epPort x != 0 || decide (64 ≤ epEn x) || !partPchan (partOf s (reqPart e)) n then (s, 0x109, 0)
    else if (agtOf s n).st = .stalled && ((agtOf s n).rgn.bind (rgnOf s)).any fun r => r.st == .live then (agtResumeNow s n, 0, 0)
    else (s, 0, 0)
/-- The translations of a partition in a range of pages dropped from every TLB. -/
def dropTlbs (s : State) (pn vp n : Nat) : State :=
  let keep := fun t : TlbEnt => !(t.part == pn && decide (vp ≤ t.vp) && decide (t.vp < vp + n))
  { s with dies := s.dies.map (fun d => { d with tlb := d.tlb.filter keep }), agtTlb := s.agtTlb.map fun t => (t.1, t.2.filter keep) }
/-- INVAL (R407, R257): complete when no TLB holds a translation in the range and every walk that began before has ended. -/
def execInval (e : BitVec 512) (s : State) : Host.Outcome State Fault Refusal :=
  let drop := fun x : State => dropTlbs x (reqPart e) (reqFld e 16 8 / 4096) (reqFld e 24 8)
  reqLong s e (reqReserved e [(16, 16)])
    (fun s => (drop s, .inr ((s.walks.filter fun w => w.part == reqPart e).map (·.id))))
    fun s l => if s.walks.any fun w => l.contains w.id then s else reqEnd (drop s) e 0 0

/-! ### Inter-partition queues (R412) -/

/-- Whether an endpoint names a token FIFO with GW = 1. -/
def gwFifo (s : State) (x : Nat) : Bool :=
  decide (x < 2 ^ 19) && epEk x == 1 && epPort x == 0 && decide (epEn x < 256)
    && mtRole (mtileOf s (epMt x)) == some 1 && (mtileOf s (epMt x)).role.getLsbD 59
/-- Plane of a memory tile's role word: control, data. -/
def mtData (m : MTile) : Bool := m.role.getLsbD 60
/-- Reserved bits of a QLINK. -/
def qlinkReserved (e : BitVec 512) : Bool := reqReserved e [(8, 8), (16, 1)] || reqFld e 16 1 / 2 != 0
/-- The status that refuses a QLINK of either kind. -/
def qlinkBad (s : State) (e : BitVec 512) : Option Nat :=
  let a := reqFld e 8 4
  let b := reqFld e 12 4
  if !gwFifo s a || !gwFifo s b then some 0x117
  else if !partMt (partOf s (reqPart e)) (epMt a) || !((List.range 16).any fun q => partMt (partOf s q) (epMt b)) then some 0x109
  else if !mtileLive s (epMt a) || !mtileLive s (epMt b) then some 0x10A
  else if mtData (mtileOf s (epMt a)) != mtData (mtileOf s (epMt b)) then some 0x104
  else none
/-- Whether a gateway already stands in a link: as producer, or as consumer. -/
def qlinkTaken (s : State) (a b : Nat) : Bool := (mtileOf s a).link.isSome || s.mtiles.any fun m => m.2.link == some b
/-- QLINK (R412). -/
def execQlink (e : BitVec 512) (s : State) : Host.Outcome State Fault Refusal :=
  reqOnce s e (qlinkReserved e) fun s =>
    match qlinkBad s e with
    | some st => (s, st, 0)
    | none =>
      let a := epMt (reqFld e 8 4)
      let b := epMt (reqFld e 12 4)
      if qlinkTaken s a b then (useFree s, openStatus s, 0)
      else
        let s1 := setMTile s a { mtileOf s a with link := some b, unlinking := false }
        (setMTile s1 b { mtileOf s1 b with feeder := some a }, 0, 0)
/-- QLINK with the unlink flag (R412): port 2 stops once the tokens already crossing have arrived. -/
def execQlinkUnlink (e : BitVec 512) (s : State) : Host.Outcome State Fault Refusal :=
  let a := epMt (reqFld e 8 4)
  reqLong s e (qlinkReserved e)
    (fun s => match qlinkBad s e with
      | some st => (s, .inl st)
      | none =>
        match (mtileOf s a).link with
        | none => (s, .inl 0)
        | some b =>
          if b = epMt (reqFld e 12 4) then (setMTile s a { mtileOf s a with unlinking := true }, .inr [0])
          else (useFree s, .inl (openStatus s)))
    fun s _ =>
      let m := mtileOf s a
      if m.crossing.isEmpty then reqEnd (setMTile s a { m with link := none, unlinking := false }) e 0 0 else s

end Sys2Proof.Machine
end

