-- ==== Sys2Proof/Machine/Experts.lean ====
section
/-! DEFINITION. The expert placement engine (20_expert_placement.md): replica tables, dispatches, load counters, replication,
retirement, gradient merges, and the host requests on tables (R386 to R400). -/
namespace Sys2Proof.Machine

/-! ### Tables (R386 to R388) -/

/-- Key of a table among the part's: partition * 64 + table. -/
def tabKey (x : XTab) : Nat := x.part * 64 + x.tab
/-- A registered table by its key. -/
def tabAt (s : State) (k : Nat) : Option XTab := s.xtabs.find? fun x => tabKey x == k
/-- A registered table of a partition. -/
def tabOf (s : State) (pn t : Nat) : Option XTab := s.xtabs.find? fun x => x.part == pn && x.tab == t
/-- The state with a table replaced. -/
def setTab (s : State) (x : XTab) : State := { s with xtabs := s.xtabs.map fun y => if tabKey y = tabKey x then x else y }
/-- A header word. -/
def hdrW (x : XTab) (i : Nat) : W64 := mapGet x.hdr i 0
/-- A field of the header. -/
def hdrFld (x : XTab) (off len : Nat) : Nat := (hdrW x (off / 8)).toNat / 2 ^ (8 * (off % 8)) % 2 ^ (8 * len)
/-- NEXP. -/
def tabNexp (x : XTab) : Nat := hdrFld x 8 4
/-- HMODE. -/
def tabHost (x : XTab) : Bool := (hdrW x 1).getLsbD 32
/-- IMODE: intervals in cycles. -/
def tabCycles (x : XTab) : Bool := (hdrW x 1).getLsbD 33
/-- WLEN. -/
def tabWlen (x : XTab) : Nat := hdrFld x 40 4
/-- GLEN. -/
def tabGlen (x : XTab) : Nat := hdrFld x 44 4
/-- A word of an expert's record. -/
def recW (x : XTab) (e i : Nat) : W64 := mapGet x.recs (16 * e + i) 0
/-- The word of a replica slot. -/
def slotW (x : XTab) (e r : Nat) : W64 := recW x e (8 + r)
/-- ST of a slot word: 0 FREE, 1 LIVE, 3 RETIRING. -/
def slotSt (w : W64) : Nat := fld w 63 62
/-- Word i of spare k. -/
def spareW (x : XTab) (k i : Nat) : W64 := hdrW x (8 + 3 * k + i)
/-- SST of spare k: 0 free, 1 in use, 2 failed. -/
def spareSt (x : XTab) (k : Nat) : Nat := fld (spareW x k 1) 63 62
/-- A word with its top two bits replaced. -/
def topBits (w : W64) (n : Nat) : W64 := BitVec.ofNat 64 (n * 2 ^ 62 + fld w 61 0)
/-- The dies that are live. -/
def liveDies (s : State) : List Nat := (List.range 4).filter fun d => !dieFenced s d
/-- A table's copies on their way to every live die: die and arrival. -/
def toDies (s : State) : State × List (Nat × Nat) :=
  (liveDies s).foldl (fun (x, l) d => let (dl, y) := freeDelay x; (y, l ++ [(d, s.cyc + 1 + dl)])) (s, [])
/-- A table as a die adopts it: version and slots. -/
def adoptedFrom (x : XTab) : Adopted :=
  { part := x.part, tab := x.tab, ver := x.ver, nexp := tabNexp x,
    slots := (x.recs.filter fun r => decide (8 ≤ r.1 % 16)).map fun r => (8 * (r.1 / 16) + r.1 % 16 - 8, r.2) }
/-- The table that a die has adopted. -/
def adoptedOf (s : State) (d pn t : Nat) : Option Adopted := (dieOf s d).tabs.find? fun a => a.part == pn && a.tab == t
/-- A die with a table adopted. -/
def dieAdopt (s : State) (d : Nat) (a : Adopted) : State :=
  modDie s d fun x => { x with tabs := (x.tabs.filter fun b => !(b.part == a.part && b.tab == a.tab)) ++ [a] }
/-- The words of a table in memory: header and records; none where a page does not translate. -/
def tabRead (s : State) (pn va : Nat) : Option (SMap W64 × SMap W64) :=
  let words := fun (base n : Nat) => (List.range n).foldr (fun i (l : Option (SMap W64)) =>
    l.bind fun l => (virtGet s pn (base + 8 * i) 8).map fun w => if w = 0 then l else (i, BitVec.ofNat 64 w) :: l) (some [])
  (words va 64).bind fun h =>
    let nexp := (mapGet h 1 (0 : W64)).toNat % 2 ^ 32
    if nexp < 1 || 1024 < nexp then none else (words (va + 512) (16 * nexp)).map fun r => (h, r)

/-! ### Checks at registration (R386, R387, R388) -/

/-- Whether a destination and region of a defined spare fail. -/
def spareBad (s : State) (pn : Nat) (x : XTab) (k : Nat) : Bool :=
  let w := spareW x k 0
  w.getLsbD 63 && (fld w 62 58 != 0 || !liveTileEp s (partOf s pn) (fld w 57 39) || (rgnOf s (rgnKey pn (fld w 31 0))).isNone
    || spareSt x k == 3 || fld (spareW x k 1) 61 48 != 0 || fld (spareW x k 2) 63 48 != 0)
/-- Whether a slot of an expert fails. -/
def slotBad (s : State) (pn : Nat) (x : XTab) (e r : Nat) : Bool :=
  let w := slotW x e r
  fld w 31 0 != 0 || slotSt w == 2 || (r == 0 && (slotSt w != 1 || fld w 61 58 != 0))
    || (slotSt w != 0 && !liveTileEp s (partOf s pn) (fld w 57 39))
/-- Whether a length of the header is outside its limits. -/
def lenBad (n : Nat) : Bool := n % 64 != 0 || decide (n < 64) || decide (2 ^ 26 < n)
/-- Whether a table read from memory is refused. -/
def tabBad (s : State) (pn : Nat) (x : XTab) : Bool :=
  fld (hdrW x 0) 63 16 != 0 || decide (4 ≤ hdrFld x 12 4) || decide (hdrFld x 24 8 < 1) || decide (2 ^ 48 < hdrFld x 24 8)
    || fld (hdrW x 4) 11 0 != 0 || fld (hdrW x 4) 63 48 != 0 || lenBad (tabWlen x) || lenBad (tabGlen x) || hdrW x 7 != 0
    || (List.range 8).any (fun i => hdrW x (56 + i) != 0) || (List.range 16).any (spareBad s pn x)
    || (List.range (tabNexp x)).any fun e =>
      fld (recW x e 0) 63 48 != 0 || fld (recW x e 1) 63 48 != 0 || (List.range 6).any (fun i => recW x e (2 + i) != 0)
        || (List.range 8).any (slotBad s pn x e)
/-- A table as the engine takes it up from memory. -/
def tabNew (s : State) (pn t va : Nat) (h r : SMap W64) : XTab :=
  let n := (mapGet h 3 (0 : W64)).toNat
  { part := pn, tab := t, va := va, hdr := h, recs := r, ver := (mapGet h 0 (0 : W64)).toNat % 65536, counts := [], lastCounts := [],
    got := 0, interval := 0, nextEnd := (s.cyc / n + 1) * n, inf := [], step := 0, merged := (mapGet h 6 (0 : W64)).toNat, steps := [],
    adopting := [], regOf := none, pubs := none, target := none, copied := 0, op := 0, fail := none }

/-! ### The engine's accesses (R311, R391, R431) -/

/-- The access of the engine for a partition. -/
def placeAcc (pn : Nat) : Acc := { acc0 with agent := .place, holder := (Config.holder 1 pn 0).toNat, part := pn }
/-- A virtual address translated for the engine: the physical one, or the BTE-style status. -/
def placeAt (s : State) (pn va : Nat) (write : Bool) : State × Except Nat Nat :=
  if 2 ^ 48 ≤ va then (s, .error 0xD02)
  else match xlateNow s 0 pn (va / 4096) write with
    | (s1, .ok pp _) =>
      if pp * 4096 / 2 ^ 50 = 1 then (s1, .error 0xD03)
      else if isHbm (pp * 4096) && !pchanLive s (pp * 4096 / 2 ^ 31 % 256) then (s1, .error 0x10A)
      else (s1, .ok (pp * 4096 + va % 4096))
    | (s1, .fail _ _ _ _) => (s1, .error 0xD03)
/-- One access of the engine within a line, with the record of a race (R324). -/
def placeDo (s : State) (pn va pa : Nat) (op : AccOp) (n x : Nat) : State × Acc :=
  let (s1, b) := homeAccess s { placeAcc pn with op := op, addr := BitVec.ofNat 64 va, loc := .phys pa, size := n, data := BitVec.ofNat 1024 x }
  match b.race with
  | some r => (faultRecord s1 pn .place r, b)
  | none => (s1, b)
/-- n bytes read by the engine, in pieces of one line: the value, or status and failing address. -/
def placeRead (s : State) (pn va : Nat) : Nat → Nat → State × Except (Nat × Nat) Nat
  | 0, _ => (s, .ok 0)
  | _ + 1, 0 => (s, .ok 0)
  | k + 1, n =>
    let m := min n (128 - va % 128)
    match placeAt s pn va false with
    | (s1, .error st) => (s1, .error (st, va))
    | (s1, .ok pa) =>
      let (s2, b) := placeDo s1 pn va pa .read m 0
      if b.ok then
        match placeRead s2 pn (va + m) k (n - m) with
        | (s3, .ok x) => (s3, .ok (b.val.toNat % 2 ^ (8 * m) + x * 2 ^ (8 * m)))
        | (s3, .error f) => (s3, .error f)
      else (s2, .error (b.cause, va))
/-- n bytes written by the engine: status and address of the first piece that fails. -/
def placeWrite (s : State) (pn va x : Nat) : Nat → Nat → State × Option (Nat × Nat)
  | 0, _ => (s, none)
  | _ + 1, 0 => (s, none)
  | k + 1, n =>
    let m := min n (128 - va % 128)
    match placeAt s pn va true with
    | (s1, .error st) => (s1, some (st, va))
    | (s1, .ok pa) =>
      let (s2, b) := placeDo s1 pn va pa (.write (storeMask m)) m x
      if b.ok then placeWrite s2 pn (va + m) (x / 2 ^ (8 * m)) k (n - m) else (s2, some (b.cause, va))
/-- How a write of the engine ended: made; not made, with an ENGINE_WRITE record (R431); or stopped by a race (R324). -/
inductive PutEnd where
  | made | unmade | raced
  deriving DecidableEq, Repr
/-- A write of the engine under R431; `rel` makes it a release at fabric scope to its line. -/
def placePut (s : State) (pn va x n kind : Nat) (rel : Bool) : State × PutEnd :=
  let (s1, ok) := engineWrite s { placeAcc pn with rel := if rel then some 2 else none } 0 va x n 0 3 kind
  (s1, if ok then .made else match (xlateNow s 0 pn (va / 4096) true).2 with | .ok _ _ => .raced | .fail _ _ _ _ => .unmade)
/-- A header word of a table written, in the engine and in memory; a race leaves it as it was. -/
def putHdr (s : State) (x : XTab) (i : Nat) (w : W64) (kind : Nat) (rel : Bool) : State × PutEnd :=
  let (s1, r) := placePut s x.part (x.va + 8 * i) w.toNat 8 kind rel
  (if r = .raced then s1 else setTab s1 { x with hdr := mapSet x.hdr i w 0 }, r)
/-- Address of a slot word. -/
def slotVa (x : XTab) (e r : Nat) : Nat := x.va + 512 + 128 * e + 64 + 8 * r
/-- A slot word of a table written, in the engine and in memory; a race leaves it as it was. -/
def putSlot (s : State) (x : XTab) (e r : Nat) (w : W64) : State × PutEnd :=
  let (s1, d) := placePut s x.part (slotVa x e r) w.toNat 8 4 false
  (if d = .raced then s1 else setTab s1 { x with recs := mapSet x.recs (16 * e + 8 + r) w 0 }, d)
/-- Address of word 1 of a spare. -/
def sstVa (x : XTab) (sp : Nat) : Nat := x.va + 8 * (8 + 3 * sp + 1)
/-- SST of a spare written. -/
def putSst (s : State) (k sp st : Nat) : State × PutEnd :=
  match tabAt s k with
  | some x => putHdr s x (8 + 3 * sp + 1) (topBits (spareW x sp 1) st) 4 false
  | none => (s, .unmade)
/-- A replication that fails with a race at an address (R324, R398). -/
def opRaced (s : State) (k va : Nat) : State :=
  match tabAt s k with
  | some x => setTab s { x with fail := some (0xF01, va) }
  | none => s
/-- Whether the clock of the engine's holder has room for `n` releases (R321). -/
def placeRoom (s : State) (pn n : Nat) : Bool := clockRooms (partOf s pn) (Config.holder 1 pn 0).toNat n

/-! ### Publishing and adoption (R386, R392) -/

/-- A table whose operation is over: a merge that waits is begun. -/
def opEnd (x : XTab) : XTab := { x with op := if x.steps.isEmpty then 0 else 3, target := none, copied := 0, fail := none }
/-- A publish whose write of VER a race stops (R324): the version is never published, and the operation fails. The slot that it
would have changed goes back; a host's publish is refused with XD_BAD. What a retirement and a host's publish do there is the
model's (DESIGN CHOICE, log 102). -/
def publishRaced (s : State) (k : Nat) (x : XTab) : State :=
  match x.pubs, x.target with
  | some (pn, tag), _ => tagEnd (setTab s { x with pubs := none }) pn tag 0x120 0
  | none, some (e, r, _) =>
    if x.op = 1 then opRaced (putSlot s x e r 0).1 k x.va
    else
      let s1 := (putSlot s x e r (topBits (slotW x e r) 1)).1
      (match tabAt s1 k with | some y => setTab s1 (opEnd y) | none => s1)
  | none, none => s
/-- The version of a table raised: VER written as a release to the table's object, the version sent to every live die. -/
def publish (s : State) (k : Nat) : State :=
  match tabAt s k with
  | none => s
  | some x =>
    let v := (x.ver + 1) % 65536
    let (s1, r) := placePut s x.part x.va v 8 4 false
    let rel := fun y : State => clkRelease y x.part (Config.holder 1 x.part 0).toNat (.table x.tab) 2 (diePlace 0)
    let send := fun y : State =>
      let (z, l) := toDies y
      setTab z { x with ver := v, hdr := mapSet x.hdr 0 (BitVec.ofNat 64 v) 0, adopting := l }
    match r with
    | .made => send (rel s1)
    | .unmade => send s1
    | .raced => publishRaced s1 k x
/-- A table that no die has still to adopt: its operation is over, its request is answered. -/
def adoptDone (s : State) (k : Nat) : State :=
  match tabAt s k with
  | none => s
  | some x =>
    if !x.adopting.isEmpty then s
    else
      let s1 := setTab s { (if x.op = 3 then x else opEnd x) with regOf := none, pubs := none }
      match x.regOf, x.pubs with
      | some (pn, tag), _ => tagEnd s1 pn tag 0 0
      | none, some (pn, tag) => tagEnd s1 pn tag 0 x.ver
      | none, none => s1
/-- Whether a die adopts a table now: at registration, or a version published. -/
def adoptDue (s : State) (k d : Nat) (reg : Bool) : Option XTab :=
  (tabAt s k).bind fun x =>
    if x.regOf.isSome == reg && x.adopting.any fun a => a.1 == d && decide (a.2 ≤ s.cyc) then some x else none
/-- A die adopts a table. -/
def adoptAt (s : State) (k d : Nat) (x : XTab) : State :=
  adoptDone (dieAdopt (setTab s { x with adopting := x.adopting.filter fun a => a.1 != d }) d (adoptedFrom x)) k
/-- TABLE_ADOPT (R386). -/
def execTableAdopt (tab die : Nat) (s : State) : Host.Outcome State Fault Refusal :=
  match adoptDue s tab die true with
  | some x => .next (adoptAt s tab die x)
  | none => .next s
/-- VERSION_ADOPT (R392). -/
def execVersionAdopt (tab die : Nat) (s : State) : Host.Outcome State Fault Refusal :=
  match adoptDue s tab die false with
  | some x => .next (adoptAt s tab die x)
  | none => .next s

/-! ### The instructions (R394, R395, R400) -/

/-- Cycles from a firing to an answer of its die's dispatcher. -/
def dieTrip (s : State) (tile : Nat) : Nat := roundTrip s (tileCluster tile) (tileDie tile * 128)
/-- Cycles from a firing to an answer of the engine on die 0. -/
def engineTrip (s : State) (tile : Nat) : Nat := roundTrip s (tileCluster tile) 0
/-- The LIVE slots of an expert in an adopted table, ascending. -/
def liveSlots (a : Adopted) (e : Nat) : List Nat := (List.range 8).filter fun r => slotSt (mapGet a.slots (8 * e + r) 0) == 1
/-- A count added, saturating (R389). -/
def satAdd (a b : Nat) : Nat := min (a + b) 0xFFFFFFFF
/-- A dispatch counted by its die. -/
def countIn (l : List (Nat × Nat × Nat × Nat)) (pn t e : Nat) : List (Nat × Nat × Nat × Nat) :=
  if l.any fun c => c.1 == pn && c.2.1 == t && c.2.2.1 == e then
    l.map fun c => if c.1 = pn && c.2.1 = t && c.2.2.1 = e then (pn, t, e, satAdd c.2.2.2 1) else c
  else l ++ [(pn, t, e, 1)]
/-- TKW1 of a dispatched packet (R402). -/
def tkw1 (v t e r : Nat) (b : W64) : W64 := BitVec.ofNat 64 (v * 2 ^ 48 + t * 2 ^ 42 + e * 2 ^ 32 + r * 2 ^ 29 + fld b 27 0)
/-- `xd.dispatch` (R394, R395): an acquire from the publish of the version adopted, whether or not it sends a packet. -/
def execXdDispatch (a b : BitVec 5) (d e t : BitVec 4) (s : State) : Host.Outcome State Fault Refusal :=
  pe s (.xdDispatch a b d e t) fun st f o _ =>
    match skipToken (.xdDispatch a b d e t) o with
    | some tk => skipEff st tk 1
    | none =>
      let h := tileHolder st f.tile
      let dd := tileDie f.tile
      let tb := fld f.lit 5 0
      let x := fld o.kb 41 32
      let lat := dieTrip st f.tile
      match adoptedOf st dd h.2.1 tb with
      | none => .go { st := st, lat := lat }
      | some ad =>
        let s1 := clkAcquire st h.2.1 h.1 (.table tb) 2 (tilePlace f.tile) none
        let l := liveSlots ad x
        if ad.nexp ≤ x || l.isEmpty then .go { st := s1, lat := lat }
        else
          let r := l.getD (keyHash o.ka.toNat % l.length) 0
          let w := mapGet ad.slots (8 * x + r) 0
          let w1 := tkw1 ad.ver tb x r o.kb
          let p : Packet := { label := fld w 38 32, two := true, w0 := o.ka, w1 := w1, acq := some (.table tb), slot := some (tb, x, r) }
          let s2 := sendPacket s1 (f.tile * 4 + f.bank) (tileCluster f.tile) (epTile (fld w 57 39)) p
          let s3 := modDie (infAdd s2 h.2.1 tb x r true) dd fun y => { y with counts := countIn y.counts h.2.1 tb x }
          .go { st := s3, r1 := dataR w1, flag := true, lat := lat }
/-- `xd.load` (R400). -/
def execXdLoad (a : BitVec 5) (d e t : BitVec 4) (s : State) : Host.Outcome State Fault Refusal :=
  pe s (.xdLoad a d e t) fun st f o _ =>
    let lat := engineTrip st f.tile
    match tabOf st (tileHolder st f.tile).2.1 (fld f.lit 5 0) with
    | none => .go { st := st, lat := lat }
    | some x =>
      if f.lit.getLsbD 8 then .go { st := st, r1 := dataR (BitVec.ofNat 64 x.interval), flag := true, lat := lat }
      else if o.ka.toNat < tabNexp x then
        .go { st := st, r1 := dataR (BitVec.ofNat 64 (mapGet x.lastCounts o.ka.toNat 0)), flag := true, lat := lat }
      else .go { st := st, lat := lat }
/-- A word of an expert's record as `xd.tab` shows it: a slot that is being copied shows ST = 2 (R391). -/
def tabWord (x : XTab) (e w : Nat) : W64 :=
  match x.target with
  | some (e1, r, _) => if x.op = 1 && x.adopting.isEmpty && e1 = e && w = 8 + r then topBits (recW x e w) 2 else recW x e w
  | none => recW x e w
/-- `xd.tab` (R400). -/
def execXdTab (a : BitVec 5) (d e t : BitVec 4) (s : State) : Host.Outcome State Fault Refusal :=
  pe s (.xdTab a d e t) fun st f o _ =>
    let lat := engineTrip st f.tile
    let w := fld f.lit 11 8
    match tabOf st (tileHolder st f.tile).2.1 (fld f.lit 5 0) with
    | none => .go { st := st, lat := lat }
    | some x =>
      if fld f.lit 13 12 = 2 then .go { st := st, r1 := dataR (hdrW x w), flag := true, lat := lat }
      else if o.ka.toNat < tabNexp x then
        let v := if fld f.lit 13 12 = 0 then tabWord x o.ka.toNat w else BitVec.ofNat 64 (mapGet x.inf (8 * o.ka.toNat + w % 8) 0)
        .go { st := st, r1 := dataR v, flag := true, lat := lat }
      else .go { st := st, lat := lat }
/-- A step of a table ended (R396): its number, and the merge it waits for. -/
def stepEnd (s : State) (x : XTab) (ctx after : Nat) : State :=
  setTab s { x with step := x.step + 1, steps := x.steps ++ [(x.step + 1, ctx, after)], op := if x.op = 0 && x.adopting.isEmpty then 3 else x.op }
/-- `xd.ver` (R400). -/
def execXdVer (a : BitVec 5) (d e t : BitVec 4) (s : State) : Host.Outcome State Fault Refusal :=
  pe s (.xdVer a d e t) fun st f _ _ =>
    let lat := engineTrip st f.tile
    let h := tileHolder st f.tile
    let tb := fld f.lit 5 0
    match fld f.lit 9 8, tabOf st h.2.1 tb with
    | 0, _ =>
      (match adoptedOf st (tileDie f.tile) h.2.1 tb with
       | some ad => .go { st := st, r1 := dataR (BitVec.ofNat 64 ad.ver), flag := true, lat := lat }
       | none => .go { st := st, lat := lat })
    | 1, some x =>
      .go { st := releaseLater (stepEnd st x (f.tile * 4 + f.bank) st.nid)
              { agent := .bank f.tile f.bank, before := st.nid, part := h.2.1, holder := h.1, obj := .step tb, scope := 2 },
            r1 := dataR (BitVec.ofNat 64 (x.step + 1)), flag := true, lat := lat }
    | _, some x =>
      let st1 := match walkTables st h.2.1 ((x.va + 48) / 4096) false with
        | .ok pp _ =>
          let loc := physLoc (pp * 4096 + (x.va + 48) % 4096)
          clkAcquire st h.2.1 h.1 (lineObj loc) 2 (tilePlace f.tile) (some (locPlace loc))
        | _ => st
      .go { st := st1, r1 := dataR (BitVec.ofNat 64 x.merged), flag := true, lat := lat }
    | _, none => .go { st := st, lat := lat }
/-- What `xd.stat` shows of a table's operation. -/
def statWord (x : XTab) (rolls : Nat) : W64 :=
  let v := if x.op = 1 && x.adopting.isEmpty then (x.ver + 1) % 65536 else x.ver
  let e := (x.target.map (·.1)).getD 0
  BitVec.ofNat 64 (v * 2 ^ 48 + x.tab * 2 ^ 42 + e * 2 ^ 32 + x.op * 2 ^ 28 + rolls % 2 ^ 28)
/-- `xd.stat` (R400): the operation of the lowest-numbered table of the partition that has one. -/
def execXdStat (d e t : BitVec 4) (s : State) : Host.Outcome State Fault Refusal :=
  pe s (.xdStat d e t) fun st f _ _ =>
    let pn := (tileHolder st f.tile).2.1
    let lat := engineTrip st f.tile
    let rolls := (partOf st pn).rollbacks
    match (List.range 64).findSome? fun i => (tabOf st pn i).bind fun x => if x.op = 0 then none else some x with
    | some x => .go { st := st, r1 := dataR (statWord x rolls), lat := lat }
    | none => .go { st := st, r1 := dataR (BitVec.ofNat 64 (rolls % 2 ^ 28)), flag := true, lat := lat }

/-! ### Intervals (R389, R390, R399) -/

/-- A PROPOSAL or ROLLBACK record (R399). -/
def placeRec (s : State) (x : XTab) (kind e r op st sp addr count : Nat) : BitVec 512 :=
  recOf [(0, 2, kind), (2, 2, x.ver), (4, 4, x.part * 256 + x.tab), (8, 2, e), (10, 1, r), (11, 1, op), (12, 2, st), (14, 2, sp),
    (16, 8, addr), (24, 4, count), (56, 8, s.cyc)]
/-- The expert that a test admits with the best count, lower number first. -/
def bestExpert (x : XTab) (ok : Nat → Bool) (better : Nat → Nat → Bool) : Option Nat :=
  ((List.range (tabNexp x)).filter ok).foldl (fun m e => match m with
    | none => some e
    | some y => if better (mapGet x.counts e 0) (mapGet x.counts y 0) then some e else some y) none
/-- The lowest free spare. -/
def freeSpare (x : XTab) : Option Nat := (List.range 16).find? fun k => (spareW x k 0).getLsbD 63 && spareSt x k == 0
/-- The lowest FREE slot of an expert. -/
def freeSlot (x : XTab) (e : Nat) : Option Nat := (List.range 8).find? fun r => slotSt (slotW x e r) == 0
/-- The highest LIVE slot of an expert other than slot 0. -/
def lastSlot (x : XTab) (e : Nat) : Option Nat := ((List.range 8).filter fun r => decide (1 ≤ r) && slotSt (slotW x e r) == 1).getLast?
/-- What the end of an interval chooses: 1 replicate or 2 retire, expert, slot, spare. -/
def placeChoice (x : XTab) : Option (Nat × Nat × Nat × Nat) :=
  let hot := hdrFld x 16 4
  let cold := hdrFld x 20 4
  let rep := if hot = 0xFFFFFFFF then none else (freeSpare x).bind fun k =>
    (bestExpert x (fun e => decide (hot < mapGet x.counts e 0) && (freeSlot x e).isSome) (fun a b => decide (b < a))).bind fun e =>
      (freeSlot x e).map fun r => (1, e, r, k)
  let ret := if cold = 0 then none else
    (bestExpert x (fun e => decide (mapGet x.counts e 0 < cold) && (lastSlot x e).isSome) (fun a b => decide (a < b))).bind fun e =>
      (lastSlot x e).map fun r => (2, e, r, 0xFFFF)
  match rep with
  | some c => some c
  | none => ret
/-- Whether every page of a range translates. -/
def placePages (s : State) (pn va n : Nat) (write : Bool) : State × Option (Nat × Nat) :=
  (List.range ((va + n - 1) / 4096 - va / 4096 + 1)).foldl (fun (x, f) i => match f with
    | some _ => (x, f)
    | none =>
      let a := max va ((va / 4096 + i) * 4096)
      match placeAt x pn a write with
      | (y, .ok _) => (y, none)
      | (y, .error st) => (y, some (st, a))) (s, none)
/-- A replication begun (R391): the spare in use, every page of its copy translated first (R272). -/
def replicate (s : State) (k e r sp : Nat) : State :=
  let (s1, d) := putSst s k sp 1
  match tabAt s1 k with
  | none => s1
  | some x =>
    let (s2, f1) := placePages s1 x.part (fld (recW x e 0) 47 0) (tabWlen x) false
    let (s3, f2) := placePages s2 x.part (fld (spareW x sp 1) 47 0) (tabWlen x) true
    let (s4, f3) := placePages s3 x.part (fld (spareW x sp 2) 47 0) (tabGlen x) true
    setTab s4 { x with op := 1, target := some (e, r, sp), copied := 0,
                       fail := if d = .raced then some (0xF01, sstVa x sp) else (f1.or f2).or f3 }
/-- A retirement begun (R393): the slot RETIRING, the next version published. A race at the slot's word ends it (R324). -/
def retire (s : State) (k e r : Nat) : State :=
  match tabAt s k with
  | none => s
  | some x =>
    let (s1, d) := putSlot s { x with op := 2, target := some (e, r, fld (slotW x e r) 61 58) } e r (topBits (slotW x e r) 3)
    if d = .raced then s1 else publish s1 k
/-- The counters of an interval written, and the interval number after them as a release (R389). -/
def intervalWrite (s : State) (x : XTab) : State :=
  let la := hdrFld x 32 8
  let s1 := (List.range (tabNexp x)).foldl (fun y e => (placePut y x.part (la + 4 * e) (mapGet x.counts e 0) 4 5 false).1) s
  (placePut s1 x.part (la + 4096) (x.interval + 1) 8 5 true).1
/-- An interval ended (R389, R390). -/
def intervalEnd (s : State) (k : Nat) : State :=
  match tabAt s k with
  | none => s
  | some x =>
    let n := hdrFld x 24 8
    let s1 := setTab (intervalWrite s x)
      { x with counts := [], got := 0, lastCounts := x.counts, interval := x.interval + 1, nextEnd := (s.cyc / n + 1) * n }
    match placeChoice x with
    | none => s1
    | some (op, e, r, sp) =>
      if tabHost x then mgmtRecord s1 .place (placeRec s x 0x91 e r op 0 sp 0 (mapGet x.counts e 0))
      else if x.op != 0 || !x.adopting.isEmpty then s1
      else if op = 1 then replicate s1 k e r sp
      else retire s1 k e r
/-- Whether an interval of a table ends with a send. The end waits for room in the engine's clock, for its own release and a
publish's, and for the management queue to take the engine's record (R321, R405). -/
def intervalOver (s : State) (x : XTab) : Bool :=
  (if tabCycles x then decide (x.nextEnd ≤ s.cyc) else decide (hdrFld x 24 8 ≤ x.got)) && placeRoom s x.part 2 && !recWaits s .place
/-- A die's counts received for a table: by expert, saturating, and in total. -/
def countsIn (x : XTab) (l : List (Nat × Nat × Nat × Nat)) : XTab :=
  { x with got := (l.filter fun c => c.1 == x.part && c.2.1 == x.tab).foldl (fun n c => n + c.2.2.2) x.got, counts := (l.filter fun c => c.1 == x.part && c.2.1 == x.tab).foldl (fun m c =>
      mapPut m c.2.2.1 (satAdd (mapGet m c.2.2.1 0) c.2.2.2)) x.counts }
/-- Whether a die sends its counts now. -/
def sendDue (s : State) (die : Nat) : Bool := s.cyc % 256 == 0 && decide (die < 4) && !dieFenced s die && s.host.booted
/-- LOAD_SEND (R389). -/
def execLoadSend (die : Nat) (s : State) : Host.Outcome State Fault Refusal :=
  if sendDue s die then
    let l := (dieOf s die).counts
    let s1 := modDie s die fun x => { x with counts := [] }
    let s2 := { s1 with xtabs := s1.xtabs.map fun x => countsIn x l }
    .next ((s2.xtabs.filter (intervalOver s2)).foldl (fun y x => intervalEnd y (tabKey x)) s2)
  else .next s

/-! ### Replication (R391, R398) -/

/-- The next 64-byte unit of a replication's copy: weights first, then zeros of the gradient buffer. -/
def copyUnit (s : State) (x : XTab) (e sp : Nat) : State :=
  let fail := fun (y : State) (f : Nat × Nat) => setTab y { x with fail := some f }
  let go := fun y : State => setTab y { x with copied := x.copied + 64 }
  if !tileLive s (epTile (fld (spareW x sp 0) 57 39)) then fail s (0x10A, fld (spareW x sp 1) 47 0)
  else if x.copied < tabWlen x then
    match placeRead s x.part (fld (recW x e 0) 47 0 + x.copied) 65 64 with
    | (s1, .error f) => fail s1 f
    | (s1, .ok v) => match placeWrite s1 x.part (fld (spareW x sp 1) 47 0 + x.copied) v 65 64 with
      | (s2, some f) => fail s2 f
      | (s2, none) => go s2
  else match placeWrite s x.part (fld (spareW x sp 2) 47 0 + (x.copied - tabWlen x)) 0 65 64 with
    | (s2, some f) => fail s2 f
    | (s2, none) => go s2
/-- Whether a replication is copying, with its expert and spare. -/
def copying (x : XTab) : Option (Nat × Nat × Nat) :=
  if x.op = 1 && x.adopting.isEmpty && x.fail.isNone then x.target else none
/-- The copies under way at the passage to the next cycle: one unit each. -/
def placeTick (s : State) : State :=
  if recWaits s .place then s
  else s.xtabs.foldl (fun y x => match copying x with
    | some (e, _, sp) => if x.copied < tabWlen x + tabGlen x then copyUnit y x e sp else y
    | none => y) s
/-- Whether a replication's copy and zeroing are performed, and the engine's clock has room for the publish. -/
def copyOver (s : State) (x : XTab) : Option (Nat × Nat × Nat) :=
  (copying x).bind fun t => if tabWlen x + tabGlen x ≤ x.copied && placeRoom s x.part 1 then some t else none
/-- REPLICATION_COPY_DONE (R391 step 3). -/
def execReplicationCopyDone (tab : Nat) (s : State) : Host.Outcome State Fault Refusal :=
  match (tabAt s tab).bind fun x => (copyOver s x).map fun t => (x, t) with
  | none => .next s
  | some (x, e, r, sp) =>
    let w := spareW x sp 0
    let (s1, d) := putSlot s x e r (BitVec.ofNat 64 (2 ^ 62 + sp * 2 ^ 58 + fld w 57 39 * 2 ^ 39 + fld w 38 32 * 2 ^ 32))
    .next (if d = .raced then opRaced s1 tab (slotVa x e r) else publish s1 tab)
/-- The entry that stands for a release which the engine asks for. -/
def ownRelease (pn id : Nat) : BitVec 512 := recOf [(0, 2, 3), (2, 1, pn), (3, 1, 1), (8, 4, id)]
/-- A region released as RELEASE does, by the engine (R398). -/
def releaseOwn (s : State) (pn id : Nat) : State :=
  let k := rgnKey pn id
  match rgnOf s k with
  | none => s
  | some r =>
    if r.releasing.isSome then s
    else if r.st = .saved then savedEnd s k r
    else modHost (releaseStart (stopOvertaken s k r) k) fun h => { h with reqs := h.reqs ++ [⟨ownRelease pn id, [1]⟩] }
/-- The failure of a replication. -/
def rollNow (x : XTab) : Option ((Nat × Nat × Nat) × Nat × Nat) :=
  if x.op = 1 then x.target.bind fun t => x.fail.map fun f => (t, f) else none
/-- ROLLBACK (R398). -/
def execRollback (tab : Nat) (s : State) : Host.Outcome State Fault Refusal :=
  match (tabAt s tab).bind fun x => (rollNow x).map fun t => (x, t) with
  | none => .next s
  | some (x, (e, r, sp), st, a) =>
    let s1 := (putSst (setTab s (opEnd x)) tab sp 2).1
    let s2 := releaseOwn s1 x.part (fld (spareW x sp 0) 31 0)
    .next (mgmtRecord (modPart s2 x.part fun p => { p with rollbacks := p.rollbacks + 1 }) .place (placeRec s x 0x90 e r 1 st sp a 0))

/-! ### Redirection (R393) -/

/-- TKW1 of a redirected packet: REP 0, REDIR 1. -/
def redirW (w : W64) : W64 := BitVec.ofNat 64 (fld w 63 32 * 2 ^ 32 + 2 ^ 28 + fld w 27 0)
/-- A packet sent on to slot 0 of its expert. -/
def redirect (s : State) (tile : Nat) (p : Packet) (a : Adopted) (e : Nat) : State :=
  let w := mapGet a.slots (8 * e) 0
  let s1 := match p.slot with
    | some (t, x, r) => infAdd (infAdd s a.part t x r false) a.part t x 0 true
    | none => s
  sendPacket s1 (2 ^ 21 + tile) (tileCluster tile) (epTile (fld w 57 39))
    { p with label := fld w 38 32, w1 := redirW p.w1, slot := p.slot.map fun x => (x.1, x.2.1, 0) }
/-- The packets of a tile that are to be redirected, oldest first. -/
def redirAll (s : State) (tile : Nat) : List (Packet × Adopted × Nat) :=
  ((tileOf s tile).present.toList ++ (tileOf s tile).tbuf).filterMap fun p => (retiringAt s tile p.label).map fun x => (p, x.1, x.2.1)
/-- PACKET_REDIRECT (R393): every packet that a tile holds under a retiring replica's label. -/
def execPacketRedirect (tile : Nat) (s : State) : Host.Outcome State Fault Refusal :=
  let stays := fun p : Packet => (retiringAt s tile p.label).isNone
  let s1 := modTile s tile fun t => { t with present := t.present.filter stays, tbuf := t.tbuf.filter stays }
  .next ((redirAll s tile).foldl (fun x r => redirect x tile r.1 r.2.1 r.2.2) s1)

/-! ### The merge (R397) -/

/-- The slots of an expert that a merge works over. -/
def mergeSlots (x : XTab) (e : Nat) : List Nat := (List.range 8).filter fun r => decide (1 ≤ r) && slotSt (slotW x e r) % 2 == 1
/-- Gradient address of a slot. -/
def gradAddr (x : XTab) (e r : Nat) : Nat :=
  if r = 0 then fld (recW x e 1) 47 0 else fld (spareW x (fld (slotW x e r) 61 58) 2) 47 0
/-- One partial sum of a merge. -/
def mergeAdd (a b : Nat) : Nat :=
  let v := (faddV 0 (fval .f32 a) (fval .f32 b)).1
  (fout false v.1 v.2 .f32 0).1
/-- What a merge takes from slot 0's gradient (R397): its value, so a NaN is the canonical one (R74). -/
def mergeFin (a : Nat) : Nat := if isNaN .f32 a then cnan .f32 else a
/-- A merge under way: the state, and expert, slot, status and address of a fault. -/
abbrev MergeSt := State × Option (Nat × Nat × Nat × Nat)
/-- The sum of the gradients of an element over the slots. -/
def mergeSum (pn : Nat) (x : XTab) (e i : Nat) : List Nat → MergeSt → Nat → MergeSt × Nat
  | [], m, acc => (m, acc)
  | r :: l, (s, f), acc => match f with
    | some _ => ((s, f), acc)
    | none => match placeRead s pn (gradAddr x e r + 4 * i) 5 4 with
      | (s1, .ok v) => mergeSum pn x e i l (s1, none) (mergeAdd acc v)
      | (s1, .error g) => ((s1, some (e, r, g)), acc)
/-- One element of a merge: the sum stored in slot 0's gradient, the others zeroed. -/
def mergeElem (pn : Nat) (x : XTab) (e i : Nat) (l : List Nat) (m : MergeSt) : MergeSt :=
  match m.2 with
  | some _ => m
  | none => match placeRead m.1 pn (gradAddr x e 0 + 4 * i) 5 4 with
    | (s1, .error g) => (s1, some (e, 0, g))
    | (s1, .ok g0) =>
      let ((s2, f), acc) := mergeSum pn x e i l (s1, none) (mergeFin g0)
      let put := fun (y : MergeSt) (r v : Nat) => match y.2 with
        | some _ => y
        | none => match placeWrite y.1 pn (gradAddr x e r + 4 * i) v 5 4 with
          | (z, some g) => (z, some (e, r, g))
          | (z, none) => (z, none)
      l.foldl (fun y r => put y r 0) (put (s2, f) 0 acc)
/-- The gradients of a table merged: of every expert, one with no other slot too. -/
def mergeAll (s : State) (x : XTab) : MergeSt :=
  (List.range (tabNexp x)).foldl (fun m e =>
    (List.range (tabGlen x / 4)).foldl (fun y i => mergeElem x.part x e i (mergeSlots x e) y) m) (s, none)
/-- A RETIRING slot freed in the table and at every die; its spare is free. -/
def slotFree (k e r sp : Nat) (m : MergeSt) : MergeSt :=
  match m.2, tabAt m.1 k with
  | none, some x =>
    let (s1, d) := putSlot m.1 x e r 0
    if d = .raced then (s1, some (e, r, 0xF01, slotVa x e r))
    else
      let (s2, d2) := putSst s1 k sp 0
      if d2 = .raced then (s2, some (e, r, 0xF01, sstVa x sp))
      else ({ s2 with dies := s2.dies.map fun d => { d with tabs := d.tabs.map fun a =>
        if a.part = x.part && a.tab = x.tab then { a with slots := mapDel a.slots (8 * e + r) } else a } }, none)
  | _, _ => m
/-- The RETIRING slots with INF = 0 freed (R393). -/
def freeRetired (s : State) (k : Nat) (x : XTab) : MergeSt :=
  (List.range (8 * tabNexp x)).foldl (fun y i =>
    let w := slotW x (i / 8) (i % 8)
    if slotSt w = 3 && mapGet x.inf i 0 = 0 then slotFree k (i / 8) (i % 8) (fld w 61 58) y else y) (s, none)
/-- MERGED raised to the step's number (R397), in the engine and in memory, where its write is made (R431); a race there is the
merge's fault. -/
def mergedPut (s : State) (k n : Nat) : MergeSt :=
  match tabAt s k with
  | none => (s, none)
  | some z =>
    let (s1, d) := placePut s z.part (z.va + 48) n 8 6 true
    match d with
    | .made => (setTab s1 { z with merged := n, hdr := mapSet z.hdr 6 (BitVec.ofNat 64 n) 0 }, none)
    | .raced => (s1, some (0, 0, 0xF01, z.va + 48))
    | .unmade => (s1, none)
/-- A whole merge: gradients, retired slots, MERGED. -/
def mergeRun (s : State) (k : Nat) (x : XTab) (n : Nat) : MergeSt :=
  match mergeAll s x with
  | (s1, some f) => (s1, some f)
  | (s1, none) => match freeRetired s1 k x with
    | (s2, some f) => (s2, some f)
    | (s2, none) => mergedPut s2 k n
/-- The step whose merge runs now: no other operation, the step's release is performed, and the engine's clock has room. -/
def mergeDue (s : State) (k : Nat) : Option (XTab × Nat) :=
  (tabAt s k).bind fun x => match x.steps with
    | (n, c, a) :: _ =>
      if x.op = 3 && x.adopting.isEmpty && !pendingBelow s (ctxAgent c) a 2 && !owes s (.step x.tab) a
          && placeRoom s x.part 1 then some (x, n) else none
    | [] => none
/-- GRADIENT_MERGE (R397). -/
def execGradientMerge (tab : Nat) (s : State) : Host.Outcome State Fault Refusal :=
  match mergeDue s tab with
  | none => .next s
  | some (x, n) =>
    let s0 := clkAcquire s x.part (Config.holder 1 x.part 0).toNat (.step x.tab) 2 (diePlace 0) none
    let fin := fun y : State => match tabAt y tab with
      | some z => setTab y (opEnd { z with steps := z.steps.drop 1 })
      | none => y
    match mergeRun s0 tab x n with
    | (s1, some (e, r, st, a)) => .next (mgmtRecord (fin s1) .place (placeRec s x 0x90 e r 3 st 0xFFFF a 0))
    | (s1, none) => .next (fin s1)

/-! ### Host requests (R386, R390, R396, R407) -/

/-- Reserved bits of a table request. -/
def xdReserved (e : BitVec 512) : Bool := reqReserved e [(8, 2), (16, 8)] || reqFld e 9 1 / 2 != 0 || decide (64 ≤ reqFld e 8 1)
/-- The key of the table that a request names. -/
def xdKey (e : BitVec 512) : Nat := reqPart e * 64 + reqFld e 8 1
/-- XD_TABLE (R386): answered once every live die has adopted the table. -/
def execXdTable (e : BitVec 512) (s : State) : Host.Outcome State Fault Refusal :=
  reqLong s e (xdReserved e)
    (fun s =>
      let pn := reqPart e
      let va := reqFld e 16 8
      if (tabAt s (xdKey e)).isSome || va % 4096 != 0 || decide (2 ^ 48 ≤ va) then (s, .inl 0x120)
      else match tabRead s pn va with
        | none => (s, .inl 0x120)
        | some (h, r) =>
          let x := tabNew s pn (reqFld e 8 1) va h r
          if tabBad s pn x then (s, .inl 0x120)
          else
            let (s1, l) := toDies s
            ({ s1 with xtabs := s1.xtabs ++ [{ x with adopting := l, regOf := some (pn, reqTag e) }] }, .inr [0]))
    fun s _ => s
/-- XD_TABLE with the remove flag (R386): once no operation runs and every die has dropped its copy. -/
def execXdTableRemove (e : BitVec 512) (s : State) : Host.Outcome State Fault Refusal :=
  reqLong s e (xdReserved e)
    (fun s => if (tabAt s (xdKey e)).isSome then (s, .inr [0]) else (useFree s, .inl (openStatus s)))
    fun s l =>
      let k := xdKey e
      match l with
      | 0 :: _ =>
        if (tabAt s k).any fun x => x.op == 0 && x.adopting.isEmpty then
          let (d, s1) := freeDelay s
          reqSet s1 e [s.cyc + 1 + d]
        else s
      | c :: _ =>
        if c ≤ s.cyc then
          let gone := fun (p t : Nat) => p * 64 + t == k
          reqEnd { s with
            xtabs := s.xtabs.filter (fun x => tabKey x != k),
            dies := s.dies.map fun d => { d with tabs := d.tabs.filter (fun a => !gone a.part a.tab),
                                                 counts := d.counts.filter fun c => !gone c.1 c.2.1 } } e 0 0
        else s
      | [] => s
/-- Whether a slot's change from `a` to `b` may be published (R390). -/
def slotChange (x : XTab) (a b : W64) : Bool :=
  match slotSt a, slotSt b with
  | 0, 1 =>
    let w := spareW x (fld b 61 58) 0
    fld b 31 0 == 0 && w.getLsbD 63 && spareSt x (fld b 61 58) == 0 && fld b 57 39 == fld w 57 39 && fld b 38 32 == fld w 38 32
  | 1, 3 => fld a 61 0 == fld b 61 0
  | _, _ => a == b
/-- The slots that a publish makes LIVE, as key 8 * expert + slot. -/
def newSlots (x y : XTab) : List Nat :=
  (List.range (8 * tabNexp x)).filter fun i => slotSt (slotW x (i / 8) (i % 8)) == 0 && slotSt (slotW y (i / 8) (i % 8)) == 1
/-- Whether a table that the host has written can be published (R390). -/
def publishOk (x y : XTab) : Bool :=
  let l := (newSlots x y).map fun i => fld (slotW y (i / 8) (i % 8)) 61 58
  hdrW y 0 == BitVec.ofNat 64 ((x.ver + 1) % 65536) && (List.range 63).all (fun i => hdrW x (i + 1) == hdrW y (i + 1))
    && l.eraseDups.length == l.length
    && (List.range (tabNexp x)).all fun e =>
      (List.range 8).all (fun i => recW x e i == recW y e i)
        && (List.range 8).all fun r => (r != 0 || slotW x e 0 == slotW y e 0) && slotChange x (slotW x e r) (slotW y e r)
/-- The spares that a publish takes, in use. -/
def publishSpares (s : State) (k : Nat) (l : List Nat) : State := l.foldl (fun y sp => (putSst y k sp 1).1) s
/-- An expert's record as one number. -/
def recNum (x : XTab) (e : Nat) : Nat := (List.range 16).foldr (fun i n => (recW x e i).toNat + 2 ^ 64 * n) 0
/-- The experts whose record a publish changes. -/
def changedRecs (x y : XTab) : List Nat :=
  (List.range (tabNexp x)).filter fun e => (List.range 8).any fun r => slotW x e r != slotW y e r
/-- The engine writes every changed record (R392 step 1): whether no race has stopped one. -/
def publishRecs (s : State) (y : XTab) (l : List Nat) : State × Bool :=
  l.foldl (fun (z, ok) e =>
    if ok then let (w, d) := placePut z y.part (y.va + 512 + 128 * e) (recNum y e) 128 4 false; (w, d != .raced) else (z, ok)) (s, true)
/-- A host's publish that a race stops leaves the table's records as they were (log 102). -/
def publishBack (s : State) (k : Nat) (r : SMap W64) : State :=
  match tabAt s k with
  | some z => if z.pubs.isNone then setTab s { z with recs := r } else s
  | none => s
/-- XD_PUBLISH (R390): taken up once no operation runs on the table; answered once the publish is complete. -/
def execXdPublish (e : BitVec 512) (s : State) : Host.Outcome State Fault Refusal :=
  let k := xdKey e
  reqLong s e (reqReserved e [(8, 1)] || decide (64 ≤ reqFld e 8 1))
    (fun s => match tabAt s k with
      | some x => if tabHost x then (s, .inr [0]) else (s, .inl 0x120)
      | none => (s, .inl 0x120))
    fun s l => match l, tabAt s k with
      | 0 :: _, some x =>
        if x.op != 0 || !x.adopting.isEmpty || !placeRoom s x.part 1 || recWaits s .place then s
        else
          (match tabRead s x.part x.va with
           | none => reqEnd s e 0x120 0
           | some (h, r) =>
             let y := { x with hdr := h, recs := r }
             if publishOk x y then
               let (s1, ok) := publishRecs s y (changedRecs x y)
               if ok then
                 let s2 := publishSpares (setTab s1 { x with recs := r, pubs := some (x.part, reqTag e) }) k
                   ((newSlots x y).map fun i => fld (slotW y (i / 8) (i % 8)) 61 58)
                 publishBack (reqSet (publish s2 k) e [1]) k x.recs
               else reqEnd s1 e 0x120 0
             else reqEnd s e 0x120 0)
      | _, some _ => s
      | _, none => reqEnd (useFree s) e (openStatus s) 0
/-- XD_STEP (R396): the step's number; its merge follows. The release of the doorbell that brought the request reaches the step's
object (R405). -/
def execXdStep (e : BitVec 512) (s : State) : Host.Outcome State Fault Refusal :=
  reqOnce s e (reqReserved e [(8, 1)] || decide (64 ≤ reqFld e 8 1)) fun s =>
    match tabAt s (xdKey e) with
    | some x =>
      let s1 := match doorOf s reqRingNo (s.host.reqCI - 1) with
        | some pi => clkJoin s x.part (.door reqRingNo pi) (.step x.tab) (diePlace 0)
        | none => s
      (stepEnd s1 x (2 ^ 30) 0, 0, x.step + 1)
    | none => (useFree s, openStatus s, 0)

end Sys2Proof.Machine
end

