-- ==== Sys2Proof/Machine/Units.lean ====
section
/-! DEFINITION. Degraded operation (R30 to R34, R13), boot (R415), the register window (R403, R417), work queues (R408),
rings that were full (R405), attestation (R416), inter-partition queues (R412) and links (R413, R414). -/
namespace Sys2Proof.Machine

/-! ### The capability registers (R32, R403) -/

/-- Bits set where a test holds, bit i for i below n. -/
def bitsOf (f : Nat → Bool) (n : Nat) : Nat := (List.range n).foldl (fun x i => x + if f i then 2 ^ i else 0) 0
/-- Numbers below n that pass a test. -/
def countOf (f : Nat → Bool) (n : Nat) : Nat := ((List.range n).filter f).length
/-- PKGCAP (R32): the units that remain. -/
def pkgcap (s : State) : W64 :=
  BitVec.ofNat 64 (bitsOf (linkLive s) 18 * 2 ^ 46 + bitsOf (straitLive s) 4 * 2 ^ 42 + bitsOf (fun d => !dieFenced s d) 4 * 2 ^ 38
    + bitsOf (fun k => (List.range 32).any fun i => pchanLive s (32 * k + i)) 8 * 2 ^ 30
    + countOf (tileLive s) 8192 % 2 ^ 14 * 2 ^ 16 + countOf (mtileLive s) 1024 % 2 ^ 11 * 2 ^ 5)
/-- CLMAP of a die (R403). -/
def clmap (s : State) (d : Nat) : BitVec 128 := BitVec.ofNat 128 (bitsOf (fun i => clusterLive s (128 * d + i)) 128)
/-- PCMAP of a die (R403). -/
def pcmap (s : State) (d : Nat) : W64 := BitVec.ofNat 64 (bitsOf (fun k => pchanLive s (64 * d + k)) 64)
/-- BOOTST (R403). -/
def bootst (s : State) : W64 :=
  BitVec.ofNat 64 (s.host.booted.toNat + 2 * s.host.attested.toNat + 256 * (s.host.fwver % 256))

/-! ### Fencing (R13, R30) -/

/-- A unit out of service. -/
def addFence (s : State) (u : Unit0) : State :=
  if isFenced s u then s else modHost s fun h => { h with fenced := h.fenced ++ [u] }
/-- Dies reached from a set of dies over live straits, in n crossings. -/
def diesFrom (s : State) (l : List Nat) : Nat → List Nat
  | 0 => l
  | n + 1 => diesFrom s ((List.range 4).filter fun d => l.contains d
      || (List.range 4).any fun i => straitLive s i
          && (((straitDies i).1 == d && l.contains (straitDies i).2) || ((straitDies i).2 == d && l.contains (straitDies i).1))) n
/-- The dies that reach die 0 over live straits (R13). -/
def diesUp (s : State) : List Nat := if dieFenced s 0 then [] else diesFrom s [0] 3
/-- A unit fenced, with every die that can then no longer reach die 0 (R30). -/
def fenceUnit (s : State) (u : Unit0) : State :=
  let s1 := addFence s u
  (List.range 4).foldl (fun x d => if (diesUp s1).contains d then x else addFence x (.controller d)) s1
/-- Endpoint that names a fenced unit in a trap record (R161). R93 gives a cluster router, a BTE and a whole die no endpoint: the first
tile of the cluster and tile 0 of the die stand for them (DESIGN CHOICE, log 95). -/
def unitEp (u : Unit0) : Nat :=
  match u with
  | .tile n => tileEp n 0
  | .mtile n => mtEp n 0
  | .router c => tileEp (clusterTile c 0) 0
  | .bte c => tileEp (clusterTile c 0) 0
  | .agt g => agtEp g 0
  | .pchan g => agtEp g 0
  | .controller d => epOf d 0 0 0
  | _ => 0

/-! ### What a fence does to work in flight (R31) -/

/-- The change of liveness that a fence makes: the state before and the state with the units out of service. -/
structure Cut where
  old : State
  new : State
/-- Tiles that a fence takes out of service. -/
def Cut.tile (c : Cut) (t : Nat) : Bool := tileLive c.old t && !tileLive c.new t
/-- Memory tiles that a fence takes out of service. -/
def Cut.mtile (c : Cut) (m : Nat) : Bool := mtileLive c.old m && !mtileLive c.new m
/-- Pseudo-channels that a fence takes out of service. -/
def Cut.pchan (c : Cut) (g : Nat) : Bool := pchanLive c.old g && !pchanLive c.new g
/-- Clusters that a fence takes out of service. -/
def Cut.cluster (c : Cut) (n : Nat) : Bool := clusterLive c.old n && !clusterLive c.new n
/-- Dies that a fence takes out of service. -/
def Cut.die (c : Cut) (d : Nat) : Bool := !dieFenced c.old d && dieFenced c.new d
/-- Whether an operand of a copy lies on a fenced unit. A multicast's destination only names the cluster (R273). -/
def deadRange (s : State) (x : W64) (pages : SMap Nat) : Bool :=
  match addrForm x with
  | .mt m _ => !mtileLive s m
  | .lm t _ => !tileLive s t
  | .virt _ => pages.any fun e => deadPa s (e.2 * 4096)
  | .bad => false
/-- A tile out of service: its firings' pending results, its array's entries and its packets are gone. -/
def deadTile (s : State) (n : Nat) : State :=
  let t := tileOf s n
  let s1 := t.jobs.foldl (fun x j => dropJob x n j) s
  let s2 := (t.tbuf ++ t.present.toList).foldl (fun x p => dropPacket x n 1 p) s1
  modTile s2 n fun t => { t with cmdq := [], runs := [], fons := [], bind := [], tbuf := [], present := none, watches := [],
                                 stopped := true }
/-- Tiles out of service. -/
def cutTiles (c : Cut) (s : State) : State := ((s.tiles.map (·.1)).filter c.tile).foldl deadTile s
/-- A copy under way that targets a fenced unit ends with status FENCED. -/
def deadRun (s : State) (n : Nat) (r : BteRun) : BteRun :=
  let src := deadRange s r.cmd.src r.smap
  let tgt := (bteTargets n r.cmd).find? fun t => !tileLive s t
  { r with status := 0x10A, next := r.units, live := [], detail := 0,
           addr := if src then r.cmd.src.toNat else r.cmd.dst.toNat, target := (tgt.map tileBit).getD r.target }
/-- Whether the copy under way of a channel targets a fenced unit. -/
def runDead (s : State) (n : Nat) (r : BteRun) : Bool :=
  !clusterLive s n || deadRange s r.cmd.src r.smap || (r.cmd.mcast == 0 && deadRange s r.cmd.dst r.dmap)
    || (bteTargets n r.cmd).any fun t => !tileLive s t
/-- A command's follow-ons on fenced tiles have status FENCED. -/
def deadFons (s : State) (r : BteRun) : BteRun :=
  let l := r.fonLeft.filter fun t => !tileLive s t
  { r with fonLeft := r.fonLeft.filter (tileLive s), fonSt := r.fonSt ++ l.map fun t => (t, 0x10A, 0) }
/-- The commands of one BTE channel: on a fenced cluster each that has not reported is FENCED (R277); else a copy under way that
targets the unit, one that has met an uncorrectable error as well (R31). -/
def cutBte (s : State) (n ch : Nat) : State :=
  let c := bteOf s n ch
  let all := fun r : BteRun => if clusterLive s n then deadFons s r else { deadFons s r with status := 0x10A, detail := 0 }
  let c1 := { c with rep := c.rep.map all, run := c.run.map (deadFons s) }
  match c1.run with
  | some r =>
    if !clusterLive s n || ((r.status = 0 || r.status = 0xA06) && !copyDone s n ch r && runDead s n r) then
      { setBte s n ch { c1 with run := some (deadRun s n r) } with accs := s.accs.filter fun a => a.toward != .bte n ch }
    else setBte s n ch c1
  | none => setBte s n ch c1
/-- Every BTE channel's commands. -/
def cutBtes (s : State) : State := (s.btes.map (·.1)).foldl (fun x k => cutBte x (k / 16) (k % 16)) s
/-- Accesses of PEs to a fenced home fail; a memory tile out of service serves nothing more. -/
def cutAccs (s : State) : State :=
  let f := fun a : Acc =>
    match a.agent, a.loc with
    | .bank _ _, .remote _ _ => a
    | .bank _ _, l =>
      if !a.done && deadLoc s l then { a with done := true, ok := false, cause := 0x10A, back := s.cyc + 1, val := a.addr.setWidth 1024 }
      else a
    | _, _ => a
  let g := fun e : Nat × MTile => if mtileLive s e.1 then e else (e.1, { e.2 with pq := [] })
  { s with accs := s.accs.map f, mtiles := s.mtiles.map g }
/-- A walker on a fenced unit, or with an access to one, faults. -/
def cutAgt (s : State) (n : Nat) : State :=
  let a := agtOf s n
  let mine := fun x : Acc => x.agent == .walk n && !x.done && deadLoc s x.loc
  let hit : Option Nat :=
    if !pchanLive s n then some (agtEp n 0)
    else match s.accs.find? mine with
      | some x => some x.addr.toNat
      | none => (a.buf.find? fun l => deadPa s (l.line * 128)).map fun l => l.line * 128
  match hit with
  | some d =>
    if a.st == .run || a.st == .wait || a.st == .stalled then
      let s1 := { s with accs := s.accs.filter fun x => !(x.agent == .walk n && (x.toward != .none || deadLoc s x.loc)) }
      agtFault (setAgt s1 n { agtOf s1 n with buf := a.buf.filter fun l => !deadPa s (l.line * 128) }) n 0x10A d
    else s
  | none => s
/-- Every walker. -/
def cutAgts (s : State) : State := ((s.agts.filter fun e => e.2.rgn.isSome).map (·.1)).foldl cutAgt s
/-- Collectives open at a fenced die end with status FENCED. -/
def cutGroups (s : State) (d : Nat) : State :=
  let l := (dieOf s d).grps.flatMap fun g => g.2.insts.flatMap fun i => i.arr.map fun a => (a, i.num)
  modDie (l.foldl (fun x a => collAnswer x a.1 a.2 0x10A) s) d fun x =>
    { x with grps := x.grps.map fun g => (g.1, { g.2 with insts := [] }), counts := [] }
/-- A launch whose dies or instances a fence has taken (R338, R409). -/
def cutLaunch (c : Cut) (s : State) (rs : List Nat) (l : Launch) : Launch :=
  if !l.checked then l
  else
    let hit := fun g : Nat × Nat × Option Nat => c.die g.2.1 || (match g.2.2 with | some k => rs.contains k | none => false)
    let lost := l.given.filter hit
    let gone := l.dies.filter fun d => dieFenced s d
      || !(confRgns s l.part (ldConf l.desc)).any fun e => rgnDie e.2 == d && !rs.contains e.1
    let l1 := { l with
      given := l.given.filter fun g => !hit g
      ready := l.ready.filter fun t => !gone.contains t.1
      recs := l.recs.filter fun r => !gone.contains r.2
      bound := l.bound.filter fun k => !rs.contains k
      lost := l.lost ++ l.bound.filter fun k => rs.contains k
      gone := gone }
    let blocks := (List.range l.blocks).filter fun b => lost.any fun g => g.1 == b
    if lost.isEmpty && !l.dies.any c.die then l1
    else if partElected (partOf s l.part) then
      if l.dies.all gone.contains then { l1 with redo := [], out := l.blocks, flags := l.flags ||| 1 }
      else { l1 with redo := l.redo ++ blocks.filter fun b => !l.redo.contains b }
    else { l1 with flags := l.flags ||| 1 }
/-- The launches of every partition. -/
def cutLaunches (c : Cut) (rs : List Nat) (s : State) : State :=
  (List.range 16).foldl (fun x p => modPart x p fun y => { y with devq := y.devq.map (cutLaunch c s rs) }) s
/-- Adoptions that a fenced die no longer makes. -/
def cutTables (s : State) : State :=
  let s1 := { s with xtabs := s.xtabs.map fun x => { x with adopting := x.adopting.filter fun a => !dieFenced s a.1 } }
  ((s.xtabs.filter fun x => x.adopting.any fun a => dieFenced s a.1).map tabKey).foldl adoptDone s1
/-- The banks with a remote store that is not performed over a fenced link, one access of each (R414). -/
def linkVictims (s : State) : List Acc :=
  (s.accs.filter fun a => !a.done && (match a.loc with | .remote _ _ => deadLoc s a.loc | _ => false)).foldl
    (fun l a => if l.any fun x => x.agent == a.agent then l else l ++ [a]) []
/-- LINK_DOWN at every such bank (R414). -/
def cutLinks (s : State) : State :=
  let v := linkVictims s
  let s1 := { s with accs := s.accs.filter fun a => a.done || !(match a.loc with | .remote _ _ => deadLoc s a.loc | _ => false) }
  v.foldl (fun x a =>
    match a.agent, a.loc with
    | .bank t _, .remote p _ => takeTrap x t (answerTrap x t a.who 0xC03 (BitVec.ofNat 64 p))
    | _, _ => x) s1

/-! ### The regions (R31, R161) -/

/-- The first element of a region instance on a unit that a fence takes out of service, as an endpoint. -/
def cutElem (c : Cut) (s : State) (k : Nat) : Option Nat :=
  let ts := rgnTiles s k ++ (s.shadows.filter fun t => t.2.rgn == some k).map (·.1)
  let ms := rgnMTiles s k ++ (s.shadowMts.filter fun t => t.2.rgn == some k).map (·.1)
  (((ts.find? c.tile).map fun t => tileEp t 0).or ((ms.find? c.mtile).map fun m => mtEp m 0)).or
    ((((rgnAgts s k).find? c.pchan).map fun g => agtEp g 0).or
      (((rgnBtes s k).find? fun n => c.cluster (n / 16)).map fun n => tileEp (clusterTile (n / 16) 0) 0))
/-- The FENCED_ELEMENT trap of a region (R161, R163), which its controller raises. -/
def fencedTrap (s : State) (tile det : Nat) : Trap :=
  { trapOf s (firingOf tile 0 0 0 slot0) 5 (BitVec.ofNat 64 det) with bare := true }
/-- A region with elements on a fenced unit traps: one record that names the unit. A region without compute tiles has no PE to hold
the trap and keeps it by `unitGone`; its record's Element names tile 0, or, of a region in shadow storage, the tile whose number is
the die of its origin (DESIGN CHOICE, log 112). -/
def fenceRgn (c : Cut) (u : Unit0) (s : State) (k : Nat) : State :=
  match rgnOf s k, cutElem c s k with
  | some r, some e =>
    let det := if c.die (epDie e) then epOf (epDie e) 0 0 0 else unitEp u
    if r.st = .shadow then
      let here := ((s.shadows.filter fun t => t.2.rgn == some k).map (·.1)).head?
      let x := here.getD (r.row0 / 32 * 2 + r.col0 / 64)
      let tr := { fencedTrap s x det with written := true, ver := r.version }
      let s1 := faultRecord s r.part (.ctl (rgnDie r)) (trapRec s x r.id tr)
      modRgn { s1 with shadows := s1.shadows.map fun t => if t.1 = x && t.2.rgn == some k then (t.1, { t.2 with traps := t.2.traps ++ [tr] }) else t }
        k fun r => { r with wasFrozen := true, unitGone := r.unitGone || here.isNone }
    else
      (match ((rgnTiles s k).find? c.tile).or (rgnTiles s k).head? with
       | some t => takeTrap s t (fencedTrap s t det)
       | none =>
         let tr := { fencedTrap s 0 det with ver := r.version }
         stopRegion (modRgn (faultRecord s r.part (.ctl (rgnDie r)) (trapRec s 0 r.id tr)) k fun r => { r with unitGone := true }) k)
  | _, _ => s
/-- Region instances that hold an element on a die that a fence takes out of service: a launch loses them (R338). -/
def lostRgns (c : Cut) (s : State) : List Nat :=
  (s.rgns.filter fun e => (match cutElem c s e.1 with | some x => c.die (epDie x) | none => false)).map (·.1)
/-- A fence in service (R30, R31): the maps change first (R33), then work in flight and regions. -/
def fenceService (s : State) (u : Unit0) : State :=
  let s0 := fenceUnit s u
  let c : Cut := ⟨s, s0⟩
  let rs := lostRgns c s
  let s1 := cutLinks (cutAccs (cutBtes (cutTiles c s0)))
  let s2 := ((List.range 4).filter c.die).foldl cutGroups (cutAgts s1)
  let s3 := cutTables (cutLaunches c rs s2)
  (s3.rgns.map (·.1)).foldl (fenceRgn c u) s3
/-- The units whose uncorrectable errors are more than a unit may report in service (R30, R218, R227). -/
def errUnits (s : State) : List Unit0 :=
  ((s.host.errs.filter fun e => decide (Config.fenceAt < e.2)).map fun e =>
    match e.1 % 4 with | 0 => Unit0.tile (e.1 / 4) | 1 => .mtile (e.1 / 4) | _ => .pchan (e.1 / 4)).filter fun u => !isFenced s u
/-- UNIT_FENCE (R31). -/
def execUnitFence (u : Unit0) (s : State) : Host.Outcome State Fault Refusal :=
  .next (if isFenced s u then s else fenceService s u)

/-! ### Links (R413, R414) -/

/-- FLIT_RETRY (R413): a flit fails its CRC and is sent again; its seventeenth failure is that of the sixteenth retry. -/
def execFlitRetry (link : Nat) (s : State) : Host.Outcome State Fault Refusal :=
  let x := linkOf s link
  if linkLive s link && decide (x.retries < 17) then .next (setLink s link { x with retries := x.retries + 1 }) else .next s
/-- LINK_RETRY_EXHAUSTED (R413): the sixteenth retry has failed, and the link is fenced. -/
def execLinkRetryExhausted (link : Nat) (s : State) : Host.Outcome State Fault Refusal :=
  if linkLive s link && decide (17 ≤ (linkOf s link).retries) then .next (fenceService s (.link link)) else .next s

/-! ### Inter-partition queues (R412) -/

/-- Whether a gateway FIFO's token FIFO works: live, and its region, where one holds it, moves. -/
def gateRuns (s : State) (mt : Nat) : Bool :=
  mtileLive s mt && ((mtileOf s mt).rgn.isNone || rgnMoves s (mtileOf s mt).rgn)
/-- Tokens that have crossed by now enter the consuming FIFO. -/
def gateArrive (s : State) (mt b : Nat) : State :=
  let m := mtileOf s mt
  let s1 := setMTile s mt { m with crossing := m.crossing.filter fun t => decide (s.cyc < t.1) }
  setMTile s1 b { mtileOf s1 b with fifo := (mtileOf s1 b).fifo ++ (m.crossing.filter fun t => decide (t.1 ≤ s.cyc)).map (·.2) }
/-- The next token leaves the producing FIFO through its port 2, where the consuming FIFO will have room for it. -/
def gateDepart (s : State) (mt b : Nat) : State :=
  let m := mtileOf s mt
  match fifoHead m with
  | some t =>
    if m.unlinking || !gateRuns s mt || !mtileLive s b || decide (fifoCap (mtileOf s b) ≤ (mtileOf s b).fifo.length + m.crossing.length)
    then s
    else
      let (d, s1) := freeDelay (fifoNote s mt)
      let due := max (s.cyc + 210 + d) ((m.crossing.getLast?.map (·.1)).getD 0)
      setMTile s1 mt { fifoPop m with crossing := m.crossing ++ [(due, t)] }
  | none => s
/-- GATEWAY_CROSSING (R412): tokens cross from a producing gateway FIFO to the consuming one, in order, kind and tag kept. -/
def execGatewayCrossing (mt : Nat) (s : State) : Host.Outcome State Fault Refusal :=
  match (mtileOf s mt).link with
  | some b => .next (gateDepart (gateArrive s mt b) mt b)
  | none => .next s

/-! ### Rings that were full (R405) -/

/-- CONSUMER_INDEX_ADVANCE (R405): a record that waits for a free slot is written, with the time of its writing, once the host's consumer index frees one:
of the fault ring of partition `ring`, or, for 16, of the management queue. -/
def execConsumerIndexAdvance (ring : Nat) (s : State) : Host.Outcome State Fault Refusal :=
  if ring < 16 then
    let x := partOf s ring
    let w : W64 := BitVec.ofNat 64 (partFld x 152 8)
    match x.heldFault with
    | (_, r) :: l =>
      if ringFull s w (partFld x 160 8) x.faultPI then .next s
      else .next (setPart (physSet s (ringSlot w x.faultPI) (lateRec r s.cyc).toNat 64) ring { x with faultPI := x.faultPI + 1, heldFault := l })
    | [] => .next s
  else
    let h := s.host
    match h.heldMgmt with
    | (_, r) :: l =>
      if ringFull s h.mgmtRing h.mgmtCIAddr.toNat h.mgmtPI then .next s
      else .next { physSet s (ringSlot h.mgmtRing h.mgmtPI) (lateRec r s.cyc).toNat 64 with host := { h with mgmtPI := h.mgmtPI + 1, heldMgmt := l } }
    | [] => .next s

/-! ### Work queues (R408) -/

/-- A work queue's registers: ring word, producer index, address of the consumer index, owner. -/
def wqOf (s : State) (q : Nat) : W64 × Nat × W64 × W64 := mapGet s.host.wq q (0, 0, 0, 0)
/-- The partition that a work queue's owner word names. -/
def wqOwner (s : State) (q : Nat) : Nat := (wqOf s q).2.2.2.toNat % 16
/-- Whether a work queue is enabled and holds an entry not taken. -/
def wqPending (s : State) (q : Nat) : Bool :=
  (wqOf s q).2.2.2.getLsbD 15 && decide (mapGet s.host.wqCI q 0 < (wqOf s q).2.1)
/-- The work queue that a partition serves next: in rotating order of queue number (R408). -/
def wqNext (s : State) (p : Nat) : Option Nat :=
  let l := (s.host.wq.map (·.1)).filter fun q => wqOwner s q == p && wqPending s q
  (l.find? fun q => decide ((partOf s p).rot < q)).or l.head?
/-- Whether a work queue's next entry can be taken: it is its partition's turn, a launch finds a queue entry (R341), and the release of
the doorbell that brought it is performed (R321, R405). -/
def wqDue (s : State) (q : Nat) : Bool :=
  s.host.booted && !dieFenced s 0 && wqNext s (wqOwner s q) == some q
    && (!partQueue (partOf s (wqOwner s q)) q || launchRoom (partOf s (wqOwner s q)) == some true)
    && !(doorOf s q (mapGet s.host.wqCI q 0)).any fun pi => owes s (.door q pi) 0
/-- An access of the host through a work queue, as the queue's holder (R311). -/
def hostAcc (s : State) (q : Nat) : Acc :=
  { acc0 with agent := .host q, holder := (Config.holder 0 (wqOwner s q) q).toNat, part := wqOwner s q }
/-- HOST_LAUNCH_PACKET (R408): the descriptor enters the device launch queue with its sequence number, the release of the
doorbell that brought it reaches the launch, and the consumer index is written. An entry of a queue that its partition does not hold is passed over. -/
def execHostLaunchPacket (queue : Nat) (s : State) : Host.Outcome State Fault Refusal :=
  if wqDue s queue then
    let (w, _, ca, _) := wqOf s queue
    let p := wqOwner s queue
    let ci := mapGet s.host.wqCI queue 0
    let r := homeAccess s { hostAcc s queue with addr := BitVec.ofNat 64 (ringSlot w ci), loc := .phys (ringSlot w ci), size := 64 }
    let desc : BitVec 512 := BitVec.ofNat 512 (physGet s (ringSlot w ci) 64)
    let s1 := modPart (modHost r.1 fun h => { h with wqCI := mapPut h.wqCI queue (ci + 1) }) p fun x => { x with rot := queue }
    let s2 := (enginePieces s1 { hostAcc s queue with addr := ca } ca.toNat (ci + 1) 8 8).1
    if partQueue (partOf s p) queue then
      let hd := (Config.holder 0 p queue).toNat
      let (seq, s3) := launchTake s2 p desc hd (.host queue) true
      let s4 := match doorOf s queue ci with
        | some pi => clkCopy s3 p (.door queue pi) (.launch seq)
        | none => s3
      .next (doorsDone s4 queue (ci + 1))
    else .next (launchErr (doorsDone s2 queue (ci + 1)) p 5 0 0 (ldConf desc))
  else .next s

/-! ### Registers (R403, R417, R425) -/

/-- The bits of a ring word (R404): the others are reserved. -/
def ringBits (x : W64) : W64 := x &&& 0x000FFFFFFFFFF00F
/-- Whether an index, counted up by the host, is written over by a register. -/
def traceWrite (s : State) (p k : Nat) (x : W64) : State :=
  let (w, ci) := mapGet s.host.traceRing p (0, 0)
  match k with
  | 0 => modHost s fun h => { h with traceRing := mapPut h.traceRing p (ringBits x, ci) }
  | 1 => modHost s fun h => { h with traceRing := mapPut h.traceRing p (w, x) }
  | 2 =>
    let y := x &&& 0xFFFFFFFFFFFFF806
    modPart s p fun q => { q with traceCtl := y, pathAt := none,
                                  pathDue := if fld y 31 16 = fld q.traceCtl 31 16 then q.pathDue else s.cyc + 1050 * fld y 31 16 }
  | _ => s
/-- The work queues that are enabled, each with its partition and holder. -/
def wqHolders (s : State) : List (Nat × Nat × Nat) :=
  ((s.host.wq.map (·.1)).filter fun q => (wqOf s q).2.2.2.getLsbD 15).map fun q =>
    (q, wqOwner s q, (Config.holder 0 (wqOwner s q) q).toNat)
/-- A word of a work queue's register block. The doorbell is a release by the queue's holder (R405). -/
def wqWrite (s : State) (q k : Nat) (x : W64) : State :=
  let (w, pi, ca, ow) := wqOf s q
  let put := fun y => modHost s fun h => { h with wq := mapPut h.wq q y }
  match k with
  | 0 => put (ringBits x, pi, ca, ow)
  | 1 => doorRing (put (w, x.toNat, ca, ow)) q x.toNat ((wqHolders s).filter fun e => e.1 == q)
  | 2 => put (w, pi, x, ow)
  | _ => put (w, pi, ca, x &&& 0x800F)
/-- A 64-bit word of the debug mailbox written: a command word, or DBGGO (R425). -/
def dbgWrite (s : State) (k : Nat) (x : W64) : State :=
  if k < 8 then
    modHost s fun h => { h with dbgCmd := (h.dbgCmd &&& ~~~((BitVec.allOnes 512 >>> 448) <<< (64 * k))) ||| (x.setWidth 512 <<< (64 * k)) }
  else if k = 8 then
    (if s.host.dbgGo && !s.host.dbgDone then s else modHost s fun h => { h with dbgGo := true, dbgDone := false })
  else s
/-- A write of the host to the register window (R403): reserved bits are ignored (R7), and so is a read-only register. The request
ring's doorbell is a release by the host, whose holders are those of its work queues (R405, R311; DEDUCED, log 117). -/
def regWrite (s : State) (off : Nat) (x : W64) : State :=
  if off % 8 != 0 then s
  else if off = 0x80 then modHost s fun h => { h with reqRing := ringBits x }
  else if off = 0x88 then doorRing (modHost s fun h => { h with reqPI := x.toNat }) reqRingNo x.toNat (wqHolders s)
  else if off = 0x90 then modHost s fun h => { h with mgmtRing := ringBits x }
  else if off = 0x98 then modHost s fun h => { h with mgmtCIAddr := x }
  else if 0x100 ≤ off && decide (off < 0x300) then
    modHost s fun h => { h with route := mapPut h.route ((off - 0x100) / 8) (x &&& 0x9F) }
  else if 0x400 ≤ off && decide (off < 0x600) then traceWrite s ((off - 0x400) / 32) ((off - 0x400) / 8 % 4) x
  else if 0x600 ≤ off && decide (off < 0x690) then dbgWrite s ((off - 0x600) / 8) x
  else if 0x10000 ≤ off && decide (off < 0x50000) then wqWrite s ((off - 0x10000) / 32) ((off - 0x10000) / 8 % 4) x
  else s
/-- REGISTER_WRITE (R403). -/
def execRegisterWrite (off : Nat) (val : BitVec 64) (s : State) : Host.Outcome State Fault Refusal := .next (regWrite s off val)

/-- DBGRSP (R425). -/
def dbgrsp (s : State) : W64 := BitVec.ofNat 64 (s.host.dbgStatus % 2 ^ 16 + s.host.dbgDone.toNat * 2 ^ 16)
/-- TRPI of a partition (R417): PI, and the records dropped. -/
def trpi (s : State) (p : Nat) : W64 := BitVec.ofNat 64 ((partOf s p).tracePI % 2 ^ 48 + (partOf s p).traceDropped % 2 ^ 16 * 2 ^ 48)
/-- A read of the host from the register window (R403): every other offset, and every reserved bit, reads as zero (R7). The
capability maps read as zero until the firmware has written them (R415). -/
def regRead (s : State) (off : Nat) : W64 :=
  let map := fun x : W64 => if s.host.booted then x else 0
  if off = 0 then map (pkgcap s)
  else if 0x10 ≤ off && decide (off < 0x50) && off % 8 == 0 then
    map (((clmap s ((off - 0x10) / 16)) >>> (64 * (off / 8 % 2))).setWidth 64)
  else if 0x50 ≤ off && decide (off < 0x70) && off % 8 == 0 then map (pcmap s ((off - 0x50) / 8))
  else if off = 0x70 then bootst s
  else if 0x400 ≤ off && decide (off < 0x600) && off % 32 == 24 then trpi s ((off - 0x400) / 32)
  else if off = 0x648 then dbgrsp s
  else if 0x650 ≤ off && decide (off < 0x690) && off % 8 == 0 then (s.host.dbgVal >>> (8 * (off - 0x650))).setWidth 64
  else 0

/-! ### Reset and boot (R415) -/

/-- The part in reset: nothing has booted. What lies in host memory is the host's; the attestation key's leaf counter is one-time
programmable. The model's own counter of free values and its inbox go on. -/
def resetPart (s : State) : State :=
  { State.reset with mem := s.mem.filter (fun c => c.1 / 2 ^ 50 == 2), inbox := s.inbox, free := s.free,
                     host := { host0 with leaf := s.host.leaf } }
/-- Whether the boot block takes the firmware image: its signature verifies and its version is not below the one-time-programmable
counter (R415). -/
def imageTaken : Bool := Config.bootOk && decide (Config.otpVersion ≤ Config.fwVersion.toNat)
/-- What RESET does next (R415). A part that runs, or whose image was refused, goes into reset. In reset the boot block verifies the
image, and a part whose image is refused stays there; then firmware runs the boot tests and fences the units that fail; then it
writes the maps and sets BOOTDONE. -/
def bootPart (s : State) : State :=
  if s.host.booted || s.host.failed then resetPart s
  else match s.host.boot with
    | 0 => modHost s fun h => if imageTaken then { h with boot := 1 } else { h with failed := true }
    | 1 => modHost (Config.bootFails.foldl fenceUnit s) fun h => { h with boot := 2 }
    | _ => modHost s fun h => { h with booted := true, fwver := Config.fwVersion.toNat }
/-- RESET (R415). -/
def execReset (s : State) : Host.Outcome State Fault Refusal := .next (bootPart s)

/-! ### Attestation (R416) -/

/-- Byte n of the report that a signature signs: nonce, device identity, two hashes, PKGCAP, CLMAP, PCMAP. -/
def attestAt (s : State) (nonce n : Nat) : Byte :=
  if n < 32 then byteGet s.mem (nonce + n)
  else if n < 112 then Config.attestByte n
  else if n < 120 then BitVec.ofNat 8 ((pkgcap s).toNat >>> (8 * (n - 112)))
  else if n < 184 then BitVec.ofNat 8 ((clmap s ((n - 120) / 16)).toNat >>> (8 * ((n - 120) % 16)))
  else BitVec.ofNat 8 ((pcmap s ((n - 184) / 8)).toNat >>> (8 * ((n - 184) % 8)))
/-- The bytes of a report before its signature. -/
def attestReport (s : State) (nonce : Nat) : List Byte := (List.range 216).map (attestAt s nonce)
/-- A report followed by its signature under a leaf of the device's key. -/
def attestSigned (l : List Byte) (leaf : Nat) : List Byte := l ++ (List.range Config.attestLen).map (Config.signByte leaf l)
/-- Bytes of a report with its signature. -/
def attestBytes : Nat := 216 + Config.attestLen
/-- ATTEST (R416): the leaf counter advances before the report is written. -/
def execAttest (e : BitVec 512) (s : State) : Host.Outcome State Fault Refusal :=
  reqOnce s e (reqReserved e [(16, 8), (24, 8)]) fun s =>
    let leaf := s.host.leaf
    if 2 ^ 20 ≤ leaf then (s, 0x119, 0)
    else
      let s1 := modHost s fun h => { h with leaf := leaf + 1, attested := true }
      let buf := reqFld e 24 8
      ({ s1 with mem := (attestSigned (attestReport s (reqFld e 16 8)) leaf).zipIdx.foldl (fun m x => byteSet m (buf + x.2) x.1) s1.mem },
        0, attestBytes)

end Sys2Proof.Machine
end

