-- ==== Sys2Proof/Machine/Debug.lean ====
section
/-! DEFINITION. The trace unit (R417 to R420), the debug port (R421 to R427), power (R428). -/
namespace Sys2Proof.Machine

/-! ### The debug mailbox (R425, R426) -/

/-- Whether a command is the one that the debug port has under way: started, not answered, not waiting for a stop. -/
def dbgOpen (s : State) (c : BitVec 512) : Bool :=
  s.host.dbgGo && !s.host.dbgDone && s.host.dbgHold.isNone && s.host.dbgCmd == c && !dieFenced s 0
/-- A command answered: its status, and its result where it has one. -/
def dbgEnd (s : State) (status : Nat) (val : Option (BitVec 512)) : State :=
  modHost s fun h => { h with dbgGo := false, dbgDone := true, dbgStatus := status, dbgVal := val.getD h.dbgVal }
/-- A field of a command. -/
def dbgFld (c : BitVec 512) (off len : Nat) : Nat := recFld c off len
/-- The partition that a command names. -/
def dbgPart (c : BitVec 512) : Nat := dbgFld c 2 1
/-- The key of the region that a command names. -/
def dbgKey (c : BitVec 512) : Nat := rgnKey (dbgPart c) (dbgFld c 4 4)
/-- A command of the debug port: not under way, unchanged; out of format, refused; else its meaning. -/
def dbgRun (s : State) (c : BitVec 512) (bad : Bool) (act : State) : Host.Outcome State Fault Refusal :=
  if !dbgOpen s c then .next s
  else if bad || decide (16 ≤ dbgPart c) then .next (dbgEnd s 0x133 none)
  else .next act
/-- A command on a region: refused where the partition holds no such instance (R374). -/
def dbgRgn (s : State) (c : BitVec 512) (act : Nat → Region → State) : State :=
  match rgnOf s (dbgKey c) with
  | none => dbgEnd s 0x109 none
  | some r => act (dbgKey c) r
/-- A stop that a command asks for: a stop already under way is the one that answers it (R423). -/
def dbgStop (s : State) (c : BitVec 512) (kind k cause : Nat) : State :=
  dbgRgn s c fun key r =>
    if r.st != .live then dbgEnd s 0x131 none
    else
      let hold := fun x : State => modHost x fun h => { h with dbgHold := some key }
      match r.drain with
      | some d => if d.kind = 0 then s else hold s
      | none =>
        let d : Drain :=
          { kind := kind, start := s.cyc, k := k, area := 0, keep := false, cause := cause, value := BitVec.ofNat 64 k, elem := 0,
            part := r.part, tag := 0, resp := false, left := [], gone := [] }
        hold (setRgn s key { r with drain := some d })
/-- HALT (R421, R426). -/
def execHalt (cmd : BitVec 512) (s : State) : Host.Outcome State Fault Refusal := dbgRun s cmd false (dbgStop s cmd 2 0 4)
/-- STEP (R421, R426): k further tokens from every source. -/
def execStep (cmd : BitVec 512) (s : State) : Host.Outcome State Fault Refusal :=
  let k := dbgFld cmd 8 8
  dbgRun s cmd (decide (k < 1) || decide (2 ^ 32 < k)) (dbgStop s cmd 1 k 3)

/-! ### Slot breakpoints (R424, R426) -/

/-- Whether a field is not the endpoint of a compute tile. -/
def dbgTileBad (c : BitVec 512) : Bool :=
  let e := dbgFld c 12 4
  decide (2 ^ 19 ≤ e) || epEk e != 0 || epPort e != 0
/-- BRK_SET (R426). -/
def execBrkSet (cmd : BitVec 512) (s : State) : Host.Outcome State Fault Refusal :=
  let i := dbgFld cmd 8 1
  let t := epTile (dbgFld cmd 12 4)
  dbgRun s cmd (dbgTileBad cmd || decide (3 < i) || decide (3 < dbgFld cmd 9 1) || decide (63 < dbgFld cmd 10 1) || dbgFld cmd 16 2 == 0)
    (dbgRgn s cmd fun key r =>
      if !partTile (partOf s r.part) t then dbgEnd s 0x109 none
      else
        let b : Brk := { tile := t, ctx := dbgFld cmd 9 1, slot := dbgFld cmd 10 1, left := dbgFld cmd 16 2, hit := none }
        dbgEnd (setRgn s key { r with brks := mapPut r.brks i b }) 0 none)
/-- BRK_CLR (R426). -/
def execBrkClr (cmd : BitVec 512) (s : State) : Host.Outcome State Fault Refusal :=
  dbgRun s cmd (decide (3 < dbgFld cmd 8 1))
    (dbgRgn s cmd fun key r => dbgEnd (setRgn s key { r with brks := mapDel r.brks (dbgFld cmd 8 1) }) 0 none)

/-! ### Registers (R426) -/

/-- Whether REG_RD or REG_WR is out of format. -/
def dbgRegBad (c : BitVec 512) : Bool :=
  let sel := dbgFld c 9 1
  dbgTileBad c || decide (3 < dbgFld c 8 1) || decide (20 < sel) || (decide (18 ≤ sel) && decide (sel < 20) && decide (15 < dbgFld c 10 1))
/-- REG_RD's view of a queue register: its occupancy, and seven entries from FIRST. -/
def dbgQueue (q : List W64) (first : Nat) : BitVec 512 :=
  recOf ((0, 8, q.length) :: (List.range 7).map fun i => (8 + 8 * i, 8, (q[first + i]?.map (·.toNat)).getD 0))
/-- What SEL selects of a bank. -/
def dbgItem (b : Bank) (sel first : Nat) : BitVec 512 :=
  if sel < 8 then (kGet b sel).setWidth 512
  else if sel < 16 then vGet b (sel - 8)
  else match sel with
    | 16 => b.p.setWidth 512
    | 17 => b.mode.setWidth 512
    | 18 => dbgQueue b.q0 first
    | 19 => dbgQueue b.q1 first
    | _ => (loopWord b).setWidth 512
/-- A bank with what SEL selects overwritten; none where the value is out of format. The value of a v register has 64 bytes from
byte 16, of which the command holds 48: the last 16 are a free value. -/
def dbgPut (s : State) (b : Bank) (sel : Nat) (c : BitVec 512) : Option Bank :=
  let x : W64 := BitVec.ofNat 64 (dbgFld c 16 8)
  let push := fun (q d : Nat) => if (qGet b q).length < d then some (qSet b q (qGet b q ++ [x])) else none
  if sel < 8 then some (kSet b sel x)
  else if sel < 16 then some (vSet b (sel - 8) (BitVec.ofNat 512 (dbgFld c 16 48 + Config.choice s.free % 2 ^ 128 * 2 ^ 384)))
  else match sel with
    | 16 => some { b with p := x.setWidth 4 }
    | 17 => some { b with mode := modeWrite x }
    | 18 => push 0 b.qd0
    | 19 => push 1 b.qd1
    | _ =>
      let n := fld x 15 8
      if fld x 63 17 = 0 && 1 ≤ n && n ≤ 8 && fld x 7 0 < n then some { b with rs := n, lc := fld x 7 0 } else none
/-- The tile that a register command names, of a region: outside the partition, or of another region. -/
def dbgTile (s : State) (c : BitVec 512) (act : Nat → Region → Nat → State) : State :=
  dbgRgn s c fun key r =>
    let t := epTile (dbgFld c 12 4)
    if !partTile (partOf s r.part) t then dbgEnd s 0x109 none
    else if (tileOf s t).rgn != some key then dbgEnd s 0x133 none
    else if r.st != .frozen then dbgEnd s 0x131 none
    else act key r t
/-- REG_RD (R426). -/
def execRegRd (cmd : BitVec 512) (s : State) : Host.Outcome State Fault Refusal :=
  dbgRun s cmd (dbgRegBad cmd)
    (dbgTile s cmd fun _ _ t => dbgEnd s 0 (some (dbgItem (bankOf (tileOf s t) (dbgFld cmd 8 1)) (dbgFld cmd 9 1) (dbgFld cmd 10 1))))
/-- REG_WR (R426). -/
def execRegWr (cmd : BitVec 512) (s : State) : Host.Outcome State Fault Refusal :=
  dbgRun s cmd (dbgRegBad cmd)
    (dbgTile s cmd fun key r t =>
      if !atLull s key r then dbgEnd s 0x130 none
      else match dbgPut s (bankOf (tileOf s t) (dbgFld cmd 8 1)) (dbgFld cmd 9 1) cmd with
        | some b => dbgEnd (useFree (modTile s t fun x => setBank x (dbgFld cmd 8 1) b)) 0 none
        | none => dbgEnd s 0x133 none)

/-! ### Memory (R426, R427) -/

/-- The debug port's access. -/
def dbgAcc (pn : Nat) (op : AccOp) (va : W64) (loc : Loc) (n data : Nat) : Acc :=
  { acc0 with agent := .debug, holder := (Config.holder 2 pn 0).toNat, part := pn, rgn := pn * 2 ^ 32, op := op, addr := va, loc := loc,
              size := n, data := BitVec.ofNat 1024 data }
/-- Where a byte of a command's address lies, or the status that refuses it. -/
def dbgAt (s : State) (pn : Nat) (x : W64) (write : Bool) : State × Except Nat Loc :=
  match addrForm x with
  | .virt va =>
    (match xlateNow s 0 pn (va / 4096) write with
     | (s1, .ok pp _) =>
       (match physLoc (pp * 4096 + va % 4096) with
        | .phys pa => if deadPa s pa then (s1, .error 0x10A) else (s1, .ok (.phys pa))
        | _ => (s1, .error 0x134))
     | (s1, .fail _ _ _ _) => (s1, .error 0x134))
  | .mt m o =>
    if !partMt (partOf s pn) m then (s, .error 0x109)
    else if !mtileLive s m then (s, .error 0x10A)
    else if isBuffer s m then (s, .ok (.mtile m o)) else (s, .error 0x133)
  | _ => (s, .error 0x133)
/-- The places of n bytes from an address, in pieces of one line: offset, place, length; every one is translated before any is
accessed. -/
def dbgPieces (s : State) (pn : Nat) (x : W64) (write : Bool) : Nat → Nat → Nat → State × Except Nat (List (Nat × Loc × Nat))
  | 0, _, _ => (s, .ok [])
  | _ + 1, _, 0 => (s, .ok [])
  | k + 1, off, n =>
    let y := x + BitVec.ofNat 64 off
    let m := min n (128 - y.toNat % 128)
    match dbgAt s pn y write with
    | (s1, .error st) => (s1, .error st)
    | (s1, .ok loc) =>
      match dbgPieces s1 pn x write k (off + m) (n - m) with
      | (s2, .error st) => (s2, .error st)
      | (s2, .ok l) => (s2, .ok ((off, loc, m) :: l))
/-- MEM_RD (R426, R427). A refused command changes nothing. -/
def execMemRd (cmd : BitVec 512) (s : State) : Host.Outcome State Fault Refusal :=
  let pn := dbgPart cmd
  let x : W64 := BitVec.ofNat 64 (dbgFld cmd 16 8)
  dbgRun s cmd (decide (6 < dbgFld cmd 8 1))
    (dbgRgn s cmd fun _ _ => match dbgPieces s pn x false 3 0 (2 ^ dbgFld cmd 8 1) with
     | (_, .error st) => dbgEnd s st none
     | (s1, .ok l) =>
       let go := fun (a : State × Nat × Bool) (p : Nat × Loc × Nat) =>
         let r := homeAccess a.1 (dbgAcc pn .read (x + BitVec.ofNat 64 p.1) p.2.1 p.2.2 0)
         (r.1, a.2.1 + r.2.val.toNat % 2 ^ (8 * p.2.2) * 2 ^ (8 * p.1), a.2.2 && r.2.ok)
       let (s2, v, ok) := l.foldl go (s1, 0, true)
       if ok then dbgEnd s2 0 (some (BitVec.ofNat 512 v)) else dbgEnd (useFree s2) (openStatus s2) none)
/-- MEM_WR (R426, R427): performed before DONE is set. -/
def execMemWr (cmd : BitVec 512) (s : State) : Host.Outcome State Fault Refusal :=
  let pn := dbgPart cmd
  let x : W64 := BitVec.ofNat 64 (dbgFld cmd 16 8)
  dbgRun s cmd (decide (5 < dbgFld cmd 8 1))
    (dbgRgn s cmd fun _ _ => match dbgPieces s pn x true 3 0 (2 ^ dbgFld cmd 8 1) with
     | (_, .error st) => dbgEnd s st none
     | (s1, .ok l) =>
       dbgEnd (l.foldl (fun a p =>
         (homeAccess a (dbgAcc pn (.write (storeMask p.2.2)) (x + BitVec.ofNat 64 p.1) p.2.1 p.2.2 (dbgFld cmd (24 + p.1) p.2.2))).1) s1)
         0 none)
/-- RESUME of the debug port (R426, R427, R378): as the host's, and a release that the region's elements acquire from. -/
def execDbgResume (cmd : BitVec 512) (s : State) : Host.Outcome State Fault Refusal :=
  dbgRun s cmd false
    (dbgRgn s cmd fun key r =>
      let h := (Config.holder 2 r.part 0).toNat
      if r.st = .live then dbgEnd s 0 none
      else if r.st != .frozen then dbgEnd s 0x111 none
      else if r.drain.isSome || !recordsWritten s key || !clockRoom (partOf s r.part) h then s
      else if rgnRecovers s key then
        let s1 := clkRelease (resumeRegion s key) r.part h (.resume key) 3 (diePlace 0)
        dbgEnd (clkAcquire s1 r.part r.holder (.resume key) 3 (diePlace (rgnDie r)) none) 0 none
      else dbgEnd s 0x115 none)

/-! ### The trace unit (R418, R420) -/

/-- Whether a partition gets a die's CURRENT records. -/
def sampled (s : State) (p d : Nat) : Bool :=
  (partOf s p).traceCtl.getLsbD 1 && (List.range 128).any fun i => partCluster (partOf s p) (128 * d + i)
/-- The launches of a partition with an instance bound on a die, ascending (R418). -/
def boundOn (s : State) (p d : Nat) : List Nat :=
  ((partOf s p).devq.filter fun l => l.bound.any fun k => ((rgnOf s k).map rgnDie) == some d).map (·.seq)
/-- A CURRENT record (R418). -/
def currentRec (s : State) (p d : Nat) : BitVec 512 :=
  let l := boundOn s p d
  recOf ([(0, 2, 0xB0), (2, 1, d), (3, 1, min 4 l.length + (dieOf s d).throttle.toNat * 64 + (decide (4 < l.length)).toNat * 128),
      (56, 8, s.cyc)]
    ++ (List.range 8).map (fun i => (4 + 2 * i, 2, (Config.rail d i s.cyc).toNat))
    ++ (l.take 4).zipIdx.map fun (q, i) => (24 + 8 * i, 8, q))
/-- CURRENT_SAMPLE (R418). -/
def execCurrentSample (die : Nat) (s : State) : Host.Outcome State Fault Refusal :=
  if s.cyc % 1050 = 0 && s.cyc != 0 && !dieFenced s die then
    .next ((List.range 16).foldl (fun x p => if sampled x p die then traceRecord x p (currentRec x p die) else x) s)
  else .next s

/-- A hop of a walk: the word that records it, and the input port that the walk goes on from. -/
def pathHop (s : State) (prod : Nat) : Nat × Option Nat :=
  let e := prod / 16 * 16
  match epEk prod with
  | 1 => (e, if (inPortOf s e).chan.isSome then some e else none)
  | 0 => match (outPortOf s prod).last with
    | some (p, lag) => (e + p + min lag 8191 * 2 ^ 19, some (e + p))
    | none => (e + 15, none)
  | _ => (e + 15, none)
/-- At most n hops of a walk from an input port, and whether it reaches a source with them (R420). -/
def pathHops (s : State) (ep : Nat) : Nat → List Nat × Bool
  | 0 => ([], false)
  | n + 1 =>
    match (inPortOf s ep).chan.bind (chanOf s) with
    | none => ([], true)
    | some c =>
      if isSource c.prod then ([c.prod / 16 * 16 + 15], true)
      else match pathHop s c.prod with
        | (h, some e) => let x := pathHops s e n; (h :: x.1, x.2)
        | (h, none) => ([h], true)
/-- The PATH records of a walk, ten hops to a record (R420). -/
def pathRecs (r : Region) (time : Nat) (hops : List Nat) (ended : Bool) : List (BitVec 512) :=
  let n := max 1 ((hops.length + 9) / 10)
  (List.range n).map fun j =>
    let l := (hops.drop (10 * j)).take 10
    let fin := decide (j + 1 = n)
    recOf ([(0, 2, 0xB1), (2, 2, r.version.toNat), (4, 4, r.id), (8, 1, l.length), (9, 1, (!fin).toNat + (fin && ended).toNat * 2),
      (10, 2, j), (56, 8, time)] ++ l.zipIdx.map fun (h, i) => (16 + 4 * i, 4, h))
/-- PATH_WALK (R420): the walk that a sink's dequeue has started. -/
def execPathWalk (part : Nat) (s : State) : Host.Outcome State Fault Refusal :=
  let p := partOf s part
  match p.pathAt with
  | none => .next s
  | some (k, ep) =>
    let s1 := setPart s part { p with pathAt := none }
    match rgnOf s k with
    | none => .next s1
    | some r =>
      let x := pathHops s ep 32
      .next ((pathRecs r (p.pathDue - 1050 * fld p.traceCtl 31 16) x.1 x.2).foldl (fun x y => traceRecord x part y) s1)

/-! ### Power (R428) -/

/-- THROTTLE (R428). -/
def execThrottle (die : Nat) (s : State) : Host.Outcome State Fault Refusal := .next (modDie s die fun d => { d with throttle := true })
/-- THROTTLE_END (R428). -/
def execThrottleEnd (die : Nat) (s : State) : Host.Outcome State Fault Refusal :=
  .next (modDie s die fun d => { d with throttle := false })
/-- CLOCK_GATE (R428): after 256 idle cycles. -/
def execClockGate (tile : Nat) (s : State) : Host.Outcome State Fault Refusal :=
  if 256 ≤ (tileOf s tile).idle && !(tileOf s tile).gated then .next (modTile s tile fun t => { t with gated := true }) else .next s
/-- MTILE_CLOCK_GATE (R428). -/
def execMtileClockGate (mt : Nat) (s : State) : Host.Outcome State Fault Refusal :=
  if 256 ≤ (mtileOf s mt).idle && !(mtileOf s mt).gated then .next (setMTile s mt { mtileOf s mt with gated := true }) else .next s
/-- Whether a request to a stack is in flight. -/
def stackBusy (s : State) (k : Nat) : Bool :=
  s.accs.any fun a => !a.done && (match a.loc with | .phys pa => isHbm pa && stackOf pa == k | _ => false)
/-- Whether a stack has had no request for 10 µs. -/
def refreshDue (s : State) (k : Nat) : Bool :=
  let d := dieOf s (k / 2)
  decide (k < 8) && !d.selfRef.contains k && decide (mapGet d.stackAt k 0 + 10500 ≤ s.cyc) && !stackBusy s k
/-- SELF_REFRESH (R428). -/
def execSelfRefresh (stack : Nat) (s : State) : Host.Outcome State Fault Refusal :=
  if refreshDue s stack then .next (modDie s (stack / 2) fun d => { d with selfRef := d.selfRef ++ [stack] }) else .next s
/-- Whether a link has sent no flit for 100 µs. -/
def lanesDue (s : State) (l : Nat) : Bool :=
  decide (l < 18) && !(linkOf s l).lanesIdle && decide ((linkOf s l).last + 105000 ≤ s.cyc)
    && !s.accs.any fun a => !a.done && (match a.loc with | .remote p _ => linkFor s p == l | _ => false)
/-- LANES_IDLE (R428). -/
def execLanesIdle (link : Nat) (s : State) : Host.Outcome State Fault Refusal :=
  if lanesDue s link then .next (setLink s link { linkOf s link with lanesIdle := true }) else .next s

end Sys2Proof.Machine
end

