-- ==== Sys2Proof/Machine/Products.lean ====
section
/-! DEFINITION. Values of the matrix array (08_matrix_array.md): accumulator rows, the codebook product table of R81,
dense and sparse sums of R205 and R206, the sparse check and the scale step of R210. -/
namespace Sys2Proof.Machine

/-- Element c of an accumulator row in format g (R194). -/
def rowElem (r : Row) (g : Fmt) (c : Nat) : Nat := (r.toNat >>> (fmtWidth g * c)) % 2 ^ fmtWidth g
/-- A row built from its elements in format g. -/
def rowOf (g : Fmt) (l : List Nat) : Row :=
  BitVec.ofNat 1024 ((l.reverse).foldl (fun acc x => acc * 2 ^ fmtWidth g + x % 2 ^ fmtWidth g) 0)
/-- Half h of a row (R194). -/
def rowHalf (r : Row) (h : Bool) : W512 := if h then r.extractLsb' 512 512 else r.extractLsb' 0 512
/-- A row with half h replaced (R208). -/
def rowSetHalf (r : Row) (h : Bool) (x : W512) : Row := if h then x ++ r.extractLsb' 0 512 else r.extractLsb' 512 512 ++ x

/-- The code k of a CB4 token (R69). -/
def cb4Code (x : W512) (k : Nat) : Nat := (x.toNat >>> (4 * k)) % 16
/-- The product table of R81, entry 16 i + j, with the flags raised when it is built (R204). -/
def buildTable (ftzi : Bool) (a b : W512) : List FVal × Raise :=
  let da := (List.range 16).map fun i => finF ftzi .bf16 (lane a 16 i)
  let db := (List.range 16).map fun i => finF ftzi .bf16 (lane b 16 i)
  let ps := da.flatMap fun x => db.map fun y => prodF x.1 y.1
  (ps.map (·.1), (da ++ db ++ ps).foldl (fun r x => r ||| x.2) 0)
/-- Entry n of a table; before any `mcb` every entry is the real 0 (R193). -/
def tableAt (t : List FVal) (n : Nat) : FVal := t.getD n (.zero false)

/-- The formats of operand rows of `mma` (R205). -/
inductive MFmt where
  | fp (f : Fmt)
  | cb4
  deriving DecidableEq, Repr
/-- Accumulator format of a row format (R205). -/
def accFmt : MFmt → Fmt
  | .fp .f64 => .f64
  | _ => .f32
/-- Panel columns used (R195). -/
def panelCols : MFmt → Nat
  | .fp .f64 => 16
  | _ => 32

/-- The products of one operand row and one panel column, with the flags they raise (R205); a product drawn from the
table raises none (R81). -/
def denseProds (ftzi : Bool) (m : MFmt) (table : List FVal) (a p : W512) : List (FVal × Raise) :=
  match m with
  | .cb4 => (List.range 128).map fun k => (tableAt table (16 * cb4Code a k + cb4Code p k), 0)
  | .fp f => (List.range (fmtLanes f)).map fun k =>
      let (x, r1) := finF ftzi f (lane a (fmtWidth f) k)
      let (y, r2) := finF ftzi f (lane p (fmtWidth f) k)
      let (v, r3) := prodF x y
      (v, r1 ||| r2 ||| r3)
/-- One accumulator element after adding products (R205, R79). -/
def accSum (ftzi ftzo : Bool) (g : Fmt) (old : Nat) (ps : List (FVal × Raise)) : Nat × Raise :=
  let (o, r0) := finF ftzi g old
  let (x, r) := msum ftzo o (ps.map (·.1)) g
  (x, ps.foldl (fun r p => r ||| p.2) (r0 ||| r))
/-- A dense `mma` on one row: the row after the firing and the flags (R205). -/
def denseRow (ftzi ftzo : Bool) (m : MFmt) (table : List FVal) (za : Bool) (a : W512) (panel : Nat → W512) (old : Row) :
    Row × Raise :=
  let g := accFmt m
  let l := (List.range (panelCols m)).map fun c =>
    accSum ftzi ftzo g (if za then 0 else rowElem old g c) (denseProds ftzi m table a (panel c))
  (rowOf g (l.map (·.1)), l.foldl (fun r x => r ||| x.2) 0)

/-- Groups of a sparse form (R206). -/
def spGroups (cb : Bool) : Nat := if cb then 4 else 2
/-- The position entry j of group g (R206). -/
def spEntry (b : W512) (g j : Nat) : Nat := lane b 8 (16 * g + j)
/-- Whether entry (g, j) breaks the check of R206. -/
def spBad (b : W512) (g j : Nat) : Bool :=
  decide (32 ≤ spEntry b g j) || (decide (0 < j) && decide (spEntry b g j ≤ spEntry b g (j - 1)))
/-- The lowest group and then entry that breaks the check. -/
def spCheck (cb : Bool) (n : Nat) (b : W512) : Option (Nat × Nat) :=
  ((List.range (spGroups cb)).flatMap fun g => (List.range n).map fun j => (g, j)).find? fun (g, j) => spBad b g j
/-- The payload of ERR SPARSE_META (R207). -/
def sparseMeta (b : W512) (g j : Nat) : W512 :=
  BitVec.ofNat 512 (6 + g * 2 ^ 16 + j * 2 ^ 19 + spEntry b g j * 2 ^ 24)
/-- The terms of group g for one panel column (R206). -/
def spTerms (ftzi cb : Bool) (table : List FVal) (n : Nat) (a b p : W512) (g : Nat) : List (FVal × Raise) :=
  (List.range n).map fun j =>
    let e := spEntry b g j
    if cb then (tableAt table (16 * cb4Code a (16 * g + j) + cb4Code p (32 * g + e)), 0)
    else
      let (x, r1) := finF ftzi .bf16 (lane a 16 (16 * g + j))
      let (y, r2) := finF ftzi .bf16 (lane p 16 e)
      let (v, r3) := prodF x y
      (v, r1 ||| r2 ||| r3)
/-- A sparse `mma` on one row: the row takes the terms of the groups listed (R206). -/
def sparseRow (ftzi ftzo cb : Bool) (table : List FVal) (za : Bool) (n : Nat) (a b : W512) (gs : List Nat)
    (panel : Nat → W512) (old : Row) : Row × Raise :=
  let l := (List.range 32).map fun c =>
    accSum ftzi ftzo .f32 (if za then 0 else rowElem old .f32 c)
      (gs.flatMap (spTerms ftzi cb table n a b (panel c)))
  (rowOf .f32 (l.map (·.1)), l.foldl (fun r x => r ||| x.2) 0)

/-- `sacc` (R210): MAIN and PART rows after the sixteen elements of half h, and the flags. -/
def saccRows (ftzi ftzo : Bool) (main part : Row) (h : Bool) (a b : W512) : Row × Row × Raise :=
  let l := (List.range 32).map fun c =>
    if (decide (16 ≤ c)) == h then
      saccElem ftzi ftzo (rowElem main .f32 c) (rowElem part .f32 c) (lane b 32 0) (lane a 32 (c % 16))
    else (rowElem main .f32 c, 0)
  (rowOf .f32 (l.map (·.1)), rowSetHalf part h 0, l.foldl (fun r x => r ||| x.2) 0)

end Sys2Proof.Machine
end

