-- ==== Sys2Proof/Machine/Matrix.lean ====
section
/-! DEFINITION. The matrix array (08_matrix_array.md): the command queue, the entries' run times and effects, the
instructions of group 9 and the follow-ons of the block-transfer engine. -/
namespace Sys2Proof.Machine

/-! ### Entries -/

/-- Opcodes of group 9 (R102). -/
def opMmaBf16 : Nat := 0x240
def opMmaSpBf16 : Nat := 0x244
def opMmaSpCb4 : Nat := 0x245
def opMpl : Nat := 0x248
def opMcb : Nat := 0x249
def opAccZero : Nat := 0x250
def opAccRd : Nat := 0x251
def opAccWr : Nat := 0x252
def opAccCp : Nat := 0x253
def opSacc : Nat := 0x254

/-- Row format of a dense `mma` opcode (R205). -/
def mmaFmt (op : Nat) : MFmt :=
  match op with
  | 0x240 => .fp .bf16
  | 0x241 => .fp .f32
  | 0x242 => .fp .f64
  | _ => .cb4
/-- Whether an opcode is a sparse `mma`. -/
def isSparse (op : Nat) : Bool := op == opMmaSpBf16 || op == opMmaSpCb4
/-- Whether an opcode is a `mma`. -/
def isMma (op : Nat) : Bool := decide (0x240 ≤ op) && decide (op ≤ 0x245)
/-- Fields of a `mma` spec (R205). -/
def mmaRow (x : W64) : Nat := fld x 6 0
def mmaPanel (x : W64) : Nat := fld x 8 8
def mmaZa (x : W64) : Bool := x.getLsbD 10
def mmaN (x : W64) : Nat := fld x 15 12 + 1

/-- Fields of a follow-on descriptor (R211). -/
def fonOp (d : BitVec 256) : Nat := recFld d 0 2
def fonRows (d : BitVec 256) : Nat := recFld d 2 1 + 1
def fonCols (d : BitVec 256) : Nat := recFld d 3 1
def fonSpec (d : BitVec 256) : W64 := BitVec.ofNat 64 (recFld d 4 8)
def fonA (d : BitVec 256) : Nat := recFld d 12 4
def fonB (d : BitVec 256) : Nat := recFld d 16 4
def fonCb (d : BitVec 256) : Option Nat := if recFld d 20 4 = 0xFFFFFFFF then none else some (recFld d 20 4)
def fonStride (d : BitVec 256) : Nat := recFld d 24 2
/-- Whether a range of local memory is aligned and lies within it (R211, R213). -/
def fonRange (a n : Nat) : Bool := a % 64 == 0 && decide (a + n ≤ 0x20000)
/-- Whether a follow-on fails the check of R213 on a tile. DESIGN CHOICE (log 115): a row count above 128, COLS above 32 and ASTRIDE of 0
or above 2,047 are outside their fields' ranges (R211) and fail it too; with COLS = 0, BADDR may be the end of local memory and not lie
past it. -/
def fonBad (mcbRan : Bool) (d : BitVec 256) : Bool :=
  let op := fonOp d
  let x := fonSpec d
  let sp := isSparse op
  !isMma op || recFld d 26 6 != 0 || fld x 63 16 != 0 || x.getLsbD 11 || x.getLsbD 7 || x.getLsbD 9
    || (!sp && fld x 15 12 != 0) || (op == opMmaSpBf16 && x.getLsbD 0) || (sp && decide (fonStride d < 2))
    || decide (128 < fonRows d) || decide (32 < fonCols d) || fonStride d == 0 || decide (2047 < fonStride d)
    || !fonRange (fonA d) (64 * fonStride d * (fonRows d - 1) + (if sp then 128 else 64))
    || !fonRange (fonB d) (64 * fonCols d)
    || (match fonCb d with | some c => !fonRange c 128 | none => false)
    || ((op == 0x243 || op == opMmaSpCb4) && (fonCb d).isNone && !mcbRan)

/-- Run time T of one `mma` (R198). -/
def mmaTime (op : Nat) : Nat :=
  match op with
  | 0x241 => 8
  | 0x242 => 8
  | 0x245 => 2
  | _ => 4
/-- Run time T of an entry (R198). -/
def matTime (mcbRan : Bool) (c : MatCmd) : Nat :=
  match c.fon with
  | some (d, _) =>
    if fonBad mcbRan d then 1
    else (if (fonCb d).isSome then 8 else 0) + fonCols d + fonRows d * mmaTime (fonOp d)
  | none =>
    if c.skip.isSome then 1
    else if isMma c.op then mmaTime c.op
    else if c.op = opMcb then 8
    else if c.op = opAccZero then (fld c.spec 14 8 + 1 + 3) / 4
    else if c.op = opSacc then 2
    else 1
/-- Whether an entry runs on the panel path (R198). -/
def onPanelPath (c : MatCmd) : Bool := c.op == opMpl
/-- The panels an entry reads. DESIGN CHOICE (log 116): an entry that computes nothing (R199), or a follow-on that fails its check, counts as
reading the panel that it names. -/
def readsPanel (c : MatCmd) (p : Nat) : Bool :=
  match c.fon with
  | some (d, _) => mmaPanel (fonSpec d) == p
  | none => isMma c.op && mmaPanel c.spec == p
/-- Whether an entry may start in this cycle, beside the entries running (R198). -/
def canStart (cyc : Nat) (runs : List MatRun) (c : MatCmd) : Bool :=
  if onPanelPath c then
    runs.all fun r => decide (r.start + r.t ≤ cyc) || !(onPanelPath r.cmd || readsPanel r.cmd (fld c.spec 8 8))
  else runs.all fun r => !onPanelPath r.cmd && decide (r.start + r.t ≤ cyc)

/-! ### Effects on the array (R203 to R212) -/

/-- An accumulator row. -/
def accRow (t : Tile) (r : Nat) : Row := mapGet t.acc (r % 128) 0
/-- A tile with an accumulator row written. -/
def accSet (t : Tile) (r : Nat) (x : Row) : Tile := { t with acc := mapSet t.acc (r % 128) x 0 }
/-- A panel column. -/
def panelCol (t : Tile) (p c : Nat) : W512 := mapGet t.panels (32 * p + c) 0
/-- A tile with a panel column written. -/
def panelSet (t : Tile) (p c : Nat) (x : W512) : Tile := { t with panels := mapSet t.panels (32 * p + c) x 0 }
/-- One `mma` on a tile (R205, R206): the tile, the flags, and the entry that fails the sparse check. -/
def mmaStep (t : Tile) (op : Nat) (x : W64) (row : Nat) (ftzi ftzo : Bool) (a b : W512) :
    Tile × Raise × Option (Nat × Nat) :=
  let p := panelCol t (mmaPanel x)
  if op = opMmaSpBf16 then
    match spCheck false (mmaN x) b with
    | some e => (t, 0, some e)
    | none =>
      let (r0, f0) := sparseRow ftzi ftzo false t.table (mmaZa x) (mmaN x) a b [0] p (accRow t row)
      let (r1, f1) := sparseRow ftzi ftzo false t.table (mmaZa x) (mmaN x) a b [1] p (accRow t (row + 1))
      (accSet (accSet t row r0) (row + 1) r1, f0 ||| f1, none)
  else if op = opMmaSpCb4 then
    match spCheck true (mmaN x) b with
    | some e => (t, 0, some e)
    | none =>
      let (r, f) := sparseRow ftzi ftzo true t.table (mmaZa x) (mmaN x) a b [0, 1, 2, 3] p (accRow t row)
      (accSet t row r, f, none)
  else
    let (r, f) := denseRow ftzi ftzo (mmaFmt op) t.table (mmaZa x) a p (accRow t row)
    (accSet t row r, f, none)
/-- `mcb` on a tile (R204). -/
def mcbStep (t : Tile) (ftzi : Bool) (a b : W512) : Tile × Raise :=
  let (l, f) := buildTable ftzi a b
  ({ t with table := l, mcbRan := true }, f)
/-- `acc.zero` of n rows (R208). -/
def accZeroRows (t : Tile) (row : Nat) : Nat → Tile
  | 0 => t
  | n + 1 => accZeroRows (accSet t row 0) (row + 1) n
/-- A token carrying a number in [6:0] (R202). -/
def doneTok (n : Nat) : Kind × W512 := (.data, BitVec.ofNat 512 (n % 128))
/-- What an entry of a firing does when it is done: the tile, its two results and the flags. -/
structure MatOut where
  t : Tile
  r1 : Kind × W512
  r2 : Kind × W512
  raise : Raise
/-- The effect of an entry of a firing (R203 to R210). -/
def matEffect (t : Tile) (c : MatCmd) : MatOut :=
  match c.skip with
  | some k => ⟨t, (k.kind, k.pay), (k.kind, k.pay), 0⟩
  | none =>
    let x := c.spec
    let out := fun (t' : Tile) (n : Nat) (f : Raise) => MatOut.mk t' (doneTok n) (doneTok n) f
    if isMma c.op then
      match mmaStep t c.op x c.row c.ftzi c.ftzo c.a c.b with
      | (_, _, some (g, j)) => ⟨t, (.err, sparseMeta c.b g j), (.err, sparseMeta c.b g j), 0⟩
      | (t', f, none) => out t' c.row f
    else if c.op = opMpl then out (panelSet t (fld x 8 8) c.row c.a) c.row 0
    else if c.op = opMcb then
      let (t', f) := mcbStep t c.ftzi c.a c.b
      out t' 0 f
    else if c.op = opAccZero then out (accZeroRows t (fld x 6 0) (fld x 14 8 + 1)) (fld x 6 0) 0
    else if c.op = opAccWr then out (accSet t c.row (rowSetHalf (accRow t c.row) (x.getLsbD 8) c.a)) c.row 0
    else if c.op = opAccCp then
      let t' := accSet t (fld x 14 8) (accRow t (fld x 6 0))
      out (if x.getLsbD 16 then accSet t' (fld x 6 0) 0 else t') (fld x 14 8) 0
    else if c.op = opSacc then
      let (m, p, f) := saccRows c.ftzi c.ftzo (accRow t (fld x 6 0)) (accRow t (fld x 14 8)) (x.getLsbD 16) c.a c.b
      out (accSet (accSet t (fld x 6 0) m) (fld x 14 8) p) (fld x 6 0) f
    else
      let r := accRow t c.row
      let h := x.getLsbD 8
      let cleared := if c.two then (0 : Row) else rowSetHalf r h 0
      let t' := if x.getLsbD 10 then accSet t c.row cleared else t
      if c.two then ⟨t', (.data, rowHalf r false), (.data, rowHalf r true), 0⟩
      else ⟨t', (.data, rowHalf r h), (.data, rowHalf r h), 0⟩
/-- A token of 64 bytes of local memory, read through the cluster port (R216): none where it meets an uncorrectable error (R218). -/
def lmTok (t : Tile) (a : Nat) : Option W512 := if lmBad t a 64 then none else some (BitVec.ofNat 512 (lmRead t a 64))
/-- How a step of a follow-on failed: status, detail, and the local-memory address of an operand that cannot be read. -/
abbrev FonFail := Nat × Nat × Nat
/-- The failure of the first step that failed, one more step having failed or not. -/
def firstFail (a b : Option FonFail) : Option FonFail := if a.isSome then a else b
/-- An operand at an address that cannot be read (R218). -/
def fonUncorr (a : Nat) : Option FonFail := some (0xA06, 0, a)
/-- The codebooks of a follow-on loaded (R212 step 1). -/
def fonTable (t : Tile) (d : BitVec 256) (ftzi : Bool) : Tile × Raise × Option FonFail :=
  match fonCb d with
  | none => (t, 0, none)
  | some c => match lmTok t c, lmTok t (c + 64) with
    | some a, some b => let (t', f) := mcbStep t ftzi a b; (t', f, none)
    | none, _ => (t, 0, fonUncorr c)
    | _, none => (t, 0, fonUncorr (c + 64))
/-- Columns j to j + n - 1 loaded from local memory (R212 step 2). -/
def fonPanel (t : Tile) (p a j : Nat) (bad : Option FonFail) : Nat → Tile × Option FonFail
  | 0 => (t, bad)
  | n + 1 => match lmTok t (a + 64 * j) with
    | some x => fonPanel (panelSet t p j x) p a (j + 1) bad n
    | none => fonPanel t p a (j + 1) (firstFail bad (fonUncorr (a + 64 * j))) n
/-- Row i of a follow-on (R212 step 3): a row that fails the sparse check, or an operand of which cannot be read, is left
unchanged. -/
def fonRow (t : Tile) (d : BitVec 256) (ftzi ftzo : Bool) (i : Nat) : Tile × Raise × Option FonFail :=
  let a := fonA d + 64 * fonStride d * i
  let row := (mmaRow (fonSpec d) + (if fonOp d = opMmaSpBf16 then 2 * i else i)) % 128
  match lmTok t a, if isSparse (fonOp d) then lmTok t (a + 64) else some 0 with
  | some x, some y =>
    let (t', f, e) := mmaStep t (fonOp d) (fonSpec d) row ftzi ftzo x y
    (t', f, e.map fun _ => (6, i, 0))
  | none, _ => (t, 0, fonUncorr a)
  | _, none => (t, 0, fonUncorr (a + 64))
/-- Rows i to i + n - 1 of a follow-on: the tile, the flags and the first failure. -/
def fonRowsRun (t : Tile) (d : BitVec 256) (ftzi ftzo : Bool) (i : Nat) (f : Raise) (bad : Option FonFail) :
    Nat → Tile × Raise × Option FonFail
  | 0 => (t, f, bad)
  | n + 1 =>
    let x := fonRow t d ftzi ftzo i
    fonRowsRun x.1 d ftzi ftzo (i + 1) (f ||| x.2.1) (firstFail bad x.2.2) n
/-- A follow-on (R212): the tile, the flags, and its status with its detail and failing address (R214, R218). -/
def fonEffect (t : Tile) (d : BitVec 256) (ftzi ftzo : Bool) : Tile × Raise × FonFail :=
  let x1 := fonTable t d ftzi
  let x2 := fonPanel x1.1 (mmaPanel (fonSpec d)) (fonB d) 0 x1.2.2 (fonCols d)
  let x3 := fonRowsRun x2.1 d ftzi ftzo 0 x1.2.1 x2.2 (fonRows d)
  (x3.1, x3.2.1, x3.2.2.getD (0, 0, 0))

/-! ### Firings of group 9 (R196, R199, R202) -/

/-- A firing that enters an entry into the command queue. `auto` gives the row or column from HPOS at the firing's start
(R201). -/
def peMat (s : State) (i : Instr) (op : Nat) (two : Bool) (row : Nat → W64 → Nat) : Host.Outcome State Fault Refusal :=
  let h := (trigPort s s.cur).hpos
  pe s i fun st f o j =>
    let c : MatCmd :=
      { op := op, spec := o.lit, row := row h o.lit, two := two, a := o.a, b := o.b, ftzi := modeFtzi o.mode,
        ftzo := modeFtzo o.mode, skip := skipToken i o, job := j, bank := f.bank, fon := none }
    .go { st := modTile st f.tile fun t => { t with cmdq := t.cmdq ++ [c] }, wait := .matrix, lat := 2,
          regs := (skipToken i o).isNone }
/-- Row of a spec with AUTO in [9] (R205, R208, R209). -/
def rowAuto (h : Nat) (x : W64) : Nat := (fld x 6 0 + (if x.getLsbD 9 then h else 0)) % 128
/-- Row of `mma.sp.bf16` (R205). -/
def rowAuto2 (h : Nat) (x : W64) : Nat := (fld x 6 0 + (if x.getLsbD 9 then 2 * h else 0)) % 128
/-- Column of `mpl` (R203). -/
def colAuto (h : Nat) (x : W64) : Nat := (fld x 4 0 + (if x.getLsbD 9 then h else 0)) % 32

/-- `mma.bf16` (R205). -/
def execMmaBf16 (a : BitVec 5) (d e t : BitVec 4) (s : State) : Host.Outcome State Fault Refusal :=
  peMat s (.mmaBf16 a d e t) 0x240 false rowAuto
/-- `mma.f32` (R205). -/
def execMmaF32 (a : BitVec 5) (d e t : BitVec 4) (s : State) : Host.Outcome State Fault Refusal :=
  peMat s (.mmaF32 a d e t) 0x241 false rowAuto
/-- `mma.f64` (R205). -/
def execMmaF64 (a : BitVec 5) (d e t : BitVec 4) (s : State) : Host.Outcome State Fault Refusal :=
  peMat s (.mmaF64 a d e t) 0x242 false rowAuto
/-- `mma.cb4` (R205). -/
def execMmaCb4 (a : BitVec 5) (d e t : BitVec 4) (s : State) : Host.Outcome State Fault Refusal :=
  peMat s (.mmaCb4 a d e t) 0x243 false rowAuto
/-- `mma.sp.bf16` (R206). -/
def execMmaSpBf16 (a b : BitVec 5) (d e t : BitVec 4) (s : State) : Host.Outcome State Fault Refusal :=
  peMat s (.mmaSpBf16 a b d e t) 0x244 false rowAuto2
/-- `mma.sp.cb4` (R206). -/
def execMmaSpCb4 (a b : BitVec 5) (d e t : BitVec 4) (s : State) : Host.Outcome State Fault Refusal :=
  peMat s (.mmaSpCb4 a b d e t) 0x245 false rowAuto
/-- `mpl` (R203). -/
def execMpl (a : BitVec 5) (d e t : BitVec 4) (s : State) : Host.Outcome State Fault Refusal :=
  peMat s (.mpl a d e t) 0x248 false colAuto
/-- `mcb` (R204). -/
def execMcb (a b : BitVec 5) (d e t : BitVec 4) (s : State) : Host.Outcome State Fault Refusal :=
  peMat s (.mcb a b d e t) 0x249 false fun _ _ => 0
/-- `acc.zero` (R208). -/
def execAccZero (d e t : BitVec 4) (s : State) : Host.Outcome State Fault Refusal :=
  peMat s (.accZero d e t) 0x250 false fun _ x => fld x 6 0
/-- `acc.rd` (R209). -/
def execAccRd (a : BitVec 5) (d e t : BitVec 4) (s : State) : Host.Outcome State Fault Refusal :=
  peMat s (.accRd a d e t) 0x251 (d != e) rowAuto
/-- `acc.wr` (R208). -/
def execAccWr (a : BitVec 5) (d e t : BitVec 4) (s : State) : Host.Outcome State Fault Refusal :=
  peMat s (.accWr a d e t) 0x252 false rowAuto
/-- `acc.cp` (R208). -/
def execAccCp (d e t : BitVec 4) (s : State) : Host.Outcome State Fault Refusal :=
  peMat s (.accCp d e t) 0x253 false fun _ x => fld x 14 8
/-- `sacc` (R210). -/
def execSacc (a b : BitVec 5) (d e t : BitVec 4) (s : State) : Host.Outcome State Fault Refusal :=
  peMat s (.sacc a b d e t) 0x254 false fun _ x => fld x 6 0

/-! ### The array's own steps -/

/-- A sparse map with the entries of some keys exchanged against another's. -/
def keysFrom {α : Type} (l : List Nat) (a b : SMap α) : SMap α :=
  l.foldl (fun m k => match mapFind b k with | some x => mapPut m k x | none => mapDel m k) a
/-- One tile's live and shadow state exchanged, with its ports; the bytes of local memory stay, their other half live (R381). -/
def flipTile (s : State) (n : Nat) : State :=
  let t := tileOf s n
  let u := { mapGet s.shadows n tile0 with lm := t.lm, bad := t.bad, half := t.half.map not, idle := t.idle, gated := t.gated, wake := t.wake }
  let ps := (List.range 6).map (tileEp n)
  { s with tiles := mapPut s.tiles n u, shadows := mapPut s.shadows n t,
           inPorts := keysFrom ps s.inPorts s.shadowPorts, shadowPorts := keysFrom ps s.shadowPorts s.inPorts,
           outPorts := keysFrom ps s.outPorts s.shadowOuts, shadowOuts := keysFrom ps s.shadowOuts s.outPorts }
/-- A step of a tile's array: on its live state, or, where that has nothing to do, on its shadow state, whose entries run on (R25,
R381). -/
def arrayStep (s : State) (n : Nat) (f : State → Option State) : State :=
  match f s with
  | some t => t
  | none => match mapFind s.shadows n with
    | none => s
    | some _ => match f (flipTile s n) with
      | some t => flipTile t n
      | none => s
/-- The queue's first entry started, if its path is free. -/
def matStart (tile : Nat) (s : State) : Option State :=
  let t := tileOf s tile
  match t.cmdq with
  | c :: q =>
    if canStart s.cyc t.runs c then
      let bad := match c.fon with
        | some (d, _) => fonBad t.mcbRan d
        | none => false
      let cb := match c.fon with
        | some (d, _) => !bad && (fonCb d).isSome
        | none => c.op == opMcb && c.skip.isNone
      some (setTile s tile { t with
        cmdq := q, runs := t.runs ++ [⟨c, s.cyc, matTime t.mcbRan c, bad⟩], mcbRan := t.mcbRan || cb })
    else none
  | [] => none
/-- MATRIX_ENTRY_START (R198). -/
def execMatrixEntryStart (tile : Nat) (s : State) : Host.Outcome State Fault Refusal := .next (arrayStep s tile (matStart tile))
/-- The first entry whose effects are written in this cycle (R198). -/
def matDue (s : State) (t : Tile) : Option MatRun := t.runs.find? fun r => decide (r.start + r.t + 2 ≤ s.cyc)
/-- The entries whose effects are written in this cycle. -/
def matDueAll (s : State) (t : Tile) : List MatRun := t.runs.filter fun r => decide (r.start + r.t + 2 ≤ s.cyc)
/-- The effects and the tokens of an entry, or a follow-on's status. -/
def matDone (tile : Nat) (s : State) : Option State :=
  let t := tileOf s tile
  match matDue s t with
  | none => none
  | some r =>
    let t0 := { t with runs := t.runs.erase r }
    match r.cmd.fon with
    | some (d, bte, ch, seq) =>
      if r.bad then some (fonReport (setTile s tile t0) tile bte ch seq 0x901 0 0)
      else
        let (t1, f, st, det, a) := fonEffect t0 d r.cmd.ftzi r.cmd.ftzo
        let b0 := bankOf t1 0
        let s1 := setTile s tile (setBank t1 0 { b0 with mode := modeRaise b0.mode f })
        some (fonReport (if st = 0xA06 then errNote s1 (.lm tile a) else s1) tile bte ch seq st det
          (if st = 0xA06 then 14 * 2 ^ 60 + tileEp tile 0 * 2 ^ 32 + a else 0))
    | none =>
      let o := matEffect t0 r.cmd
      let s1 := setTile s tile o.t
      match t.jobs.find? fun j => j.id == r.cmd.job with
      | some j => some (finishJob s1 tile { j with r1 := o.r1, r2 := if r.cmd.two then o.r2 else o.r1, raise := o.raise })
      | none => some s1
/-- MATRIX_ENTRY_DONE (R198): one entry that is due. -/
def execMatrixEntryDone (tile : Nat) (s : State) : Host.Outcome State Fault Refusal := .next (arrayStep s tile (matDone tile))
/-- A follow-on that the BTE has delivered takes a free entry, under bank 0's FTZI and FTZO as they stand (R212). -/
def fonEnter (tile : Nat) (s : State) : Option State :=
  let t := tileOf s tile
  match t.fons with
  | c :: l =>
    if t.cmdq.length < 8 then
      let m := (bankOf t 0).mode
      some (setTile s tile { t with fons := l, cmdq := t.cmdq ++ [{ c with ftzi := modeFtzi m, ftzo := modeFtzo m }] })
    else none
  | [] => none
/-- FOLLOW_ON_ENTER (R196). -/
def execFollowOnEnter (tile : Nat) (s : State) : Host.Outcome State Fault Refusal := .next (arrayStep s tile (fonEnter tile))

end Sys2Proof.Machine
end

