-- ==== Sys2Proof/Machine/Vector.lean ====
section
/-! DEFINITION. The meanings of groups 4 to 8 on the vector unit (07_vector_instructions.md). -/
namespace Sys2Proof.Machine

/-- The effect of a vector instruction (R165 to R167): the token that stands for heads that are not all DATA, or its
result, flag and flags at its latency. -/
def vecEff (i : Instr) (r : Opnd → VecRes) (s : State) (_f : Firing) (o : Opnd) (_j : Nat) : Effect :=
  match skipToken i o with
  | some t => skipEff s t (info i).lat
  | none =>
    let x := r o
    .go { st := s, r1 := (.data, x.val), flag := x.flag, raise := x.raise, lat := (info i).lat }
/-- A firing of a vector instruction. -/
def peVec (s : State) (i : Instr) (r : Opnd → VecRes) : Host.Outcome State Fault Refusal := pe s i (vecEff i r)
/-- A firing of an instruction whose third operand is the v register that DA names (R173). -/
def peVecC (s : State) (i : Instr) (d : BitVec 4) (r : Opnd → W512 → VecRes) : Host.Outcome State Fault Refusal :=
  let c := vGet (bankOf (tileOf s s.cur.tile) s.cur.bank) (d.toNat - 6)
  pe s i (vecEff i fun o => r o c)

/-! ### Groups 4 to 6 (R172 to R179) -/

/-- `fadd` (R172). -/
def execFadd (g : BitVec 2) (a b : BitVec 5) (d e t : BitVec 4) (s : State) : Host.Outcome State Fault Refusal :=
  peVec s (.fadd g a b d e t) fun o => vFadd (gFmt g) (fmode o.mode) o.a o.b
/-- `fsub` (R172). -/
def execFsub (g : BitVec 2) (a b : BitVec 5) (d e t : BitVec 4) (s : State) : Host.Outcome State Fault Refusal :=
  peVec s (.fsub g a b d e t) fun o => vFsub (gFmt g) (fmode o.mode) o.a o.b
/-- `fmul` (R172). -/
def execFmul (g : BitVec 2) (a b : BitVec 5) (d e t : BitVec 4) (s : State) : Host.Outcome State Fault Refusal :=
  peVec s (.fmul g a b d e t) fun o => vFmul (gFmt g) (fmode o.mode) o.a o.b
/-- `fma` (R173): DA names the third operand. -/
def execFma (g : BitVec 2) (a b : BitVec 5) (d e t : BitVec 4) (s : State) : Host.Outcome State Fault Refusal :=
  peVecC s (.fma g a b d e t) d fun o c => vFused false false (gFmt g) (fmode o.mode) o.a o.b c
/-- `fms` (R173): DA names the third operand. -/
def execFms (g : BitVec 2) (a b : BitVec 5) (d e t : BitVec 4) (s : State) : Host.Outcome State Fault Refusal :=
  peVecC s (.fms g a b d e t) d fun o c => vFused false true (gFmt g) (fmode o.mode) o.a o.b c
/-- `fnma` (R173): DA names the third operand. -/
def execFnma (g : BitVec 2) (a b : BitVec 5) (d e t : BitVec 4) (s : State) : Host.Outcome State Fault Refusal :=
  peVecC s (.fnma g a b d e t) d fun o c => vFused true false (gFmt g) (fmode o.mode) o.a o.b c
/-- `fmin` (R174). -/
def execFmin (g : BitVec 2) (a b : BitVec 5) (d e t : BitVec 4) (s : State) : Host.Outcome State Fault Refusal :=
  peVec s (.fmin g a b d e t) fun o => vFmin (gFmt g) (fmode o.mode) o.a o.b
/-- `fmax` (R174). -/
def execFmax (g : BitVec 2) (a b : BitVec 5) (d e t : BitVec 4) (s : State) : Host.Outcome State Fault Refusal :=
  peVec s (.fmax g a b d e t) fun o => vFmax (gFmt g) (fmode o.mode) o.a o.b
/-- `fabs` (R175). -/
def execFabs (g : BitVec 2) (a : BitVec 5) (d e t : BitVec 4) (s : State) : Host.Outcome State Fault Refusal :=
  peVec s (.fabs g a d e t) fun o => vFabs (gFmt g) (fmode o.mode) o.a
/-- `fneg` (R175). -/
def execFneg (g : BitVec 2) (a : BitVec 5) (d e t : BitVec 4) (s : State) : Host.Outcome State Fault Refusal :=
  peVec s (.fneg g a d e t) fun o => vFneg (gFmt g) (fmode o.mode) o.a
/-- `fcmp.eq` (R176). -/
def execFcmpEq (g : BitVec 2) (a b : BitVec 5) (d e t : BitVec 4) (s : State) : Host.Outcome State Fault Refusal :=
  peVec s (.fcmpEq g a b d e t) fun o => vFcmp fvEq false (gFmt g) (fmode o.mode) o.a o.b
/-- `fcmp.lt` (R176). -/
def execFcmpLt (g : BitVec 2) (a b : BitVec 5) (d e t : BitVec 4) (s : State) : Host.Outcome State Fault Refusal :=
  peVec s (.fcmpLt g a b d e t) fun o => vFcmp fvLt true (gFmt g) (fmode o.mode) o.a o.b
/-- `fcmp.le` (R176). -/
def execFcmpLe (g : BitVec 2) (a b : BitVec 5) (d e t : BitVec 4) (s : State) : Host.Outcome State Fault Refusal :=
  peVec s (.fcmpLe g a b d e t) fun o => vFcmp fvLe true (gFmt g) (fmode o.mode) o.a o.b
/-- `fcmp.un` (R176). -/
def execFcmpUn (g : BitVec 2) (a b : BitVec 5) (d e t : BitVec 4) (s : State) : Host.Outcome State Fault Refusal :=
  peVec s (.fcmpUn g a b d e t) fun o => vFcmp fvUn false (gFmt g) (fmode o.mode) o.a o.b
/-- `fclass` (R177). -/
def execFclass (g : BitVec 2) (a : BitVec 5) (d e t : BitVec 4) (s : State) : Host.Outcome State Fault Refusal :=
  peVec s (.fclass g a d e t) fun o => vFclass (gFmt g) (fmode o.mode) o.a
/-- `fsqrt` (R178). -/
def execFsqrt (g : BitVec 2) (a : BitVec 5) (d e t : BitVec 4) (s : State) : Host.Outcome State Fault Refusal :=
  peVec s (.fsqrt g a d e t) fun o => vFsqrt (gFmt g) (fmode o.mode) o.a
/-- `frcpe` (R179). -/
def execFrcpe (g : BitVec 2) (a : BitVec 5) (d e t : BitVec 4) (s : State) : Host.Outcome State Fault Refusal :=
  peVec s (.frcpe g a d e t) fun o => vFrcpe (gFmt g) (fmode o.mode) o.a
/-- `fdiv` (R172). -/
def execFdiv (g : BitVec 2) (a b : BitVec 5) (d e t : BitVec 4) (s : State) : Host.Outcome State Fault Refusal :=
  peVec s (.fdiv g a b d e t) fun o => vFdiv (gFmt g) (fmode o.mode) o.a o.b

/-! ### Groups 7 and 8: integer lanes (R180 to R182) -/

/-- `vadd` (R180). -/
def execVadd (y : BitVec 3) (a b : BitVec 5) (d e t : BitVec 4) (s : State) : Host.Outcome State Fault Refusal :=
  peVec s (.vadd y a b d e t) fun o => vIntWrap (· + ·) y (modeSat o.mode) o.a o.b
/-- `vsub` (R180). -/
def execVsub (y : BitVec 3) (a b : BitVec 5) (d e t : BitVec 4) (s : State) : Host.Outcome State Fault Refusal :=
  peVec s (.vsub y a b d e t) fun o => vIntWrap (· - ·) y (modeSat o.mode) o.a o.b
/-- `vmul` (R180). -/
def execVmul (y : BitVec 3) (a b : BitVec 5) (d e t : BitVec 4) (s : State) : Host.Outcome State Fault Refusal :=
  peVec s (.vmul y a b d e t) fun o => vIntWrap (· * ·) y (modeSat o.mode) o.a o.b
/-- `vmulh` (R180). -/
def execVmulh (y : BitVec 3) (a b : BitVec 5) (d e t : BitVec 4) (s : State) : Host.Outcome State Fault Refusal :=
  peVec s (.vmulh y a b d e t) fun o => vMulh y o.a o.b
/-- `vmin` (R180). -/
def execVmin (y : BitVec 3) (a b : BitVec 5) (d e t : BitVec 4) (s : State) : Host.Outcome State Fault Refusal :=
  peVec s (.vmin y a b d e t) fun o => vPick (fun p q => decide (p ≤ q)) y o.a o.b
/-- `vmax` (R180). -/
def execVmax (y : BitVec 3) (a b : BitVec 5) (d e t : BitVec 4) (s : State) : Host.Outcome State Fault Refusal :=
  peVec s (.vmax y a b d e t) fun o => vPick (fun p q => decide (q ≤ p)) y o.a o.b
/-- `vshr` (R180). -/
def execVshr (y : BitVec 3) (a b : BitVec 5) (d e t : BitVec 4) (s : State) : Host.Outcome State Fault Refusal :=
  peVec s (.vshr y a b d e t) fun o => vShr y o.a o.b
/-- `vcmp.lt` (R180). -/
def execVcmpLt (y : BitVec 3) (a b : BitVec 5) (d e t : BitVec 4) (s : State) : Host.Outcome State Fault Refusal :=
  peVec s (.vcmpLt y a b d e t) fun o => vCmpLt y o.a o.b
/-- `vshl` (R181). -/
def execVshl (w : BitVec 2) (a b : BitVec 5) (d e t : BitVec 4) (s : State) : Host.Outcome State Fault Refusal :=
  peVec s (.vshl w a b d e t) fun o => vShl w o.a o.b
/-- `vcmp.eq` (R181). -/
def execVcmpEq (w : BitVec 2) (a b : BitVec 5) (d e t : BitVec 4) (s : State) : Host.Outcome State Fault Refusal :=
  peVec s (.vcmpEq w a b d e t) fun o => vCmpEq w o.a o.b
/-- `vabs` (R181). -/
def execVabs (w : BitVec 2) (a : BitVec 5) (d e t : BitVec 4) (s : State) : Host.Outcome State Fault Refusal :=
  peVec s (.vabs w a d e t) fun o => vAbs w (modeSat o.mode) o.a
/-- `vand` (R182). -/
def execVand (a b : BitVec 5) (d e t : BitVec 4) (s : State) : Host.Outcome State Fault Refusal :=
  peVec s (.vand a b d e t) fun o => vLogic (o.a &&& o.b)
/-- `vor` (R182). -/
def execVor (a b : BitVec 5) (d e t : BitVec 4) (s : State) : Host.Outcome State Fault Refusal :=
  peVec s (.vor a b d e t) fun o => vLogic (o.a ||| o.b)
/-- `vxor` (R182). -/
def execVxor (a b : BitVec 5) (d e t : BitVec 4) (s : State) : Host.Outcome State Fault Refusal :=
  peVec s (.vxor a b d e t) fun o => vLogic (o.a ^^^ o.b)
/-- `vnot` (R182). -/
def execVnot (a : BitVec 5) (d e t : BitVec 4) (s : State) : Host.Outcome State Fault Refusal :=
  peVec s (.vnot a d e t) fun o => vLogic (~~~o.a)

/-! ### Conversions (R183, R184): the half h is bit 0 of B -/

/-- `cvt.f32.f64` (R183). -/
def execCvtF32F64 (a b : BitVec 5) (d e t : BitVec 4) (s : State) : Host.Outcome State Fault Refusal :=
  peVec s (.cvtF32F64 a b d e t) fun o => vCvtFF .f64 .f32 8 0 (8 * o.b.toNat % 16) (fmode o.mode) o.a
/-- `cvt.f64.f32` (R183). -/
def execCvtF64F32 (a b : BitVec 5) (d e t : BitVec 4) (s : State) : Host.Outcome State Fault Refusal :=
  peVec s (.cvtF64F32 a b d e t) fun o => vCvtFF .f32 .f64 8 (8 * o.b.toNat % 16) 0 (fmode o.mode) o.a
/-- `cvt.bf16.f32` (R183). -/
def execCvtBf16F32 (a b : BitVec 5) (d e t : BitVec 4) (s : State) : Host.Outcome State Fault Refusal :=
  peVec s (.cvtBf16F32 a b d e t) fun o => vCvtFF .f32 .bf16 16 0 (16 * o.b.toNat % 32) (fmode o.mode) o.a
/-- `cvt.f32.bf16` (R183). -/
def execCvtF32Bf16 (a b : BitVec 5) (d e t : BitVec 4) (s : State) : Host.Outcome State Fault Refusal :=
  peVec s (.cvtF32Bf16 a b d e t) fun o => vCvtFF .bf16 .f32 16 (16 * o.b.toNat % 32) 0 (fmode o.mode) o.a
/-- `cvt.i32.f32` (R184). -/
def execCvtI32F32 (a : BitVec 5) (d e t : BitVec 4) (s : State) : Host.Outcome State Fault Refusal :=
  peVec s (.cvtI32F32 a d e t) fun o => vCvtFI true .f32 (fmode o.mode) o.a
/-- `cvt.f32.i32` (R184). -/
def execCvtF32I32 (a : BitVec 5) (d e t : BitVec 4) (s : State) : Host.Outcome State Fault Refusal :=
  peVec s (.cvtF32I32 a d e t) fun o => vCvtIF true .f32 (fmode o.mode) o.a
/-- `cvt.n32.f32` (R184). -/
def execCvtN32F32 (a : BitVec 5) (d e t : BitVec 4) (s : State) : Host.Outcome State Fault Refusal :=
  peVec s (.cvtN32F32 a d e t) fun o => vCvtFI false .f32 (fmode o.mode) o.a
/-- `cvt.f32.n32` (R184). -/
def execCvtF32N32 (a : BitVec 5) (d e t : BitVec 4) (s : State) : Host.Outcome State Fault Refusal :=
  peVec s (.cvtF32N32 a d e t) fun o => vCvtIF false .f32 (fmode o.mode) o.a
/-- `cvt.i64.f64` (R184). -/
def execCvtI64F64 (a : BitVec 5) (d e t : BitVec 4) (s : State) : Host.Outcome State Fault Refusal :=
  peVec s (.cvtI64F64 a d e t) fun o => vCvtFI true .f64 (fmode o.mode) o.a
/-- `cvt.f64.i64` (R184). -/
def execCvtF64I64 (a : BitVec 5) (d e t : BitVec 4) (s : State) : Host.Outcome State Fault Refusal :=
  peVec s (.cvtF64I64 a d e t) fun o => vCvtIF true .f64 (fmode o.mode) o.a

/-! ### Permutes and broadcast (R185 to R188) -/

/-- `vperm` (R185). -/
def execVperm (a b : BitVec 5) (d e t : BitVec 4) (s : State) : Host.Outcome State Fault Refusal :=
  peVec s (.vperm a b d e t) fun o => plainVec (vPerm o.a o.b)
/-- `vshuf` (R186). -/
def execVshuf (a b : BitVec 5) (d e t : BitVec 4) (s : State) : Host.Outcome State Fault Refusal :=
  peVec s (.vshuf a b d e t) fun o => plainVec (vShuf o.a o.b o.lit)
/-- `vrot` (R187). -/
def execVrot (a b : BitVec 5) (d e t : BitVec 4) (s : State) : Host.Outcome State Fault Refusal :=
  peVec s (.vrot a b d e t) fun o => plainVec (vRot o.a o.b)
/-- `vbcast` (R188). -/
def execVbcast (a b : BitVec 5) (d e t : BitVec 4) (s : State) : Host.Outcome State Fault Refusal :=
  peVec s (.vbcast a b d e t) fun o => plainVec (vBcast o.a o.b)

/-! ### Reductions (R189, R190) and compress (R191, R192) -/

/-- `vred.fadd.f64` (R189). -/
def execVredFaddF64 (a : BitVec 5) (d e t : BitVec 4) (s : State) : Host.Outcome State Fault Refusal :=
  peVec s (.vredFaddF64 a d e t) fun o => vRedFadd .f64 .f64 (fmode o.mode) o.a
/-- `vred.fadd.f32` (R189). -/
def execVredFaddF32 (a : BitVec 5) (d e t : BitVec 4) (s : State) : Host.Outcome State Fault Refusal :=
  peVec s (.vredFaddF32 a d e t) fun o => vRedFadd .f32 .f32 (fmode o.mode) o.a
/-- `vred.fadd.bf16` (R189). -/
def execVredFaddBf16 (a : BitVec 5) (d e t : BitVec 4) (s : State) : Host.Outcome State Fault Refusal :=
  peVec s (.vredFaddBf16 a d e t) fun o => vRedFadd .bf16 .f32 (fmode o.mode) o.a
/-- `vred.fmax.f32` (R190). -/
def execVredFmaxF32 (a : BitVec 5) (d e t : BitVec 4) (s : State) : Host.Outcome State Fault Refusal :=
  peVec s (.vredFmaxF32 a d e t) fun o => vRedPick fmaxV (fmode o.mode) o.a
/-- `vred.fmin.f32` (R190). -/
def execVredFminF32 (a : BitVec 5) (d e t : BitVec 4) (s : State) : Host.Outcome State Fault Refusal :=
  peVec s (.vredFminF32 a d e t) fun o => vRedPick fminV (fmode o.mode) o.a
/-- `vred.add.i32` (R190). -/
def execVredAddI32 (a : BitVec 5) (d e t : BitVec 4) (s : State) : Host.Outcome State Fault Refusal :=
  peVec s (.vredAddI32 a d e t) fun o => vRedAdd 32 (modeSat o.mode) o.a
/-- `vred.add.i64` (R190). -/
def execVredAddI64 (a : BitVec 5) (d e t : BitVec 4) (s : State) : Host.Outcome State Fault Refusal :=
  peVec s (.vredAddI64 a d e t) fun o => vRedAdd 64 (modeSat o.mode) o.a
/-- `vred.max.i32` (R190). -/
def execVredMaxI32 (a : BitVec 5) (d e t : BitVec 4) (s : State) : Host.Outcome State Fault Refusal :=
  peVec s (.vredMaxI32 a d e t) fun o => vRedMax o.a
/-- What a destination of `compress.n32` receives when N is out of range: ERR COMPRESS_N on an output port, zero
elsewhere (R191, R192). -/
def compressErr (c : BitVec 4) (b : W512) : Kind × W512 :=
  if c.toNat < 5 then (.err, errPay 5 (b.toNat % 512)) else (.data, 0)
/-- `compress.n32` (R191). -/
def execCompressN32 (a b : BitVec 5) (d e t : BitVec 4) (s : State) : Host.Outcome State Fault Refusal :=
  pe s (.compressN32 a b d e t) fun st _ o _ =>
    match skipToken (.compressN32 a b d e t) o with
    | some k => skipEff st k 4
    | none =>
      if compressOk o.b then
        let r := vCompress (modeFtzi o.mode) o.a o.b
        .go { st := st, r1 := (.data, r.1), r2 := (.data, r.2), flag := true, lat := 4 }
      else .go { st := st, r1 := compressErr d o.b, r2 := compressErr e o.b, flag := false, lat := 4 }

end Sys2Proof.Machine
end

