-- ==== Sys2Proof/Machine/Dispatch.lean ====
section
/-! DEFINITION. One arm for every instruction and step: each calls its own meaning. -/
namespace Sys2Proof.Machine

/-- The outcome of performing an instruction or a step in a state. -/
def exec (i : Instr) (s : State) : Host.Outcome State Fault Refusal :=
  match i with
  | .add y a b d e t => Sys2Proof.Machine.execAdd y a b d e t s
  | .sub y a b d e t => Sys2Proof.Machine.execSub y a b d e t s
  | .mulLo y a b d e t => Sys2Proof.Machine.execMulLo y a b d e t s
  | .mulHi y a b d e t => Sys2Proof.Machine.execMulHi y a b d e t s
  | .div y a b d e t => Sys2Proof.Machine.execDiv y a b d e t s
  | .rem y a b d e t => Sys2Proof.Machine.execRem y a b d e t s
  | .min y a b d e t => Sys2Proof.Machine.execMin y a b d e t s
  | .max y a b d e t => Sys2Proof.Machine.execMax y a b d e t s
  | .cmpEq y a b d e t => Sys2Proof.Machine.execCmpEq y a b d e t s
  | .cmpNe y a b d e t => Sys2Proof.Machine.execCmpNe y a b d e t s
  | .cmpLt y a b d e t => Sys2Proof.Machine.execCmpLt y a b d e t s
  | .cmpLe y a b d e t => Sys2Proof.Machine.execCmpLe y a b d e t s
  | .abs w a d e t => Sys2Proof.Machine.execAbs w a d e t s
  | .neg w a d e t => Sys2Proof.Machine.execNeg w a d e t s
  | .sel a b d e t => Sys2Proof.Machine.execSel a b d e t s
  | .and a b d e t => Sys2Proof.Machine.execAnd a b d e t s
  | .or a b d e t => Sys2Proof.Machine.execOr a b d e t s
  | .xor a b d e t => Sys2Proof.Machine.execXor a b d e t s
  | .andn a b d e t => Sys2Proof.Machine.execAndn a b d e t s
  | .not a d e t => Sys2Proof.Machine.execNot a d e t s
  | .shl a b d e t => Sys2Proof.Machine.execShl a b d e t s
  | .shr a b d e t => Sys2Proof.Machine.execShr a b d e t s
  | .sar a b d e t => Sys2Proof.Machine.execSar a b d e t s
  | .rol a b d e t => Sys2Proof.Machine.execRol a b d e t s
  | .ror a b d e t => Sys2Proof.Machine.execRor a b d e t s
  | .extr a b d e t => Sys2Proof.Machine.execExtr a b d e t s
  | .extrS a b d e t => Sys2Proof.Machine.execExtrS a b d e t s
  | .ins a b d e t => Sys2Proof.Machine.execIns a b d e t s
  | .popc a d e t => Sys2Proof.Machine.execPopc a d e t s
  | .clz a d e t => Sys2Proof.Machine.execClz a d e t s
  | .ctz a d e t => Sys2Proof.Machine.execCtz a d e t s
  | .bswap a d e t => Sys2Proof.Machine.execBswap a d e t s
  | .pset a b t => Sys2Proof.Machine.execPset a b t s
  | .pget d e t => Sys2Proof.Machine.execPget d e t s
  | .pand t => Sys2Proof.Machine.execPand t s
  | .por t => Sys2Proof.Machine.execPor t s
  | .pxor t => Sys2Proof.Machine.execPxor t s
  | .pnot t => Sys2Proof.Machine.execPnot t s
  | .deq a d e t => Sys2Proof.Machine.execDeq a d e t s
  | .peek a d e t => Sys2Proof.Machine.execPeek a d e t s
  | .fwd a d e t => Sys2Proof.Machine.execFwd a d e t s
  | .emitNull d e t => Sys2Proof.Machine.execEmitNull d e t s
  | .emitMark a d e t => Sys2Proof.Machine.execEmitMark a d e t s
  | .emitErr a d e t => Sys2Proof.Machine.execEmitErr a d e t s
  | .retag a b t => Sys2Proof.Machine.execRetag a b t s
  | .posReset a t => Sys2Proof.Machine.execPosReset a t s
  | .deqD a d e t => Sys2Proof.Machine.execDeqD a d e t s
  | .peekD a d e t => Sys2Proof.Machine.execPeekD a d e t s
  | .fwdD a d e t => Sys2Proof.Machine.execFwdD a d e t s
  | .emitNullD d e t => Sys2Proof.Machine.execEmitNullD d e t s
  | .emitMarkD a d e t => Sys2Proof.Machine.execEmitMarkD a d e t s
  | .emitErrD a d e t => Sys2Proof.Machine.execEmitErrD a d e t s
  | .retagD a b t => Sys2Proof.Machine.execRetagD a b t s
  | .posResetD a t => Sys2Proof.Machine.execPosResetD a t s
  | .dlGet a d e t => Sys2Proof.Machine.execDlGet a d e t s
  | .dlPut a b t => Sys2Proof.Machine.execDlPut a b t s
  | .dlGetD a d e t => Sys2Proof.Machine.execDlGetD a d e t s
  | .dlPutD a b t => Sys2Proof.Machine.execDlPutD a b t s
  | .qCnt a d e t => Sys2Proof.Machine.execQCnt a d e t s
  | .qClr a t => Sys2Proof.Machine.execQClr a t s
  | .qDepth a b t => Sys2Proof.Machine.execQDepth a b t s
  | .modeRd d e t => Sys2Proof.Machine.execModeRd d e t s
  | .modeWr a t => Sys2Proof.Machine.execModeWr a t s
  | .modeSet a t => Sys2Proof.Machine.execModeSet a t s
  | .modeClr a t => Sys2Proof.Machine.execModeClr a t s
  | .swIdx a b d e t => Sys2Proof.Machine.execSwIdx a b d e t s
  | .mlOn a b t => Sys2Proof.Machine.execMlOn a b t s
  | .mlOff t => Sys2Proof.Machine.execMlOff t s
  | .mlRd d e t => Sys2Proof.Machine.execMlRd d e t s
  | .fadd g a b d e t => Sys2Proof.Machine.execFadd g a b d e t s
  | .fsub g a b d e t => Sys2Proof.Machine.execFsub g a b d e t s
  | .fmul g a b d e t => Sys2Proof.Machine.execFmul g a b d e t s
  | .fma g a b d e t => Sys2Proof.Machine.execFma g a b d e t s
  | .fms g a b d e t => Sys2Proof.Machine.execFms g a b d e t s
  | .fnma g a b d e t => Sys2Proof.Machine.execFnma g a b d e t s
  | .fmin g a b d e t => Sys2Proof.Machine.execFmin g a b d e t s
  | .fmax g a b d e t => Sys2Proof.Machine.execFmax g a b d e t s
  | .fabs g a d e t => Sys2Proof.Machine.execFabs g a d e t s
  | .fneg g a d e t => Sys2Proof.Machine.execFneg g a d e t s
  | .fcmpEq g a b d e t => Sys2Proof.Machine.execFcmpEq g a b d e t s
  | .fcmpLt g a b d e t => Sys2Proof.Machine.execFcmpLt g a b d e t s
  | .fcmpLe g a b d e t => Sys2Proof.Machine.execFcmpLe g a b d e t s
  | .fcmpUn g a b d e t => Sys2Proof.Machine.execFcmpUn g a b d e t s
  | .fclass g a d e t => Sys2Proof.Machine.execFclass g a d e t s
  | .fsqrt g a d e t => Sys2Proof.Machine.execFsqrt g a d e t s
  | .frcpe g a d e t => Sys2Proof.Machine.execFrcpe g a d e t s
  | .fdiv g a b d e t => Sys2Proof.Machine.execFdiv g a b d e t s
  | .vadd y a b d e t => Sys2Proof.Machine.execVadd y a b d e t s
  | .vsub y a b d e t => Sys2Proof.Machine.execVsub y a b d e t s
  | .vmul y a b d e t => Sys2Proof.Machine.execVmul y a b d e t s
  | .vmulh y a b d e t => Sys2Proof.Machine.execVmulh y a b d e t s
  | .vmin y a b d e t => Sys2Proof.Machine.execVmin y a b d e t s
  | .vmax y a b d e t => Sys2Proof.Machine.execVmax y a b d e t s
  | .vshr y a b d e t => Sys2Proof.Machine.execVshr y a b d e t s
  | .vcmpLt y a b d e t => Sys2Proof.Machine.execVcmpLt y a b d e t s
  | .vshl w a b d e t => Sys2Proof.Machine.execVshl w a b d e t s
  | .vcmpEq w a b d e t => Sys2Proof.Machine.execVcmpEq w a b d e t s
  | .vabs w a d e t => Sys2Proof.Machine.execVabs w a d e t s
  | .vand a b d e t => Sys2Proof.Machine.execVand a b d e t s
  | .vor a b d e t => Sys2Proof.Machine.execVor a b d e t s
  | .vxor a b d e t => Sys2Proof.Machine.execVxor a b d e t s
  | .vnot a d e t => Sys2Proof.Machine.execVnot a d e t s
  | .cvtF32F64 a b d e t => Sys2Proof.Machine.execCvtF32F64 a b d e t s
  | .cvtF64F32 a b d e t => Sys2Proof.Machine.execCvtF64F32 a b d e t s
  | .cvtBf16F32 a b d e t => Sys2Proof.Machine.execCvtBf16F32 a b d e t s
  | .cvtF32Bf16 a b d e t => Sys2Proof.Machine.execCvtF32Bf16 a b d e t s
  | .cvtI32F32 a d e t => Sys2Proof.Machine.execCvtI32F32 a d e t s
  | .cvtF32I32 a d e t => Sys2Proof.Machine.execCvtF32I32 a d e t s
  | .cvtN32F32 a d e t => Sys2Proof.Machine.execCvtN32F32 a d e t s
  | .cvtF32N32 a d e t => Sys2Proof.Machine.execCvtF32N32 a d e t s
  | .cvtI64F64 a d e t => Sys2Proof.Machine.execCvtI64F64 a d e t s
  | .cvtF64I64 a d e t => Sys2Proof.Machine.execCvtF64I64 a d e t s
  | .vperm a b d e t => Sys2Proof.Machine.execVperm a b d e t s
  | .vshuf a b d e t => Sys2Proof.Machine.execVshuf a b d e t s
  | .vrot a b d e t => Sys2Proof.Machine.execVrot a b d e t s
  | .vbcast a b d e t => Sys2Proof.Machine.execVbcast a b d e t s
  | .vredFaddF64 a d e t => Sys2Proof.Machine.execVredFaddF64 a d e t s
  | .vredFaddF32 a d e t => Sys2Proof.Machine.execVredFaddF32 a d e t s
  | .vredFaddBf16 a d e t => Sys2Proof.Machine.execVredFaddBf16 a d e t s
  | .vredFmaxF32 a d e t => Sys2Proof.Machine.execVredFmaxF32 a d e t s
  | .vredFminF32 a d e t => Sys2Proof.Machine.execVredFminF32 a d e t s
  | .vredAddI32 a d e t => Sys2Proof.Machine.execVredAddI32 a d e t s
  | .vredAddI64 a d e t => Sys2Proof.Machine.execVredAddI64 a d e t s
  | .vredMaxI32 a d e t => Sys2Proof.Machine.execVredMaxI32 a d e t s
  | .compressN32 a b d e t => Sys2Proof.Machine.execCompressN32 a b d e t s
  | .rep a d e t => Sys2Proof.Machine.execRep a d e t s
  | .ext a b d e t => Sys2Proof.Machine.execExt a b d e t s
  | .mmaBf16 a d e t => Sys2Proof.Machine.execMmaBf16 a d e t s
  | .mmaF32 a d e t => Sys2Proof.Machine.execMmaF32 a d e t s
  | .mmaF64 a d e t => Sys2Proof.Machine.execMmaF64 a d e t s
  | .mmaCb4 a d e t => Sys2Proof.Machine.execMmaCb4 a d e t s
  | .mmaSpBf16 a b d e t => Sys2Proof.Machine.execMmaSpBf16 a b d e t s
  | .mmaSpCb4 a b d e t => Sys2Proof.Machine.execMmaSpCb4 a b d e t s
  | .mpl a d e t => Sys2Proof.Machine.execMpl a d e t s
  | .mcb a b d e t => Sys2Proof.Machine.execMcb a b d e t s
  | .accZero d e t => Sys2Proof.Machine.execAccZero d e t s
  | .accRd a d e t => Sys2Proof.Machine.execAccRd a d e t s
  | .accWr a d e t => Sys2Proof.Machine.execAccWr a d e t s
  | .accCp d e t => Sys2Proof.Machine.execAccCp d e t s
  | .sacc a b d e t => Sys2Proof.Machine.execSacc a b d e t s
  | .ssSet a b t => Sys2Proof.Machine.execSsSet a b t s
  | .ssGo a t => Sys2Proof.Machine.execSsGo a t s
  | .ssStop a t => Sys2Proof.Machine.execSsStop a t s
  | .ssStat a d e t => Sys2Proof.Machine.execSsStat a d e t s
  | .lmLd a d e t => Sys2Proof.Machine.execLmLd a d e t s
  | .lmSt a b t => Sys2Proof.Machine.execLmSt a b t s
  | .ringBind t => Sys2Proof.Machine.execRingBind t s
  | .ringWaitf d e t => Sys2Proof.Machine.execRingWaitf d e t s
  | .ringWaite d e t => Sys2Proof.Machine.execRingWaite d e t s
  | .ringAdvp t => Sys2Proof.Machine.execRingAdvp t s
  | .ringAdvc t => Sys2Proof.Machine.execRingAdvc t s
  | .ringRd a d e t => Sys2Proof.Machine.execRingRd a d e t s
  | .ringWr a b t => Sys2Proof.Machine.execRingWr a b t s
  | .ringRdv a d e t => Sys2Proof.Machine.execRingRdv a d e t s
  | .ringWrv a b t => Sys2Proof.Machine.execRingWrv a b t s
  | .agtSet a d e t => Sys2Proof.Machine.execAgtSet a d e t s
  | .agtBase a d e t => Sys2Proof.Machine.execAgtBase a d e t s
  | .agtDim a b d e t => Sys2Proof.Machine.execAgtDim a b d e t s
  | .agtGo d e t => Sys2Proof.Machine.execAgtGo d e t s
  | .agtStop d e t => Sys2Proof.Machine.execAgtStop d e t s
  | .agtCfg a d e t => Sys2Proof.Machine.execAgtCfg a d e t s
  | .agtHand d e t => Sys2Proof.Machine.execAgtHand d e t s
  | .agtResume d e t => Sys2Proof.Machine.execAgtResume d e t s
  | .agtStat d e t => Sys2Proof.Machine.execAgtStat d e t s
  | .amoAdd sc a b d e t => Sys2Proof.Machine.execAmoAdd sc a b d e t s
  | .amoFadd sc a b d e t => Sys2Proof.Machine.execAmoFadd sc a b d e t s
  | .amoMin sc a b d e t => Sys2Proof.Machine.execAmoMin sc a b d e t s
  | .amoMax sc a b d e t => Sys2Proof.Machine.execAmoMax sc a b d e t s
  | .amoAnd sc a b d e t => Sys2Proof.Machine.execAmoAnd sc a b d e t s
  | .amoOr sc a b d e t => Sys2Proof.Machine.execAmoOr sc a b d e t s
  | .amoXor sc a b d e t => Sys2Proof.Machine.execAmoXor sc a b d e t s
  | .amoExch sc a b d e t => Sys2Proof.Machine.execAmoExch sc a b d e t s
  | .amoCas sc a b d e t => Sys2Proof.Machine.execAmoCas sc a b d e t s
  | .fence sc t => Sys2Proof.Machine.execFence sc t s
  | .stRel sc a b t => Sys2Proof.Machine.execStRel sc a b t s
  | .ldAcq sc a d e t => Sys2Proof.Machine.execLdAcq sc a d e t s
  | .ld a d e t => Sys2Proof.Machine.execLd a d e t s
  | .st a b t => Sys2Proof.Machine.execSt a b t s
  | .bteCopy a b d e t => Sys2Proof.Machine.execBteCopy a b d e t s
  | .bteCopyMx a b d e t => Sys2Proof.Machine.execBteCopyMx a b d e t s
  | .bteAppend a d e t => Sys2Proof.Machine.execBteAppend a d e t s
  | .bteTail a t => Sys2Proof.Machine.execBteTail a t s
  | .bteProm a d e t => Sys2Proof.Machine.execBteProm a d e t s
  | .sleepUntil a t => Sys2Proof.Machine.execSleepUntil a t s
  | .bteSeq a d e t => Sys2Proof.Machine.execBteSeq a d e t s
  | .bteStat d e t => Sys2Proof.Machine.execBteStat d e t s
  | .tsend a b t => Sys2Proof.Machine.execTsend a b t s
  | .hbind t => Sys2Proof.Machine.execHbind t s
  | .hunbind t => Sys2Proof.Machine.execHunbind t s
  | .futNew d e t => Sys2Proof.Machine.execFutNew d e t s
  | .futReg a b d e t => Sys2Proof.Machine.execFutReg a b d e t s
  | .futRes a b t => Sys2Proof.Machine.execFutRes a b t s
  | .futFault a b t => Sys2Proof.Machine.execFutFault a b t s
  | .futWait a d e t => Sys2Proof.Machine.execFutWait a d e t s
  | .futRd a d e t => Sys2Proof.Machine.execFutRd a d e t s
  | .launch a d e t => Sys2Proof.Machine.execLaunch a d e t s
  | .launchTry a d e t => Sys2Proof.Machine.execLaunchTry a d e t s
  | .join a d e t => Sys2Proof.Machine.execJoin a d e t s
  | .leave a t => Sys2Proof.Machine.execLeave a t s
  | .barrier a b d e t => Sys2Proof.Machine.execBarrier a b d e t s
  | .reduce a b d e t => Sys2Proof.Machine.execReduce a b d e t s
  | .allreduce a b d e t => Sys2Proof.Machine.execAllreduce a b d e t s
  | .bcast a b d e t => Sys2Proof.Machine.execBcast a b d e t s
  | .grpNew d e t => Sys2Proof.Machine.execGrpNew d e t s
  | .grpSize a d e t => Sys2Proof.Machine.execGrpSize a d e t s
  | .xdDispatch a b d e t => Sys2Proof.Machine.execXdDispatch a b d e t s
  | .xdLoad a d e t => Sys2Proof.Machine.execXdLoad a d e t s
  | .xdTab a d e t => Sys2Proof.Machine.execXdTab a d e t s
  | .xdVer a d e t => Sys2Proof.Machine.execXdVer a d e t s
  | .xdStat d e t => Sys2Proof.Machine.execXdStat d e t s
  | .trap a t => Sys2Proof.Machine.execTrap a t s
  | .yield t => Sys2Proof.Machine.execYield t s
  | .cfgSel a t => Sys2Proof.Machine.execCfgSel a t s
  | .rgnStat a d e t => Sys2Proof.Machine.execRgnStat a d e t s
  | .dbgBrk a t => Sys2Proof.Machine.execDbgBrk a t s
  | .nop t => Sys2Proof.Machine.execNop t s
  | .clkRd a d e t => Sys2Proof.Machine.execClkRd a d e t s
  | .raceMode a d e t => Sys2Proof.Machine.execRaceMode a d e t s
  | .raceLog a d e t => Sys2Proof.Machine.execRaceLog a d e t s
  | .raceGen a d e t => Sys2Proof.Machine.execRaceGen a d e t s
  | .resultWrite tile job => Sys2Proof.Machine.execResultWrite tile job s
  | .bankSwitch tile => Sys2Proof.Machine.execBankSwitch tile s
  | .tokenArrival chan cons => Sys2Proof.Machine.execTokenArrival chan cons s
  | .portRequest chan cons => Sys2Proof.Machine.execPortRequest chan cons s
  | .requestArrival chan cons => Sys2Proof.Machine.execRequestArrival chan cons s
  | .delayLineDepart chan => Sys2Proof.Machine.execDelayLineDepart chan s
  | .indexDelivery rgn => Sys2Proof.Machine.execIndexDelivery rgn s
  | .switchGather tile => Sys2Proof.Machine.execSwitchGather tile s
  | .switchScatter tile => Sys2Proof.Machine.execSwitchScatter tile s
  | .multicastDetach chan cons => Sys2Proof.Machine.execMulticastDetach chan cons s
  | .detached chan cons => Sys2Proof.Machine.execDetached chan cons s
  | .laggard chan cons => Sys2Proof.Machine.execLaggard chan cons s
  | .laggardEnd chan cons => Sys2Proof.Machine.execLaggardEnd chan cons s
  | .regionCompletion rgn => Sys2Proof.Machine.execRegionCompletion rgn s
  | .trapRecord tile => Sys2Proof.Machine.execTrapRecord tile s
  | .regionStop rgn => Sys2Proof.Machine.execRegionStop rgn s
  | .unitFence u => Sys2Proof.Machine.execUnitFence u s
  | .matrixEntryStart tile => Sys2Proof.Machine.execMatrixEntryStart tile s
  | .matrixEntryDone tile => Sys2Proof.Machine.execMatrixEntryDone tile s
  | .followOnEnter tile => Sys2Proof.Machine.execFollowOnEnter tile s
  | .streamFetch tile => Sys2Proof.Machine.execStreamFetch tile s
  | .mtRequest mt port => Sys2Proof.Machine.execMtRequest mt port s
  | .fifoEnqueue mt port => Sys2Proof.Machine.execFifoEnqueue mt port s
  | .fifoDequeue mt port => Sys2Proof.Machine.execFifoDequeue mt port s
  | .ringAdvance id => Sys2Proof.Machine.execRingAdvance id s
  | .advanceAnswer id => Sys2Proof.Machine.execAdvanceAnswer id s
  | .handleViewUpdate tile hdl => Sys2Proof.Machine.execHandleViewUpdate tile hdl s
  | .agtTakeSet agt => Sys2Proof.Machine.execAgtTakeSet agt s
  | .agtTakeBase agt => Sys2Proof.Machine.execAgtTakeBase agt s
  | .agtTakeDim agt => Sys2Proof.Machine.execAgtTakeDim agt s
  | .agtTakeGo agt => Sys2Proof.Machine.execAgtTakeGo agt s
  | .agtTakeStop agt => Sys2Proof.Machine.execAgtTakeStop agt s
  | .agtTakeHand agt => Sys2Proof.Machine.execAgtTakeHand agt s
  | .handoverSend agt => Sys2Proof.Machine.execHandoverSend agt s
  | .handoverReceive agt => Sys2Proof.Machine.execHandoverReceive agt s
  | .agtTakeResume agt => Sys2Proof.Machine.execAgtTakeResume agt s
  | .agtTakeStat agt => Sys2Proof.Machine.execAgtTakeStat agt s
  | .agtTakeCfg agt => Sys2Proof.Machine.execAgtTakeCfg agt s
  | .agtTakeDiscard agt => Sys2Proof.Machine.execAgtTakeDiscard agt s
  | .agtTakeErr agt => Sys2Proof.Machine.execAgtTakeErr agt s
  | .agtTakeReserved agt => Sys2Proof.Machine.execAgtTakeReserved agt s
  | .agtElement agt => Sys2Proof.Machine.execAgtElement agt s
  | .agtTokenOut agt => Sys2Proof.Machine.execAgtTokenOut agt s
  | .agtWalkReport agt => Sys2Proof.Machine.execAgtWalkReport agt s
  | .pageWalk id => Sys2Proof.Machine.execPageWalk id s
  | .bteCommandBegin bte ch => Sys2Proof.Machine.execBteCommandBegin bte ch s
  | .chainTake bte ch => Sys2Proof.Machine.execChainTake bte ch s
  | .followOnHandoff bte ch => Sys2Proof.Machine.execFollowOnHandoff bte ch s
  | .bteCommandReport bte ch => Sys2Proof.Machine.execBteCommandReport bte ch s
  | .promiseMissed bte ch seq => Sys2Proof.Machine.execPromiseMissed bte ch seq s
  | .accessPerform id => Sys2Proof.Machine.execAccessPerform id s
  | .releasePerform id => Sys2Proof.Machine.execReleasePerform id s
  | .loadReturn id => Sys2Proof.Machine.execLoadReturn id s
  | .raceSweep part => Sys2Proof.Machine.execRaceSweep part s
  | .raceModeClear part => Sys2Proof.Machine.execRaceModeClear part s
  | .taskPacketArrival id => Sys2Proof.Machine.execTaskPacketArrival id s
  | .packetPresent tile => Sys2Proof.Machine.execPacketPresent tile s
  | .launchAccept id => Sys2Proof.Machine.execLaunchAccept id s
  | .spillMove part => Sys2Proof.Machine.execSpillMove part s
  | .launchDistribution part => Sys2Proof.Machine.execLaunchDistribution part s
  | .tileRecordRead part seq => Sys2Proof.Machine.execTileRecordRead part seq s
  | .taskBind part die => Sys2Proof.Machine.execTaskBind part die s
  | .launchCompletion part seq => Sys2Proof.Machine.execLaunchCompletion part seq s
  | .futureOperation id => Sys2Proof.Machine.execFutureOperation id s
  | .futureAnswer id => Sys2Proof.Machine.execFutureAnswer id s
  | .watchReport tile fut => Sys2Proof.Machine.execWatchReport tile fut s
  | .collectiveArrival id => Sys2Proof.Machine.execCollectiveArrival id s
  | .collectiveComplete grp => Sys2Proof.Machine.execCollectiveComplete grp s
  | .barometerWindow rgn => Sys2Proof.Machine.execBarometerWindow rgn s
  | .proposalLapse rgn => Sys2Proof.Machine.execProposalLapse rgn s
  | .planArm rgn => Sys2Proof.Machine.execPlanArm rgn s
  | .gating rgn => Sys2Proof.Machine.execGating rgn s
  | .ungate rgn => Sys2Proof.Machine.execUngate rgn s
  | .rewireFail rgn => Sys2Proof.Machine.execRewireFail rgn s
  | .steerToken chan => Sys2Proof.Machine.execSteerToken chan s
  | .mergeOutput chan => Sys2Proof.Machine.execMergeOutput chan s
  | .retirement rgn => Sys2Proof.Machine.execRetirement rgn s
  | .elementDrained elem => Sys2Proof.Machine.execElementDrained elem s
  | .saveDone rgn => Sys2Proof.Machine.execSaveDone rgn s
  | .drainTimeout rgn => Sys2Proof.Machine.execDrainTimeout rgn s
  | .shadowExchange part => Sys2Proof.Machine.execShadowExchange part s
  | .loadSend die => Sys2Proof.Machine.execLoadSend die s
  | .replicationCopyDone tab => Sys2Proof.Machine.execReplicationCopyDone tab s
  | .rollback tab => Sys2Proof.Machine.execRollback tab s
  | .versionAdopt tab die => Sys2Proof.Machine.execVersionAdopt tab die s
  | .tableAdopt tab die => Sys2Proof.Machine.execTableAdopt tab die s
  | .packetRedirect tile => Sys2Proof.Machine.execPacketRedirect tile s
  | .gradientMerge tab => Sys2Proof.Machine.execGradientMerge tab s
  | .partSet e => Sys2Proof.Machine.execPartSet e s
  | .install e => Sys2Proof.Machine.execInstall e s
  | .release e => Sys2Proof.Machine.execRelease e s
  | .shrink e => Sys2Proof.Machine.execShrink e s
  | .drainSave e => Sys2Proof.Machine.execDrainSave e s
  | .fullSave e => Sys2Proof.Machine.execFullSave e s
  | .swap e => Sys2Proof.Machine.execSwap e s
  | .resume e => Sys2Proof.Machine.execResume e s
  | .restore e => Sys2Proof.Machine.execRestore e s
  | .approve e => Sys2Proof.Machine.execApprove e s
  | .plan e => Sys2Proof.Machine.execPlan e s
  | .arm e => Sys2Proof.Machine.execArm e s
  | .agtResumeRequest e => Sys2Proof.Machine.execAgtResumeRequest e s
  | .inval e => Sys2Proof.Machine.execInval e s
  | .qlink e => Sys2Proof.Machine.execQlink e s
  | .qlinkUnlink e => Sys2Proof.Machine.execQlinkUnlink e s
  | .xdTable e => Sys2Proof.Machine.execXdTable e s
  | .xdTableRemove e => Sys2Proof.Machine.execXdTableRemove e s
  | .xdPublish e => Sys2Proof.Machine.execXdPublish e s
  | .xdStep e => Sys2Proof.Machine.execXdStep e s
  | .attest e => Sys2Proof.Machine.execAttest e s
  | .hostLaunchPacket queue => Sys2Proof.Machine.execHostLaunchPacket queue s
  | .registerWrite off val => Sys2Proof.Machine.execRegisterWrite off val s
  | .gatewayCrossing mt => Sys2Proof.Machine.execGatewayCrossing mt s
  | .flitRetry link => Sys2Proof.Machine.execFlitRetry link s
  | .linkRetryExhausted link => Sys2Proof.Machine.execLinkRetryExhausted link s
  | .reset => Sys2Proof.Machine.execReset s
  | .currentSample die => Sys2Proof.Machine.execCurrentSample die s
  | .pathWalk part => Sys2Proof.Machine.execPathWalk part s
  | .halt cmd => Sys2Proof.Machine.execHalt cmd s
  | .step cmd => Sys2Proof.Machine.execStep cmd s
  | .stop rgn => Sys2Proof.Machine.execStop rgn s
  | .stepTimeout rgn => Sys2Proof.Machine.execStepTimeout rgn s
  | .slotBreakpoint rgn brk => Sys2Proof.Machine.execSlotBreakpoint rgn brk s
  | .brkSet cmd => Sys2Proof.Machine.execBrkSet cmd s
  | .brkClr cmd => Sys2Proof.Machine.execBrkClr cmd s
  | .regRd cmd => Sys2Proof.Machine.execRegRd cmd s
  | .regWr cmd => Sys2Proof.Machine.execRegWr cmd s
  | .memRd cmd => Sys2Proof.Machine.execMemRd cmd s
  | .memWr cmd => Sys2Proof.Machine.execMemWr cmd s
  | .dbgResume cmd => Sys2Proof.Machine.execDbgResume cmd s
  | .throttle die => Sys2Proof.Machine.execThrottle die s
  | .throttleEnd die => Sys2Proof.Machine.execThrottleEnd die s
  | .clockGate tile => Sys2Proof.Machine.execClockGate tile s
  | .mtileClockGate mt => Sys2Proof.Machine.execMtileClockGate mt s
  | .selfRefresh stack => Sys2Proof.Machine.execSelfRefresh stack s
  | .lanesIdle link => Sys2Proof.Machine.execLanesIdle link s
  | .consumerIndexAdvance ring => Sys2Proof.Machine.execConsumerIndexAdvance ring s

end Sys2Proof.Machine
end

