-- ==== Sys2Proof/Machine/Events.lean ====
section
/-! DEFINITION. What each step of an engine does: the meaning that `exec` gives the instruction of the same name. -/
namespace Sys2Proof.Machine

/-- A step of an engine performed. -/
def runEvent (e : Event) (s : State) : Host.Outcome State Fault Refusal :=
  match e with
  | .resultWrite tile job => Sys2Proof.Machine.execResultWrite tile job s
  | .bankSwitch tile => Sys2Proof.Machine.execBankSwitch tile s
  | .tokenArrival chan cons => Sys2Proof.Machine.execTokenArrival chan cons s
  | .portRequest chan cons => Sys2Proof.Machine.execPortRequest chan cons s
  | .requestArrival chan cons => Sys2Proof.Machine.execRequestArrival chan cons s
  | .delayLineDepart chan => Sys2Proof.Machine.execDelayLineDepart chan s
  | .indexDelivery rgn => Sys2Proof.Machine.execIndexDelivery rgn s
  | .switchGather tile => Sys2Proof.Machine.execSwitchGather tile s
  | .switchScatter tile => Sys2Proof.Machine.execSwitchScatter tile s
  | .multicastDetach chan cons => Sys2Proof.Machine.execMulticastDetach chan cons s
  | .detached chan cons => Sys2Proof.Machine.execDetached chan cons s
  | .laggard chan cons => Sys2Proof.Machine.execLaggard chan cons s
  | .laggardEnd chan cons => Sys2Proof.Machine.execLaggardEnd chan cons s
  | .regionCompletion rgn => Sys2Proof.Machine.execRegionCompletion rgn s
  | .trapRecord tile => Sys2Proof.Machine.execTrapRecord tile s
  | .regionStop rgn => Sys2Proof.Machine.execRegionStop rgn s
  | .unitFence u => Sys2Proof.Machine.execUnitFence u s
  | .matrixEntryStart tile => Sys2Proof.Machine.execMatrixEntryStart tile s
  | .matrixEntryDone tile => Sys2Proof.Machine.execMatrixEntryDone tile s
  | .followOnEnter tile => Sys2Proof.Machine.execFollowOnEnter tile s
  | .streamFetch tile => Sys2Proof.Machine.execStreamFetch tile s
  | .mtRequest mt port => Sys2Proof.Machine.execMtRequest mt port s
  | .fifoEnqueue mt port => Sys2Proof.Machine.execFifoEnqueue mt port s
  | .fifoDequeue mt port => Sys2Proof.Machine.execFifoDequeue mt port s
  | .ringAdvance id => Sys2Proof.Machine.execRingAdvance id s
  | .advanceAnswer id => Sys2Proof.Machine.execAdvanceAnswer id s
  | .handleViewUpdate tile hdl => Sys2Proof.Machine.execHandleViewUpdate tile hdl s
  | .agtTakeSet agt => Sys2Proof.Machine.execAgtTakeSet agt s
  | .agtTakeBase agt => Sys2Proof.Machine.execAgtTakeBase agt s
  | .agtTakeDim agt => Sys2Proof.Machine.execAgtTakeDim agt s
  | .agtTakeGo agt => Sys2Proof.Machine.execAgtTakeGo agt s
  | .agtTakeStop agt => Sys2Proof.Machine.execAgtTakeStop agt s
  | .agtTakeHand agt => Sys2Proof.Machine.execAgtTakeHand agt s
  | .handoverSend agt => Sys2Proof.Machine.execHandoverSend agt s
  | .handoverReceive agt => Sys2Proof.Machine.execHandoverReceive agt s
  | .agtTakeResume agt => Sys2Proof.Machine.execAgtTakeResume agt s
  | .agtTakeStat agt => Sys2Proof.Machine.execAgtTakeStat agt s
  | .agtTakeCfg agt => Sys2Proof.Machine.execAgtTakeCfg agt s
  | .agtTakeDiscard agt => Sys2Proof.Machine.execAgtTakeDiscard agt s
  | .agtTakeErr agt => Sys2Proof.Machine.execAgtTakeErr agt s
  | .agtTakeReserved agt => Sys2Proof.Machine.execAgtTakeReserved agt s
  | .agtElement agt => Sys2Proof.Machine.execAgtElement agt s
  | .agtTokenOut agt => Sys2Proof.Machine.execAgtTokenOut agt s
  | .agtWalkReport agt => Sys2Proof.Machine.execAgtWalkReport agt s
  | .pageWalk id => Sys2Proof.Machine.execPageWalk id s
  | .bteCommandBegin bte ch => Sys2Proof.Machine.execBteCommandBegin bte ch s
  | .chainTake bte ch => Sys2Proof.Machine.execChainTake bte ch s
  | .followOnHandoff bte ch => Sys2Proof.Machine.execFollowOnHandoff bte ch s
  | .bteCommandReport bte ch => Sys2Proof.Machine.execBteCommandReport bte ch s
  | .promiseMissed bte ch seq => Sys2Proof.Machine.execPromiseMissed bte ch seq s
  | .accessPerform id => Sys2Proof.Machine.execAccessPerform id s
  | .releasePerform id => Sys2Proof.Machine.execReleasePerform id s
  | .loadReturn id => Sys2Proof.Machine.execLoadReturn id s
  | .raceSweep part => Sys2Proof.Machine.execRaceSweep part s
  | .raceModeClear part => Sys2Proof.Machine.execRaceModeClear part s
  | .taskPacketArrival id => Sys2Proof.Machine.execTaskPacketArrival id s
  | .packetPresent tile => Sys2Proof.Machine.execPacketPresent tile s
  | .launchAccept id => Sys2Proof.Machine.execLaunchAccept id s
  | .spillMove part => Sys2Proof.Machine.execSpillMove part s
  | .launchDistribution part => Sys2Proof.Machine.execLaunchDistribution part s
  | .tileRecordRead part seq => Sys2Proof.Machine.execTileRecordRead part seq s
  | .taskBind part die => Sys2Proof.Machine.execTaskBind part die s
  | .launchCompletion part seq => Sys2Proof.Machine.execLaunchCompletion part seq s
  | .futureOperation id => Sys2Proof.Machine.execFutureOperation id s
  | .futureAnswer id => Sys2Proof.Machine.execFutureAnswer id s
  | .watchReport tile fut => Sys2Proof.Machine.execWatchReport tile fut s
  | .collectiveArrival id => Sys2Proof.Machine.execCollectiveArrival id s
  | .collectiveComplete grp => Sys2Proof.Machine.execCollectiveComplete grp s
  | .barometerWindow rgn => Sys2Proof.Machine.execBarometerWindow rgn s
  | .proposalLapse rgn => Sys2Proof.Machine.execProposalLapse rgn s
  | .planArm rgn => Sys2Proof.Machine.execPlanArm rgn s
  | .gating rgn => Sys2Proof.Machine.execGating rgn s
  | .ungate rgn => Sys2Proof.Machine.execUngate rgn s
  | .rewireFail rgn => Sys2Proof.Machine.execRewireFail rgn s
  | .steerToken chan => Sys2Proof.Machine.execSteerToken chan s
  | .mergeOutput chan => Sys2Proof.Machine.execMergeOutput chan s
  | .retirement rgn => Sys2Proof.Machine.execRetirement rgn s
  | .elementDrained elem => Sys2Proof.Machine.execElementDrained elem s
  | .saveDone rgn => Sys2Proof.Machine.execSaveDone rgn s
  | .drainTimeout rgn => Sys2Proof.Machine.execDrainTimeout rgn s
  | .shadowExchange part => Sys2Proof.Machine.execShadowExchange part s
  | .loadSend die => Sys2Proof.Machine.execLoadSend die s
  | .replicationCopyDone tab => Sys2Proof.Machine.execReplicationCopyDone tab s
  | .rollback tab => Sys2Proof.Machine.execRollback tab s
  | .versionAdopt tab die => Sys2Proof.Machine.execVersionAdopt tab die s
  | .tableAdopt tab die => Sys2Proof.Machine.execTableAdopt tab die s
  | .packetRedirect tile => Sys2Proof.Machine.execPacketRedirect tile s
  | .gradientMerge tab => Sys2Proof.Machine.execGradientMerge tab s
  | .partSet e => Sys2Proof.Machine.execPartSet e s
  | .install e => Sys2Proof.Machine.execInstall e s
  | .release e => Sys2Proof.Machine.execRelease e s
  | .shrink e => Sys2Proof.Machine.execShrink e s
  | .drainSave e => Sys2Proof.Machine.execDrainSave e s
  | .fullSave e => Sys2Proof.Machine.execFullSave e s
  | .swap e => Sys2Proof.Machine.execSwap e s
  | .resume e => Sys2Proof.Machine.execResume e s
  | .restore e => Sys2Proof.Machine.execRestore e s
  | .approve e => Sys2Proof.Machine.execApprove e s
  | .plan e => Sys2Proof.Machine.execPlan e s
  | .arm e => Sys2Proof.Machine.execArm e s
  | .agtResumeRequest e => Sys2Proof.Machine.execAgtResumeRequest e s
  | .inval e => Sys2Proof.Machine.execInval e s
  | .qlink e => Sys2Proof.Machine.execQlink e s
  | .qlinkUnlink e => Sys2Proof.Machine.execQlinkUnlink e s
  | .xdTable e => Sys2Proof.Machine.execXdTable e s
  | .xdTableRemove e => Sys2Proof.Machine.execXdTableRemove e s
  | .xdPublish e => Sys2Proof.Machine.execXdPublish e s
  | .xdStep e => Sys2Proof.Machine.execXdStep e s
  | .attest e => Sys2Proof.Machine.execAttest e s
  | .hostLaunchPacket queue => Sys2Proof.Machine.execHostLaunchPacket queue s
  | .registerWrite off val => Sys2Proof.Machine.execRegisterWrite off val s
  | .gatewayCrossing mt => Sys2Proof.Machine.execGatewayCrossing mt s
  | .flitRetry link => Sys2Proof.Machine.execFlitRetry link s
  | .linkRetryExhausted link => Sys2Proof.Machine.execLinkRetryExhausted link s
  | .reset => Sys2Proof.Machine.execReset s
  | .currentSample die => Sys2Proof.Machine.execCurrentSample die s
  | .pathWalk part => Sys2Proof.Machine.execPathWalk part s
  | .halt cmd => Sys2Proof.Machine.execHalt cmd s
  | .step cmd => Sys2Proof.Machine.execStep cmd s
  | .stop rgn => Sys2Proof.Machine.execStop rgn s
  | .stepTimeout rgn => Sys2Proof.Machine.execStepTimeout rgn s
  | .slotBreakpoint rgn brk => Sys2Proof.Machine.execSlotBreakpoint rgn brk s
  | .brkSet cmd => Sys2Proof.Machine.execBrkSet cmd s
  | .brkClr cmd => Sys2Proof.Machine.execBrkClr cmd s
  | .regRd cmd => Sys2Proof.Machine.execRegRd cmd s
  | .regWr cmd => Sys2Proof.Machine.execRegWr cmd s
  | .memRd cmd => Sys2Proof.Machine.execMemRd cmd s
  | .memWr cmd => Sys2Proof.Machine.execMemWr cmd s
  | .dbgResume cmd => Sys2Proof.Machine.execDbgResume cmd s
  | .throttle die => Sys2Proof.Machine.execThrottle die s
  | .throttleEnd die => Sys2Proof.Machine.execThrottleEnd die s
  | .clockGate tile => Sys2Proof.Machine.execClockGate tile s
  | .mtileClockGate mt => Sys2Proof.Machine.execMtileClockGate mt s
  | .selfRefresh stack => Sys2Proof.Machine.execSelfRefresh stack s
  | .lanesIdle link => Sys2Proof.Machine.execLanesIdle link s
  | .consumerIndexAdvance ring => Sys2Proof.Machine.execConsumerIndexAdvance ring s

end Sys2Proof.Machine
end

