-- ==== Sys2Proof/Machine/Agenda.lean ====
section
/-! DEFINITION. What is done in a cycle and in what order. A cycle is a list of turns: the inputs from outside, then
stages, each of which proposes the steps of its kinds once; a step that is not due changes nothing. The passage to the next
cycle does what every element does in each cycle: tokens pass from output ports into their channels (R45, R46, R133),
watchdogs and barometers count (R49, R357), idle counters count (R428). -/
namespace Sys2Proof.Machine

/-! ### The turn of a PE -/

/-- What the turn of a PE proposes: an instruction, in a state that is ready for it; a bank switch; nothing; or a word that decodes to nothing. -/
inductive Pick where
  | fire (i : Instr) (s : State)
  | switch (s : State)
  | done (s : State)
  | bad (w : BitVec 32)

/-- The turn of a PE (R58): the slot that fires, a bank switch, or nothing. -/
def pickPE (s : State) (tile : Nat) : Pick :=
  let s1 := postAll s tile
  match badSlot s1 tile with
  | some w => .bad w
  | none =>
    match readySlot s1 tile (tileOf s1 tile).bank with
    | some (i, f) => .fire i { s1 with cur := f }
    | none => if (nextBank s1 tile).isSome then .switch s1 else .done s1

/-! ### Inputs from outside -/

/-- The steps that something outside the part brings about: an error that a unit reports, a write to the register window, a
flit that fails its CRC, a temperature, a reset. -/
def external (e : Event) : Bool :=
  match e with
  | .unitFence _ => true
  | .registerWrite _ _ => true
  | .flitRetry _ => true
  | .throttle _ => true
  | .throttleEnd _ => true
  | .reset => true
  | _ => false
/-- An uncorrectable error at a 64-bit word of a memory. -/
def markBad (s : State) (space unit addr : Nat) : State :=
  let w := addr / 8 * 8
  match space with
  | 0 => { s with memBad := w :: s.memBad.filter (· != w) }
  | 1 => modTile s unit fun t => { t with bad := w :: t.bad.filter (· != w) }
  | _ =>
    let m := mtileOf s unit
    setMTile s unit (fifoMark { m with bad := w :: m.bad.filter (· != w) } w)
/-- Bytes written to physical memory by the host, through its port: accesses of the work queue's holder, checked and never
stopped (R311, R323). -/
def hostBytes (s : State) (q pa : Nat) (l : List Byte) : State :=
  let x := l.foldr (fun b n => b.toNat + 256 * n) 0
  (enginePieces s { hostAcc s q with addr := BitVec.ofNat 64 pa } pa x l.length l.length).1
/-- What an input that is no step does. -/
def inputEffect (s : State) (x : Input) : State :=
  match x with
  | .event _ => s
  | .hostWrite q pa l => hostBytes s q pa l
  | .hostRead q pa n => readPieces s { hostAcc s q with addr := BitVec.ofNat 64 pa } pa n n
  | .memErr a u w => markBad s a u w

/-! ### What each stage proposes -/

/-- Steps of every consumer of every channel. -/
def eachCons (s : State) (f : Nat → Nat → Event) : List Event :=
  s.chans.flatMap fun (id, c) => (List.range c.cons.length).map fun i => f id i
/-- Steps of every channel. -/
def eachChan (s : State) (f : Nat → Event) : List Event := s.chans.map fun e => f e.1
/-- Steps of every compute tile. -/
def eachTile (s : State) (f : Nat → Event) : List Event := s.tiles.map fun e => f e.1
/-- Steps of every memory tile. -/
def eachMTile (s : State) (f : Nat → Event) : List Event := s.mtiles.map fun e => f e.1
/-- Steps of every AGT. -/
def eachAgt (s : State) (f : Nat → Event) : List Event := s.agts.map fun e => f e.1
/-- Steps of every BTE channel. -/
def eachBte (s : State) (f : Nat → Nat → Event) : List Event := s.btes.map fun e => f (e.1 / 16) (e.1 % 16)
/-- Steps of every region instance. -/
def eachRgn (s : State) (f : Nat → Event) : List Event := s.rgns.map fun e => f e.1
/-- Steps of every partition that is set. -/
def eachPart (s : State) (f : Nat → Event) : List Event :=
  ((List.range 16).filter fun p => (partOf s p).isSet).map f
/-- Steps of every die. -/
def eachDie (f : Nat → Event) : List Event := (List.range 4).map f
/-- Steps of every table. -/
def eachTab (s : State) (f : Nat → Event) : List Event := s.xtabs.map fun x => f (tabKey x)

/-- The step of a host request by its KIND (R407). -/
def reqStep (e : BitVec 512) : Option Event :=
  match reqFld e 0 2 with
  | 0x01 => some (.partSet e)
  | 0x02 => some (.install e)
  | 0x03 => some (.release e)
  | 0x04 => some (.shrink e)
  | 0x05 => some (.drainSave e)
  | 0x06 => some (.fullSave e)
  | 0x07 => some (.swap e)
  | 0x08 => some (.resume e)
  | 0x09 => some (.restore e)
  | 0x0A => some (.approve e)
  | 0x0B => some (.plan e)
  | 0x0C => some (.arm e)
  | 0x0D => some (.agtResumeRequest e)
  | 0x0E => some (.inval e)
  | 0x0F => some (if (reqFld e 16 1).testBit 0 then .qlinkUnlink e else .qlink e)
  | 0x10 => some (if (reqFld e 9 1).testBit 0 then .xdTableRemove e else .xdTable e)
  | 0x11 => some (.xdPublish e)
  | 0x12 => some (.xdStep e)
  | 0x13 => some (.attest e)
  | _ => none
/-- Whether a request would restart a walker that still waits to write its record (R405): AGT_RESUME, RESUME. -/
def reqHeld (s : State) (e : BitVec 512) : Bool :=
  match reqFld e 0 2 with
  | 0x0D => recWaits s (.walk (epAgt (reqFld e 8 4)))
  | 0x08 => (rgnAgts s (rgnKey (reqPart e) (reqFld e 8 4))).any fun n => recWaits s (.walk n)
  | _ => false
/-- The next entry of the request ring, where it can be begun (R405, R407). -/
def ringNext (s : State) : Option (BitVec 512) :=
  if s.host.reqCI < s.host.reqPI then
    let e : BitVec 512 := BitVec.ofNat 512 (physGet s (ringSlot s.host.reqRing s.host.reqCI) 64)
    if reqBusy s e || !reqRoom s e || reqHeld s e then none else some e
  else none
/-- The requests: those under way go on, and the ring's next entry is taken. An unknown KIND is refused. -/
def reqStage (s : State) : List Event × State :=
  let l := s.host.reqs.filterMap fun q => reqStep q.entry
  match ringNext s with
  | none => (l, s)
  | some e =>
    let s1 := modHost (doorsDone s reqRingNo s.host.reqCI) fun h => { h with reqCI := h.reqCI + 1 }
    match reqStep e with
    | some i => (i :: l, s1)
    | none => (l, respond s1 (reqTag e) (if s.host.booted then 0x117 else 0x118) 0)
/-- The step of the debug port's command by its KIND (R426). -/
def dbgStep (c : BitVec 512) : Option Event :=
  match dbgFld c 0 2 with
  | 1 => some (.halt c)
  | 2 => some (.step c)
  | 3 => some (.brkSet c)
  | 4 => some (.brkClr c)
  | 5 => some (.regRd c)
  | 6 => some (.regWr c)
  | 7 => some (.memRd c)
  | 8 => some (.memWr c)
  | 9 => some (.dbgResume c)
  | _ => none
/-- The debug port: its command goes on; an unknown KIND is refused. -/
def dbgStage (s : State) : List Event × State :=
  if dbgOpen s s.host.dbgCmd then
    match dbgStep s.host.dbgCmd with
    | some i => ([i], s)
    | none => ([], dbgEnd s 0x133 none)
  else ([], s)
/-- What an AGT's port 0 brings: an implicit go, or the step that takes the token at its head (R248). -/
def agtTakeStep (s : State) (n : Nat) : List Event :=
  if agtGoWaits s n then [.agtTakeGo n]
  else match headAt s (agtEp n 0) with
    | none => []
    | some t => match agtClass (agtOf s n) t with
      | 0 => [.agtTakeSet n]
      | 1 => [.agtTakeBase n]
      | 2 => [.agtTakeDim n]
      | 3 => [.agtTakeGo n]
      | 4 => [.agtTakeStop n]
      | 6 => [.agtTakeHand n]
      | 7 => [.agtTakeResume n]
      | 8 => [.agtTakeStat n]
      | 9 => [.agtTakeCfg n]
      | 10 => [.agtTakeDiscard n]
      | 11 => [.agtTakeErr n]
      | 12 => [.agtTakeReserved n]
      | _ => []
/-- The step that performs an access in flight at its home, by kind. -/
def accStep (a : Acc) : Option Event :=
  if a.done then none
  else match a.op with
    | .ringAdv _ _ => some (.ringAdvance a.id)
    | .write _ => some (if a.rel.isSome then .releasePerform a.id else .accessPerform a.id)
    | _ => some (.accessPerform a.id)
/-- The step that returns an access's answer, by kind. -/
def answerStep (a : Acc) : Option Event :=
  if !a.done then none
  else match a.op, a.toward with
    | .ringAdv _ _, _ => some (.advanceAnswer a.id)
    | _, .launch _ => some (.launchAccept a.id)
    | _, _ => some (.loadReturn a.id)
/-- The ports of a memory tile: each bank serves them in rotating order (R227). -/
def mtTurns (n : Nat) : List Event := (List.range 4).map (.mtRequest n)
/-- The entries of a tile's array that may be due. -/
def doneSteps (e : Nat × Tile) : List Event := e.2.runs.map fun _ => .matrixEntryDone e.1
/-- The follow-ons that wait for a place in a tile's queue: as many as are free enter in a cycle (R196). -/
def fonSteps (e : Nat × Tile) : List Event := e.2.fons.map fun _ => .followOnEnter e.1
/-- The results of a tile that are due. -/
def resultSteps (n : Nat) (t : Tile) : List Event := t.jobs.map fun j => .resultWrite n j.id
/-- The promises of a BTE channel that a STRICT command may have missed. -/
def missSteps (n : Nat) (c : BteCh) : List Event :=
  ((bteCmds c).filter fun x => x.strict.isSome).map fun x => .promiseMissed (n / 16) (n % 16) x.seq
/-- The views on their way to the handles of a tile: several may arrive in one cycle. -/
def viewSteps (n : Nat) (t : Tile) : List Event :=
  (List.range 8).flatMap fun h => (t.handles.getD h handle0).ups.map fun _ => .handleViewUpdate n h
/-- The collectives that are open at a die. -/
def collSteps (s : State) (d : Nat) : List Event :=
  ((dieOf s d).grps.filter fun g => !g.2.insts.isEmpty).map fun g => .collectiveComplete (d * 1024 + g.1)
/-- The launches of a partition. -/
def launchSteps (s : State) (p : Nat) (f : Nat → Nat → Event) : List Event := (partOf s p).devq.map fun l => f p l.seq
/-- The elements of a draining region, and its source ports, as ELEMENT_DRAINED names them. -/
def drainSteps (s : State) (k : Nat) (r : Region) : List Event :=
  if r.drain.isSome then (drainElems s r).map fun e => .elementDrained (if isSource e then e + 2 ^ 20 * (k + 1) else e) else []
/-- The adoptions of a table that are still to come. -/
def adoptSteps (x : XTab) : List Event :=
  x.adopting.map fun a => if x.regOf.isSome then .tableAdopt (tabKey x) a.1 else .versionAdopt (tabKey x) a.1

/-- How many stages a cycle has. -/
def stages : Nat := 27
/-- The turns that a stage of a cycle proposes, and the state after what the stage itself takes in. -/
def expand (n : Nat) (s : State) : List Turn × State :=
  let act := fun l : List Event => (l.map Turn.act, s)
  match n with
  | 0 => let x := reqStage s; (x.1.map .act, x.2)
  | 1 => let x := dbgStage s; (x.1.map .act, x.2)
  | 2 => act ((errUnits s).map .unitFence ++ (s.host.wq.map fun q => .hostLaunchPacket q.1) ++ (s.host.links.map fun l => .linkRetryExhausted l.1)
      ++ (List.range 17).map .consumerIndexAdvance)
  | 3 => act (eachRgn s .barometerWindow ++ eachRgn s .planArm)
  | 4 => act (eachTile s .streamFetch ++ s.tiles.flatMap (fun e => [.matrixEntryStart e.1, .matrixEntryStart e.1])
      ++ s.shadows.flatMap fun e => [.matrixEntryStart e.1, .matrixEntryStart e.1])
  | 5 => act (eachTile s .packetRedirect ++ eachTile s .packetPresent)
  | 6 => act (eachRgn s .gating)
  | 7 => (s.tiles.map fun t => .pe t.1, s)
  | 8 => act (s.tiles.flatMap fonSteps ++ s.shadows.flatMap fonSteps)
  | 9 => act (eachTile s .switchGather ++ eachTile s .switchScatter ++ eachChan s .steerToken ++ eachChan s .mergeOutput
      ++ eachRgn s .indexDelivery
      ++ eachMTile s (fun m => .fifoEnqueue m 0) ++ eachMTile s (fun m => .fifoEnqueue m 3)
      ++ eachMTile s (fun m => .fifoDequeue m 1) ++ eachMTile s .gatewayCrossing)
  | 10 => act (s.agts.flatMap (fun e => agtTakeStep s e.1) ++ eachAgt s .agtElement ++ eachAgt s .agtTokenOut
      ++ eachAgt s .agtWalkReport ++ eachAgt s .handoverSend ++ eachAgt s .handoverReceive)
  | 11 => act (eachChan s .delayLineDepart)
  | 12 => act (s.tiles.flatMap doneSteps ++ s.shadows.flatMap doneSteps ++ s.tiles.flatMap fun e => resultSteps e.1 e.2)
  | 13 => act (eachCons s .tokenArrival ++ eachCons s .requestArrival ++ (s.tiles.flatMap fun e => viewSteps e.1 e.2)
      ++ (s.packets.map fun p => .taskPacketArrival p.id) ++ s.arrivals.map fun a => .collectiveArrival a.id)
  | 14 => act (s.mtiles.flatMap (fun e => mtTurns e.1) ++ s.accs.filterMap accStep ++ (s.walks.map fun w => .pageWalk w.id)
      ++ (s.futOps.filter fun o => !o.done).map fun o => .futureOperation o.id)
  | 15 => act (s.accs.filterMap answerStep ++ ((s.futOps.filter fun o => o.done).map fun o => .futureAnswer o.id)
      ++ s.tiles.flatMap fun e => e.2.watches.map fun w => .watchReport e.1 w.fut)
  | 16 => act (eachBte s .chainTake ++ eachBte s .bteCommandBegin ++ eachBte s .followOnHandoff ++ eachBte s .bteCommandReport
      ++ s.btes.flatMap fun e => missSteps e.1 e.2)
  | 17 => act (eachPart s .spillMove ++ eachPart s .launchDistribution
      ++ ((List.range 16).flatMap fun p => launchSteps s p .tileRecordRead)
      ++ ((List.range 16).flatMap fun p => if (partOf s p).isSet then (List.range 4).map (.taskBind p) else [])
      ++ eachRgn s .regionCompletion ++ (List.range 16).flatMap fun p => launchSteps s p .launchCompletion)
  | 18 => act ((List.range 4).flatMap (collSteps s))
  | 19 => act (eachPart s .raceSweep ++ eachPart s .raceModeClear)
  | 20 => act (eachDie .loadSend ++ s.xtabs.flatMap adoptSteps ++ eachTab s .replicationCopyDone ++ eachTab s .rollback
      ++ eachTab s .gradientMerge)
  | 21 => act (eachRgn s .proposalLapse ++ eachRgn s .ungate ++ eachRgn s .rewireFail
      ++ eachRgn s .retirement)
  | 22 => act ((s.rgns.flatMap fun e => drainSteps s e.1 e.2) ++ eachRgn s .saveDone ++ eachRgn s .drainTimeout
      ++ eachPart s .shadowExchange
      ++ (s.rgns.flatMap fun e => e.2.brks.map fun b => .slotBreakpoint e.1 b.1) ++ eachRgn s .stop ++ eachRgn s .stepTimeout)
  | 23 => act (eachTile s .trapRecord ++ eachRgn s .regionStop)
  | 24 => act (eachCons s .multicastDetach ++ eachCons s .detached ++ eachCons s .laggard ++ eachCons s .laggardEnd)
  | 25 => act (eachDie .currentSample ++ eachPart s .pathWalk ++ eachTile s .clockGate ++ eachMTile s .mtileClockGate
      ++ (List.range 8).map .selfRefresh ++ (List.range 18).map .lanesIdle)
  | 26 => act (eachCons s .portRequest)
  | _ => ([], s)

/-! ### Waiting with a record (R405) -/

/-- The engine that performs a step and would write its records; none for a step of a network, a memory or the host port. A trap
record waits for room by itself, and a region stops whatever waits (R162). -/
def eventWriter (s : State) (e : Event) : Option Agent :=
  let ctl := fun k => (rgnOf s k).map fun r => Agent.ctl (rgnDie r)
  let chan := fun c => (chanOf s c).map fun c => Agent.ctl (epDie c.prod)
  match e with
  | .agtTakeSet n | .agtTakeBase n | .agtTakeDim n | .agtTakeGo n | .agtTakeStop n | .agtTakeHand n | .handoverSend n
  | .handoverReceive n | .agtTakeResume n | .agtTakeStat n | .agtTakeCfg n | .agtTakeDiscard n | .agtTakeErr n
  | .agtTakeReserved n | .agtElement n | .agtTokenOut n | .agtWalkReport n => some (.walk n)
  | .bteCommandBegin n ch | .chainTake n ch | .followOnHandoff n ch | .bteCommandReport n ch => some (.bte n ch)
  | .launchAccept _ | .spillMove _ | .launchDistribution _ | .launchCompletion _ _ | .hostLaunchPacket _ => some (.disp (lowDie s))
  | .tileRecordRead _ _ => some (.disp (lowDie s))
  | .taskBind _ d => some (.disp d)
  | .barometerWindow k | .proposalLapse k | .planArm k | .gating k | .ungate k | .rewireFail k | .retirement k | .saveDone k
  | .drainTimeout k => ctl k
  | .multicastDetach c _ | .laggard c _ | .laggardEnd c _ => chan c
  | .replicationCopyDone _ | .rollback _ | .gradientMerge _ | .loadSend _ | .tableAdopt _ _ | .versionAdopt _ _ => some .place
  | .collectiveComplete g => some (.disp (g / 1024 % 4))
  | .packetPresent n | .packetRedirect n => some (.bank n 0)
  | .taskPacketArrival i => (s.packets.find? fun p => p.id == i).map fun p => .bank p.dst 0
  | _ => none
/-- Whether the engine of a step waits for a ring to take its record: it does nothing more until then (R405). -/
def engineWaits (s : State) (e : Event) : Bool :=
  match eventWriter s e with
  | some (.bank t _) => tileWaits s t
  | some a => recWaits s a
  | none => false

/-! ### The passage to the next cycle -/

/-- The first token in line at an output port enters the channel, if its result is written (R133): one in each cycle. -/
def passOut (s : State) (ep : Nat) : State :=
  let p := outPortOf s ep
  match p.chan, p.outq with
  | some k, ⟨_, some t, n⟩ :: l => enterChan (setOutPort s ep { p with outq := l }) k ep n t
  | _, _ => s
/-- A token held behind a gate that has opened passes, one in each cycle (R371). DRAIN needs no request, and a delay line discards it (R376). -/
def passGate (s : State) (id : Nat) : State :=
  match chanOf s id with
  | none => s
  | some c =>
    if c.closed || !rgnMoves s (some c.rgn) then s
    else match c.gateq with
      | [] => s
      | t :: l =>
        let c1 := { c with gateq := l }
        if t.kind = .drain then setChan s id (if 1 ≤ c.d then c1 else sendAll s c1 c1.prod t)
        else if passReady c then setChan s id (passTok s (passConsume c1) c1.prod t)
        else s
/-- The tokens in line pass from the output ports of regions that are not saved, and from opened gates. -/
def passAll (s : State) : State :=
  let s1 := s.outPorts.foldl (fun x e => passOut x e.1) s
  s1.chans.foldl (fun x e => passGate x e.1) s1
/-- The watchdogs of the channels whose region moves (R49). DESIGN CHOICE (log 109): the count stands still in the cycles in which
the region does not. -/
def watchAll (s : State) : State :=
  { s with chans := s.chans.map fun e => (e.1, if rgnMoves s (some e.2.rgn) then watchTick e.2 else e.2) }
/-- The regions at the passage: barometers of those that move, windows that end, gates of plans at their cut, clones, a drain that
has just been asked for. -/
def rgnsTick (s : State) : State :=
  let s1 : State := { s with rgns := s.rgns.map fun e => (e.1, windowTick s (if rgnMoves s (some e.1) then baroTick s e.2 else e.2)) }
  s1.rgns.foldl (fun x e => rewireTick (drainTick (cloneTick (holdGate x e.1) e.1) e.1) e.1) s1
/-- Whether a compute tile has work, for its clock (R428): a slot that could fire or has, a pending result, an entry of a
queue. -/
def tileWork (s : State) (n : Nat) (t : Tile) : Bool :=
  t.lastFire == s.cyc || !t.jobs.isEmpty || !t.cmdq.isEmpty || !t.runs.isEmpty || !t.fons.isEmpty || !t.tbuf.isEmpty
    || t.present.isSome || ((List.range 6).any fun i => !(inPortOf s (tileEp n i)).queue.isEmpty) || couldFire s n
/-- Cycles after which a failed walk that a PE has been told of is forgotten, where no firing has met it. -/
def xfailLife : Nat := 16
/-- A compute tile at the passage: a packet presented and not consumed returns to the buffer (R332); idle cycles, and the
wake of a gated tile with work, 8 cycles later. -/
def tileTick (s : State) (n : Nat) (t : Tile) : Tile :=
  let w := tileWork s n t
  { lmStores t with
           tbuf := t.present.toList ++ t.tbuf, present := none,
           xfails := t.xfails.filter fun x => decide (s.cyc < x.cyc + xfailLife),
           idle := if w then 0 else t.idle + 1, gated := t.gated && !w, wake := if t.gated && w then s.cyc + 8 else t.wake }
/-- Whether a memory tile has a request. -/
def mtWork (s : State) (n : Nat) (m : MTile) : Bool :=
  m.pq.any (fun q => !q.2.isEmpty) || s.accs.any (fun a : Acc => !a.done && accTile s a == some n && (viaPort s a || accStep a == some (.ringAdvance a.id)))
    || (List.range 4).any (fun i => !(inPortOf s (mtEp n i)).queue.isEmpty)
    || (!m.fifo.isEmpty && outWritable s (mtEp n 1))
/-- The request queues of a memory tile without the requests whose issuer is gone. -/
def pqLive (s : State) (q : SMap (List Nat)) : SMap (List Nat) :=
  (q.map fun e => (e.1, e.2.filter fun i => (accOf s i).isSome)).filter fun e => !e.2.isEmpty
/-- A memory tile at the passage. -/
def mtTick (s : State) (n : Nat) (m : MTile) : MTile :=
  let w := mtWork s n m
  { m with served := [], pq := pqLive s m.pq, idle := if w then 0 else m.idle + 1, gated := m.gated && !w,
           wake := if m.gated && w then s.cyc + 8 else m.wake }
/-- A BTE channel at the passage: the PEs of a region that is not in the shadow state see the updates whose time has come (R282,
R381). -/
def bteTick (s : State) (c : BteCh) : BteCh :=
  let cyc := s.cyc
  if (c.rgn.bind (rgnOf s)).any (·.st == .shadow) then c else
  let due := c.views.filter fun v => decide (v.1 ≤ cyc)
  { c with view := (due.getLast?.map fun v => (v.2.1, v.2.2)).getD c.view, views := c.views.filter fun v => !decide (v.1 ≤ cyc) }
/-- The clocked units at the passage. -/
def unitsTick (s : State) : State :=
  { s with tiles := s.tiles.map fun e => (e.1, tileTick s e.1 e.2),
           mtiles := s.mtiles.map fun e => (e.1, mtTick s e.1 e.2),
           btes := s.btes.map fun e => (e.1, bteTick s e.2) }
/-- The turns of a cycle after its inputs. A part in reset answers requests and goes on to boot, unless its image was refused (R415). -/
def cycleTurns (s : State) : List Turn :=
  if s.host.booted then (List.range stages).map .stage
  else .stage 0 :: if s.host.failed then [] else [.act .reset]
/-- The next cycle: the counter (R18) and the turns. -/
def nextCycle (s : State) : State :=
  { s with cyc := s.cyc + 1, inbox := [], turns := s.inbox.map .input ++ cycleTurns s }
/-- The passage to the next cycle. -/
def tick (s : State) : State := nextCycle (owedTick (mtAdmit (placeTick (btesMove (unitsTick (rgnsTick (watchAll (passAll s))))))))

end Sys2Proof.Machine
end

