-- ==== Sys2Proof/Machine/Fetch.lean ====
section
/-! DEFINITION. Where the next instruction is fetched from: a slot of a compute tile's context store (R84). The part does
not fetch at a program counter: its host installs an image (R410) and launches it (R335), and a PE's arbiter picks a ready
slot (R58). `fetchState` stands for that installation and launch: an instance on tile 0 whose slot 0 holds the instruction,
with a head at every input, a request at every output, and what the instruction would otherwise wait for. -/
namespace Sys2Proof.Machine

/-- The trigger word of the slot: valid, on trigger channel 7 (R85), with no test. -/
def fetchTrig : BitVec 32 := BitVec.ofNat 32 (1 + 7 * 2 ^ 18)
/-- The key of the instance: region 0 of partition 0. -/
def fetchRgn : Nat := rgnKey 0 0
/-- The image of the instance. -/
def fetchImage : Image :=
  { rows := 4, cols := 4, pes := [], chs := [], mts := [], agts := [], btes := [], sinks := [], folds := [], hdls := [] }
/-- The instance: LIVE, bound by a launch. -/
def fetchRegion : Region := { regionOf 0 0 fetchImage [] with started := true, reusable := false }
/-- A bank with a value in each queue register and room for another. -/
def fetchBank : Bank := { bank0 with q0 := [0], q1 := [0], qd0 := 2, qd1 := 2 }
/-- The tile: the slot, a read stream with an element and a write stream with a position, a report of future 0. -/
def fetchTile (w : BitVec 32) : Tile :=
  { setBank tile0 0 fetchBank with
      rgn := some fetchRgn, slots := [(0, { trig := fetchTrig, word := w, lit := 0 })],
      rd := { stream0 with st := .run, ahead := [(0, some 0)], next := 1 }, wr := { stream0 with st := .run },
      watches := [⟨0, some 0, 0⟩] }
/-- A head at an input port of the tile: DATA of payload 0. -/
def fetchIn (s : State) (i : Nat) : State := setInPort s (tileEp 0 i) { inPort0 with queue := [(0, ⟨.data, 0, 0⟩)] }
/-- A channel of an output port of the tile, whose consumer has four requests pending. -/
def fetchChan (j : Nat) : Chan :=
  { rgn := fetchRgn, data := decide (3 ≤ j), detach := false, w := 0, blk := 0, d := 0, init := [], line := [], lpend := 0,
    prod := tileEp 0 j,
    cons := [{ ep := tileEp 1 0, pf := 0, attached := true, pend := 4, reqs := [], toks := [], stall := 0, lag := false }],
    steer := [], merge := none, closed := false, gateq := [], owed := 0, passed := 0 }
/-- An output port of the tile with its channel. -/
def fetchOut (s : State) (j : Nat) : State :=
  setOutPort (setChan s j (fetchChan j)) (tileEp 0 j) { outPort0 with chan := some j }
/-- The state in which the PE of tile 0 has its turn, with the instruction in its slot 0. -/
def fetchState (s : State) (_nbits w : Nat) : State :=
  let s1 := modHost s fun h => { h with booted := true, failed := false }
  let s2 := setRgn (setTile s1 0 (fetchTile (BitVec.ofNat 32 w))) fetchRgn fetchRegion
  let s3 := (List.range 5).foldl fetchOut ((List.range 6).foldl fetchIn s2)
  let s4 := modDie s3 0 fun d => { d with tlb := tlbEnter d.tlb ⟨0, 0, 0, true⟩ 16384 }
  { s4 with turns := [.pe 0] }

end Sys2Proof.Machine
end

