-- ==== Sys2Proof/Machine/Step.lean ====
section
/-! DEFINITION. One step of the part. -/
namespace Sys2Proof.Machine

/-- One step: the first of the cycle's turns, or, where none is left, the passage to the next cycle. An engine that waits for a
ring to take its record does nothing in its turn (R405). A part in reset takes its turns as any other: those of its boot (R415). -/
def step (s : State) : Host.Outcome State Fault Refusal :=
  match s.turns with
  | [] => .next (tick s)
  | .pe tile :: ts =>
    (match pickPE { s with turns := ts } tile with
     | .fire i s1 => exec i s1
     | .switch s1 => execBankSwitch tile s1
     | .done s1 => .next s1
     | .bad w => .fault (.undecodable w))
  | .act e :: ts => if engineWaits s e then .next { s with turns := ts } else runEvent e { s with turns := ts }
  | .input (.event .reset) :: ts => .next (resetPart { s with turns := ts })
  | .input (.event e) :: ts => if external e then runEvent e { s with turns := ts } else .next { s with turns := ts }
  | .input x :: ts => .next (inputEffect { s with turns := ts } x)
  | .stage n :: ts =>
    let (l, s1) := expand n { s with turns := ts }
    .next { s1 with turns := l ++ ts }

/-- The state in which the next step fetches and runs the instruction whose word is `w`. -/
def State.withFetchWord (s : State) (nbits w : Nat) : State := fetchState s nbits w

end Sys2Proof.Machine
end

