-- ==== Sys2Proof/WellFormed.lean ====
section
/-! DEFINITION. Well-formed instructions: those whose operand fields an install accepts (R88 to R92, R143, R150, R173, R202,
R206, R299), and well-formed slots: a valid trigger word with a well-formed instruction, or a slot of zeros (R86). What a
slot needs of its surroundings (channels, units, other slots) is checked with its image, in Machine/Checks.lean. -/
namespace Sys2Proof

/-- Whether an install accepts the operand fields of an instruction. -/
def Instr.wf (i : Instr) : Bool := (Machine.instrErrs i).isEmpty
/-- Whether an install accepts a slot's three words by themselves: its trigger word, its instruction word, its literal. -/
def slotWf (x : Machine.Slot) : Bool :=
  match decodeWord x.word with
  | .ok i =>
    if Machine.trV x.trig then (Machine.trigErrs x (some i)).isEmpty && i.wf && (Machine.litErrs i (Machine.trTch x.trig) x.lit).isEmpty
    else (Machine.trigErrs x none).isEmpty
  | .error _ => !Machine.trV x.trig && (Machine.trigErrs x none).isEmpty

end Sys2Proof
end

