-- ==== Sys2Proof/Safety.lean ====
section
/-! DEFINITION. The terms that claims use: a safe run, a firing that completes, the state after it, an effect's parts, and
what two states agree on. -/
namespace Sys2Proof

open Machine

/-! ### Runs -/

/-- A step that does not stop the machine. -/
def StepSafe (s : State) : Prop := ∃ t, step s = .next t
/-- A run of `k` steps that meets no stop. -/
def RunSafe (k : Nat) (s : State) : Prop := ∃ t, core.run k s = .next t

/-! ### A firing (R56, R57, R91) -/

/-- The slot under way fires and its instruction has its effect: it is ready (R56), no input that it would dequeue has an ERR
head (R57), and the element of the read stream that it would take has no uncorrectable error (R218). -/
def Fires (i : Instr) (s : State) : Prop :=
  peReady s i s.cur false = true ∧ errHead s i s.cur = none ∧ (readsLm i && lmNext s s.cur.tile == some none) = false
/-- The operands of the firing: its sources, mode word, predicates and literal as they stand when it starts. -/
def operands (i : Instr) (s : State) : Opnd := readOpnd s s.cur i
/-- The state once the firing has taken its heads, queue values and stream element (R91, R222). -/
def started (i : Instr) (s : State) : State := takeInputs s i s.cur
/-- The state after the firing with an effect. -/
def finished (i : Instr) (s : State) (e : Eff) : State := complete s i s.cur (operands i s) e
/-- The effect of a control-plane computation: a result, a condition flag and sticky flags, at the instruction's latency. -/
def aluDone (i : Instr) (s : State) (r : AluRes) : Eff :=
  { st := started i s, r1 := dataR r.val, flag := r.flag, raise := r.raise, lat := (info i).lat }
/-- The effect of a vector computation. -/
def vecDone (i : Instr) (s : State) (r : VecRes) : Eff :=
  { st := started i s, r1 := (.data, r.val), flag := r.flag, raise := r.raise, lat := (info i).lat }
/-- A firing of the instruction completes with an effect: the next state is the one after its whole effect. -/
def Completes (i : Instr) (s : State) (e : Eff) : Prop := Fires i s → exec i s = .next (finished i s e)
/-- A firing completes with a control-plane result, flag and flags, which the operands give. -/
def AluGives (i : Instr) (s : State) (r : Opnd → AluRes) : Prop := Completes i s (aluDone i s (r (operands i s)))
/-- A firing on heads that are all DATA completes with a vector result, flag and flags, which the operands give (R166). -/
def VecGives (i : Instr) (s : State) (r : Opnd → VecRes) : Prop :=
  skipToken i (operands i s) = none → Completes i s (vecDone i s (r (operands i s)))
/-- A firing completes in one cycle with a result and a flag, and changes nothing else. -/
def Writes (i : Instr) (s : State) (r : Kind × W512) (flag : Bool) : Prop :=
  Completes i s { st := started i s, r1 := r, flag := flag }
/-- A firing completes in one cycle with a further effect on the state and a flag, and writes no result of its own. -/
def Changes (i : Instr) (s : State) (st : State) (flag : Bool) : Prop := Completes i s { st := st, flag := flag }
/-- A firing of the instruction has none of its effect and traps (R161). -/
def TrapsWith (i : Instr) (s : State) (cause : Nat) (detail : W64) : Prop :=
  Fires i s → exec i s = .next (trapPE s s.cur cause detail)
/-- The number that the firing's job takes at its tile. -/
def jobNo (s : State) : Nat := (tileOf s s.cur.tile).njob
/-- The bank that the firing runs in. -/
def curBank (s : State) : Bank := bankOf (tileOf s s.cur.tile) s.cur.bank
/-- The bank of the firing, in its place in the state with the inputs taken, replaced by `f` of it. -/
def bankDone (i : Instr) (s : State) (f : Bank → Bank) : State := modBank (started i s) s.cur.tile s.cur.bank f
/-- The tile of the firing, in the state with the inputs taken, replaced by `f` of it. -/
def tileDone (i : Instr) (s : State) (f : Tile → Tile) : State := modTile (started i s) s.cur.tile f

/-! ### What a bank and a tile always hold -/

/-- The mode word's reserved bits are zero (R71), a queue register's depth is 1 to 16 (R130), the maintenance loop's ring has
1 to 8 registers and its counter lies within it (R130). -/
def BankLegal (b : Bank) : Prop :=
  b.mode &&& ~~~modeMask = 0 ∧ (1 ≤ b.qd0 ∧ b.qd0 ≤ 16) ∧ (1 ≤ b.qd1 ∧ b.qd1 ≤ 16) ∧ (1 ≤ b.rs ∧ b.rs ≤ 8) ∧ b.lc < b.rs
/-- Every bank of a compute tile is legal, and its local memory is in canonical form. -/
def TileLegal (t : Tile) : Prop := memWf t.lm = true ∧ ∀ b, BankLegal (bankOf t b)
/-- Every compute tile is legal, and so are those of the shadow state (R381) and of the save images kept (R380); the part's memory and
the memory of every memory tile, shadows and images among them, are in canonical form. -/
def Legal (s : State) : Prop :=
  memWf s.mem = true ∧ (∀ e ∈ s.tiles, TileLegal e.2) ∧ (∀ e ∈ s.shadows, TileLegal e.2) ∧
  (∀ e ∈ s.mtiles, memWf e.2.mem = true) ∧ (∀ e ∈ s.shadowMts, memWf e.2.mem = true) ∧
  ∀ x ∈ s.saves, (∀ e ∈ x.2.tiles, TileLegal e.2) ∧ ∀ e ∈ x.2.mtiles, memWf e.2.mem = true

/-! ### The bytes of a home (R295) -/

/-- Byte k of an access's place: of the part's memory, a memory tile or a compute tile's local memory. What lies in another package is
not of this part. -/
def homeByte (s : State) (l : Loc) (k : Nat) : Byte :=
  match l with
  | .phys pa => byteGet s.mem (pa + k)
  | .mtile m o => byteGet (mtileOf s m).mem (mtAddr (mtileOf s m) o + k)
  | .lm t o => byteGet (tileOf s t).lm (lmAddr (tileOf s t) o + k)
  | .remote _ _ => 0
/-- A byte of physical memory that the race checker's bookkeeping leaves alone: any, with the checker off; else one below the carve-out
of its pseudo-channel (R317). -/
def offCarve (s : State) (pn pa : Nat) : Prop := (partOf s pn).raceMode = 0 ∨ pa % 2 ^ 31 < 0x5A000000

/-! ### Families -/

/-- An instruction that computes on the control plane: groups 0 and 1 but `pset`, the token instructions that change no head in
place, and the instructions of groups 3 and 15 that only read. -/
def onlyControl (i : Instr) : Bool :=
  match i with
  | .add _ _ _ _ _ _ => true
  | .sub _ _ _ _ _ _ => true
  | .mulLo _ _ _ _ _ _ => true
  | .mulHi _ _ _ _ _ _ => true
  | .div _ _ _ _ _ _ => true
  | .rem _ _ _ _ _ _ => true
  | .min _ _ _ _ _ _ => true
  | .max _ _ _ _ _ _ => true
  | .cmpEq _ _ _ _ _ _ => true
  | .cmpNe _ _ _ _ _ _ => true
  | .cmpLt _ _ _ _ _ _ => true
  | .cmpLe _ _ _ _ _ _ => true
  | .abs _ _ _ _ _ => true
  | .neg _ _ _ _ _ => true
  | .sel _ _ _ _ _ => true
  | .and _ _ _ _ _ => true
  | .or _ _ _ _ _ => true
  | .xor _ _ _ _ _ => true
  | .andn _ _ _ _ _ => true
  | .not _ _ _ _ => true
  | .shl _ _ _ _ _ => true
  | .shr _ _ _ _ _ => true
  | .sar _ _ _ _ _ => true
  | .rol _ _ _ _ _ => true
  | .ror _ _ _ _ _ => true
  | .extr _ _ _ _ _ => true
  | .extrS _ _ _ _ _ => true
  | .ins _ _ _ _ _ => true
  | .popc _ _ _ _ => true
  | .clz _ _ _ _ => true
  | .ctz _ _ _ _ => true
  | .bswap _ _ _ _ => true
  | .pget _ _ _ => true
  | .pand _ => true
  | .por _ => true
  | .pxor _ => true
  | .pnot _ => true
  | .deq _ _ _ _ => true
  | .peek _ _ _ _ => true
  | .fwd _ _ _ _ => true
  | .emitNull _ _ _ => true
  | .emitMark _ _ _ _ => true
  | .emitErr _ _ _ _ => true
  | .qCnt _ _ _ _ => true
  | .modeRd _ _ _ => true
  | .swIdx _ _ _ _ _ => true
  | .mlRd _ _ _ => true
  | .rgnStat _ _ _ _ => true
  | .nop _ => true
  | _ => false
/-- An instruction of the vector unit that computes on the data plane with one result (groups 4 to 8 but `compress.n32`, `rep`
and `ext`). -/
def onlyVector (i : Instr) : Bool :=
  match i with
  | .fadd _ _ _ _ _ _ => true
  | .fsub _ _ _ _ _ _ => true
  | .fmul _ _ _ _ _ _ => true
  | .fma _ _ _ _ _ _ => true
  | .fms _ _ _ _ _ _ => true
  | .fnma _ _ _ _ _ _ => true
  | .fmin _ _ _ _ _ _ => true
  | .fmax _ _ _ _ _ _ => true
  | .fabs _ _ _ _ _ => true
  | .fneg _ _ _ _ _ => true
  | .fcmpEq _ _ _ _ _ _ => true
  | .fcmpLt _ _ _ _ _ _ => true
  | .fcmpLe _ _ _ _ _ _ => true
  | .fcmpUn _ _ _ _ _ _ => true
  | .fclass _ _ _ _ _ => true
  | .fsqrt _ _ _ _ _ => true
  | .frcpe _ _ _ _ _ => true
  | .fdiv _ _ _ _ _ _ => true
  | .vadd _ _ _ _ _ _ => true
  | .vsub _ _ _ _ _ _ => true
  | .vmul _ _ _ _ _ _ => true
  | .vmulh _ _ _ _ _ _ => true
  | .vmin _ _ _ _ _ _ => true
  | .vmax _ _ _ _ _ _ => true
  | .vshr _ _ _ _ _ _ => true
  | .vcmpLt _ _ _ _ _ _ => true
  | .vshl _ _ _ _ _ _ => true
  | .vcmpEq _ _ _ _ _ _ => true
  | .vabs _ _ _ _ _ => true
  | .vand _ _ _ _ _ => true
  | .vor _ _ _ _ _ => true
  | .vxor _ _ _ _ _ => true
  | .vnot _ _ _ _ => true
  | .cvtF32F64 _ _ _ _ _ => true
  | .cvtF64F32 _ _ _ _ _ => true
  | .cvtBf16F32 _ _ _ _ _ => true
  | .cvtF32Bf16 _ _ _ _ _ => true
  | .cvtI32F32 _ _ _ _ => true
  | .cvtF32I32 _ _ _ _ => true
  | .cvtN32F32 _ _ _ _ => true
  | .cvtF32N32 _ _ _ _ => true
  | .cvtI64F64 _ _ _ _ => true
  | .cvtF64I64 _ _ _ _ => true
  | .vperm _ _ _ _ _ => true
  | .vshuf _ _ _ _ _ => true
  | .vrot _ _ _ _ _ => true
  | .vbcast _ _ _ _ _ => true
  | .vredFaddF64 _ _ _ _ => true
  | .vredFaddF32 _ _ _ _ => true
  | .vredFaddBf16 _ _ _ _ => true
  | .vredFmaxF32 _ _ _ _ => true
  | .vredFminF32 _ _ _ _ => true
  | .vredAddI32 _ _ _ _ => true
  | .vredAddI64 _ _ _ _ => true
  | .vredMaxI32 _ _ _ _ => true
  | _ => false
/-- Opcodes that the map assigns, by first and last of each run (R102). -/
def opcodeRuns : List (Nat × Nat) :=
  [(0x000, 0x03F), (0x040, 0x06F), (0x080, 0x087), (0x0A0, 0x0A7), (0x0C0, 0x0C3), (0x0C8, 0x0CA), (0x0D0, 0x0D3), (0x0D8, 0x0D8),
   (0x0E0, 0x0E2), (0x100, 0x111), (0x140, 0x151), (0x180, 0x191), (0x1C0, 0x1FF), (0x200, 0x21D), (0x220, 0x228), (0x230, 0x231),
   (0x240, 0x245), (0x248, 0x249), (0x250, 0x254), (0x280, 0x283), (0x288, 0x289), (0x290, 0x298), (0x2C0, 0x2C8), (0x300, 0x331),
   (0x340, 0x347), (0x380, 0x382), (0x388, 0x38D), (0x390, 0x391), (0x398, 0x39F), (0x3A0, 0x3A4), (0x3C0, 0x3C5), (0x3D0, 0x3D3)]
/-- Whether the map assigns an opcode (R102). -/
def assigned (n : Nat) : Bool := opcodeRuns.any fun r => decide (r.1 ≤ n) && decide (n ≤ r.2)

/-! ### What two states agree on -/

/-- Every byte of every memory of the part reads as before: HBM and host memory, each tile's local memory, each memory
tile. -/
def SameMemory (s t : State) : Prop :=
  (∀ a, byteGet t.mem a = byteGet s.mem a) ∧ (∀ n a, byteGet (tileOf t n).lm a = byteGet (tileOf s n).lm a)
    ∧ ∀ n a, byteGet (mtileOf t n).mem a = byteGet (mtileOf s n).mem a
/-- What the firing of a computing instruction has no way to: everything of the state but the tiles, the ports, channels and
region instances that tokens pass through, the partitions' counters, the counts of uncorrectable errors, the replica tables' counts
of packets in flight, and the model's free-value counter. -/
structure Rest where
  cyc : Nat
  turns : List Turn
  inbox : List Input
  cur : Firing
  nid : Nat
  shadows : SMap Tile
  shadowPorts : SMap InPort
  shadowOuts : SMap OutPort
  shadowMts : SMap MTile
  mtiles : SMap MTile
  agts : SMap Agt
  agtTlb : SMap (List TlbEnt)
  btes : SMap BteCh
  mem : SMap Byte
  memBad : List Nat
  lmeta : SMap (BitVec 64)
  sums : SMap (Nat × Nat)
  accs : List Acc
  owed : List Owed
  walks : List Walk
  packets : List NetPacket
  futOps : List FutOp
  arrivals : List Arrival
  dies : Vector Die 4
  saves : SMap Snap
  host : HostPort
/-- That part of a state. -/
def restOf (s : State) : Rest :=
  { cyc := s.cyc, turns := s.turns, inbox := s.inbox, cur := s.cur, nid := s.nid, shadows := s.shadows,
    shadowPorts := s.shadowPorts, shadowOuts := s.shadowOuts, shadowMts := s.shadowMts,
    mtiles := s.mtiles, agts := s.agts, agtTlb := s.agtTlb, btes := s.btes, mem := s.mem, memBad := s.memBad,
    lmeta := s.lmeta, sums := s.sums, accs := s.accs, owed := s.owed, walks := s.walks, packets := s.packets, futOps := s.futOps,
    arrivals := s.arrivals, dies := s.dies, saves := s.saves, host := { s.host with errs := [] } }
/-- A state that differs by ports, channels, region instances and partitions alone. -/
def SameTiles (s t : State) : Prop := restOf t = restOf s ∧ t.tiles = s.tiles
/-- The machine beyond one tile and its ports, channels and region is unchanged. -/
def SameBeyond (tile : Nat) (s t : State) : Prop := restOf t = restOf s ∧ ∀ n, n ≠ tile → tileOf t n = tileOf s n
/-- The parts of a tile that no control-plane computation touches: local memory and its stores under way, accumulator, panels,
product table, matrix queue and the follow-ons that wait for it, both streams, handles, task buffer, context store, the words with an
uncorrectable error. -/
def SameTileStores (x y : Tile) : Prop :=
  y.lm = x.lm ∧ y.lmsts = x.lmsts ∧ y.acc = x.acc ∧ y.panels = x.panels ∧ y.table = x.table ∧ y.cmdq = x.cmdq ∧ y.runs = x.runs ∧ y.fons = x.fons ∧ y.rd = x.rd ∧ y.wr = x.wr
    ∧ y.bad = x.bad ∧ y.half = x.half ∧ y.handles = x.handles ∧ y.tbuf = x.tbuf ∧ y.bind = x.bind ∧ y.slots = x.slots ∧ y.ctx = x.ctx ∧ y.sw = x.sw
    ∧ y.watches = x.watches ∧ y.rgn = x.rgn
/-- What a firing leaves of its bank: every k register but its destinations, every v register, a queue register that it neither
pops nor pushes, depths, the maintenance loop but for its counter, the mode word but for flags ORed in, and every predicate but the
one that the trigger word updates. -/
def BankFrame (i : Instr) (s t : State) : Prop :=
  let b := curBank s
  let c := bankOf (tileOf t s.cur.tile) s.cur.bank
  let d := dsts b i (operands i s).tag
  (∀ n, d.1 ≠ .k n → d.2 ≠ .k n → kGet c n = kGet b n) ∧ (∀ n, vGet c n = vGet b n)
    ∧ (∀ q, q < 2 → popsQ i q = false → pushesQ i q = false → qGet c q = qGet b q)
    ∧ c.qd0 = b.qd0 ∧ c.qd1 = b.qd1 ∧ c.rs = b.rs ∧ c.mlOn = b.mlOn ∧ (b.mlOn = false → c.lc = b.lc)
    ∧ (∃ r, c.mode = modeRaise b.mode r)
    ∧ ∀ n, (n ≠ trPsel s.cur.trig ∨ trPop s.cur.trig = 0) → c.p.getLsbD n = b.p.getLsbD n

end Sys2Proof
end

