-- ==== Sys2Proof/Certificates/Slice0/Obligations.lean ====
section
/-! DEFINITION. The statements about the model for its provers. -/

open Sys2Proof Sys2Proof.Machine

/-! ### Encoding (R87, R101, R102) -/

/-- Decoding the word of an instruction gives the instruction back, with every operand field at every value that the encoding
admits. -/
def Obligations.DecodeOfEncode : Prop := ∀ i w, encode i = some w → decodeWord w = .ok i

/-- A word that decodes is the word of the instruction it decodes to: no bit of it is dropped. -/
def Obligations.EncodeOfDecode : Prop := ∀ w i, decodeWord w = .ok i → encode i = some w

/-- Words that the spec writes out, and the instructions they stand for. -/
def Obligations.DecodedWords : Prop :=
  decodeWord 0x00840188 = .ok (.add 2 2 0 1 8 8) ∧ decodeWord 0x20011EE0 = .ok (.deq 0 14 14 0) ∧
  decodeWord 0x50C01900 = .ok (.fma 1 0 1 9 0 0) ∧ decodeWord 0x90011110 = .ok (.mmaBf16 0 1 1 0) ∧
  decodeWord 0xB0808110 = .ok (.agtDim 0 8 1 1 0) ∧ decodeWord 0xD00C7AB0 = .ok (.bteCopy 6 7 10 11 0) ∧
  decodeWord 0xCA8E6550 = .ok (.stRel 2 7 6 0) ∧ decodeWord 0xC88C7AA0 = .ok (.amoCas 2 6 7 10 10 0) ∧
  decodeWord 0xE00E8550 = .ok (.tsend 7 8 0) ∧ decodeWord 0xE68F1660 = .ok (.barrier 7 17 6 6 0) ∧
  decodeWord 0xE80C7BB0 = .ok (.xdDispatch 6 7 11 11 0) ∧ decodeWord 0xF1211550 = .ok (.dbgBrk 16 0)

/-- An opcode outside the opcode map is refused as unassigned, whatever the word's other fields; every opcode of the map has a
word that decodes (R102). -/
def Obligations.UnassignedOpcodes : Prop :=
  (∀ w : BitVec 32, assigned (fOp w).toNat = false → decodeWord w = .error .unassigned) ∧
  ∀ n : BitVec 10, assigned n.toNat = true → ∃ w i, fOp w = n ∧ decodeWord w = .ok i

/-! ### The step -/

/-- In a PE's turn, the step runs the instruction decoded from the word of the slot that fires: the lowest-numbered ready slot of
the PE's current bank (R58). Around it the step takes the turn off the cycle's list and asks for the pages that held slots wait
on. Turns are the model's own (assumption 1). -/
def Obligations.StepRunsDecoded : Prop :=
  ∀ (s : State) (tile : Nat) (ts : List Turn) (i : Instr) (f : Firing),
    s.turns = .pe tile :: ts → badSlot (postAll { s with turns := ts } tile) tile = none →
    readySlot (postAll { s with turns := ts } tile) tile (tileOf (postAll { s with turns := ts } tile) tile).bank = some (i, f) →
    decodeWord f.word = .ok i ∧ step s = exec i { postAll { s with turns := ts } tile with cur := f }

/-- Where the current bank b of a PE has no ready slot, its turn fires none: the arbiter moves to the first bank with a ready slot
in the order b + 1, b + 2, b + 3 (mod 4), or stays where no bank has one (R58). Turns are the model's own (assumption 1). -/
def Obligations.BankArbiter : Prop :=
  ∀ (s s1 : State) (tile b : Nat) (ts : List Turn), s1 = postAll { s with turns := ts } tile →
    s.turns = .pe tile :: ts → badSlot s1 tile = none → b = (tileOf s1 tile).bank → b < 4 →
    readySlot s1 tile b = none →
    (∀ k, 1 ≤ k → k < 4 → (readySlot s1 tile ((b + k) % 4)).isSome = true →
      (∀ m, 1 ≤ m → m < k → readySlot s1 tile ((b + m) % 4) = none) →
      step s = exec (.bankSwitch tile) s1 ∧
      exec (.bankSwitch tile) s1 = .next (modTile s1 tile fun t => { t with bank := (b + k) % 4 })) ∧
    ((∀ k, k < 4 → readySlot s1 tile k = none) → step s = .next s1)

/-- The slot that fires is ready, is valid, stands in the selected context, and no lower-numbered slot listed before it is ready
(R58). -/
def Obligations.LowestReadySlot : Prop :=
  ∀ (s : State) (tile bank : Nat) (i : Instr) (f : Firing), readySlot s tile bank = some (i, f) →
    peReady s i f false = true ∧ f.tile = tile ∧ f.bank = bank ∧ f.ctx = (tileOf s tile).ctx ∧ decodeWord f.word = .ok i ∧
    ∃ l r x, ctxSlots (tileOf s tile) = l ++ (f.slot, x) :: r ∧ x.trig = f.trig ∧ x.word = f.word ∧ x.lit = f.lit ∧
      ∀ n y j, (n, y) ∈ l → slotInstr y = some j → peReady s j (firingOf tile bank (tileOf s tile).ctx n y) false = false

/-- An engine's turn performs its step and is taken off the list, or, where the engine waits for a ring to take its record (R405),
is taken off the list alone; and a cycle whose turns are over passes to the next, with the package cycle counter counted up by one
(R18) and the turns of the new cycle listed. The list of turns is the model's own (assumption 1). -/
def Obligations.EngineTurnsAndCycles : Prop :=
  ∀ s : State,
    (∀ e ts, s.turns = .act e :: ts → engineWaits s e = false → step s = runEvent e { s with turns := ts }) ∧
    (∀ e ts, s.turns = .act e :: ts → engineWaits s e = true → step s = .next { s with turns := ts }) ∧
    (s.turns = [] → ∃ t, step s = .next t ∧ t.cyc = s.cyc + 1 ∧ t.inbox = [] ∧ t.turns ≠ [])

/-! ### A firing (R24, R56, R57, R73, R86, R91, R131, R135, R161 to R163) -/

/-- A slot that is not ready has no effect (R24, R56): every instruction of the opcode map leaves the state as it is. That
`exec` answers the same state there is the model's choice (assumption 11). -/
def Obligations.HeldSlotUnchanged : Prop :=
  ∀ (i : Instr) (w : BitVec 32) (s : State), encode i = some w → peReady s i s.cur false = false → exec i s = .next s

/-- A firing whose KIND test is DATA, NULL or MARK, with an ERR head at an input port that it names, has none of its effect and
traps with UNHANDLED_ERR, whose detail is the payload [63:0] of the ERR head of the lowest-numbered such port; where the KIND test
is 11, no ERR head traps (R57, R144). -/
def Obligations.ErrHeadTraps : Prop :=
  ∀ (i : Instr) (w : BitVec 32) (s : State), encode i = some w → peReady s i s.cur false = true →
    ((trTch s.cur.trig = 7 ∨ trKind s.cur.trig ≠ 3) → ∀ p h, p ∈ namedPorts i → tileHead s s.cur.tile p = some h → h.kind = .err →
      (∀ q g, q ∈ namedPorts i → q < p → tileHead s s.cur.tile q = some g → g.kind ≠ .err) →
      exec i s = .next (trapPE s s.cur 2 (h.pay.setWidth 64)))
    ∧ (trTch s.cur.trig ≤ 6 → trKind s.cur.trig = 3 → errHead s i s.cur = none)

/-- What a trap of the present firing does (R161 to R163): the tile's PE is stopped and fires in no bank, the trap that its record
will show names the cause, the detail, the slot's words, the bank's predicates and loop bit and the cycle; no bank and no other
tile is changed; and its region, where it was not already stopping, has a stop set within 64 cycles. That the predicates and the loop
bit are those at the trap is the model's choice (assumption 94), and so is the free number of cycles to the stop (assumption 20). -/
def Obligations.TrapEffect : Prop :=
  ∀ (s : State) (c : Nat) (d : W64) (t : State), t = trapPE s s.cur c d →
    (tileOf t s.cur.tile).stopped = true ∧ peRuns t s.cur.tile = false ∧ (tileOf t s.cur.tile).banks = (tileOf s s.cur.tile).banks ∧
    (∃ r, (tileOf t s.cur.tile).traps = (tileOf s s.cur.tile).traps ++ [r] ∧ r.cause = c ∧ r.detail = d ∧ r.bank = s.cur.bank ∧
      r.slot = s.cur.slot ∧ r.ctx = s.cur.ctx ∧ r.trig = s.cur.trig ∧ r.word = s.cur.word ∧ r.lit = s.cur.lit ∧
      r.preds = (curBank s).p ∧ r.loopOn = (curBank s).mlOn ∧ r.time = s.cyc) ∧
    (∀ n, n ≠ s.cur.tile → tileOf t n = tileOf s n) ∧ t.mem = s.mem ∧
    ∀ k r, (tileOf s s.cur.tile).rgn = some k → rgnOf s k = some r → ∃ r', rgnOf t k = some r' ∧
      (r.stopAt = none → ∃ x, r'.stopAt = some x ∧ s.cyc + 1 ≤ x ∧ x ≤ s.cyc + 64) ∧ (∀ x, r.stopAt = some x → r'.stopAt = some x)

/-- A firing dequeues the head of every input port that A or B names, once per port, and no other head; `peek`, `retag` and
`pos.reset` read A's head without dequeuing it, and `retag` dequeues the head of another port that B names (R91, R145, R147). -/
def Obligations.HeadsDequeued : Prop :=
  ∀ (i : Instr) (s : State) (p : Nat), p < 6 →
    (p ∈ deqPorts i → (inPortOf (started i s) (tileEp s.cur.tile p)).queue = (inPortOf s (tileEp s.cur.tile p)).queue.drop 1) ∧
    (p ∉ deqPorts i → inPortOf (started i s) (tileEp s.cur.tile p) = inPortOf s (tileEp s.cur.tile p)) ∧
    ((info i).noDeq = false → (p ∈ deqPorts i ↔
      ((info i).ua = true ∧ (opnds i).a.toNat = p) ∨ ((info i).ub = true ∧ (opnds i).b.toNat = p))) ∧
    ((info i).noDeq = true → (p ∈ deqPorts i ↔ (info i).ub = true ∧ (opnds i).b.toNat = p ∧ (opnds i).a.toNat ≠ p)) ∧
    ∀ (a b : BitVec 5) (g : BitVec 4), i = .retag a b g ∨ i = .retagD a b g → (p ∈ deqPorts i ↔ b.toNat = p ∧ a.toNat ≠ p)

/-- A result of latency 1 is written in the firing itself, to both destinations (R89, R131): a k register takes its low 64 bits, a
v register all of it, a queue register, whether DA or DB names it, gains it as its newest value. -/
def Obligations.ResultWritten : Prop :=
  ∀ (i : Instr) (s : State) (e : Eff) (b : Bank) (b0 : Bank), e.wait = .none → e.lat ≤ 1 → e.drop = false → e.quiet = false →
    e.regs = true → s.cur.bank < 4 → b = bankOf (tileOf (finished i s e) s.cur.tile) s.cur.bank →
    b0 = bankOf (tileOf e.st s.cur.tile) s.cur.bank → (info i).dst ≠ .none →
    (∀ n, n < 8 → (dsts (curBank s) i (operands i s).tag).1 = .k n → kGet b n = e.r1.2.setWidth 64) ∧
    (∀ n, n < 8 → (dsts (curBank s) i (operands i s).tag).1 = .v n → vGet b n = e.r1.2) ∧
    (∀ n, (dsts (curBank s) i (operands i s).tag).1 = .q n → qGet b n = qGet b0 n ++ [e.r1.2.setWidth 64]) ∧
    (∀ n, n < 8 → (dsts (curBank s) i (operands i s).tag).2 = .k n →
      kGet b n = (if (info i).dst = .pair then e.r2 else e.r1).2.setWidth 64) ∧
    (∀ n, n < 8 → (dsts (curBank s) i (operands i s).tag).2 = .v n →
      vGet b n = (if (info i).dst = .pair then e.r2 else e.r1).2) ∧
    (∀ n, (dsts (curBank s) i (operands i s).tag).2 = .q n →
      qGet b n = qGet b0 n ++ [(if (info i).dst = .pair then e.r2 else e.r1).2.setWidth 64])

/-- A result of a longer latency L is written at the end of cycle c + L - 1 (R131, R132): the firing writes no register, and
enters one job that holds its results, the places that DA and DB name for them (a position of the write stream reserved now, R223), its
flags and its predicate update until the step of that cycle writes them. -/
def Obligations.ResultLater : Prop :=
  ∀ (i : Instr) (s : State) (e : Eff) (t : Tile), e.wait = .none → 1 < e.lat → e.drop = false → e.after = none →
    t = tileOf (finished i s e) s.cur.tile → s.cur.bank < 4 →
    let d := if e.quiet then (Dst.none, Dst.none) else dsts (curBank s) i (operands i s).tag
    let w := lmReserve (tileOf e.st s.cur.tile).wr
    let place := fun x : Dst => match x with
      | .lm _ _ _ => Dst.lm w.1 w.2.gen (strAddr w.2.a0 w.2.a1 w.1)
      | x => if e.regs = false ∧ dstReg x = true then Dst.none else x
    (∃ j, t.jobs = (tileOf e.st s.cur.tile).jobs ++ [j] ∧ j.id = jobNo s ∧ j.bank = s.cur.bank ∧ j.due = s.cyc + e.lat - 1 ∧
      j.raise = e.raise ∧ j.wait = .none ∧ j.r1 = e.r1 ∧ j.r2 = (if (info i).dst = .pair then e.r2 else e.r1) ∧
      j.da = place d.1 ∧ j.db = place d.2 ∧
      j.pred = (if trPop s.cur.trig = 3 then some (trPsel s.cur.trig, e.flag) else none) ∧ resultDue s j = false) ∧
    (∀ n, kGet (bankOf t s.cur.bank) n = kGet (bankOf (tileOf e.st s.cur.tile) s.cur.bank) n) ∧
    (∀ n, vGet (bankOf t s.cur.bank) n = vGet (bankOf (tileOf e.st s.cur.tile) s.cur.bank) n) ∧
    (bankOf t s.cur.bank).mode = (bankOf (tileOf e.st s.cur.tile) s.cur.bank).mode

/-- RESULT_WRITE (R131, R73, R89): in the cycle that a job is due, its results are written to the registers that its destinations name;
its token in line at an output port gets its kind, tag and payload; its flags are ORed into the mode word, its predicate is updated and
the job ends; before it, nothing changes. -/
def Obligations.ResultWriteStep : Prop :=
  ∀ (s : State) (tile id : Nat) (j : Job), jobOf (tileOf s tile) id = some j → j.bank < 4 → j.id = id →
    (resultDue s j = false → exec (.resultWrite tile id) s = .next s) ∧
    (resultDue s j = true → ∃ t, exec (.resultWrite tile id) s = .next t ∧
      let b := bankOf (tileOf s tile) j.bank
      let c := bankOf (tileOf t tile) j.bank
      let known := fun (p : Nat) (x : Token) => (outPortOf t (tileEp tile p)).outq =
        (outPortOf s (tileEp tile p)).outq.map fun o => if o.job = id && o.tok.isNone then { o with tok := some x } else o
      jobOf (tileOf t tile) id = none ∧
      (∀ n, n < 8 → j.da = .k n → j.db ≠ .k n → kGet c n = j.r1.2.setWidth 64) ∧
      (∀ n, n < 8 → j.da = .v n → j.db ≠ .v n → vGet c n = j.r1.2) ∧
      (∀ n, n < 8 → j.db = .k n → kGet c n = j.r2.2.setWidth 64) ∧ (∀ n, n < 8 → j.db = .v n → vGet c n = j.r2.2) ∧
      (∀ n, j.da ≠ .k n → j.db ≠ .k n → kGet c n = kGet b n) ∧ (∀ n, j.da ≠ .v n → j.db ≠ .v n → vGet c n = vGet b n) ∧
      (∀ p g, j.da = .out p g → known p ⟨j.r1.1, g, j.r1.2⟩) ∧
      (∀ p g, j.db = .out p g → (∀ q x, j.da = .out q x → tileEp tile q ≠ tileEp tile p) → known p ⟨j.r2.1, g, j.r2.2⟩) ∧
      c.mode = modeRaise b.mode j.raise ∧ (∀ n v, n < 4 → j.pred = some (n, v) → c.p.getLsbD n = v) ∧
      ∀ n, (∀ v, j.pred ≠ some (n, v)) → c.p.getLsbD n = b.p.getLsbD n)

/-- An operation's flags are ORed into the mode word where its result is written, and no flag is ever lost by it; the word's other
bits are as before (R71, R73). -/
def Obligations.StickyFlags : Prop :=
  ∀ (i : Instr) (s : State) (e : Eff), e.wait = .none → e.lat ≤ 1 → e.drop = false → s.cur.bank < 4 →
    let m := (bankOf (tileOf e.st s.cur.tile) s.cur.bank).mode
    let n := (bankOf (tileOf (finished i s e) s.cur.tile) s.cur.bank).mode
    modeSticky n = modeSticky m ||| e.raise ∧ modeRM n = modeRM m ∧ modeFtzi n = modeFtzi m ∧ modeFtzo n = modeFtzo m ∧
      modeSat n = modeSat m ∧ (m &&& ~~~modeMask = 0 → n &&& ~~~modeMask = 0)

/-- The predicate update of a firing (R86, R135): POP 01 sets p[PSEL], 10 clears it, 11 copies the condition flag into it, after
the instruction's own effects; every other predicate is as those left it. -/
def Obligations.PredicateUpdate : Prop :=
  ∀ (i : Instr) (s : State) (e : Eff) (p : BitVec 4) (q : BitVec 4), e.wait = .none → e.lat ≤ 1 → e.drop = false →
    s.cur.bank < 4 → p = (bankOf (tileOf e.st s.cur.tile) s.cur.bank).p →
    q = (bankOf (tileOf (finished i s e) s.cur.tile) s.cur.bank).p →
    (trPop s.cur.trig = 0 → q = p) ∧ (trPop s.cur.trig = 1 → q.getLsbD (trPsel s.cur.trig) = true) ∧
    (trPop s.cur.trig = 2 → q.getLsbD (trPsel s.cur.trig) = false) ∧
    (trPop s.cur.trig = 3 → q.getLsbD (trPsel s.cur.trig) = e.flag) ∧
    ∀ n, n ≠ trPsel s.cur.trig → q.getLsbD n = p.getLsbD n

/-- A token that a firing writes to an output port is put in line there, behind those of earlier firings (R133): its kind and payload
are the result's, of the second result where DB names the port of an instruction that has two (R89), and its tag is that of the firing's
tag action (R92). An output port that the firing does not write is as before. -/
def Obligations.TokensInLine : Prop :=
  ∀ (i : Instr) (s : State) (e : Eff) (j : Nat), j < 5 → e.quiet = false → e.drop = false → e.wait = .none → e.lat ≤ 1 →
    (info i).dst ≠ .none →
    (j ∈ outPorts i → (outPortOf (finished i s e) (tileEp s.cur.tile j)).outq.map (·.job) =
      (outPortOf e.st (tileEp s.cur.tile j)).outq.map (·.job) ++ [jobNo s] ∧
      let r := if (opnds i).d.toNat = j then e.r1 else if (info i).dst = .pair then e.r2 else e.r1
      (outPortOf (finished i s e) (tileEp s.cur.tile j)).outq.getLast?.map (fun o => (o.job, o.tok)) =
        some (jobNo s, some ⟨r.1, (operands i s).tag, r.2⟩)) ∧
    (j ∉ outPorts i → outPortOf (finished i s e) (tileEp s.cur.tile j) = outPortOf e.st (tileEp s.cur.tile j))

/-! ### Frames -/

/-- What a control-plane computation leaves alone: every other tile and everything beyond tiles, ports, channels, regions and
partitions; every byte of every memory; the tile's accumulator, panels, streams, handles, bindings and context store; the other
banks; and of its bank all that `BankFrame` says: a firing writes its destinations, pops and pushes the queue registers it names,
ORs flags into the mode word and updates the predicate of its trigger word, and nothing else (R54, R89, R91, R130). -/
def Obligations.ControlFrame : Prop :=
  ∀ (i : Instr) (s t : State), onlyControl i = true → exec i s = .next t →
    SameBeyond s.cur.tile s t ∧ SameMemory s t ∧ SameTileStores (tileOf s s.cur.tile) (tileOf t s.cur.tile) ∧
    (∀ b, b ≠ s.cur.bank → bankOf (tileOf t s.cur.tile) b = bankOf (tileOf s s.cur.tile) b) ∧ BankFrame i s t

/-- What the firing of a vector instruction leaves alone (R165 to R169, R131): every other tile, every byte of every memory, the
other banks, and of its bank everything but the predicate that the trigger word sets or clears and the loop counter: its results come
later. -/
def Obligations.VectorFrame : Prop :=
  ∀ (i : Instr) (s t : State), onlyVector i = true → exec i s = .next t →
    SameBeyond s.cur.tile s t ∧ SameMemory s t ∧ (tileOf t s.cur.tile).acc = (tileOf s s.cur.tile).acc ∧
    (∀ b, b ≠ s.cur.bank → bankOf (tileOf t s.cur.tile) b = bankOf (tileOf s s.cur.tile) b) ∧
    ∃ p l, bankOf (tileOf t s.cur.tile) s.cur.bank = { curBank s with p := p, lc := l } ∧
      (trPop s.cur.trig = 0 ∨ trPop s.cur.trig = 3 → p = (curBank s).p) ∧
      (∀ n, n ≠ trPsel s.cur.trig → p.getLsbD n = (curBank s).p.getLsbD n) ∧ ((curBank s).mlOn = false → l = (curBank s).lc)

/-! ### Memory -/

/-- `lm.st` stores the eight bytes of A at the 64-bit word of local memory that B names, in the cycle after its firing (R225, R217):
the firing enters the store at its tile, behind those of earlier firings, and every byte of every memory of the part reads as before;
the passage to the next cycle performs the tile's stores in firing order, so that the last one's bytes stand at its address, and every
byte outside the words stored reads as before. The address is `lmAddr` of `lmWord8` of B, as the tile computes it. -/
def Obligations.LocalStore : Prop :=
  (∀ (s : State) (a b : BitVec 5) (g : BitVec 4),
    (Fires (.lmSt a b g) s → ∃ t, exec (.lmSt a b g) s = .next t ∧ (tileOf t s.cur.tile).lmsts =
      (tileOf s s.cur.tile).lmsts ++ [((operands (.lmSt a b g) s).kb.toNat, (operands (.lmSt a b g) s).ka)]) ∧
    ∀ t, exec (.lmSt a b g) s = .next t → SameMemory s t) ∧
  ∀ (s : State) (n : Nat) (u : Tile) (l : List (Nat × W64)) (b v : W64), memWf u.lm = true → u.lmsts = l ++ [(b.toNat, v)] →
    (tileTick s n u).lmsts = [] ∧ bytesGet (tileTick s n u).lm (lmAddr u (lmWord8 b)) 8 = v.toNat ∧
    ∀ c, (∀ e ∈ u.lmsts, let x := lmAddr u (lmWord8 (BitVec.ofNat 64 e.1)); c < x ∨ x + 8 ≤ c) →
      byteGet (tileTick s n u).lm c = byteGet u.lm c

/-- A PE's store performed at its home in the part's memory, with the race checker off (R295, R301): the bytes that its mask marks
take the store's data, byte k at the address plus k; every other byte of every memory reads as before; and the access is done.
Whoever makes an access, whatever its home (the part's memory, a memory tile, a compute tile's local memory) and whether the race checker
is off or finds nothing that stops it (R316, R323): where no word with an uncorrectable error is touched, the bytes at its home become
those that its operation leaves (R295, R305), and every other byte of every memory is as the check left it, but for the metadata that a
running checker keeps in its carve-outs (R317). An access that the race checker stops changes no byte. How an access is performed
touches no memory beyond that. -/
def Obligations.StorePerformed : Prop :=
  (∀ (s : State) (id tile bank pa : Nat) (m : BitVec 128) (a : Acc), memWf s.mem = true → accOf s id = some a →
    accReady s a = true → a.op = .write m → a.loc = .phys pa → a.ring = none → a.toward = .none → a.agent = .bank tile bank → a.ok = true →
    (partOf s a.part).raceMode = 0 → badWords s a.loc a.size = [] →
    ∃ t, exec (.accessPerform id) s = .next t ∧ accOf t id = none ∧
      (∀ k, k < a.size → byteGet t.mem (pa + k) =
        if m.getLsbD k then BitVec.ofNat 8 (a.data.toNat / 256 ^ k) else byteGet s.mem (pa + k)) ∧
      (∀ c, c < pa ∨ pa + a.size ≤ c → byteGet t.mem c = byteGet s.mem c) ∧
      (∀ n c, byteGet (tileOf t n).lm c = byteGet (tileOf s n).lm c) ∧
      ∀ n c, byteGet (mtileOf t n).mem c = byteGet (mtileOf s n).mem c) ∧
  (∀ (s : State) (a : Acc), (∀ n ch, a.toward ≠ .bte n ch) → SameMemory (homeAccess s a).1 (performAcc s a)) ∧
  ∀ (s : State) (a : Acc), a.ring = none →
    let s1 := match a.acq with
      | some sc => clkAcquire s a.part a.holder (lineObj a.loc) sc (agentPlace a.agent) (some (locPlace a.loc))
      | none => s
    let u := (raceCheck s1 a).1
    let t := (homeAccess s a).1
    (∀ r, (raceCheck s1 a).2 = some r → (homeAccess s a).2.ok = false ∧ (homeAccess s a).2.cause = 0xF01 ∧ SameMemory s t) ∧
    ((raceCheck s1 a).2 = none → Legal u → badWords u a.loc a.size = [] →
      (∀ pa k, a.loc = .phys pa → k < a.size → offCarve s a.part (pa + k)) →
      let new := accNew a.op a.size (locGet u a.loc a.size) a.data.toNat
      (homeAccess s a).2.done = true ∧ (homeAccess s a).2.ok = a.ok ∧
      (∀ x m k, new = some (x, m) → (∀ p y, a.loc ≠ .remote p y) → k < a.size →
        homeByte t a.loc k = if m.testBit k then BitVec.ofNat 8 (x / 256 ^ k) else homeByte u a.loc k) ∧
      (∀ k, new = none → k < a.size → homeByte t a.loc k = homeByte u a.loc k) ∧
      (∀ c, offCarve s a.part c → (∀ pa, a.loc = .phys pa → c < pa ∨ pa + a.size ≤ c) → byteGet t.mem c = byteGet u.mem c) ∧
      (∀ n c, (∀ o, a.loc = .mtile n o → c < mtAddr (mtileOf s n) o ∨ mtAddr (mtileOf s n) o + a.size ≤ c) →
        byteGet (mtileOf t n).mem c = byteGet (mtileOf u n).mem c) ∧
      ∀ n c, (∀ o, a.loc = .lm n o → c < lmAddr (tileOf s n) o ∨ lmAddr (tileOf s n) o + a.size ≤ c) →
        byteGet (tileOf t n).lm c = byteGet (tileOf u n).lm c)

/-- A PE's load performed at its home in the part's memory, with the race checker off (R301): it takes the bytes that stand there,
lowest address first, and changes no byte of any memory. Whatever its home, and with the race checker off or finding nothing that stops
it, an access takes the bytes that stand at its home (R295, R301), and a write takes the value before it, as an atomic gives it (R305). -/
def Obligations.LoadPerformed : Prop :=
  (∀ (s : State) (id tile bank pa job : Nat) (a : Acc), accOf s id = some a → accReady s a = true → a.op = .read →
    a.loc = .phys pa → a.ring = none → a.toward = .job tile job → a.agent = .bank tile bank → a.ok = true →
    (partOf s a.part).raceMode = 0 → badWords s a.loc a.size = [] →
    ∃ t b, exec (.accessPerform id) s = .next t ∧ accOf t id = some b ∧ b.done = true ∧ b.ok = true ∧
      b.val = BitVec.ofNat 1024 (bytesGet s.mem pa a.size) ∧ SameMemory s t) ∧
  ∀ (s : State) (a : Acc), a.ring = none → a.acq = none → (raceCheck s a).2 = none → (raceCheck s a).1 = s → badWords s a.loc a.size = [] →
    memWf s.mem = true → (∀ pa k, a.loc = .phys pa → k < a.size → offCarve s a.part (pa + k)) →
    (homeAccess s a).2.val = BitVec.ofNat 1024 (locGet s a.loc a.size) ∧ (homeAccess s a).2.done = true ∧ (homeAccess s a).2.ok = a.ok ∧
    (∀ pa, a.loc = .phys pa → locGet s a.loc a.size = bytesGet s.mem pa a.size) ∧
    (∀ m o, a.loc = .mtile m o → locGet s a.loc a.size = bytesGet (mtileOf s m).mem (mtAddr (mtileOf s m) o) a.size) ∧
    ∀ n o, a.loc = .lm n o → locGet s a.loc a.size = bytesGet (tileOf s n).lm (lmAddr (tileOf s n) o) a.size

/-- The new memory value of each atomic on a word of 4 or 8 bytes, with m the old value and b the operand, both below 2 to the
word's bits (R305): the sum modulo 2 to the word's bits; the IEEE sum in the word's format, rounded to nearest even; the lesser and the
greater, unsigned or signed; and, or and exclusive or; the operand. `amo.cas` writes the operand where the old value is the expected
one, and otherwise writes nothing. -/
def Obligations.AtomicValues : Prop :=
  ∀ (n m b : Nat), n = 4 ∨ n = 8 → m < 2 ^ (8 * n) → b < 2 ^ (8 * n) →
    (∀ g, amoNew 0 g n m b = (m + b) % 2 ^ (8 * n)) ∧
    (∀ g, let f := if n = 4 then Fmt.f32 else Fmt.f64
          let v := (faddV 0 (fval f m) (fval f b)).1
          amoNew 1 g n m b = (fout false v.1 v.2 f 0).1) ∧
    (∀ e : W64, e.toNat < 2 ^ (8 * n) → (m = e.toNat → accNew (.cas e) n m b = some (b, 2 ^ n - 1)) ∧
      (m ≠ e.toNat → accNew (.cas e) n m b = none)) ∧
    (∀ k g, accNew (.amo k g) n m b = some (amoNew k g n m b, 2 ^ n - 1)) ∧
    amoNew 2 false n m b = min m b ∧ amoNew 3 false n m b = max m b ∧
    (sxN (amoNew 2 true n m b) (8 * n) = min (sxN m (8 * n)) (sxN b (8 * n))) ∧
    (sxN (amoNew 3 true n m b) (8 * n) = max (sxN m (8 * n)) (sxN b (8 * n))) ∧
    (∀ g k, (amoNew 4 g n m b).testBit k = (m.testBit k && b.testBit k) ∧ (amoNew 5 g n m b).testBit k = (m.testBit k || b.testBit k) ∧
      (amoNew 6 g n m b).testBit k = (m.testBit k ^^ b.testBit k)) ∧ ∀ g, amoNew 7 g n m b = b

/-! ### Reset and invariants -/

/-- Right after reset: nothing has booted, no turn is pending, the package cycle counter is 0 (R18), memory lists nothing, and what
every bank, tile and memory always hold holds. The values of registers and memory that the spec leaves open at reset are the
model's (assumptions 7 and 9). -/
def Obligations.ResetLegal : Prop :=
  Legal State.reset ∧ State.reset.cyc = 0 ∧ State.reset.host.booted = false ∧ State.reset.turns = [] ∧ State.reset.mem = []

/-- Every instruction of the opcode map, and the step of a PE's turn whatever its slots hold, keep what every bank, tile and memory always
hold: the mode word's reserved bits read as zero (R71), queue depths stay 1 to 16 and the maintenance loop stays in its ring (R130), and
every memory of the part (HBM and host memory, each tile's local memory, each memory tile's, shadows and save images among them) keeps its
canonical form. -/
def Obligations.InstructionsKeepLegal : Prop :=
  (∀ (i : Instr) (w : BitVec 32) (s t : State), encode i = some w → Legal s → exec i s = .next t → Legal t) ∧
  ∀ (s t : State) (tile : Nat) (ts : List Turn), s.turns = .pe tile :: ts → Legal s → step s = .next t → Legal t

/-- Every step of the machine keeps what every bank, tile and memory always hold, from any state in which they hold it: the turn of a PE
or of an engine, an input from outside, and the passage to the next cycle. -/
def Obligations.StepKeepsLegal : Prop :=
  ∀ s t : State, Legal s → step s = .next t → Legal t

/-! ### What each instruction does: control plane -/

/-- Group 0 (R136): the exact sum, difference, product, quotient or remainder of the operands read in the instruction's type,
wrapped or, under SAT = 1, saturated (R78), extended to 64 bits; the flag, and the sticky flags.
That `rem` raises what its `idiv` raises is read from R78 and R136 together (assumption 38). -/
def Obligations.IntegerArithmetic : Prop :=
  ∀ (s : State) (y : BitVec 3) (a b : BitVec 5) (d e g : BitVec 4),
    let w := t8Width y
    let sg := t8Signed y
    let x := fun o : Opnd => intOf sg o.ka.toNat w
    let z := fun o : Opnd => intOf sg o.kb.toNat w
    let wrapped := fun (o : Opnd) (t : Int) =>
      AluRes.mk (ext64 sg (ires (modeSat o.mode) t w sg).1 w) (decide (t < intLo sg w) || decide (intHi sg w < t))
        (ires (modeSat o.mode) t w sg).2
    AluGives (.add y a b d e g) s (fun o => wrapped o (x o + z o)) ∧
    AluGives (.sub y a b d e g) s (fun o => wrapped o (x o - z o)) ∧
    AluGives (.mulLo y a b d e g) s (fun o => wrapped o (x o * z o)) ∧
    AluGives (.mulHi y a b d e g) s (fun o => ⟨ext64 sg (wrapN (x o * z o / 2 ^ w) w) w,
      decide (x o * z o < intLo sg w) || decide (intHi sg w < x o * z o), raiseNone⟩) ∧
    AluGives (.div y a b d e g) s (fun o =>
      if z o = 0 then ⟨ext64 sg (2 ^ w - 1) w, true, raiseDZ⟩
      else if sg && x o == intLo true w && z o == -1 then
        ⟨ext64 sg (ires (modeSat o.mode) (2 ^ (w - 1)) w true).1 w, true, (ires (modeSat o.mode) (2 ^ (w - 1)) w true).2⟩
      else ⟨ext64 sg (wrapN ((x o).tdiv (z o)) w) w, false, raiseNone⟩) ∧
    AluGives (.rem y a b d e g) s (fun o =>
      if z o = 0 then ⟨ext64 sg o.ka.toNat w, true, raiseDZ⟩
      else if sg && x o == intLo true w && z o == -1 then ⟨0, false, (ires (modeSat o.mode) (2 ^ (w - 1)) w true).2⟩
      else ⟨ext64 sg (wrapN ((x o).tmod (z o)) w) w, false, raiseNone⟩) ∧
    AluGives (.min y a b d e g) s (fun o => ⟨ext64 sg (if x o ≤ z o then o.ka.toNat else o.kb.toNat) w, decide (x o ≤ z o), raiseNone⟩) ∧
    AluGives (.max y a b d e g) s (fun o => ⟨ext64 sg (if z o ≤ x o then o.ka.toNat else o.kb.toNat) w, decide (z o ≤ x o), raiseNone⟩)

/-- Compares (R137), absolute value and negation (R138), and `sel` (R139). -/
def Obligations.CompareNegateSelect : Prop :=
  ∀ (s : State) (y : BitVec 2) (a b : BitVec 5) (d e g : BitVec 4),
    let w := if y.toNat % 2 = 0 then 32 else 64
    let x := fun o : Opnd => intOf (decide (y.toNat < 2)) o.ka.toNat w
    let z := fun o : Opnd => intOf (decide (y.toNat < 2)) o.kb.toNat w
    let one := fun c : Bool => AluRes.mk (if c then 1 else 0) c raiseNone
    let v := 8 * 2 ^ y.toNat
    let signed := fun (o : Opnd) (t : Int) =>
      AluRes.mk (ext64 true (ires (modeSat o.mode) t v true).1 v) (decide (2 ^ (v - 1) - 1 < t)) (ires (modeSat o.mode) t v true).2
    AluGives (.cmpEq y a b d e g) s (fun o => one (decide (x o = z o))) ∧
    AluGives (.cmpNe y a b d e g) s (fun o => one (decide (x o ≠ z o))) ∧
    AluGives (.cmpLt y a b d e g) s (fun o => one (decide (x o < z o))) ∧
    AluGives (.cmpLe y a b d e g) s (fun o => one (decide (x o ≤ z o))) ∧
    AluGives (.abs y a d e g) s (fun o => signed o |sxN o.ka.toNat v|) ∧
    AluGives (.neg y a d e g) s (fun o => signed o (-sxN o.ka.toNat v)) ∧
    AluGives (.sel a b d e g) s (fun o => ⟨if o.p.getLsbD (trPsel s.cur.trig) then o.ka else o.kb, o.p.getLsbD (trPsel s.cur.trig),
      raiseNone⟩)

/-- The logic, shift and bit instructions (R140): each result as its row of the table gives it, on the numbers that the operands
hold; the flag is d ≠ 0, but A = 0 for `clz` and `ctz`; no sticky flag. -/
def Obligations.LogicAndBits : Prop :=
  ∀ (s : State) (a b : BitVec 5) (d e g : BitVec 4),
    let n := fun o : Opnd => o.kb.toNat % 64
    let wid := fun (x : W64) => min (x.toNat / 256 % 64 + 1) (64 - x.toNat % 64)
    let res := fun x : W64 => AluRes.mk x (x != 0) raiseNone
    AluGives (.and a b d e g) s (fun o => res (o.ka &&& o.kb)) ∧ AluGives (.or a b d e g) s (fun o => res (o.ka ||| o.kb)) ∧
    AluGives (.xor a b d e g) s (fun o => res (o.ka ^^^ o.kb)) ∧ AluGives (.andn a b d e g) s (fun o => res (o.ka &&& ~~~o.kb)) ∧
    AluGives (.not a d e g) s (fun o => res (~~~o.ka)) ∧
    AluGives (.shl a b d e g) s (fun o => res (BitVec.ofNat 64 (o.ka.toNat * 2 ^ n o))) ∧
    AluGives (.shr a b d e g) s (fun o => res (BitVec.ofNat 64 (o.ka.toNat / 2 ^ n o))) ∧
    AluGives (.sar a b d e g) s (fun o => res (BitVec.ofInt 64 (o.ka.toInt / 2 ^ n o))) ∧
    AluGives (.rol a b d e g) s (fun o => res (BitVec.ofNat 64 (o.ka.toNat * 2 ^ n o + o.ka.toNat / 2 ^ (64 - n o)))) ∧
    AluGives (.ror a b d e g) s (fun o => res (BitVec.ofNat 64 (o.ka.toNat / 2 ^ n o + o.ka.toNat * 2 ^ (64 - n o)))) ∧
    AluGives (.extr a b d e g) s (fun o => res (BitVec.ofNat 64 (o.ka.toNat / 2 ^ n o % 2 ^ wid o.kb))) ∧
    AluGives (.extrS a b d e g) s (fun o => res (BitVec.ofInt 64 (sxN (o.ka.toNat / 2 ^ n o) (wid o.kb)))) ∧
    AluGives (.ins a b d e g) s (fun o =>
      let k := o.lit.toNat % 64
      res (BitVec.ofNat 64 (o.ka.toNat % 2 ^ k + o.kb.toNat % 2 ^ wid o.lit * 2 ^ k
        + o.ka.toNat / 2 ^ (k + wid o.lit) * 2 ^ (k + wid o.lit)))) ∧
    AluGives (.popc a d e g) s (fun o => res (BitVec.ofNat 64 ((List.range 64).countP fun i => o.ka.getLsbD i))) ∧
    AluGives (.clz a d e g) s (fun o => ⟨BitVec.ofNat 64 (63 - Nat.log2 o.ka.toNat + if o.ka = 0 then 1 else 0), o.ka == 0, raiseNone⟩) ∧
    AluGives (.ctz a d e g) s (fun o =>
      ⟨BitVec.ofNat 64 (((List.range 64).find? fun i => o.ka.getLsbD i).getD 64), o.ka == 0, raiseNone⟩) ∧
    AluGives (.bswap a d e g) s (fun o => res (BitVec.ofNat 64
      ((List.range 8).foldl (fun x i => x * 256 + o.ka.toNat / 256 ^ i % 256) 0)))

/-- Predicates (R141, R142): `pset` writes those that B marks from A, at the end of the firing; `pget` gives all four as a number;
the others give their flag. -/
def Obligations.Predicates : Prop :=
  ∀ (s : State) (a b : BitVec 5) (d e g : BitVec 4),
    (∃ p : BitVec 4, Changes (.pset a b g) s (bankDone (.pset a b g) s fun x => { x with p := p }) false ∧
      ∀ i, i < 4 → p.getLsbD i = if (operands (.pset a b g) s).kb.getLsbD i then (operands (.pset a b g) s).ka.getLsbD i
        else (curBank s).p.getLsbD i) ∧
    Writes (.pget d e g) s (dataR (BitVec.ofNat 64 (curBank s).p.toNat)) ((curBank s).p != 0) ∧
    (let p := fun i : Nat => (curBank s).p.getLsbD i
     let x := s.cur.lit.toNat % 4
     let y := s.cur.lit.toNat / 256 % 4
     Changes (.pand g) s (started (.pand g) s) (p x && p y) ∧ Changes (.por g) s (started (.por g) s) (p x || p y) ∧
     Changes (.pxor g) s (started (.pxor g) s) (p x != p y) ∧ Changes (.pnot g) s (started (.pnot g) s) (!p x))

/-- The token instructions on both planes (R145 to R147): what each writes, with its kind, and its flag; `retag` replaces the tag of
A's head by that of its tag action, and `pos.reset` clears the port's count. -/
def Obligations.TokenInstructions : Prop :=
  ∀ (s : State) (a b : BitVec 5) (d e g : BitVec 4),
    let took := fun i : Instr => Writes i s (.data, (operands i s).a) ((operands i s).ha.any fun h => h.kind == .data)
    let passed := fun i : Instr => Writes i s (((operands i s).ha.map (·.kind)).getD .data, (operands i s).a)
      ((operands i s).ha.any fun h => h.kind == .data)
    let null := fun i : Instr => Writes i s (.null, 0) false
    let mark := fun i : Instr => Writes i s (if (operands i s).ka.toNat % 8 = 0
      then (.err, BitVec.ofNat 512 (4 + (operands i s).ka.toNat % 2 ^ 48 * 2 ^ 16))
      else (.mark, BitVec.ofNat 512 ((operands i s).ka.toNat % 8))) false
    let err := fun i : Instr => Writes i s (.err, (operands i s).ka.setWidth 512) false
    let port := fun i : Instr => inPortOf (started i s) (tileEp s.cur.tile a.toNat)
    let tagged := fun i : Instr => Changes i s (setInPort (started i s) (tileEp s.cur.tile a.toNat) (retagPort (port i)
      (tagRes g (((operands i s).ha.map (·.tag)).getD 0) ((operands i s).b.setWidth 4) (s.cur.lit.setWidth 4)))) false
    let cleared := fun i : Instr =>
      Changes i s (setInPort (started i s) (tileEp s.cur.tile a.toNat) { port i with hpos := 0 }) false
    took (.deq a d e g) ∧ took (.peek a d e g) ∧ passed (.fwd a d e g) ∧ null (.emitNull d e g) ∧ mark (.emitMark a d e g) ∧
    err (.emitErr a d e g) ∧ tagged (.retag a b g) ∧ cleared (.posReset a g) ∧
    took (.deqD a d e g) ∧ took (.peekD a d e g) ∧ passed (.fwdD a d e g) ∧ null (.emitNullD d e g) ∧ mark (.emitMarkD a d e g) ∧
    err (.emitErrD a d e g) ∧ tagged (.retagD a b g) ∧ cleared (.posResetD a g)

/-- Delay lines (R148): the stage that the index numbers is read or replaced, with flag 1; beyond the stages that hold a value
nothing is read or changed, with flag 0. Queue registers (R150), the mode word (R151), and the switch-element index (R152). -/
def Obligations.LinesQueuesMode : Prop :=
  ∀ (s : State) (a b : BitVec 5) (d e g : BitVec 4),
    let line := fun i : Instr => ((lineOf (started i s) s.cur).map fun c => c.2.line).getD []
    let get := fun i : Instr => Writes i s (.data, ((line i)[(operands i s).ka.toNat]?).getD 0)
      (decide ((operands i s).ka.toNat < (line i).length))
    let put := fun i : Instr =>
      (∀ k c, lineOf (started i s) s.cur = some (k, c) → (operands i s).kb.toNat < c.line.length →
        Changes i s (setChan (started i s) k { c with line := c.line.set (operands i s).kb.toNat (operands i s).a }) true) ∧
      ((line i).length ≤ (operands i s).kb.toNat → Changes i s (started i s) false)
    let q := fun i : Instr => qGet (bankOf (tileOf (started i s) s.cur.tile) s.cur.bank) (a.toNat - 14)
    let mode := fun (i : Instr) (x : W64) => Changes i s (bankDone i s fun v => { v with mode := x &&& 0x3F1F }) false
    get (.dlGet a d e g) ∧ get (.dlGetD a d e g) ∧ put (.dlPut a b g) ∧ put (.dlPutD a b g) ∧
    Writes (.qCnt a d e g) s (dataR (BitVec.ofNat 64 (q (.qCnt a d e g)).length)) (!(q (.qCnt a d e g)).isEmpty) ∧
    Changes (.qClr a g) s (bankDone (.qClr a g) s fun v => qSet v (a.toNat - 14) []) false ∧
    (1 ≤ (operands (.qDepth a b g) s).kb.toNat → (operands (.qDepth a b g) s).kb.toNat ≤ 16 → Changes (.qDepth a b g) s
      (bankDone (.qDepth a b g) s fun v => setDepth v (a.toNat - 14) (operands (.qDepth a b g) s).kb.toNat) true) ∧
    ((operands (.qDepth a b g) s).kb.toNat = 0 ∨ 16 < (operands (.qDepth a b g) s).kb.toNat →
      Changes (.qDepth a b g) s (started (.qDepth a b g) s) false) ∧
    Writes (.modeRd d e g) s (dataR (curBank s).mode) ((curBank s).mode.extractLsb' 8 6 != 0) ∧
    mode (.modeWr a g) (operands (.modeWr a g) s).ka ∧
    mode (.modeSet a g) ((curBank s).mode ||| (operands (.modeSet a g) s).ka) ∧
    mode (.modeClr a g) ((curBank s).mode &&& ~~~(operands (.modeClr a g) s).ka) ∧
    (let i := Instr.swIdx a b d e g
     Writes i s (dataR ((operands i s).ka + (operands i s).kb))
       (decide (((operands i s).ka + (operands i s).kb).toNat < swPorts (started i s) (tileEp s.cur.tile d.toNat))))

/-- The maintenance loop (R154), the movers between the planes (R153) and the system instructions (R156 to R160, R423). `trap`
completes its firing and then traps with cause PROGRAM and A as its detail. -/
def Obligations.SystemInstructions : Prop :=
  ∀ (s : State) (a b : BitVec 5) (d e g : BitVec 4),
    let maint := fun i : Instr => ((tileRgn (started i s) s.cur.tile).map fun r => r.2.maint).getD false
    let bk := fun i : Instr => bankOf (tileOf (started i s) s.cur.tile) s.cur.bank
    (let i := Instr.mlOn a b g
     let n := (operands i s).ka.toNat
     (maint i = true → 1 ≤ n → n ≤ 8 →
       Changes i s (bankDone i s fun v => { v with rs := n, lc := (operands i s).kb.toNat % n, mlOn := true }) true) ∧
     (maint i = true → n = 0 ∨ 8 < n → Changes i s (started i s) (bk i).mlOn) ∧ (maint i = false → TrapsWith i s 3 0)) ∧
    Changes (.mlOff g) s (bankDone (.mlOff g) s fun v => { v with mlOn := false }) false ∧
    Writes (.mlRd d e g) s (dataR (BitVec.ofNat 64 ((bk (.mlRd d e g)).mlOn.toNat * 2 ^ 16 + (bk (.mlRd d e g)).rs * 2 ^ 8
      + (bk (.mlRd d e g)).lc))) (bk (.mlRd d e g)).mlOn ∧
    (let i := Instr.rep a d e g
     Completes i s { st := started i s, r1 := (.data, rep8 (operands i s).ka), lat := 2 }) ∧
    (let i := Instr.ext a b d e g
     Completes i s { st := started i s, r1 := dataR ((operands i s).a.extractLsb' (64 * ((operands i s).kb.toNat % 8)) 64),
                     flag := decide ((operands i s).kb.toNat < 8), lat := 2 }) ∧
    (let i := Instr.trap a g
     Completes i s { st := started i s, after := some (1, (operands i s).ka) }) ∧
    Changes (.yield g) s (tileDone (.yield g) s fun u => { u with yielded := some (s.cur.bank, s.cyc + 1) }) false ∧
    (let i := Instr.cfgSel a g
     Changes i s (tileDone i s fun u => { u with ctx := (operands i s).ka.toNat % 4, resume := s.cyc + 3 }) false) ∧
    (let i := Instr.rgnStat a d e g
     let v := (tileRgn (started i s) s.cur.tile).bind fun r =>
       rgnValue r.2 (tileOf (started i s) s.cur.tile) (operands i s).ka.toNat
     Writes i s (dataR (v.getD 0)) v.isSome) ∧
    (let i := Instr.dbgBrk a g
     (∀ k r, tileRgn (started i s) s.cur.tile = some (k, r) → (partOf (started i s) r.part).traceCtl.getLsbD 2 = true →
       Changes i s (startHalt (started i s) k 1 (operands i s).ka (trapElem s.cur.tile s.cur.bank s.cur.slot s.cur.ctx)) false) ∧
     (∀ k r, tileRgn (started i s) s.cur.tile = some (k, r) → (partOf (started i s) r.part).traceCtl.getLsbD 2 = false →
       Changes i s (started i s) false)) ∧
    Changes (.nop g) s (started (.nop g) s) false

/-! ### What each instruction does: vector unit -/

/-- Heads that are not all DATA (R166), for the vector unit, `compress.n32`, the memory instructions of group 12, `launch`, `launch.try` and
`xd.dispatch` (R191, R300, R342, R394), which all but the matrix instructions take: the firing computes nothing, makes no access and sends
nothing, raises no mode flag, writes no register and its flag is 0; the token written is the ERR head of A or else of B, else a MARK of the
highest rank, else NULL. -/
def Obligations.VectorSkip : Prop :=
  (∀ i : Instr, onlyVector i = true → (info i).skip = true ∧ isMatrix i = false) ∧
  (∀ (sc : BitVec 2) (a b : BitVec 5) (d e g : BitVec 4),
    [Instr.compressN32 a b d e g, .ld a d e g, .ldAcq sc a d e g, .st a b g, .stRel sc a b g, .amoAdd sc a b d e g, .amoFadd sc a b d e g,
     .amoMin sc a b d e g, .amoMax sc a b d e g, .amoAnd sc a b d e g, .amoOr sc a b d e g, .amoXor sc a b d e g, .amoExch sc a b d e g,
     .amoCas sc a b d e g, .launch a d e g, .launchTry a d e g, .xdDispatch a b d e g].all
      (fun i => (info i).skip && !isMatrix i) = true) ∧
  ∀ (i : Instr) (s : State), (info i).skip = true → isMatrix i = false →
    (∀ t, skipToken i (operands i s) = some t → Completes i s
      { st := started i s, r1 := (t.kind, t.pay), r2 := (t.kind, t.pay), lat := (info i).lat, regs := false }) ∧
    (skipToken i (operands i s) = none ↔
      ∀ h, (operands i s).ha = some h ∨ (operands i s).hb = some h → h.kind = .data) ∧
    (∀ h, (operands i s).ha = some h → h.kind = .err → skipToken i (operands i s) = some h) ∧
    (∀ h, (operands i s).hb = some h → h.kind = .err → (∀ g, (operands i s).ha = some g → g.kind ≠ .err) →
      skipToken i (operands i s) = some h) ∧
    (∀ t, skipToken i (operands i s) = some t → t.kind = .err ∨
      (t.kind = .mark ∧ (∀ h, (operands i s).ha = some h ∨ (operands i s).hb = some h → h.kind = .mark → markRank h ≤ markRank t) ∧
        ∃ h, ((operands i s).ha = some h ∨ (operands i s).hb = some h) ∧ h.kind = .mark) ∨
      (t.kind = .null ∧ t.pay = 0 ∧ ∀ h, (operands i s).ha = some h ∨ (operands i s).hb = some h → h.kind ≠ .mark))

/-- Groups 4 to 6 (R172 to R179): each instruction completes with the lane-wise result of its entry, in the format of its group,
under the mode-word fields of its firing, at its latency. -/
def Obligations.FloatInstructions : Prop :=
  ∀ (s : State) (y : BitVec 2) (a b : BitVec 5) (d e g : BitVec 4),
    let f := gFmt y
    let c := vGet (curBank s) (d.toNat - 6)
    let m := fun o : Opnd => fmode o.mode
    VecGives (.fadd y a b d e g) s (fun o => vFadd f (m o) o.a o.b) ∧ VecGives (.fsub y a b d e g) s (fun o => vFsub f (m o) o.a o.b) ∧
    VecGives (.fmul y a b d e g) s (fun o => vFmul f (m o) o.a o.b) ∧ VecGives (.fdiv y a b d e g) s (fun o => vFdiv f (m o) o.a o.b) ∧
    VecGives (.fma y a b d e g) s (fun o => vFused false false f (m o) o.a o.b c) ∧
    VecGives (.fms y a b d e g) s (fun o => vFused false true f (m o) o.a o.b c) ∧
    VecGives (.fnma y a b d e g) s (fun o => vFused true false f (m o) o.a o.b c) ∧
    VecGives (.fmin y a b d e g) s (fun o => vFmin f (m o) o.a o.b) ∧ VecGives (.fmax y a b d e g) s (fun o => vFmax f (m o) o.a o.b) ∧
    VecGives (.fabs y a d e g) s (fun o => vFabs f (m o) o.a) ∧ VecGives (.fneg y a d e g) s (fun o => vFneg f (m o) o.a) ∧
    VecGives (.fcmpEq y a b d e g) s (fun o => vFcmp fvEq false f (m o) o.a o.b) ∧
    VecGives (.fcmpLt y a b d e g) s (fun o => vFcmp fvLt true f (m o) o.a o.b) ∧
    VecGives (.fcmpLe y a b d e g) s (fun o => vFcmp fvLe true f (m o) o.a o.b) ∧
    VecGives (.fcmpUn y a b d e g) s (fun o => vFcmp fvUn false f (m o) o.a o.b) ∧
    VecGives (.fclass y a d e g) s (fun o => vFclass f (m o) o.a) ∧ VecGives (.fsqrt y a d e g) s (fun o => vFsqrt f (m o) o.a) ∧
    VecGives (.frcpe y a d e g) s (fun o => vFrcpe f (m o) o.a)

/-- Groups 7 and 8, integer lanes (R180 to R182): each instruction completes with the lane-wise result of its entry. -/
def Obligations.LaneInstructions : Prop :=
  ∀ (s : State) (y : BitVec 3) (w : BitVec 2) (a b : BitVec 5) (d e g : BitVec 4),
    VecGives (.vadd y a b d e g) s (fun o => vIntWrap (fun p q => p + q) y (modeSat o.mode) o.a o.b) ∧
    VecGives (.vsub y a b d e g) s (fun o => vIntWrap (fun p q => p - q) y (modeSat o.mode) o.a o.b) ∧
    VecGives (.vmul y a b d e g) s (fun o => vIntWrap (fun p q => p * q) y (modeSat o.mode) o.a o.b) ∧
    VecGives (.vmulh y a b d e g) s (fun o => vMulh y o.a o.b) ∧
    VecGives (.vmin y a b d e g) s (fun o => vPick (fun p q => decide (p ≤ q)) y o.a o.b) ∧
    VecGives (.vmax y a b d e g) s (fun o => vPick (fun p q => decide (p ≥ q)) y o.a o.b) ∧
    VecGives (.vshr y a b d e g) s (fun o => vShr y o.a o.b) ∧ VecGives (.vcmpLt y a b d e g) s (fun o => vCmpLt y o.a o.b) ∧
    VecGives (.vshl w a b d e g) s (fun o => vShl w o.a o.b) ∧ VecGives (.vcmpEq w a b d e g) s (fun o => vCmpEq w o.a o.b) ∧
    VecGives (.vabs w a d e g) s (fun o => vAbs w (modeSat o.mode) o.a) ∧
    VecGives (.vand a b d e g) s (fun o => ⟨o.a &&& o.b, (o.a &&& o.b) != 0, raiseNone⟩) ∧
    VecGives (.vor a b d e g) s (fun o => ⟨o.a ||| o.b, (o.a ||| o.b) != 0, raiseNone⟩) ∧
    VecGives (.vxor a b d e g) s (fun o => ⟨o.a ^^^ o.b, (o.a ^^^ o.b) != 0, raiseNone⟩) ∧
    VecGives (.vnot a d e g) s (fun o => ⟨~~~o.a, ~~~o.a != 0, raiseNone⟩)

/-- Conversions, permutes, reductions and `compress.n32` (R183 to R191): each completes with the result of its entry; `compress.n32`
writes values and positions, or the tokens of an N out of range. -/
def Obligations.ConvertPermuteReduce : Prop :=
  ∀ (s : State) (a b : BitVec 5) (d e g : BitVec 4),
    let m := fun o : Opnd => fmode o.mode
    let moved := fun x : W512 => VecRes.mk x false raiseNone
    VecGives (.cvtF32F64 a b d e g) s (fun o => vCvtFF .f64 .f32 8 0 (8 * o.b.toNat % 16) (m o) o.a) ∧
    VecGives (.cvtF64F32 a b d e g) s (fun o => vCvtFF .f32 .f64 8 (8 * o.b.toNat % 16) 0 (m o) o.a) ∧
    VecGives (.cvtBf16F32 a b d e g) s (fun o => vCvtFF .f32 .bf16 16 0 (16 * o.b.toNat % 32) (m o) o.a) ∧
    VecGives (.cvtF32Bf16 a b d e g) s (fun o => vCvtFF .bf16 .f32 16 (16 * o.b.toNat % 32) 0 (m o) o.a) ∧
    VecGives (.cvtI32F32 a d e g) s (fun o => vCvtFI true .f32 (m o) o.a) ∧
    VecGives (.cvtF32I32 a d e g) s (fun o => vCvtIF true .f32 (m o) o.a) ∧
    VecGives (.cvtN32F32 a d e g) s (fun o => vCvtFI false .f32 (m o) o.a) ∧
    VecGives (.cvtF32N32 a d e g) s (fun o => vCvtIF false .f32 (m o) o.a) ∧
    VecGives (.cvtI64F64 a d e g) s (fun o => vCvtFI true .f64 (m o) o.a) ∧
    VecGives (.cvtF64I64 a d e g) s (fun o => vCvtIF true .f64 (m o) o.a) ∧
    VecGives (.vperm a b d e g) s (fun o => moved (vPerm o.a o.b)) ∧ VecGives (.vshuf a b d e g) s (fun o => moved (vShuf o.a o.b o.lit)) ∧
    VecGives (.vrot a b d e g) s (fun o => moved (vRot o.a o.b)) ∧ VecGives (.vbcast a b d e g) s (fun o => moved (vBcast o.a o.b)) ∧
    VecGives (.vredFaddF64 a d e g) s (fun o => vRedFadd .f64 .f64 (m o) o.a) ∧
    VecGives (.vredFaddF32 a d e g) s (fun o => vRedFadd .f32 .f32 (m o) o.a) ∧
    VecGives (.vredFaddBf16 a d e g) s (fun o => vRedFadd .bf16 .f32 (m o) o.a) ∧
    VecGives (.vredFmaxF32 a d e g) s (fun o => vRedPick fmaxV (m o) o.a) ∧
    VecGives (.vredFminF32 a d e g) s (fun o => vRedPick fminV (m o) o.a) ∧
    VecGives (.vredAddI32 a d e g) s (fun o => vRedAdd 32 (modeSat o.mode) o.a) ∧
    VecGives (.vredAddI64 a d e g) s (fun o => vRedAdd 64 (modeSat o.mode) o.a) ∧
    VecGives (.vredMaxI32 a d e g) s (fun o => vRedMax o.a) ∧
    (let i := Instr.compressN32 a b d e g
     let o := operands i s
     let n := o.b.toNat % 32
     let r := vCompress (modeFtzi o.mode) o.a o.b
     let bad := fun c : BitVec 4 => if c.toNat < 5 then (Kind.err, BitVec.ofNat 512 (5 + o.b.toNat % 512 * 2 ^ 16)) else (Kind.data, 0)
     skipToken i o = none →
      (1 ≤ n → n ≤ 16 → Completes i s { st := started i s, r1 := (.data, r.1), r2 := (.data, r.2), flag := true, lat := 4 }) ∧
      (n = 0 ∨ 16 < n → Completes i s { st := started i s, r1 := bad d, r2 := bad e, lat := 4 }))

/-- Lanes are computed independently (R165, R172, R180): lane i of a sum, difference or product depends on lane i of the operands
alone, as the instruction's entry computes it, for floating-point and integer lanes; the condition flag is "some lane's exact result
lies outside the type's range", and the sticky flags of the lanes are ORed. -/
def Obligations.LaneResults : Prop :=
  ∀ (a b : W512) (f : Fmt) (m : FMode) (y : BitVec 3) (sat : Bool),
    (∀ i, i < 512 / fmtWidth f →
      let w := fmtWidth f
      let x := (finF m.ftzi f (lane a w i)).1
      let z := (finF m.ftzi f (lane b w i)).1
      let out := fun v : (FVal × Bool) × Raise => (fout m.ftzo v.1.1 v.1.2 f m.rm).1 % 2 ^ w
      lane (vFadd f m a b).val w i = out (faddV m.rm x z) ∧ lane (vFsub f m a b).val w i = out (faddV m.rm x (fvNegate z)) ∧
      lane (vFmul f m a b).val w i = out (fmulV x z) ∧ lane (vFdiv f m a b).val w i = out (fdivV x z)) ∧
    (∀ i, i < 512 / t8Width y →
      let w := t8Width y
      let x := intOf (t8Signed y) (lane a w i) w
      let z := intOf (t8Signed y) (lane b w i) w
      lane (vIntWrap (fun p q => p + q) y sat a b).val w i = (ires sat (x + z) w (t8Signed y)).1 ∧
      lane (vIntWrap (fun p q => p - q) y sat a b).val w i = (ires sat (x - z) w (t8Signed y)).1 ∧
      lane (vIntWrap (fun p q => p * q) y sat a b).val w i = (ires sat (x * z) w (t8Signed y)).1) ∧
    ((vIntWrap (fun p q => p + q) y sat a b).flag = true ↔ ∃ i, i < 512 / t8Width y ∧
      outOfRange (t8Signed y) (t8Width y) (intOf (t8Signed y) (lane a (t8Width y) i) (t8Width y)
        + intOf (t8Signed y) (lane b (t8Width y) i) (t8Width y)) = true) ∧
    ∀ k, k < 6 → ((vIntWrap (fun p q => p + q) y sat a b).raise.getLsbD k = true ↔ ∃ i, i < 512 / t8Width y ∧
      (ires sat (intOf (t8Signed y) (lane a (t8Width y) i) (t8Width y) + intOf (t8Signed y) (lane b (t8Width y) i) (t8Width y))
        (t8Width y) (t8Signed y)).2.getLsbD k = true)

/-- Division (R78): for a divisor other than zero and no overflow, the quotient truncates towards zero and the remainder has the
sign of the dividend, so that dividend = quotient * divisor + remainder and the remainder is smaller than the divisor; a zero
divisor gives all ones and the dividend, and raises DZ. -/
def Obligations.DivisionIdentity : Prop :=
  ∀ (sat sg : Bool) (a b w : Nat), w = 8 ∨ w = 16 ∨ w = 32 ∨ w = 64 →
    let x := intOf sg a w
    let z := intOf sg b w
    let q := (idiv sat sg a b w).1.1
    let r := (idiv sat sg a b w).1.2
    (z = 0 → q = 2 ^ w - 1 ∧ r = a % 2 ^ w ∧ (idiv sat sg a b w).2 = raiseDZ) ∧
    (z ≠ 0 → (sg = true → x ≠ -(2 ^ (w - 1)) ∨ z ≠ -1) →
      x = intOf sg q w * z + intOf sg r w ∧ |intOf sg r w| < |z| ∧ (0 ≤ x → 0 ≤ intOf sg r w) ∧ (x ≤ 0 → intOf sg r w ≤ 0) ∧
      (idiv sat sg a b w).2 = raiseNone) ∧
    (z ≠ 0 → sg = true → x = -(2 ^ (w - 1)) → z = -1 → r = 0 ∧
      (sat = false → intOf sg q w = -(2 ^ (w - 1)) ∧ (idiv sat sg a b w).2 = raiseNone) ∧
      (sat = true → intOf sg q w = 2 ^ (w - 1) - 1 ∧ (idiv sat sg a b w).2 = raiseSV))

/-- Wrapping and saturation (R78): the result lies in w bits; with SAT = 0 it is congruent to the exact value; with SAT = 1, read in
its type, it is the value of the type nearest to the exact one, and SV is raised exactly where the two differ. -/
def Obligations.WrapOrSaturate : Prop :=
  ∀ (sat sg : Bool) (t : Int) (w : Nat), w = 8 ∨ w = 16 ∨ w = 32 ∨ w = 64 →
    (ires sat t w sg).1 < 2 ^ w ∧
    (sat = false → ((2 ^ w : Nat) : Int) ∣ (t - (ires sat t w sg).1) ∧ (ires sat t w sg).2 = raiseNone) ∧
    (sat = true → intOf sg (ires sat t w sg).1 w = max (intLo sg w) (min (intHi sg w) t) ∧
      ((ires sat t w sg).2 = raiseSV ↔ outOfRange sg w t = true) ∧ ((ires sat t w sg).2 = raiseNone ↔ outOfRange sg w t = false))

/-! ### What each instruction does: engines -/

/-- The matrix instructions (R196, R199 to R206): a firing enters one entry into the command queue of its tile, with its operands,
its spec, the row or column that AUTO resolves, the mode-word fields of its firing and the token that stands for heads that are not
DATA; it completes when the entry's done token is delivered. -/
def Obligations.MatrixInstructions : Prop :=
  ∀ (s : State) (a b : BitVec 5) (d e g : BitVec 4),
    let h := (trigPort s s.cur).hpos
    let x := s.cur.lit
    let row := fun (k : Nat) => (fld x 6 0 + (if x.getLsbD 9 then k * h else 0)) % 128
    let enters := fun (i : Instr) (op : Nat) (two : Bool) (r : Nat) =>
      let o := operands i s
      let c : MatCmd :=
        { op := op, spec := o.lit, row := r, two := two, a := o.a, b := o.b, ftzi := modeFtzi o.mode, ftzo := modeFtzo o.mode,
          skip := skipToken i o, job := jobNo s, bank := s.cur.bank, fon := none }
      Completes i s { st := tileDone i s fun u => { u with cmdq := u.cmdq ++ [c] }, wait := .matrix, lat := 2,
                      regs := (skipToken i o).isNone }
    enters (.mmaBf16 a d e g) 0x240 false (row 1) ∧ enters (.mmaF32 a d e g) 0x241 false (row 1) ∧
    enters (.mmaF64 a d e g) 0x242 false (row 1) ∧ enters (.mmaCb4 a d e g) 0x243 false (row 1) ∧
    enters (.mmaSpBf16 a b d e g) 0x244 false (row 2) ∧ enters (.mmaSpCb4 a b d e g) 0x245 false (row 1) ∧
    enters (.mpl a d e g) 0x248 false ((fld x 4 0 + (if x.getLsbD 9 then h else 0)) % 32) ∧ enters (.mcb a b d e g) 0x249 false 0 ∧
    enters (.accZero d e g) 0x250 false (fld x 6 0) ∧ enters (.accRd a d e g) 0x251 (d != e) (row 1) ∧
    enters (.accWr a d e g) 0x252 false (row 1) ∧ enters (.accCp d e g) 0x253 false (fld x 14 8) ∧
    enters (.sacc a b d e g) 0x254 false (fld x 6 0)

/-- Streams and local memory (R220 to R225): `ss.set` writes a descriptor or traps on a reserved bit, `ss.go` and `ss.stop` start
and stop the stream that A names, `ss.stat` gives its status, `lm.ld` a word at latency 3, or counts an uncorrectable error and traps,
and `lm.st` enters the store of one. That the firing of an `lm.ld` of an uncorrectable word completes, delivers nothing and traps after it
is the model's reading (assumption 22).
Ring instructions (R234 to R238): `ring.bind` binds the handle and fetches the ring's view; a wait for at most the ring's slots
gives the slot and acquires from the ring, and one for more traps with RING_RANGE; an advance, a read and a write go to the ring's
memory tile; on a handle that is not bound, each but `ring.bind` traps with RING_UNBOUND. -/
def Obligations.StreamAndRingInstructions : Prop :=
  (∀ (s : State) (a b : BitVec 5) (d e g : BitVec 4),
      (let i := Instr.ssSet a b g
       let x := (operands i s).ka
       let y := (operands i s).kb
       let bad := fld x 62 47 != 0 || fld y 63 48 != 0
       (bad = true → TrapsWith i s 0xA01 x) ∧
       (bad = false → x.getLsbD 63 = true →
         Changes i s (tileDone i s fun u => { u with wr := { u.wr with w0 := x, w1 := y } }) false) ∧
       (bad = false → x.getLsbD 63 = false →
         Changes i s (tileDone i s fun u => { u with rd := { u.rd with w0 := x, w1 := y } }) false)) ∧
      (let i := Instr.ssGo a g
       ((operands i s).ka.getLsbD 0 = true → Changes i s (tileDone i s fun u => { u with wr := strGo u.wr s.cyc }) false) ∧
       ((operands i s).ka.getLsbD 0 = false → Changes i s (tileDone i s fun u => { u with rd := strGo u.rd s.cyc }) false)) ∧
      (let i := Instr.ssStop a g
       ((operands i s).ka.getLsbD 0 = true → Changes i s (tileDone i s fun u => { u with wr := strStop u.wr }) false) ∧
       ((operands i s).ka.getLsbD 0 = false → Changes i s (tileDone i s fun u => { u with rd := strStop u.rd }) false)) ∧
      (let i := Instr.ssStat a d e g
       let r := if (operands i s).ka.getLsbD 0 then (tileOf s s.cur.tile).wr else (tileOf s s.cur.tile).rd
       Writes i s (dataR (strStat r)) (r.st == .run)) ∧
      (let i := Instr.lmLd a d e g
       let u := tileOf (started i s) s.cur.tile
       let p := fld (operands i s).ka 16 3 * 8
       (lmBad u p 8 = false → Completes i s { st := started i s, r1 := (.data, BitVec.ofNat 512 (lmRead u p 8)), lat := 3 }) ∧
       (lmBad u p 8 = true → Completes i s
         { st := errNote (started i s) (.lm s.cur.tile p), lat := 3, drop := true, after := some (0xA06, BitVec.ofNat 64 p) })) ∧
      (let i := Instr.lmSt a b g
       Changes i s (tileDone i s fun u => { u with lmsts := u.lmsts ++ [((operands i s).kb.toNat, (operands i s).ka)] }) false)) ∧
  ∀ (s : State) (a b : BitVec 5) (d e g : BitVec 4),
      let hdl := fun i : Instr => handleOf (tileOf (started i s) s.cur.tile) s.cur.lit
      let k := s.cur.lit.toNat % 8
      let unbound := fun i : Instr => (hdl i).ring = none → TrapsWith i s 0xA02 (BitVec.ofNat 64 k)
      let acc := fun (st : State) (m n : Nat) (op : AccOp) (off : W64) (size data : Nat) (toward : AccTo) (rel : Option Nat) =>
        (accIssue st { peAcc st s.cur op off (.mtile m 0) size data with ring := some (k, m, n), rel := rel, toward := toward } 0).2
      let wait := fun (i : Instr) (full : Bool) => unbound i ∧
        ∀ m n w, (hdl i).ring = some (m, n) → ringWordOf (started i s) (hdl i) = some w →
          (ringN s.cur.lit ≤ ringSlots w → Completes i s
            { st := clkAcquire (started i s) (tileHolder (started i s) s.cur.tile).2.1 (tileHolder (started i s) s.cur.tile).1
                      (.ring m n) 2 (tilePlace s.cur.tile) none,
              r1 := (.data, BitVec.ofNat 512 ((if full then (hdl i).c else (hdl i).p) % ringSlots w)) }) ∧
          (ringSlots w < ringN s.cur.lit → TrapsWith i s 0xA03 (BitVec.ofNat 64 (ringN s.cur.lit + ringSlots w * 2 ^ 16)))
      let adv := fun (i : Instr) (prod : Bool) => unbound i ∧ ∀ m n, (hdl i).ring = some (m, n) →
        Changes i s (acc (tileDone i s fun u => setHandle u k { handleOf u s.cur.lit with busy := true }) m n
          (.ringAdv prod (ringN s.cur.lit)) 0 0 0 .none (some 2)) false
      let read := fun (i : Instr) (size : Nat) => unbound i ∧ ∀ m n, (hdl i).ring = some (m, n) →
        Completes i s { st := acc (started i s) m n .ringRead (operands i s).ka size 0 (.job s.cur.tile (jobNo s)) none,
                        wait := .answer, mem := true }
      let write := fun (i : Instr) (size : Nat) => unbound i ∧ ∀ m n, (hdl i).ring = some (m, n) →
        Changes i s (acc (started i s) m n .ringWrite (operands i s).kb size (operands i s).a.toNat .none none) false
      (∃ st, Changes (.ringBind g) s st false ∧
        (∃ h, handleOf (tileOf st s.cur.tile) s.cur.lit = h ∧ h.ring = some (epMt (fld s.cur.lit 26 8), fld s.cur.lit 30 27) ∧ h.busy = true ∧ h.binding = true ∧
          ∃ c, h.ups = [(c, (mapGet (mtileOf s (epMt (fld s.cur.lit 26 8))).rings (fld s.cur.lit 30 27) ⟨0, 0, 0⟩).p,
            (mapGet (mtileOf s (epMt (fld s.cur.lit 26 8))).rings (fld s.cur.lit 30 27) ⟨0, 0, 0⟩).c)])) ∧
      wait (.ringWaitf d e g) true ∧ wait (.ringWaite d e g) false ∧ adv (.ringAdvp g) true ∧ adv (.ringAdvc g) false ∧
      read (.ringRd a d e g) 8 ∧ read (.ringRdv a d e g) 64 ∧ write (.ringWr a b g) 8 ∧ write (.ringWrv a b g) 64

/-- Instructions of the address generators (R247): each writes one token with the command's payload to its output port, with flag
1, where its operands are in range; else it writes nothing and takes no request, and its flag is 0. -/
def Obligations.AgtInstructions : Prop :=
  ∀ (s : State) (a b : BitVec 5) (d e g : BitVec 4),
    let sends := fun (i : Instr) (k : Kind) (ok : Bool) (pay : W64) =>
      (ok = true → Completes i s { st := started i s, r1 := (k, pay.setWidth 512), flag := true }) ∧
      (ok = false → Completes i s { st := started i s, r1 := (k, pay.setWidth 512), flag := false, quiet := true })
    let code := fun k : Nat => BitVec.ofNat 64 (k * 2 ^ 60)
    let x := fun i : Instr => (operands i s).ka
    let n := fun i : Instr => (operands i s).ka.toNat
    let lit := s.cur.lit
    let small := fun v : W64 => decide (-(2 ^ 31) ≤ v.toInt) && decide (v.toInt < 2 ^ 31)
    (let i := Instr.agtSet a d e g
     sends i .data (fld (x i) 63 60 == 0 && fld (x i) 34 0 == 0 && decide (fld (x i) 58 56 ≤ 6) && decide (fld (x i) 55 53 ≤ 4)
       && fld (x i) 52 38 / 2 ^ (3 * (fld (x i) 55 53 + 1)) == 0) (x i)) ∧
    (let i := Instr.agtBase a d e g
     sends i .data (fld (x i) 63 48 == 0) (code 1 + x i)) ∧
    (let i := Instr.agtDim a b d e g
     sends i .data (decide (1 ≤ n i) && decide (n i ≤ 2 ^ 24) && decide (fld lit 2 0 ≤ 4) && small (operands i s).kb)
       (BitVec.ofNat 64 (2 * 2 ^ 60 + fld lit 2 0 * 2 ^ 56 + (n i - 1) * 2 ^ 32 + fld (operands i s).kb 31 0))) ∧
    sends (.agtGo d e g) .data true (code 3) ∧ sends (.agtStop d e g) .data true (code 4) ∧
    (let i := Instr.agtCfg a d e g
     let l := fld lit 2 0
     let w := fld lit 8 8
     sends i .cfg ((decide (l ≤ 4) && w == 0 && decide (1 ≤ n i) && decide (n i ≤ 2 ^ 24)) || (decide (l ≤ 4) && w == 1 && small (x i))
         || (l == 5 && w == 0 && fld (x i) 63 48 == 0))
       (BitVec.ofNat 64 (l * 2 ^ 61 + w * 2 ^ 60
         + (if w = 0 && decide (l ≤ 4) then n i - 1 else if w = 1 then fld (x i) 31 0 else fld (x i) 47 0)))) ∧
    sends (.agtHand d e g) .data true (code 6) ∧ sends (.agtResume d e g) .data true (code 7) ∧
    sends (.agtStat d e g) .data true (code 8)

/-- Instructions of the block-transfer engine (R282 to R289): a copy is accepted with the next sequence number and its promise;
a chain entry is appended where its address may be one; the tail moves; a promise, the channel's counts and the time are read. What an
append writes, what it leaves where NEXT does not translate, and that the channel keeps the address of an entry appended after the take
are the model's reading (assumption 41). -/
def Obligations.BteInstructions : Prop :=
  ∀ (s : State) (a b : BitVec 5) (d e g : BitVec 4),
    let n := tileCluster s.cur.tile
    let ch := fld s.cur.lit 27 24
    let c := fun i : Instr => bteOf (started i s) n ch
    let copy := fun (i : Instr) (mx : Bool) =>
      let p := promiseAt s.cyc (c i).pprev (fld s.cur.lit 23 0 + 1) (operands i s).ka (operands i s).kb
      ∃ st, Completes i s { st := st, r1 := (.data, BitVec.ofNat 512 ((c i).issued + 1)), r2 := (.data, BitVec.ofNat 512 p), lat := 4 } ∧
        (bteOf st n ch).issued = (c i).issued + 1 ∧ (bteOf st n ch).pprev = p ∧
        ∃ x, (bteOf st n ch).q = (c i).q ++ [x] ∧ x.seq = (c i).issued + 1 ∧ x.src = (operands i s).ka ∧ x.dst = (operands i s).kb ∧
          x.len = fld s.cur.lit 23 0 + 1 ∧ x.promise = p ∧ x.chain = false ∧
          x.fon = (if mx then .lmAt (32 * fld s.cur.lit 43 32) else .none) ∧
          (x.strict.isSome = s.cur.lit.getLsbD 28)
    copy (.bteCopy a b d e g) false ∧ copy (.bteCopyMx a b d e g) true ∧
    (let i := Instr.bteAppend a d e g
     let c1 := bteOf (linkNext (started i s) n ch (operands i s).ka) n ch
     (entryOk (started i s) n (operands i s).ka = true → Completes i s
       { st := setBte (linkNext (started i s) n ch (operands i s).ka) n ch
           { c1 with
             issued := c1.issued + 1, last := some (operands i s).ka.toNat, first := some (c1.first.getD (operands i s).ka.toNat),
             nextAt := if c1.takenAt.isSome && c1.issued == lastTaken c1 then some (operands i s).ka else c1.nextAt },
         r1 := (.data, BitVec.ofNat 512 (c1.issued + 1)), flag := true, lat := 4 }) ∧
     (entryOk (started i s) n (operands i s).ka = false → Completes i s { st := started i s, lat := 4 })) ∧
    (let i := Instr.bteTail a g
     ∃ st, Changes i s st (decide ((operands i s).ka.toNat ≤ (c i).issued)) ∧
       (bteOf st n ch).tail = max (c i).tail (min (operands i s).ka.toNat (c i).issued)) ∧
    (let i := Instr.bteProm a d e g
     (promKnown (chanFor (started i s) s.cur) (operands i s).ka.toNat = true → Completes i s
       { st := started i s, flag := true, lat := 4,
         r1 := (.data, BitVec.ofNat 512 (mapGet (chanFor (started i s) s.cur).proms (operands i s).ka.toNat 0)) }) ∧
     (promKnown (chanFor (started i s) s.cur) (operands i s).ka.toNat = false → Completes i s { st := started i s, lat := 4 })) ∧
    Changes (.sleepUntil a g) s (started (.sleepUntil a g) s) false ∧
    (let i := Instr.bteSeq a d e g
     let v := chanFor (started i s) s.cur
     let h := tileHolder (started i s) s.cur.tile
     let va := fld v.w1 47 0
     let gives := fun st : State => Completes i s { st := st, r1 := (.data, BitVec.ofNat 512 v.view.2), lat := 4 }
     (∀ pp r, walkTables (started i s) h.2.1 (va / 4096) false = .ok pp r →
       let loc := physLoc (pp * 4096 + va % 4096)
       gives (clkAcquire (started i s) h.2.1 h.1 (lineObj loc) 2 (tilePlace s.cur.tile) (some (locPlace loc)))) ∧
     ((∀ pp r, walkTables (started i s) h.2.1 (va / 4096) false ≠ .ok pp r) → gives (started i s))) ∧
    (let i := Instr.bteStat d e g
     let v := chanFor (started i s) s.cur
     Completes i s { st := started i s, r1 := (.data, BitVec.ofNat 512 v.view.2), r2 := (.data, BitVec.ofNat 512 v.issued),
                     flag := v.view.2 == v.issued, lat := 4 })

/-- Memory instructions (R299 to R305): where the heads are DATA and R300's checks pass, a store or `st.rel` sends its access and is
done, and a load, `ld.acq` or atomic sends its access and completes when its answer returns; each carries the bytes, scope and data
that its form gives, and an atomic is one step at its home. Where a check fails, the firing has no effect and traps. -/
def Obligations.MemoryInstructions : Prop :=
  ∀ (s : State) (sc : BitVec 2) (a b : BitVec 5) (d e g : BitVec 4),
    let lit := s.cur.lit
    let n := 2 ^ fld lit 1 0
    let h := fun i : Instr => tileHolder (started i s) s.cur.tile
    let access := fun (i : Instr) (op : AccOp) (x : W64) (loc : Loc) (data : Nat) (rel acq : Option Nat) (toward : AccTo) (extra : Nat) =>
      (accIssue (started i s) { acc0 with
        agent := .bank s.cur.tile s.cur.bank, holder := (h i).1, part := (h i).2.1, rgn := (h i).2.2, op := op, addr := x, loc := loc,
        size := n, data := BitVec.ofNat 1024 (data % 2 ^ (8 * n)), who := (s.cur.bank, s.cur.slot, s.cur.ctx), rel := rel, acq := acq,
        signed := lit.getLsbD 4, toward := toward } extra).2
    let checked := fun (i : Instr) (x : W64) (write : Bool) (link : Nat) (done : Loc → Nat → Prop) =>
      skipToken i (operands i s) = none →
        (∀ loc extra, memCheck (started i s) s.cur.tile x n write link = .ok loc extra → done loc extra) ∧
        ∀ c v, memCheck (started i s) s.cur.tile x n write link = .trap c v → TrapsWith i s c v
    let answer := fun (i : Instr) (st : State) (acq : Bool) => Completes i s { st := st, wait := .answer, mem := true, acq := acq }
    let store := fun (i : Instr) (rel : Option Nat) (link : Nat) => checked i (operands i s).kb true link fun loc extra =>
      Changes i s (access i (.write (BitVec.ofNat 128 (2 ^ n - 1))) (operands i s).kb loc (operands i s).ka.toNat rel none .none extra) false
    let load := fun (i : Instr) (acq : Option Nat) => checked i (operands i s).ka false 0 fun loc extra =>
      answer i (access i .read (operands i s).ka loc (operands i s).kb.toNat none acq (.job s.cur.tile (jobNo s)) extra) acq.isSome
    let amo := fun (i : Instr) (op : AccOp) => checked i (operands i s).ka true 0 fun loc extra =>
      answer i (access i op (operands i s).ka loc (operands i s).kb.toNat (some sc.toNat) (some sc.toNat)
        (.job s.cur.tile (jobNo s)) extra) true
    load (.ld a d e g) none ∧ load (.ldAcq sc a d e g) (some sc.toNat) ∧ store (.st a b g) none 1 ∧
    store (.stRel sc a b g) (some sc.toNat) (if sc = 3 then 1 else 0) ∧
    amo (.amoAdd sc a b d e g) (.amo 0 (lit.getLsbD 4)) ∧ amo (.amoFadd sc a b d e g) (.amo 1 (lit.getLsbD 4)) ∧
    amo (.amoMin sc a b d e g) (.amo 2 (lit.getLsbD 4)) ∧ amo (.amoMax sc a b d e g) (.amo 3 (lit.getLsbD 4)) ∧
    amo (.amoAnd sc a b d e g) (.amo 4 (lit.getLsbD 4)) ∧ amo (.amoOr sc a b d e g) (.amo 5 (lit.getLsbD 4)) ∧
    amo (.amoXor sc a b d e g) (.amo 6 (lit.getLsbD 4)) ∧ amo (.amoExch sc a b d e g) (.amo 7 (lit.getLsbD 4)) ∧
    amo (.amoCas sc a b d e g) (.cas (casExpect (started (.amoCas sc a b d e g) s) s.cur d)) ∧
    (let i := Instr.fence sc g
     let o : ObjId := .fence sc.toNat (instKey sc.toNat (tilePlace s.cur.tile))
     Changes i s (clkAcquire (clkRelease (started i s) (h i).2.1 (h i).1 o sc.toNat (tilePlace s.cur.tile)) (h i).2.1 (h i).1 o
       sc.toNat (tilePlace s.cur.tile) none) false)

/-- Task packets (R331 to R334): `tsend` sends one packet to a live tile of the partition, else traps with TASK_DEST; `hbind` binds
a label to a slot whose trigger channel is the task port, else its flag is 0; `hunbind` ends a binding and drops the packets that
wait for it.
Futures (R346, R347), launches (R341 to R343): each sends its operation or descriptor read and, but for `fut.res` and
`fut.fault`, completes when the answer returns; a satisfied `fut.wait` gives the value and acquires from the future, or traps with
FUT_FAULT. That a descriptor need not be aligned, and is read in two accesses that meet at a 64-byte boundary, is the model's reading
(assumption 48). -/
def Obligations.TaskAndFutureInstructions : Prop :=
  (∀ (s : State) (a b : BitVec 5) (g : BitVec 4),
      let lit := s.cur.lit
      (let i := Instr.tsend a b g
       let r := routeValue (started i s) s.cur
       let live := liveTileEp (started i s) (partOf (started i s) (tilePart (started i s) s.cur.tile)) (fld r 25 7)
       (live = true → ∃ st, Changes i s st false ∧ ∃ m, st.packets = s.packets ++ [m] ∧ m.dst = epTile (fld r 25 7) ∧
         m.pkt.label = fld r 6 0 ∧ m.pkt.two = lit.getLsbD 31 ∧ m.pkt.w0 = (operands i s).ka ∧
         m.pkt.w1 = (if lit.getLsbD 31 then (operands i s).kb else 0)) ∧
       (live = false → TrapsWith i s 0xE01 r)) ∧
      (let i := Instr.hbind g
       (taskSlot (tileOf (started i s) s.cur.tile) (fld lit 13 8) = true → Changes i s
         (tileDone i s fun u => { u with bind := mapPut u.bind (fld lit 6 0) ⟨fld lit 13 8, fld lit 17 16⟩ }) true) ∧
       (taskSlot (tileOf (started i s) s.cur.tile) (fld lit 13 8) = false → Changes i s (started i s) false)) ∧
      (let i := Instr.hunbind g
       ∃ st, Changes i s st (mapFind (tileOf (started i s) s.cur.tile).bind (fld lit 6 0)).isSome ∧
         (tileOf st s.cur.tile).tbuf = (tileOf (started i s) s.cur.tile).tbuf.filter (fun p => p.label != fld lit 6 0) ∧
         (tileOf st s.cur.tile).bind = mapDel (tileOf (started i s) s.cur.tile).bind (fld lit 6 0))) ∧
  ∀ (s : State) (a b : BitVec 5) (d e g : BitVec 4),
      let asks := fun (i : Instr) (op fut : Nat) (arg : W64) => Completes i s
        { st := futSend (started i s) (tileCluster s.cur.tile) (futOp (started i s) s.cur op fut arg (jobNo s)), wait := .answer }
      let tells := fun (i : Instr) (op : Nat) => Changes i s (futSend (started i s) (tileCluster s.cur.tile)
        (futOp (started i s) s.cur op (operands i s).ka.toNat (operands i s).kb (jobNo s))) false
      let starts := fun (i : Instr) (try_ : Bool) => skipToken i (operands i s) = none →
        (∀ loc extra, descCheck (started i s) s.cur.tile (operands i s).ka = .ok loc extra →
          ∃ st, Completes i s { st := st, wait := .answer, mem := true } ∧ ∃ x ∈ st.accs, x.op = .read ∧ x.loc = loc ∧
            x.addr = (operands i s).ka ∧ x.size = 64 - (operands i s).ka.toNat % 64 ∧ x.rel = some 2 ∧ x.signed = try_ ∧
            x.toward = .launch (jobNo s) ∧ x.agent = .bank s.cur.tile s.cur.bank) ∧
        ∀ c v, descCheck (started i s) s.cur.tile (operands i s).ka = .trap c v → TrapsWith i s c v
      asks (.futNew d e g) 0 (tileDie s.cur.tile * 2 ^ 12) s.cur.lit ∧
      asks (.futReg a b d e g) 1 (operands (.futReg a b d e g) s).ka.toNat (operands (.futReg a b d e g) s).kb ∧
      asks (.futRd a d e g) 4 (operands (.futRd a d e g) s).ka.toNat s.cur.lit ∧ tells (.futRes a b g) 2 ∧ tells (.futFault a b g) 3 ∧
      (let i := Instr.futWait a d e g
       ∀ w, watchSeen (started i s) s.cur.tile (operands i s).ka = some w →
         (fld w 63 62 = 3 → TrapsWith i s 0xE02 (operands i s).ka) ∧
         (fld w 63 62 ≠ 3 → ∃ st, Completes i s { st := st, r1 := dataR w } ∧
           ∀ x ∈ (tileOf st s.cur.tile).watches, x.fut ≠ (operands i s).ka.toNat)) ∧
      starts (.launch a d e g) false ∧ starts (.launchTry a d e g) true

/-- Groups and collectives (R349 to R352), and the dispatcher's operations on groups and futures (R345 to R348). The firing of `join`,
`leave`, `grp.new` or `grp.size` sends its operation to the group's dispatcher, and that of a collective its arrival, and each completes
when that answers. An operation is performed in firing order of its bank: `grp.new` takes the lowest free group of the die's share;
`join` and `leave` change the members, and `grp.size` counts them; a future's operation changes the future; the answer goes back. An
arrival enters its instance, and the group's first instance that is complete ends. That group operations travel to the dispatcher, act
there in firing order and have their answers travel back is the model's choice (assumption 53). -/
def Obligations.GroupInstructions : Prop :=
  (∀ (s : State) (a b : BitVec 5) (d e g : BitVec 4),
    let asks := fun (i : Instr) (op fut : Nat) => Completes i s
      { st := futSend (started i s) (tileCluster s.cur.tile) (futOp (started i s) s.cur op fut 0 (jobNo s)), wait := .answer }
    let arrives := fun (i : Instr) (op : Nat) => ∃ st, Completes i s { st := st, wait := .answer, acq := true } ∧
      ∃ x, st.arrivals = s.arrivals ++ [x] ∧ x.op = op ∧ x.grp = (operands i s).ka.toNat ∧ x.buf = (operands i s).kb ∧
        x.spec = s.cur.lit ∧ x.tile = s.cur.tile ∧ x.bank = s.cur.bank ∧ x.job = jobNo s
    asks (.join a d e g) 5 (operands (.join a d e g) s).ka.toNat ∧ asks (.leave a g) 6 (operands (.leave a g) s).ka.toNat ∧
    asks (.grpNew d e g) 7 (tileDie s.cur.tile * 2 ^ 12) ∧ asks (.grpSize a d e g) 8 (operands (.grpSize a d e g) s).ka.toNat ∧
    arrives (.barrier a b d e g) 0x39A ∧ arrives (.reduce a b d e g) 0x39B ∧ arrives (.allreduce a b d e g) 0x39C ∧
    arrives (.bcast a b d e g) 0x39D) ∧
  (∀ (s : State) (o : FutOp),
    let me := o.tile * 4 + o.who.1
    let live := grpLive s o.part o.fut
    let gives := fun (st : State) (v : W64) (f : Bool) => futPerform s o = { st := st, val := v, flag := f, trap := 0 }
    (o.op = 5 →
      (live = none → gives s (BitVec.allOnes 64) false) ∧
      ∀ dd ix gr, live = some (dd, ix, gr) →
        (∀ r, rankOf me gr.members = some r → gives s (BitVec.ofNat 64 r) false) ∧
        (rankOf me gr.members = none → gr.members.length < 65536 →
          gives (setGrp s dd ix { gr with members := gr.members ++ [me] }) (BitVec.ofNat 64 gr.members.length) true) ∧
        (rankOf me gr.members = none → 65536 ≤ gr.members.length → gives s (BitVec.allOnes 64) false)) ∧
    (o.op = 6 →
      (live = none → gives s 0 false) ∧
      ∀ dd ix gr, live = some (dd, ix, gr) →
        (me ∈ gr.members → gives (setGrp s dd ix (dissolve { gr with members := gr.members.filter (· != me) })) 0 true) ∧
        (me ∉ gr.members → gives s 0 false)) ∧
    (o.op = 7 →
      let dd := o.fut / 2 ^ 12 % 4
      (dieFenced s dd = true ∨ grpPick s o.part dd = none → gives s 0 false) ∧
      ∀ ix, dieFenced s dd = false → grpPick s o.part dd = some ix →
        gives (setGrp s dd ix { grp0 with gen := (grpAt s dd ix).gen, live := true, part := o.part })
          (BitVec.ofNat 64 (futId dd ix (grpAt s dd ix).gen)) true) ∧
    (o.op = 8 → (live = none → gives s 0 false) ∧
      ∀ dd ix gr, live = some (dd, ix, gr) → gives s (BitVec.ofNat 64 gr.members.length) true)) ∧
  (∀ (s : State) (id : Nat) (o : FutOp), (s.futOps.find? fun o => o.id == id) = some o →
    let r := futPerform s o
    let told := decide (o.op = 2) || decide (o.op = 3)
    let s1 := { s with futOps := s.futOps.filter fun x => x.id != id }
    let job := if told then none else jobOf (tileOf s o.tile) o.job
    let back := s.cyc + max 1 (roundTrip s (tileCluster o.tile) (o.fut / 2 ^ 12 % 4 * 128) / 2)
    let o1 : FutOp := { o with done := true, val := r.val, flag := r.flag, trap := r.trap, back := back }
    let trap := answerTrap s o.tile o.who o.trap (BitVec.ofNat 64 o.fut)
    (futDue s o = true → told = true → r.trap = 0 →
      exec (.futureOperation id) s = .next { r.st with futOps := r.st.futOps.filter fun x => x.id != id }) ∧
    (futDue s o = true → told = false ∨ r.trap ≠ 0 → exec (.futureOperation id) s =
      .next { r.st with futOps := r.st.futOps.map fun x => if x.id = id then o1 else x }) ∧
    (o.done = true → o.back ≤ s.cyc → o.trap = 0 →
      (∀ j, job = some j → exec (.futureAnswer id) s = .next (answerJob s1 o.tile j (o.val.setWidth 512) o.flag)) ∧
      (job = none → exec (.futureAnswer id) s = .next s1)) ∧
    (o.done = true → o.back ≤ s.cyc → o.trap ≠ 0 →
      (∀ j, job = some j → exec (.futureAnswer id) s = .next (takeTrap (dropJob s1 o.tile j) o.tile trap)) ∧
      (job = none → exec (.futureAnswer id) s = .next (takeTrap s1 o.tile trap)))) ∧
  (∀ (s : State) (n f : Nat) (w : Watch) (x : W64), w ∈ (tileOf s n).watches → w.fut = f → watchDue s n w = some x →
    ∃ t, exec (.watchReport n f) s = .next t ∧ (∃ c, { w with seen := some x, due := c } ∈ (tileOf t n).watches ∧ s.cyc < c) ∧
      ∀ v, v ∈ (tileOf s n).watches → v.fut ≠ f → v ∈ (tileOf t n).watches) ∧
  (∀ (s : State) (id : Nat) (a : Arrival), (s.arrivals.find? fun a => a.id == id) = some a → a.due ≤ s.cyc →
    dispEarlier s a.id a.tile a.bank (a.grp / 2 ^ 12 % 4) = false → dieFenced s (a.grp / 2 ^ 12 % 4) = false →
    let s1 := { s with arrivals := s.arrivals.filter fun x => x.id != id }
    let c := a.tile * 4 + a.bank
    (grpLive s a.part a.grp = none → exec (.collectiveArrival id) s = .next (collAnswer s1 a 0 0xE13)) ∧
    ∀ dd ix gr, grpLive s a.part a.grp = some (dd, ix, gr) →
      let opens := fun i : Inst => i.snap.contains c && !entered i c
      (gr.insts.any opens = true →
        exec (.collectiveArrival id) s = .next (setGrp s1 dd ix { gr with insts := enterInst opens a gr.insts })) ∧
      (gr.insts.any opens = false → c ∈ gr.members → gr.insts.length < 4 → exec (.collectiveArrival id) s =
        .next (setGrp s1 dd ix { gr with insts := gr.insts ++ [⟨gr.next, gr.members, [a]⟩], next := gr.next + 1 }))) ∧
  ∀ (s : State) (n : Nat) (i : Inst) (l : List Inst), (grpAt s (n / 1024 % 4) (n % 1024)).insts = i :: l → collReady s i = true →
    ∃ t, exec (.collectiveComplete n) s = .next t ∧
      grpAt t (n / 1024 % 4) (n % 1024) = dissolve { grpAt s (n / 1024 % 4) (n % 1024) with insts := l }

/-- Expert placement (R394 to R398): `xd.dispatch` sends a packet to the LIVE slot that the key's hash picks in the table that the
firing's die has adopted, and gives TKW1 with flag 1; where no table, expert or slot is to be had nothing is sent and the flag is 0. Wherever its die has adopted a version, the firing acquires
from the table (R395). `xd.load`, `xd.tab`, `xd.ver` and `xd.stat` read the engine.
Race checker instructions (R327 to R330): a component of the clock, the mode, the log and a generation are read, and
`race.mode` and `race.gen` change theirs where their operands allow it. That `xd.stat` shows the lowest-numbered table with an operation,
and that `xd.ver` gives 0 with flag 0 before an adoption, is the model's reading (assumption 72). -/
def Obligations.ExpertAndRaceInstructions : Prop :=
  (∀ (s : State) (a b : BitVec 5) (d e g : BitVec 4),
      let tb := fld s.cur.lit 5 0
      let part := fun i : Instr => (tileHolder (started i s) s.cur.tile).2.1
      let trip := fun i : Instr => engineTrip (started i s) s.cur.tile
      let none_ := fun i : Instr => Completes i s { st := started i s, lat := trip i }
      let gives := fun (i : Instr) (v : W64) => Completes i s { st := started i s, r1 := dataR v, flag := true, lat := trip i }
      let tab := fun i : Instr => tabOf (started i s) (part i) tb
      (let i := Instr.xdDispatch a b d e g
       let o := operands i s
       let ex := fld o.kb 41 32
       let ad := adoptedOf (started i s) (tileDie s.cur.tile) (part i) tb
       let lat := dieTrip (started i s) s.cur.tile
       skipToken i o = none →
        (ad = none → Completes i s { st := started i s, lat := lat }) ∧
        (∀ x, ad = some x → x.nexp ≤ ex ∨ liveSlots x ex = [] → Completes i s
          { st := clkAcquire (started i s) (part i) (tileHolder (started i s) s.cur.tile).1 (.table tb) 2 (tilePlace s.cur.tile) none,
            lat := lat }) ∧
        ∀ x, ad = some x → ex < x.nexp → liveSlots x ex ≠ [] →
          let r := (liveSlots x ex).getD (keyHash o.ka.toNat % (liveSlots x ex).length) 0
          let w1 := tkw1 x.ver tb ex r o.kb
          ∃ st, Completes i s { st := st, r1 := dataR w1, flag := true, lat := lat } ∧ ∃ m, st.packets = s.packets ++ [m] ∧
            m.dst = epTile (fld (mapGet x.slots (8 * ex + r) 0) 57 39) ∧ m.pkt.label = fld (mapGet x.slots (8 * ex + r) 0) 38 32 ∧
            m.pkt.w0 = o.ka ∧ m.pkt.w1 = w1 ∧ m.pkt.two = true) ∧
      (let i := Instr.xdLoad a d e g
       let n := (operands i s).ka.toNat
       (tab i = none → none_ i) ∧ ∀ x, tab i = some x →
         (s.cur.lit.getLsbD 8 = true → gives i (BitVec.ofNat 64 x.interval)) ∧
         (s.cur.lit.getLsbD 8 = false → n < tabNexp x → gives i (BitVec.ofNat 64 (mapGet x.lastCounts n 0))) ∧
         (s.cur.lit.getLsbD 8 = false → tabNexp x ≤ n → none_ i)) ∧
      (let i := Instr.xdTab a d e g
       let n := (operands i s).ka.toNat
       let w := fld s.cur.lit 11 8
       let k := fld s.cur.lit 13 12
       (tab i = none → none_ i) ∧ ∀ x, tab i = some x →
         (k = 2 → gives i (hdrW x w)) ∧ (k = 0 → n < tabNexp x → gives i (tabWord x n w)) ∧
         (k ≠ 0 → k ≠ 2 → n < tabNexp x → gives i (BitVec.ofNat 64 (mapGet x.inf (8 * n + w % 8) 0))) ∧
         (k ≠ 2 → tabNexp x ≤ n → none_ i)) ∧
      (let i := Instr.xdVer a d e g
       let k := fld s.cur.lit 9 8
       (k = 0 → ∀ x, adoptedOf (started i s) (tileDie s.cur.tile) (part i) tb = some x → gives i (BitVec.ofNat 64 x.ver)) ∧
       (k = 0 → adoptedOf (started i s) (tileDie s.cur.tile) (part i) tb = none → none_ i) ∧
       (k ≠ 0 → tab i = none → none_ i) ∧
       (let st := started i s
        let h := tileHolder st s.cur.tile
        (k = 1 → ∀ x, tab i = some x → Completes i s
          { st := releaseLater (stepEnd st x (s.cur.tile * 4 + s.cur.bank) st.nid)
              { agent := .bank s.cur.tile s.cur.bank, before := st.nid, part := h.2.1, holder := h.1, obj := .step tb, scope := 2 },
            r1 := dataR (BitVec.ofNat 64 (x.step + 1)), flag := true, lat := trip i }) ∧
        (2 ≤ k → ∀ x, tab i = some x →
          let gives := fun u : State =>
            Completes i s { st := u, r1 := dataR (BitVec.ofNat 64 x.merged), flag := true, lat := trip i }
          (∀ pp r, walkTables st h.2.1 ((x.va + 48) / 4096) false = .ok pp r →
            let loc := physLoc (pp * 4096 + (x.va + 48) % 4096)
            gives (clkAcquire st h.2.1 h.1 (lineObj loc) 2 (tilePlace s.cur.tile) (some (locPlace loc)))) ∧
          ((∀ pp r, walkTables st h.2.1 ((x.va + 48) / 4096) false ≠ .ok pp r) → gives st)))) ∧
      (let i := Instr.xdStat d e g
       let busy := (List.range 64).findSome? fun n => (tabOf (started i s) (part i) n).bind fun x => if x.op = 0 then none else some x
       let rolls := (partOf (started i s) (part i)).rollbacks
       (∀ x, busy = some x → Completes i s { st := started i s, r1 := dataR (statWord x rolls), lat := trip i }) ∧
       (busy = none → gives i (BitVec.ofNat 64 (rolls % 2 ^ 28))))) ∧
  ∀ (s : State) (a : BitVec 5) (d e g : BitVec 4),
      let h := fun i : Instr => tileHolder (started i s) s.cur.tile
      let p := fun i : Instr => partOf (started i s) (h i).2.1
      let n := fun i : Instr => (operands i s).ka.toNat
      (let i := Instr.clkRd a d e g
       let v := clkValue (p i) (h i).1 (operands i s).ka
       Completes i s { st := started i s, r1 := dataR (BitVec.ofNat 64 (v.getD 0)), flag := v.isSome, lat := 16 }) ∧
      (let i := Instr.raceMode a d e g
       let x := (operands i s).ka
       let r := dataR (BitVec.ofNat 64 ((p i).raceMode + (if (p i).raceNext.isSome then 4 else 0)))
       let bad := fld x 63 3 != 0 || (x.getLsbD 2 && (fld x 1 0 == 3 || !partRaceProg (p i)))
       (bad = true → Completes i s { st := started i s, r1 := r, lat := 4 }) ∧
       (bad = false → x.getLsbD 2 = false → Completes i s { st := started i s, r1 := r, flag := true, lat := 4 }) ∧
       (bad = false → x.getLsbD 2 = true →
         Completes i s { st := setRaceMode (started i s) (h i).2.1 (fld x 1 0), r1 := r, flag := true, lat := 4 })) ∧
      (let i := Instr.raceLog a d e g
       let w := BitVec.ofNat 64 (partFld (p i) 168 8)
       let gives := fun v : Nat => Completes i s { st := started i s, r1 := dataR (BitVec.ofNat 64 v), flag := true, lat := 4 }
       (n i = 0 → gives (p i).racePI) ∧ (n i = 1 → gives (p i).raceDropped) ∧ (n i = 2 → gives (ringBase w)) ∧
       (n i = 3 → gives (w.toNat % 16)) ∧ (4 ≤ n i → Completes i s { st := started i s, lat := 4 })) ∧
      (let i := Instr.raceGen a d e g
       let k := instKey (fld s.cur.lit 1 0) (tilePlace s.cur.tile)
       let r := dataR (BitVec.ofNat 64 (genOf (p i) k))
       (s.cur.lit.getLsbD 8 = false → Completes i s { st := started i s, r1 := r, flag := true, lat := 16 }) ∧
       (s.cur.lit.getLsbD 8 = true → grpLive (started i s) (h i).2.1 (n i) = none → Completes i s { st := started i s, r1 := r, lat := 16 }) ∧
       (s.cur.lit.getLsbD 8 = true → grpLive (started i s) (h i).2.1 (n i) ≠ none → Completes i s
         { st := modPart (started i s) (h i).2.1 fun q => { q with genGrp := mapPut q.genGrp k (n i) }, r1 := r, flag := true, lat := 16 }))


/-! ### What each step of an engine does -/

/-- The steps in which a walker takes a token at its port 0 (R244, R247 to R256, a resume among them, R263) or hands its section over
(R255): where the head is that command and the walker can take it, the head is dequeued and the command has its effect. That a hand-over
clears HOLD as soon as its writes are performed, and that its token then waits for a request at port 4 and holds nothing else up, is the
model's reading (assumption 105); so is what a malformed value that a token brings does (assumption 39). -/
def Obligations.AgtCommandSteps : Prop :=
  ∀ (s : State) (n : Nat),
    let x := agtPay s n
    let a := agtOf s n
    (agtCanTake s n 0 = true → exec (.agtTakeSet n) s =
      .next (agtTake (setAgt s n (agtBoundary a)) n fun y => agtSetW y 0 (setFields (agtW y 0) x))) ∧
    (agtCanTake s n 1 = true → exec (.agtTakeBase n) s =
      .next (agtTake (setAgt s n (agtBoundary a)) n fun y => agtSetW y 1 (BitVec.ofNat 64 (fld x 47 0)))) ∧
    (agtCanTake s n 2 = true → exec (.agtTakeDim n) s =
      .next (agtTake (setAgt s n (agtBoundary a)) n fun y => agtSetW y (4 + fld x 58 56) (BitVec.ofNat 64 (fld x 55 0)))) ∧
    (agtGoWaits s n = true → exec (.agtTakeGo n) s = .next (setAgt s n { agtBegin a with goes := a.goes - 1 })) ∧
    (agtGoWaits s n = false → agtCanTake s n 3 = true →
      exec (.agtTakeGo n) s = .next (setAgt (deqHead s (agtEp n 0)) n (agtBegin (agtOf (deqHead s (agtEp n 0)) n)))) ∧
    (agtCanTake s n 4 = true → agtResting a = true →
      exec (.agtTakeStop n) s = .next (agtTake s n fun y => y)) ∧
    (agtCanTake s n 4 = true → agtResting a = false → ∃ t, exec (.agtTakeStop n) s = .next t ∧ (agtOf t n).stopping = true ∧
      (agtOf t n).part = 0 ∧ (agtOf t n).npart = 0 ∧ (agtOf t n).taken = 0) ∧
    (agtCanTake s n 6 = true → ∃ t, exec (.agtTakeHand n) s = .next t ∧
      (agtOf t n).hand = agtHold (agtOf (coFlush s n) n)) ∧
    (let s1 := if handQuiet s n then setAgt s n { agtSetHold a false with hand := false, handTok := true } else s
     (handDue s1 n = true → exec (.handoverSend n) s = .next
       (agtOut (setAgt s1 n { agtOf s1 n with handTok := false }) n 4 ⟨.data, 0, BitVec.ofNat 512 (agtEp n 0)⟩)) ∧
     (handDue s1 n = false → exec (.handoverSend n) s = .next s1)) ∧
    (handIn s n = true → ∃ t, exec (.handoverReceive n) s = .next t ∧ agtHold (agtOf t n) = true ∧
      (a.st = .wait → (agtOf t n).st = .run) ∧ (a.st ≠ .wait → (agtOf t n).st = a.st)) ∧
    (agtCanTake s n 7 = true → exec (.agtTakeResume n) s = .next (agtResumeNow (agtTake s n fun y => y) n)) ∧
    (agtCanTake s n 8 = true →
      let s1 := agtTake s n fun y => y
      exec (.agtTakeStat n) s =
        .next (if agtHasOut s1 n 3 then agtOut s1 n 3 (statusTok (agtOf s1 n) false (agtOf s1 n).st) else s1)) ∧
    (agtCanTake s n 9 = true → exec (.agtTakeCfg n) s = .next (agtTake s n fun y => { y with cfgs := y.cfgs ++ [x] })) ∧
    (agtCanTake s n 10 = true → exec (.agtTakeDiscard n) s = .next (agtTake s n fun y => y)) ∧
    (agtCanTake s n 11 = true → exec (.agtTakeErr n) s = .next (agtFault (agtTake s n fun y => y) n 0xB05 x.toNat)) ∧
    (agtCanTake s n 12 = true → exec (.agtTakeReserved n) s = .next (agtFault (agtTake s n fun y => y) n 0xB04 x.toNat))

/-- The steps of a walk (R244 to R246, R252, R257) and of a block-transfer channel (R269 to R290): each does its part where it is
due. That the failure of a page walk for a PE is remembered at its tile is the model's choice (assumption 19). -/
def Obligations.WalkAndCopySteps : Prop :=
  ∀ (s : State) (n ch : Nat),
    let a := agtOf s n
    let c := bteOf s n ch
    (agtElemDue s n = true → agtRace s n = none → exec (.agtElement n) s = .next (agtStep s n)) ∧
    (∀ r, agtElemDue s n = true → agtRace s n = some r → exec (.agtElement n) s = .next (agtRaced s n r)) ∧
    (∀ t l, a.out1 = t :: l → rgnMoves s a.rgn = true → agtPasses a = true → outWritable s (agtEp n 1) = true → t.kind ≠ .mark →
      exec (.agtTokenOut n) s = .next (agtOut (setAgt s n { a with out1 := l, leftTok := a.leftTok.map (· - 1) }) n 1 t)) ∧
    (∀ t l, a.out1 = [] → a.out3 = t :: l → rgnMoves s a.rgn = true → outWritable s (agtEp n 3) = true →
      exec (.agtTokenOut n) s = .next (agtOut (setAgt s n { a with out3 := l }) n 3 t)) ∧
    (agtReportDue s n = true → a.buf.isEmpty = false → exec (.agtWalkReport n) s = .next (coFlush s n)) ∧
    (agtReportDue s n = true → a.buf.isEmpty = true → ∃ t, exec (.agtWalkReport n) s = .next t ∧ (agtOf t n).reported = true ∧
      (agtOf t n).st = (if a.stopping then .idle else .done) ∧ (agtOf t n).stopping = false) ∧
    (∀ id w, (s.walks.find? fun w => w.id == id) = some w → w.due ≤ s.cyc →
      exec (.pageWalk id) s = .next (w.who.foldl (fun st x => walkTell st w x) { s with walks := s.walks.filter fun x => x.id != id })) ∧
    (∀ st w t wr, let v := walkServed st w.part w.vp wr
      (∀ pp r, v.1 = .ok pp r → walkTell st w (.pe t, wr) = dieEnter v.2 w.die ⟨w.part, w.vp, pp, r⟩) ∧
      (∀ b e lv x, v.1 = .fail b e lv x →
        walkTell st w (.pe t, wr) = (modTile v.2 t fun u => { u with xfails := u.xfails ++ [⟨w.vp, wr, b, st.cyc⟩] })) ∧
      (∀ b e lv x, v.1 = .fail b e lv x → (agtOf v.2 t).xl = some (w.vp, none) →
        walkTell st w (.agt t, wr) = setAgt v.2 t { agtOf v.2 t with xl := some (w.vp, some (b, e)) }) ∧
      ∀ pp r, v.1 = .ok pp r → linkPage pp = false → (agtOf v.2 t).xl = some (w.vp, none) →
        (agtOf (walkTell st w (.agt t, wr)) t).xl = none) ∧
    (∀ x q, c.q = x :: q → beginDue s n ch = true → ∃ t, exec (.bteCommandBegin n ch) s = .next t ∧ (bteOf t n ch).q = q ∧
      (bteOf t n ch).taken = x.seq ∧ ∃ r, (bteOf t n ch).run = some r ∧ r.cmd = x) ∧
    (chainDue s n ch = true → ∃ t x, exec (.chainTake n ch) s = .next t ∧ (bteOf t n ch).q = c.q ++ [x] ∧ x.seq = c.taken + 1) ∧
    (∀ r, c.run = some r → ∃ t, exec (.followOnHandoff n ch) s = .next t ∧
      (∃ r', (bteOf t n ch).run = some r' ∧ r'.cmd = r.cmd ∧ r'.handed = r.handed ++ fonDue s n ch) ∧
      ∀ k d, fonDue s n ch = [k] → fonDesc (tileOf s k) r.cmd.fon = some d →
        (tileOf t k).fons = (tileOf s k).fons ++ [fonCmd d n ch r.cmd.seq]) ∧
    (∀ r, reportNext s n ch = some r → ∃ t, exec (.bteCommandReport n ch) s = .next t ∧ (bteOf t n ch).done = r.cmd.seq) ∧
    (∀ seq x t b sl cx, ((bteCmds c).find? fun x => x.seq == seq && missDue s.cyc x) = some x → x.strict = some (t, b, sl, cx) →
      ∃ u, exec (.promiseMissed n ch seq) s = .next u ∧ (tileOf u t).stopped = true ∧
        ∃ r, (tileOf u t).traps = (tileOf s t).traps ++ [r] ∧ r.cause = 0xD10 ∧ r.detail = BitVec.ofNat 64 seq ∧ r.bank = b)

/-- Power and trace (R417 to R420, R428), boot and reset (R415), the register window (R403), work queues (R408), inter-partition
queues (R412), links (R413), fencing (R30) and rings that were full (R405): each step does its part where it is due. Wake times
and the counts of gated blocks are the model's (assumption 82), and so are the three steps of a boot and what RESET clears
(assumption 8). -/
def Obligations.UnitSteps : Prop :=
  ∀ (s : State) (n : Nat),
    (s.cyc % 1050 = 0 → s.cyc ≠ 0 → dieFenced s n = false → exec (.currentSample n) s = .next
      ((List.range 16).foldl (fun x p => if sampled x p n then traceRecord x p (currentRec x p n) else x) s)) ∧
    (∀ k ep, (partOf s n).pathAt = some (k, ep) →
      let p := partOf s n
      let s1 := setPart s n { p with pathAt := none }
      (rgnOf s k = none → exec (.pathWalk n) s = .next s1) ∧
      ∀ r, rgnOf s k = some r → exec (.pathWalk n) s = .next ((pathRecs r (p.pathDue - 1050 * fld p.traceCtl 31 16)
        (pathHops s ep 32).1 (pathHops s ep 32).2).foldl (fun x y => traceRecord x n y) s1)) ∧
    exec (.throttle n) s = .next (modDie s n fun d => { d with throttle := true }) ∧
    exec (.throttleEnd n) s = .next (modDie s n fun d => { d with throttle := false }) ∧
    (256 ≤ (tileOf s n).idle → (tileOf s n).gated = false →
      exec (.clockGate n) s = .next (modTile s n fun t => { t with gated := true })) ∧
    (256 ≤ (mtileOf s n).idle → (mtileOf s n).gated = false →
      exec (.mtileClockGate n) s = .next (setMTile s n { mtileOf s n with gated := true })) ∧
    (refreshDue s n = true → exec (.selfRefresh n) s = .next (modDie s (n / 2) fun d => { d with selfRef := d.selfRef ++ [n] })) ∧
    (lanesDue s n = true → exec (.lanesIdle n) s = .next (setLink s n { linkOf s n with lanesIdle := true })) ∧
    (∀ u, isFenced s u = false → exec (.unitFence u) s = .next (fenceService s u)) ∧
    (∀ u, isFenced s u = true → exec (.unitFence u) s = .next s) ∧
    (wqDue s n = true → ∃ t, exec (.hostLaunchPacket n) s = .next t ∧
      mapGet t.host.wqCI n 0 = mapGet s.host.wqCI n 0 + 1 ∧ ∀ m, m ≠ n → mapGet t.host.wqCI m 0 = mapGet s.host.wqCI m 0) ∧
    (∀ v, exec (.registerWrite n v) s = .next (regWrite s n v)) ∧
    (∀ b, (mtileOf s n).link = some b → exec (.gatewayCrossing n) s = .next (gateDepart (gateArrive s n b) n b)) ∧
    (linkLive s n = true → (linkOf s n).retries < 17 → exec (.flitRetry n) s =
      .next (setLink s n { linkOf s n with retries := (linkOf s n).retries + 1 })) ∧
    (linkLive s n = true → 17 ≤ (linkOf s n).retries → exec (.linkRetryExhausted n) s = .next (fenceService s (.link n))) ∧
    exec .reset s = .next (bootPart s) ∧
    (s.host.booted = true ∨ s.host.failed = true → exec .reset s = .next (resetPart s)) ∧
    (s.host.booted = false → s.host.failed = false →
      (s.host.boot = 0 → imageTaken = true → exec .reset s = .next (modHost s fun h => { h with boot := 1 })) ∧
      (s.host.boot = 0 → imageTaken = false → exec .reset s = .next (modHost s fun h => { h with failed := true })) ∧
      (s.host.boot = 1 → exec .reset s = .next (modHost (Config.bootFails.foldl fenceUnit s) fun h => { h with boot := 2 })) ∧
      (s.host.boot = 2 → exec .reset s =
        .next (modHost s fun h => { h with booted := true, fwver := Config.fwVersion.toNat }))) ∧
    (∀ a r l w, n < 16 → (partOf s n).heldFault = (a, r) :: l → w = BitVec.ofNat 64 (partFld (partOf s n) 152 8) →
      ringFull s w (partFld (partOf s n) 160 8) (partOf s n).faultPI = false → exec (.consumerIndexAdvance n) s = .next (setPart
        (physSet s (ringSlot w (partOf s n).faultPI) (lateRec r s.cyc).toNat 64) n
        { partOf s n with faultPI := (partOf s n).faultPI + 1, heldFault := l })) ∧
    (∀ a r l, 16 ≤ n → s.host.heldMgmt = (a, r) :: l →
      ringFull s s.host.mgmtRing s.host.mgmtCIAddr.toNat s.host.mgmtPI = false → exec (.consumerIndexAdvance n) s = .next
        { physSet s (ringSlot s.host.mgmtRing s.host.mgmtPI) (lateRec r s.cyc).toNat 64 with
          host := { s.host with mgmtPI := s.host.mgmtPI + 1, heldMgmt := l } })

/-- The commands of the debug port (R425, R426): the command under way is answered, with its status and its value; a command out of
format is refused with DBG_FORMAT, and one on a region that the partition does not hold with PARTITION_BOUNDS (R374). RESUME of a FROZEN
region, once every record of its stop is written, restarts it where every record is recoverable, as the host's RESUME does (R378, R164),
and orders it after the debug port's accesses (R427); else it gives NOT_RECOVERABLE. Statuses that the rules do not give are the model's
(assumption 80). -/
def Obligations.DebugCommands : Prop :=
  ∀ (s : State) (c : BitVec 512), dbgOpen s c = true → dbgPart c < 16 →
    let ends := fun (i : Instr) (st : Nat) (v : Option (BitVec 512)) => exec i s = .next (dbgEnd s st v)
    let noRgn := rgnOf s (dbgKey c) = none
    (noRgn → ends (.halt c) 0x109 none ∧ ends (.dbgResume c) 0x109 none ∧ (dbgFld c 8 1 ≤ 6 → ends (.memRd c) 0x109 none) ∧
      (dbgFld c 8 1 ≤ 5 → ends (.memWr c) 0x109 none)) ∧
    (∀ r, rgnOf s (dbgKey c) = some r →
      (r.st ≠ .live → ends (.halt c) 0x131 none) ∧
      (r.st = .live → r.drain = none → ∃ t, exec (.halt c) s = .next t ∧ t.host.dbgHold = some (dbgKey c) ∧
        ∃ r' d, rgnOf t (dbgKey c) = some r' ∧ r'.drain = some d ∧ d.kind = 2 ∧ d.start = s.cyc) ∧
      (r.st = .live → r.drain = none → 1 ≤ dbgFld c 8 8 → dbgFld c 8 8 ≤ 2 ^ 32 → ∃ t, exec (.step c) s = .next t ∧
        t.host.dbgHold = some (dbgKey c) ∧ ∃ r' d, rgnOf t (dbgKey c) = some r' ∧ r'.drain = some d ∧ d.kind = 1 ∧
          d.k = dbgFld c 8 8) ∧
      (r.st = .live → ends (.dbgResume c) 0 none) ∧ (r.st ≠ .live → r.st ≠ .frozen → ends (.dbgResume c) 0x111 none) ∧
      let h := (Config.holder 2 r.part 0).toNat
      (r.st = .frozen → r.drain = none → recordsWritten s (dbgKey c) = true → clockRoom (partOf s r.part) h = true →
        (rgnRecovers s (dbgKey c) = false → ends (.dbgResume c) 0x115 none) ∧
        (rgnRecovers s (dbgKey c) = true →
          let s1 := clkRelease (resumeRegion s (dbgKey c)) r.part h (.resume (dbgKey c)) 3 (diePlace 0)
          let t := dbgEnd (clkAcquire s1 r.part r.holder (.resume (dbgKey c)) 3 (diePlace (rgnDie r)) none) 0 none
          exec (.dbgResume c) s = .next t ∧ t.host.dbgDone = true ∧ t.host.dbgStatus = 0 ∧
          (rgnOf t (dbgKey c)).map (·.st) = some .live ∧
          ∀ n, n ∈ rgnTiles s (dbgKey c) → (∀ x, x ∈ (tileOf s n).traps → x.again = none) →
            (tileOf t n).stopped = false ∧ (tileOf t n).traps = [] ∧
            (tileOf t n).bank = ((tileOf s n).traps.getLast?.map (·.bank)).getD (tileOf s n).bank))) ∧
    (dbgFld c 8 8 = 0 → ends (.step c) 0x133 none) ∧
    (∀ r, rgnOf s (dbgKey c) = some r → dbgFld c 8 1 ≤ 3 →
      ∃ t, exec (.brkClr c) s = .next t ∧ t.host.dbgDone = true ∧ t.host.dbgStatus = 0 ∧
        rgnOf t (dbgKey c) = some { r with brks := mapDel r.brks (dbgFld c 8 1) }) ∧
    (∀ r, rgnOf s (dbgKey c) = some r → dbgTileBad c = false → dbgFld c 8 1 ≤ 3 → dbgFld c 9 1 ≤ 3 → dbgFld c 10 1 ≤ 63 →
      dbgFld c 16 2 ≠ 0 → partTile (partOf s r.part) (epTile (dbgFld c 12 4)) = true →
      ∃ t, exec (.brkSet c) s = .next t ∧ t.host.dbgStatus = 0 ∧ ∃ r' b, rgnOf t (dbgKey c) = some r' ∧
        mapFind r'.brks (dbgFld c 8 1) = some b ∧ b.tile = epTile (dbgFld c 12 4) ∧ b.slot = dbgFld c 10 1 ∧ b.ctx = dbgFld c 9 1 ∧
        b.left = dbgFld c 16 2 ∧ b.hit = none) ∧
    (dbgRegBad c = true → ends (.regRd c) 0x133 none ∧ ends (.regWr c) 0x133 none) ∧
    (∀ r, dbgRegBad c = false → rgnOf s (dbgKey c) = some r →
      let tile := epTile (dbgFld c 12 4)
      let b := bankOf (tileOf s tile) (dbgFld c 8 1)
      let named := partTile (partOf s r.part) tile = true ∧ (tileOf s tile).rgn = some (dbgKey c)
      (named → r.st = .frozen → ends (.regRd c) 0 (some (dbgItem b (dbgFld c 9 1) (dbgFld c 10 1)))) ∧
      (named → r.st = .frozen → atLull s (dbgKey c) r = false → ends (.regWr c) 0x130 none) ∧
      (named → r.st ≠ .frozen → ends (.regRd c) 0x131 none ∧ ends (.regWr c) 0x131 none) ∧
      ∀ b', named → r.st = .frozen → atLull s (dbgKey c) r = true → dbgPut s b (dbgFld c 9 1) c = some b' →
        exec (.regWr c) s = .next (dbgEnd (useFree (modTile s tile fun x => setBank x (dbgFld c 8 1) b')) 0 none)) ∧
    (6 < dbgFld c 8 1 → ends (.memRd c) 0x133 none) ∧ (5 < dbgFld c 8 1 → ends (.memWr c) 0x133 none) ∧
    (let x : W64 := BitVec.ofNat 64 (dbgFld c 16 8)
     let go := fun (a : State × Nat × Bool) (p : Nat × Loc × Nat) =>
       let r := homeAccess a.1 (dbgAcc (dbgPart c) .read (x + BitVec.ofNat 64 p.1) p.2.1 p.2.2 0)
       (r.1, a.2.1 + r.2.val.toNat % 2 ^ (8 * p.2.2) * 2 ^ (8 * p.1), a.2.2 && r.2.ok)
     let here := (rgnOf s (dbgKey c)).isSome = true
     (∀ s1 l s2 v, here → dbgFld c 8 1 ≤ 6 → dbgPieces s (dbgPart c) x false 3 0 (2 ^ dbgFld c 8 1) = (s1, .ok l) →
       l.foldl go (s1, 0, true) = (s2, v, true) → exec (.memRd c) s = .next (dbgEnd s2 0 (some (BitVec.ofNat 512 v)))) ∧
     (∀ s1 st, here → dbgFld c 8 1 ≤ 6 → dbgPieces s (dbgPart c) x false 3 0 (2 ^ dbgFld c 8 1) = (s1, .error st) →
       exec (.memRd c) s = .next (dbgEnd s st none)) ∧
     (∀ s1 st, here → dbgFld c 8 1 ≤ 5 → dbgPieces s (dbgPart c) x true 3 0 (2 ^ dbgFld c 8 1) = (s1, .error st) →
       exec (.memWr c) s = .next (dbgEnd s st none)) ∧
     ∀ s1 l, here → dbgFld c 8 1 ≤ 5 → dbgPieces s (dbgPart c) x true 3 0 (2 ^ dbgFld c 8 1) = (s1, .ok l) →
       exec (.memWr c) s = .next (dbgEnd (l.foldl (fun a p => (homeAccess a (dbgAcc (dbgPart c) (.write (storeMask p.2.2))
         (x + BitVec.ofNat 64 p.1) p.2.1 p.2.2 (dbgFld c (24 + p.1) p.2.2))).1) s1) 0 none))

/-- Tokens between ports (R42 to R53), switch elements (R51, R52), watchdogs and detachment (R49, R50), the record of a trap (R163)
and the stop of its region (R162): each step does its part where it is due. A cloned operator is one consumer as written (R35): it is
detached with all its copies, through its steering unit. That ERR DETACHED has tag 0 (assumption 86), that it comes after the tokens on
their way (assumption 109), that a port stands modulo 8 in its detail (assumption 85), and how far a cloned operator's merge unit is from
the ports after it (assumption 107) are the model's. -/
def Obligations.TokenSteps : Prop :=
  (∀ (s : State) (n i : Nat) (c : Chan) (x : Cons), chanOf s n = some c → c.cons[i]? = some x →
    let p := inPortOf s x.ep
    let put := fun (st : State) (f : Cons → Cons) => setChan st n (modCons c i f)
    (∀ t, tokDue s c x = some t →
      let s1 := enqueueTok (freshenAt (put s fun x => { x with toks := x.toks.drop 1 }) c x) x.ep c.blk t
      let q := inPortOf s1 x.ep
      exec (.tokenArrival n i) s = .next (setInPort s1 x.ep { q with o := if t.kind = .drain then q.o else q.o - 1 })) ∧
    (portAsks s c x = true → exec (.portRequest n i) s = .next (setChan (setInPort s x.ep { p with o := p.o + 1 }) n
      (modCons c i fun x => { x with reqs := x.reqs ++ [s.cyc + chanRoute s c x.ep c.prod] }))) ∧
    (c.merge = none → chanRoute s c x.ep c.prod = route s x.ep c.prod) ∧
    (reqDue s x = true → exec (.requestArrival n i) s =
      .next (put s fun x => { x with reqs := x.reqs.drop 1, pend := min 4 (x.pend + 1) })) ∧
    (detachDue c i = true → chanHere s c = true → x.copy = none → ∃ t y, exec (.multicastDetach n i) s = .next t ∧
      (chanOf t n).bind (fun d => d.cons[i]?) = some y ∧ y.attached = false ∧ y.pend = 0 ∧ y.reqs = [] ∧ y.stall = 0 ∧ y.ep = x.ep ∧
      (inPortOf t x.ep).errs = p.errs ++ [⟨.err, 0, errPay 1 (epEn x.ep + epDie x.ep * 2 ^ 11 + epPort x.ep % 8 * 2 ^ 13)⟩] ∧
      (inPortOf t x.ep).queue = p.queue) ∧
    (∀ op, detachDue c i = true → chanHere s c = true → x.copy = some op → ∃ t d,
      exec (.multicastDetach n i) s = .next t ∧ chanOf t n = some d ∧
      d.cons = c.cons.map (fun y => if y.copy = some op then { y with attached := false, pend := 0, reqs := [], stall := 0 } else y) ∧
      d.steer = c.steer.map (fun u => if u.1 = op then (u.1, u.2 ++
        [⟨.err, 0, errPay 1 (epEn x.ep + epDie x.ep * 2 ^ 11 + epPort x.ep % 8 * 2 ^ 13)⟩]) else u)) ∧
    (∀ t l, p.errs = t :: l → detachedDue s c x = true → exec (.detached n i) s =
      .next (setInPort s x.ep { p with errs := l, queue := p.queue ++ [(s.cyc, (arriving s x.ep c.blk p.run t).1)] })) ∧
    (lagDue c i = true → exec (.laggard n i) s = .next (lagRecord (put s fun x => { x with lag := true }) c x 0)) ∧
    (lagEnds c i = true → exec (.laggardEnd n i) s =
      .next (lagRecord (put s fun x => { x with lag := false, stall := 0 }) c x 1))) ∧
  ∀ (s : State) (n : Nat),
    (∀ t, gatherNext s n = some t → exec (.switchGather n) s = .next t) ∧
    (∀ t, scatterNext s n = some t → exec (.switchScatter n) s = .next t) ∧
    (∀ r, trapDue s n = some r → exec (.trapRecord n) s = .next (faultRecord
      (modTile s n fun t => { t with traps := markTrap t.traps }) (tilePart s n) (.bank n r.bank)
      (trapRec s n (((tileRgn s n).map fun x => x.2.id).getD 0) r))) ∧
    (∀ r, rgnOf s n = some r → stopDue s n r = true → ∃ t, exec (.regionStop n) s = .next t ∧
      (∃ r', rgnOf t n = some r' ∧ r'.st = (if r.st = .live then .frozen else r.st)) ∧
      (∀ m, m ∈ rgnTiles s n → (tileOf t m).stopped = true) ∧
      ∀ m, m ∉ rgnTiles s n → tileOf t m = tileOf s m)

/-- The matrix unit and its follow-ons (R196, R198, R212, R218), streams (R222), the banks of a memory tile (R227), the homes of
accesses (R295 to R301), race sweeps and mode changes (R321, R323), FIFOs (R230), rings (R234 to R238) and task packets (R331, R332):
each step does its part where it is due. Model's choices: a follow-on reads its operands as its entry ends, and one that meets an
uncorrectable word goes on without that step (assumption 26); what a queue's release waits for (assumption 117); a sweep visits one
line in a step and raises the floors in its last (assumption 44); a cached line's bank is named by its address (assumption 119). -/
def Obligations.MatrixAndMemorySteps : Prop :=
  (∀ (s : State) (n : Nat),
    let t := tileOf s n
    (∀ c q, t.cmdq = c :: q → canStart s.cyc t.runs c = true → ∃ u x, exec (.matrixEntryStart n) s = .next u ∧
      (tileOf u n).cmdq = q ∧ (tileOf u n).runs = t.runs ++ [x] ∧ x.cmd = c ∧ x.start = s.cyc ∧ (tileOf u n).acc = t.acc) ∧
    (∀ r d b ch q, matDue s t = some r → r.cmd.fon = some (d, b, ch, q) →
      let t0 := { t with runs := t.runs.erase r }
      let e := fonEffect t0 d r.cmd.ftzi r.cmd.ftzo
      let u := setTile s n (setBank e.1 0 { bankOf e.1 0 with mode := modeRaise (bankOf e.1 0).mode e.2.1 })
      let x := e.2.2.2.2
      (r.bad = true → exec (.matrixEntryDone n) s = .next (fonReport (setTile s n t0) n b ch q 0x901 0 0)) ∧
      (r.bad = false → e.2.2.1 = 0xA06 → exec (.matrixEntryDone n) s =
        .next (fonReport (errNote u (.lm n x)) n b ch q 0xA06 e.2.2.2.1 (14 * 2 ^ 60 + tileEp n 0 * 2 ^ 32 + x))) ∧
      (r.bad = false → e.2.2.1 ≠ 0xA06 → exec (.matrixEntryDone n) s = .next (fonReport u n b ch q e.2.2.1 e.2.2.2.1 0))) ∧
    (∀ r, matDue s t = some r → r.cmd.fon = none →
      let o := matEffect { t with runs := t.runs.erase r } r.cmd
      (∀ j, (t.jobs.find? fun j => j.id == r.cmd.job) = some j → exec (.matrixEntryDone n) s =
        .next (finishJob (setTile s n o.t) n { j with r1 := o.r1, r2 := if r.cmd.two then o.r2 else o.r1, raise := o.raise })) ∧
      ((t.jobs.find? fun j => j.id == r.cmd.job) = none → exec (.matrixEntryDone n) s = .next (setTile s n o.t))) ∧
    (∀ c l, t.fons = c :: l → t.cmdq.length < 8 → exec (.followOnEnter n) s = .next (setTile s n { t with fons := l, cmdq := t.cmdq ++
      [{ c with ftzi := modeFtzi (bankOf t 0).mode, ftzo := modeFtzo (bankOf t 0).mode }] })) ∧
    (fetchDue s t = true → exec (.streamFetch n) s = .next (setTile s n (fetchNext s t))) ∧
    (∀ h c p q l, (t.handles.getD h handle0).ups = (c, p, q) :: l → c ≤ s.cyc → h < 8 →
      ∃ u, exec (.handleViewUpdate n h) s = .next u ∧ ((tileOf u n).handles.getD h handle0).p = p ∧
        ((tileOf u n).handles.getD h handle0).c = q ∧ ((tileOf u n).handles.getD h handle0).ups = l) ∧
    (∀ l p rest, t.present = none → nextLabel t = some l → takeFirst (fun p => p.label == l) t.tbuf = some (p, rest) →
      exec (.packetPresent n) s = .next (setTile s n { t with present := some p, tbuf := rest, lastLabel := l })) ∧
    (∀ x, (s.packets.find? fun x => x.id == n) = some x → packetDue s x = true →
      exec (.taskPacketArrival n) s = .next ((packetIn s x).getD s))) ∧
  (∀ (s : State) (id : Nat) (a : Acc), accOf s id = some a →
    (accReady s a = true → exec (.accessPerform id) s = .next (performAcc s a) ∧ exec (.releasePerform id) s = .next (performAcc s a)) ∧
    (∀ t b, a.agent = .bank t b → returns s a = true → exec (.loadReturn id) s = .next (returnAcc s t a)) ∧
    (advanceDue s a = true → exec (.ringAdvance id) s = .next (ringAdvance s a)) ∧
    (∀ t b h m x, a.agent = .bank t b → a.ring = some (h, m, x) → advanceBack s a = true →
      let s1 := modTile (accDel s id) t fun x => setHandle x h { x.handles.getD h handle0 with busy := false }
      (a.ok = true → exec (.advanceAnswer id) s = .next s1) ∧
      (a.ok = false → exec (.advanceAnswer id) s =
        .next (takeTrap s1 t (answerTrap s t a.who a.cause (a.val.setWidth 64)))))) ∧
  ∀ (s : State) (n port : Nat),
    let m := mtileOf s n
    (∀ a, mtHead s n port = some a → exec (.mtRequest n port) s = .next (performAcc (setMTile s n { m with
        pq := mapSet m.pq port ((mapGet m.pq port []).drop 1) [],
        served := mtBank s a :: (16 + port) :: m.served, rot := mapPut m.rot (mtBank s a) port }) a)) ∧
    (∀ t, fifoTakes s n port = true → headAt s (mtEp n port) = some t →
      let s1 := gwRelease (deqHead s (mtEp n port)) n port
      let u := mtileOf s1 n
      (port = 3 → exec (.fifoEnqueue n port) s = .next (setMTile s1 n { u with fifo := u.fifo ++ [t] })) ∧
      (port = 0 → gwWaits s n = false →
        exec (.fifoEnqueue n port) s = .next (setMTile s1 n { u with fifo := u.fifo ++ [t], relAt := none })) ∧
      (port = 0 → gwWaits s n = true →
        exec (.fifoEnqueue n port) s = .next (setMTile s n { m with relAt := some (m.relAt.getD s.nid) }))) ∧
    (∀ t, fifoGives s n port = true → fifoHead m = some t →
      let s1 := gwAcquire (gatePass (setMTile (fifoNote s n) n (fifoPop (mtileOf (fifoNote s n) n))) n) n
      exec (.fifoDequeue n port) s = .next (queueOut (takeRequest s1 (mtEp n 1)) (mtEp n 1) 0 (some t))) ∧
    (let p := partOf s n
     (p.sweep = none → p.raceMode ≠ 0 → sweepTargets p ≠ [] →
       exec (.raceSweep n) s = .next (setPart s n { p with sweep := some (sweepTargets p, sweepLines s p) })) ∧
     (∀ t l rest, p.sweep = some (t, l :: rest) →
       exec (.raceSweep n) s = .next (modPart (sweepAt s n p t l) n fun q => { q with sweep := some (t, rest) })) ∧
     ∀ t, p.sweep = some (t, []) → exec (.raceSweep n) s =
       .next (setPart s n { p with floor := t.foldl (fun m e => mapPut m e.1 e.2) p.floor, sweep := none })) ∧
    (∀ k c, (partOf s n).raceNext = some (k, c) → c ≤ s.cyc → exec (.raceModeClear n) s =
      .next (modPart (dropSums (metaClear s n) n) n fun q => { q with raceMode := k, raceNext := none }))

/-- Launches and their distribution (R335 to R343, R354, R409): an accepted launch gets the next sequence number and its answer; a
launch in spill moves into a free queue entry; a launch is checked, its blocks are handed out, its tile records are read, its tasks are
bound to instances, which are told of their indices, report and are reusable, and the launch ends with its completion word. The
model's choices: how far ahead a dispatcher hands out blocks (assumption 49), the two parts of a descriptor (assumption 48), and which
die writes the completion word, the die of the instance that reported last (assumption 50). -/
def Obligations.LaunchSteps : Prop :=
  (∀ (s : State) (n : Nat) (r : Region), rgnOf s n = some r →
    (∀ c p t r1, feedNext s r = some (c, p, t, r1) → sourcesOpen s n r p = true → sourceReady s c p = true →
      exec (.indexDelivery n) s = .next (sourceSend (setRgn s n (sourcePass r1 p)) c p t)) ∧
    (completes s n r = true →
      let s1 := setRgn s n { r with reusable := true, feed := none }
      ((r.launch.bind fun l => launchOf s r.part l.1) = none → exec (.regionCompletion n) s = .next s1) ∧
      ∀ l, (r.launch.bind fun l => launchOf s r.part l.1) = some l → exec (.regionCompletion n) s = .next (setLaunch s1
        { l with bound := l.bound.filter (· != n), reported := l.reported ++ [n], last := rgnDie r,
                 given := l.given.filter fun g => g.2.2 != some n }))) ∧
  (∀ (s : State) (id t b j : Nat) (a : Acc), accOf s id = some a → a.toward = .launch j → a.agent = .bank t b →
    (descParts s a).all (partBack s) = true → dispEarlier s (((descParts s a).head?.map (·.id)).getD a.id) t b (tileDie t) = false →
    let l := descParts s a
    let x := ((l.find? fun b => !b.ok).or l.head?).getD a
    exec (.launchAccept id) s = .next (launchReturn s l x t j) ∧
    ∀ q k, x.ok = true → launchRoom (partOf s x.part) = some q → jobOf (tileOf s t) j = some k →
      let u := launchTake (l.foldl (fun x b => accDel x b.id) s) x.part (descValue l) x.holder x.agent q
      exec (.launchAccept id) s =
        .next (answerJob (clkRename u.2 x.part (launchObj t j) (.launch u.1)) t k (BitVec.ofNat 512 u.1) true)) ∧
  (∀ (s : State) (n m : Nat),
    (∀ l rest, (partOf s n).spill = l :: rest → queueUsed (partOf s n) < 1024 → exec (.spillMove n) s =
      .next (setPart s n { partOf s n with devq := (partOf s n).devq ++ [l], spill := rest })) ∧
    (∀ l r, distNext s n = some (.inl l) → launchCheck s n l.desc = some r → exec (.launchDistribution n) s = .next (launchFail s l r)) ∧
    (∀ l, distNext s n = some (.inl l) → launchCheck s n l.desc = none → exec (.launchDistribution n) s = .next (setLaunch s
      { l with checked := true, whole := confWhole s n (ldConf l.desc), dies := confDies s n (ldConf l.desc),
               blocks := if confWhole s n (ldConf l.desc) then 1 else if ldTrl l.desc then ldCount l.desc
                 else (ldCount l.desc + ldGrain l.desc - 1) / ldGrain l.desc })) ∧
    (∀ b d l, distNext s n = some (.inr (b, d, l)) → exec (.launchDistribution n) s = .next (setLaunch s (blockOut l b d))) ∧
    (∀ l b d rest, launchOf s n m = some l → l.recs = (b, d) :: rest →
      let s1 := (recordRead s l b d).1
      let given := l.given.filter fun x => !(x.1 == b && x.2.1 == d && x.2.2.isNone)
      let bad := launchErr (setLaunch s1 { l with recs := rest, flags := l.flags ||| 2, given := given }) n 6 m b (ldConf l.desc)
      ((recordRead s l b d).2 = none → exec (.tileRecordRead n m) s = .next bad) ∧
      ∀ x, (recordRead s l b d).2 = some x →
        (65535 < x % 2 ^ 32 ∨ 65535 < x / 2 ^ 96 % 2 ^ 32 → exec (.tileRecordRead n m) s = .next bad) ∧
        (x / 2 ^ 64 % 2 ^ 32 = 0 → x % 2 ^ 32 ≤ 65535 → x / 2 ^ 96 % 2 ^ 32 ≤ 65535 →
          exec (.tileRecordRead n m) s = .next (setLaunch s1 { l with recs := rest, given := given })) ∧
        (x / 2 ^ 64 % 2 ^ 32 ≠ 0 → x % 2 ^ 32 ≤ 65535 → x / 2 ^ 96 % 2 ^ 32 ≤ 65535 → exec (.tileRecordRead n m) s = .next (setLaunch s1
          { l with recs := rest, ready := l.ready ++ (recordTasks l b (x % 2 ^ 32) (x / 2 ^ 32 % 2 ^ 32) (x / 2 ^ 64 % 2 ^ 32)
              (x / 2 ^ 96 % 2 ^ 32)).map fun t => (d, t) }))) ∧
    (∀ k r t, bindNext s n m = some (k, r, t) →
      let s1 := taskTaken s k m r t
      (r.reusable = true → exec (.taskBind n m) s = .next (bindInstance s1 k r t)) ∧
      (r.reusable = false → exec (.taskBind n m) s = .next (modRgn s1 k fun r => { r with feed := some (feedOf t true) })))) ∧
  ∀ (s : State) (n m : Nat) (l : Launch), launchOf s n m = some l → launchDone s l = true →
    let rk := (l.reported.getLast?).getD (n * 2 ^ 32)
    let h := ((rgnOf s rk).map (·.holder)).getD l.holder
    clockRooms (partOf s n) h 1 = true →
    let d := if l.reported.isEmpty || dieFenced s l.last then lowDie s else l.last
    exec (.launchCompletion n m) s = .next (modPart (writeDone s n d h rk (ldDone l.desc) ((l.seq + l.flags * 2 ^ 61) % 2 ^ 64)) n
      fun p => { p with devq := p.devq.filter fun x => x.seq != m })

/-- The expert tables (R389 to R393, R397, R398): each step of a die's counts, a replication, a rollback, an adoption, a redirected
packet and a gradient merge does its part where it is due. The model's choices: a merge is one step (assumption 71), all packets of a
tile are redirected in one step (assumption 73), what a race at an engine's write stops (assumptions 102 and 43). -/
def Obligations.ExpertSteps : Prop :=
  ∀ (s : State) (n d : Nat),
    (sendDue s d = true →
      let s1 := modDie s d fun x => { x with counts := [] }
      let s2 := { s1 with xtabs := s1.xtabs.map fun x => countsIn x (dieOf s d).counts }
      exec (.loadSend d) s = .next ((s2.xtabs.filter (intervalOver s2)).foldl (fun y x => intervalEnd y (tabKey x)) s2)) ∧
    (∀ x e r sp, tabAt s n = some x → copyOver s x = some (e, r, sp) →
      let w := spareW x sp 0
      let p := putSlot s x e r (BitVec.ofNat 64 (2 ^ 62 + sp * 2 ^ 58 + fld w 57 39 * 2 ^ 39 + fld w 38 32 * 2 ^ 32))
      (p.2 ≠ .raced → exec (.replicationCopyDone n) s = .next (publish p.1 n)) ∧
      (p.2 = .raced → exec (.replicationCopyDone n) s = .next (opRaced p.1 n (slotVa x e r)))) ∧
    (∀ x e r sp st a, tabAt s n = some x → rollNow x = some ((e, r, sp), st, a) →
      let s2 := releaseOwn (putSst (setTab s (opEnd x)) n sp 2).1 x.part (fld (spareW x sp 0) 31 0)
      exec (.rollback n) s = .next (mgmtRecord (modPart s2 x.part fun p => { p with rollbacks := p.rollbacks + 1 })
        .place (placeRec s x 0x90 e r 1 st sp a 0))) ∧
    (∀ x, adoptDue s n d false = some x → exec (.versionAdopt n d) s = .next (adoptAt s n d x)) ∧
    (∀ x, adoptDue s n d true = some x → exec (.tableAdopt n d) s = .next (adoptAt s n d x)) ∧
    (let s1 := modTile s n fun t =>
       { t with present := t.present.filter fun p => (retiringAt s n p.label).isNone,
                tbuf := t.tbuf.filter fun p => (retiringAt s n p.label).isNone }
     exec (.packetRedirect n) s = .next ((redirAll s n).foldl (fun x r => redirect x n r.1 r.2.1 r.2.2) s1)) ∧
    ∀ x k, mergeDue s n = some (x, k) →
      let s0 := clkAcquire s x.part (Config.holder 1 x.part 0).toNat (.step x.tab) 2 (diePlace 0) none
      let fin := fun y : State => match tabAt y n with
        | some z => setTab y (opEnd { z with steps := z.steps.drop 1 })
        | none => y
      let faults := fun (y : State) (e r st a : Nat) =>
        exec (.gradientMerge n) s = .next (mgmtRecord (fin y) .place (placeRec s x 0x90 e r 3 st 0xFFFF a 0))
      (∀ s1 e r st a, mergeAll s0 x = (s1, some (e, r, st, a)) → faults s1 e r st a) ∧
      (∀ s1 s2 e r st a, mergeAll s0 x = (s1, none) → freeRetired s1 n x = (s2, some (e, r, st, a)) → faults s2 e r st a) ∧
      (∀ s1 s2 s3 e r st a, mergeAll s0 x = (s1, none) → freeRetired s1 n x = (s2, none) →
        mergedPut s2 n k = (s3, some (e, r, st, a)) → faults s3 e r st a) ∧
      ∀ s1 s2 s3, mergeAll s0 x = (s1, none) → freeRetired s1 n x = (s2, none) → mergedPut s2 n k = (s3, none) →
        exec (.gradientMerge n) s = .next (fin s3)

/-- Draining, stepping and saving (R376, R379, R380, R421, R424), the shadow exchange (R381), the live rewire and its plans (R357,
R359, R365 to R373, R377, R382, R383, R385) and delay lines (R46): each step does its part where it is due. The model's choices: the
move and the opening of the gate fall in the cycle in which step 3's writes end, and what R361 and R372 leave open of a rewire
(assumption 56), one HOST proposal in a window (assumption 58), the bytes of a save image and the status of an aborted save
(assumption 60), what counts as trapped at a save (assumption 68). -/
def Obligations.DrainAndRewireSteps : Prop :=
  (∀ (s : State) (n : Nat),
    (∀ k r d, drainNow s n = some (k, r, d) →
      let e := n % 2 ^ 20
      let s1 := modRgn s k fun r => { r with drain := some { d with gone := d.gone ++ [e] } }
      let src := if e = argProd then r.arg else r.idx
      (isSource e = false → exec (.elementDrained n) s = .next (elemStop (drainOuts s1 e) e)) ∧
      (∀ c, isSource e = true → src = some c → exec (.elementDrained n) s = .next (enterChan s1 c e 0 drainTok)) ∧
      (isSource e = true → src = none → exec (.elementDrained n) s = .next s1)) ∧
    (∀ tag, exchangeDue s n = some tag →
      let s1 := flipHalves (exchange s n) n
      let s2 := { s1 with rgns := s1.rgns.map fun x => if x.2.part = n then (x.1, exchangeSt x.2) else x }
      let s3 := (partRgns s2 n).foldl (fun x e => if e.2.st = .live then
        (rgnTiles x e.1).foldl (fun y m => modTile y m fun t => { t with stopped := !t.traps.isEmpty }) x else x) s2
      exec (.shadowExchange n) s = .next (tagEnd (modPart s3 n fun p => { p with swap := none }) n tag 0 0)) ∧
    (∀ r d, saveDue s n = some (r, d) →
      let m := saveMake (undrain s n true) n d.area false true d.keep
      exec (.saveDone n) s = .next (saveAnswer m.1 r.part d.tag m.2)) ∧
    (∀ a b, (rgnOf s n).bind (failNow s n) = some (a, b) →
      exec (.rewireFail n) s = .next (rewireFails { s with free := s.free + 1 } n a b)) ∧
    ∃ t, exec (.proposalLapse n) s = .next t ∧ ∀ r, rgnOf s n = some r →
      rgnOf t n = some { r with proposals := r.proposals.filter fun p => decide (r.win ≤ p.window) }) ∧
  (∀ (s : State) (n : Nat) (r : Region), rgnOf s n = some r →
    (∀ d, stopEnds s n r = some (d, 0) → exec (.stop n) s = .next (reportStop (stopNow (undrain s n true) n) n r d 0)) ∧
    (∀ d st, stopEnds s n r = some (d, st) → st ≠ 0 → exec (.stop n) s = .next (reportStop (undrain s n false) n r d st)) ∧
    (∀ d, drainLate s r false = some d →
      exec (.stepTimeout n) s = .next (reportStop (stopNow (undrain s n false) n) n r d 0x132)) ∧
    (∀ d, drainLate s r true = some d → exec (.drainTimeout n) s = .next (reqBegin (saveStop (undrain s n false) n r)
      (recOf [(0, 2, 6), (2, 1, r.part), (4, 4, d.tag), (8, 4, r.id), (16, 8, d.area), (24, 1, d.keep.toNat)]) [1])) ∧
    (∀ i e, brkHit r i = some e → exec (.slotBreakpoint n i) s =
      .next (startHalt (modRgn s n fun r => { r with brks := mapDel r.brks i }) n 2 (BitVec.ofNat 64 i) e)) ∧
    (∀ p, planToArm r = some p → p.cut.getD 0 < opPassed s r p.op → exec (.planArm n) s = .next (holdGate (armPlans 8
      (mgmtRecord (setRgn s n { r with plans := r.plans.drop 1 }) (.ctl (rgnDie r)) (rewireRec s r 0x71 p.op 4 0 (p.cut.getD 0))) n) n)) ∧
    (∀ p, planToArm r = some p → opPassed s r p.op ≤ p.cut.getD 0 → exec (.planArm n) s =
      .next (holdGate (setRgn s n { r with plans := { p with armed := true } :: r.plans.drop 1 }) n)) ∧
    (∀ id c, planAtCut s r = some (id, c) → holdGate s n =
      setChan (setRgn s n { r with plans := (r.plans.take 1).map (fun p => { p with held := true }) ++ r.plans.drop 1 }) id (closeGate s c)) ∧
    (∀ p id c, gateNow s n r = some p → opChan s r p.op = some id → chanOf s id = some c → exec (.gating n) s =
      .next (setChan (setRgn s n { r with rewire := some { rewireNew s r p with step := 2, chan := id, cut := c.passed } })
        id (closeGate s c))) ∧
    (∀ w, rewireReady s n r (· != 2) = some w → w.plan.action = 1 → opClone r w.plan.op = none →
      exec (.ungate n) s = .next (openGate (placeClone s n r w.plan.op w.plan.target) n w.chan)) ∧
    (∀ w c, rewireReady s n r (· != 2) = some w → w.plan.action = 1 → opClone r w.plan.op = some c → mergeEmpty s c = true →
      exec (.ungate n) s = .next (openGate (placeClone s n r w.plan.op w.plan.target) n w.chan)) ∧
    (∀ w k v, rewireReady s n r (· != 2) = some w → w.plan.action = 3 → foldIdx r w.plan = some k → r.img.folds[k]? = some v →
      exec (.ungate n) s = .next (openGate (applyFold s n k v) n w.chan)) ∧
    (∀ w f v, rewireReady s n r (· != 2) = some w → w.plan.action ≠ 1 → w.plan.action ≠ 3 → foldOf r w.plan.op = some (f, v) →
      exec (.ungate n) s = .next (openGate (undoFold s n f v) n w.chan)) ∧
    (∀ w c, rewireReady s n r (· == 2) = some w → opClone r w.plan.op = some c → mergeEmpty s c = true →
      exec (.retirement n) s = .next (openGate (retireClones s n c) n w.chan)) ∧
    (windowDue s r = true →
      let r1 : Region := { r with winDue := false }
      let s2 := writeBaros (setRgn s n r1) n
      let free := r.st = .live ∧ r.rewire = none ∧ r.plans = [] ∧ r.stopAt = none ∧ r.drain = none
      (free → chooseRewire s2 n r1 = none → exec (.barometerWindow n) s = .next s2) ∧ (¬free → exec (.barometerWindow n) s = .next s2) ∧
      (∀ p, free → chooseRewire s2 n r1 = some p → r.policy.getLsbD 28 = false → exec (.barometerWindow n) s =
        .next (setRgn s2 n { r1 with rewire := some (rewireNew s r p) })) ∧
      ∀ p, free → chooseRewire s2 n r1 = some p → r.policy.getLsbD 28 = true → exec (.barometerWindow n) s =
        .next (mgmtRecord (setRgn s2 n { r1 with
            nprop := (r.nprop + 1) % 65536, proposals := r1.proposals ++ [{ p with num := (r.nprop + 1) % 65536, window := r1.win }] })
          (.ctl (rgnDie r)) (rewireRec s r 0x70 p.op p.action ((r.nprop + 1) % 65536) (if p.action = 3 then foldNumber r p.op p.target else p.target))))) ∧
  ∀ (s : State) (n : Nat) (c : Chan), chanOf s n = some c →
    (∀ t, lineTok c = some t → delayDue s n c = true → exec (.delayLineDepart n) s =
      .next (setChan s n (sendAll s (fanConsume { c with line := c.line.drop 1, lpend := c.lpend + 1 }) c.prod t))) ∧
    (∀ k t, steerNext s c = some (k, t) → exec (.steerToken n) s = .next (steerSend s n c k t)) ∧
    ∀ k t f, mergeNext s c = some (k, t, f) →
      let s2 := modBank (modRgn s c.rgn fun r => putClone r k) (epTile k.op) k.mergeBank fun b => { b with mode := modeRaise b.mode f }
      (t = none → exec (.mergeOutput n) s = .next s2) ∧
      ∀ x, t = some x → exec (.mergeOutput n) s = .next (setChan s2 n (mergeSend s c x))

/-- The management requests that are answered at once (R407, R410 to R412, R415; RESTORE R380, PLAN R382, APPROVE R377, ARM R379,
XD_STEP R396): where the response ring is free and the request is not refused before it is looked at, its action takes place and its
response is written with the status and the value that the rules give. The model's choices: a status that the rules do not give is a
free value (assumption 64), the descriptor's minimum (assumption 65), PLAN's absolute endpoints (assumption 58), the record that
RESTORE takes, of an image that stands as it was stored (assumption 60), ATTEST's physical addresses (assumption 77). -/
def Obligations.RequestsAtOnce : Prop :=
  ∀ (s : State) (e : BitVec 512), reqBusy s e = false →
    let pn := reqPart e
    let answers := fun (i : Instr) (t : State) (st v : Nat) => exec i s = .next (respond t (reqTag e) st v)
    let open_ := fun i : Instr => answers i (useFree s) (openStatus s) 0
    (reqBar s e (reqReserved e [(8, 8)]) = none →
      let d : BitVec 2048 := BitVec.ofNat 2048 (physGet s (reqFld e 8 8) 256)
      let meets := (List.range 16).any fun q => q != pn && (partOf s q).isSet && descsMeet d (partOf s q).desc
      (partRgns s pn ≠ [] → answers (.partSet e) s 0x11A 0) ∧
      (partRgns s pn = [] → descBad d = true → answers (.partSet e) s 0x117 0) ∧
      (partRgns s pn = [] → descBad d = false → descPast d || meets → answers (.partSet e) s 0x109 0) ∧
      (partRgns s pn = [] → descBad d = false → (descPast d || meets) = false → descShort d = true → open_ (.partSet e)) ∧
      (partRgns s pn = [] → descBad d = false → (descPast d || meets) = false → descShort d = false →
        answers (.partSet e) (partWrite s pn d) 0 0)) ∧
    (reqBar s e false = none → answers (.install e) (installDo s e).1 (installDo s e).2 0) ∧
    (reqBar s e (reqReserved e [(8, 4), (16, 8), (24, 2)]) = none →
      (∀ st, reqRgn s e 8 (· == .saved) = .error st → answers (.restore e) s st 0) ∧
      ∀ k r, reqRgn s e 8 (· == .saved) = .ok (k, r) →
        let x := snapAt s r.part r.id (reqFld e 16 8)
        let errs := fun x : Snap => errSort (restoreErrs s x (reqFld e 24 1) (reqFld e 25 1))
        (x = none → open_ (.restore e)) ∧
        (∀ y, x = some y → y.rgn.part = r.part ∧ y.rgn.id = r.id ∧ imageStands s r.part (reqFld e 16 8) y = true) ∧
        (∀ y er l, x = some y → errs y = er :: l →
          answers (.restore e) (cfgRecords s r.part r.id (er :: l)) er.st 0) ∧
        (∀ y, x = some y → errs y = [] →
          answers (.restore e) (writeDesc (banksChanged s (putSnap s k y (reqFld e 24 1) (reqFld e 25 1)) r.part) k) 0 0)) ∧
    (reqBar s e (reqReserved e [(8, 6)]) = none →
      (∀ st, reqRgn s e 8 (· == .live) = .error st → answers (.approve e) s st 0) ∧
      ∀ k r, reqRgn s e 8 (· == .live) = .ok (k, r) →
        let found := r.proposals.find? fun p => p.num == reqFld e 12 2 && p.window == r.win
        (found = none ∨ r.rewire.isSome ∨ r.plans ≠ [] → open_ (.approve e)) ∧
        ∀ p, found = some p → r.rewire = none → r.plans = [] → answers (.approve e)
          (setRgn s k { r with rewire := some (rewireNew s r p),
                               proposals := r.proposals.filter fun q => q.num != p.num }) 0 0) ∧
    (reqBar s e (reqReserved e [(8, 32)]) = none →
      (∀ st, reqRgn s e 12 (· == .live) = .error st → answers (.plan e) s st 0) ∧
      ∀ k r, reqRgn s e 12 (· == .live) = .ok (k, r) →
        (planBad s e r = true → answers (.plan e) s 0x116 0) ∧
        (planBad s e r = false → answers (.plan e) (planArm (setRgn s k { r with plans := r.plans ++
          [{ action := reqFld e 8 2, op := reqFld e 16 4, target := reqFld e 20 4, cut := some (reqFld e 24 8), num := 0,
             armed := false, held := false, window := r.win }] }) k) 0 0)) ∧
    (reqBar s e (reqReserved e [(16, 16)]) = none →
      let r := armPages s (lowDie s) pn (reqFld e 16 8 / 4096) (reqFld e 24 8)
      (r.2 = false → answers (.arm e) r.1 0x113 0) ∧
      (r.2 = true → answers (.arm e) (armTiles (modPart r.1 pn fun p =>
        { p with armed := some (reqFld e 16 8 / 4096 * 4096, reqFld e 24 8), isArmed := true }) pn) 0 0)) ∧
    (reqBar s e (reqReserved e [(8, 4)]) = none →
      let x := reqFld e 8 4
      let live := (agtOf s (epAgt x)).st = .stalled ∧
        ∃ r, (agtOf s (epAgt x)).rgn.bind (rgnOf s) = some r ∧ r.st = .live
      let bad := 2 ^ 19 ≤ x ∨ epEk x ≠ 2 ∨ epPort x ≠ 0 ∨ 64 ≤ epEn x ∨ partPchan (partOf s pn) (epAgt x) = false
      (bad → answers (.agtResumeRequest e) s 0x109 0) ∧ (¬bad → live → answers (.agtResumeRequest e) (agtResumeNow s (epAgt x)) 0 0) ∧
      (¬bad → ¬live → answers (.agtResumeRequest e) s 0 0)) ∧
    (reqBar s e (qlinkReserved e) = none →
      let a := epMt (reqFld e 8 4)
      let b := epMt (reqFld e 12 4)
      let s1 := setMTile s a { mtileOf s a with link := some b, unlinking := false }
      (∀ st, qlinkBad s e = some st → answers (.qlink e) s st 0) ∧
      (qlinkBad s e = none → qlinkTaken s a b = true → open_ (.qlink e)) ∧
      (qlinkBad s e = none → qlinkTaken s a b = false → answers (.qlink e) (setMTile s1 b { mtileOf s1 b with feeder := some a }) 0 0)) ∧
    (reqBar s e (reqReserved e [(8, 1)] || decide (64 ≤ reqFld e 8 1)) = none →
      (∀ x, tabAt s (xdKey e) = some x →
        let door := doorOf s reqRingNo (s.host.reqCI - 1)
        (door = none → answers (.xdStep e) (stepEnd s x (2 ^ 30) 0) 0 (x.step + 1)) ∧
        ∀ pi, door = some pi → answers (.xdStep e)
          (stepEnd (clkJoin s x.part (.door reqRingNo pi) (.step x.tab) (diePlace 0)) x (2 ^ 30) 0) 0 (x.step + 1)) ∧
      (tabAt s (xdKey e) = none → open_ (.xdStep e))) ∧
    (reqBar s e (reqReserved e [(16, 8), (24, 8)]) = none →
      (2 ^ 20 ≤ s.host.leaf → answers (.attest e) s 0x119 0) ∧
      (s.host.leaf < 2 ^ 20 → ∃ t, answers (.attest e) t 0 attestBytes ∧ t.host.leaf = s.host.leaf + 1 ∧ t.host.attested = true ∧
        t.tiles = s.tiles ∧ ∀ x, x < reqFld e 24 8 ∨ reqFld e 24 8 + attestBytes ≤ x → memWf s.mem = true →
          byteGet t.mem x = byteGet s.mem x))

/-- The management requests that take more than one step (R407, R374 to R376, R378, R379, R381, R386, R390, R412): a request that
begins is checked, is refused with its status or starts and is kept with what is left to do; a request under way ends with its
response where what it waits for is over. The model's choices: SAVE_PIN for an area that is not pinned and what SWAP and RESUME wait
for (assumption 68), XD_BAD for XD_PUBLISH of a table that is not the host's (assumption 73), what a race at its records' writes leaves
(assumption 102), the saves (assumption 60), the packets of a released region (assumption 118), a status that the rules do not give
(assumption 64). -/
def Obligations.RequestsThatWait : Prop :=
  (∀ (s : State) (e : BitVec 512), reqTodo s e = none → reqBusy s e = false →
    let pn := reqPart e
    let refuses := fun (i : Instr) (st : Nat) => exec i s = .next (respond s (reqTag e) st 0)
    let begins := fun (i : Instr) (t : State) (l : List Nat) => exec i s = .next (reqBegin t e l)
    let pinned := areaPinned (partOf s pn) (reqFld e 16 8)
    (reqBar s e (reqReserved e [(8, 4)]) = none →
      (∀ st, reqRgn s e 8 (fun _ => true) = .error st → refuses (.release e) st) ∧
      (∀ k r, reqRgn s e 8 (fun _ => true) = .ok (k, r) → r.st ≠ .saved →
        begins (.release e) (releaseStart (stopOvertaken s k r) k) [0]) ∧
      (∀ k r, reqRgn s e 8 (fun _ => true) = .ok (k, r) → r.st = .saved → exec (.release e) s =
        .next (respond (savedEnd s k r) (reqTag e) 0 0) ∧ ∀ va, r.image = some va →
          let a := r.part * 2 ^ 52 + va
          let s1 := (((mapFind s.saves a).map fun x => x.tiles).getD []).foldl (dropAll r.part r.id) s
          savedEnd s k r = { s1 with rgns := mapDel s1.rgns k, saves := mapDel s1.saves a }) ∧
      (∀ st, reqRgn s e 8 (· != .saved) = .error st → refuses (.swap e) st) ∧
      (∀ x, reqRgn s e 8 (· != .saved) = .ok x → (partOf s pn).isArmed = true → begins (.swap e) s [0]) ∧
      (∀ x, reqRgn s e 8 (· != .saved) = .ok x → (partOf s pn).isArmed = false →
        exec (.swap e) s = .next (respond (useFree s) (reqTag e) (openStatus s) 0)) ∧
      (∀ st, reqRgn s e 8 stLiveFrozen = .error st → refuses (.resume e) st) ∧
      ∀ k r, reqRgn s e 8 stLiveFrozen = .ok (k, r) →
        (r.st = .live → r.stopAt = none → refuses (.resume e) 0) ∧ (r.st = .frozen ∨ r.stopAt ≠ none → begins (.resume e) s [0])) ∧
    (reqBar s e (reqReserved e [(8, 4), (16, 8)]) = none →
      (∀ st, reqRgn s e 8 (· == .live) = .error st → refuses (.shrink e) st) ∧
      ∀ k r ts, reqRgn s e 8 (· == .live) = .ok (k, r) → shrinkSet s e k = .ok ts →
        (shrinkCovers s r ts = true → begins (.shrink e) (preempt s k) (0 :: 0 :: ts)) ∧
        (shrinkCovers s r ts = false → refuses (.shrink e) 0x112)) ∧
    (reqBar s e (saveReserved e) = none →
      (∀ st, reqRgn s e 8 stLiveFrozen = .error st → refuses (.drainSave e) st ∧ refuses (.fullSave e) st) ∧
      ∀ k r, reqRgn s e 8 stLiveFrozen = .ok (k, r) →
        (pinned = false → refuses (.drainSave e) 0x113 ∧ refuses (.fullSave e) 0x113) ∧
        (pinned = true → begins (.fullSave e) (saveBegin s k r).1 (saveBegin s k r).2) ∧
        (pinned = true → r.st = .frozen → begins (.drainSave e) (saveBegin s k r).1 (saveBegin s k r).2) ∧
        (pinned = true → r.st ≠ .frozen → begins (.drainSave e) s [0])) ∧
    (reqBar s e (reqReserved e [(16, 16)]) = none → begins (.inval e) (dropTlbs s pn (reqFld e 16 8 / 4096) (reqFld e 24 8))
      ((s.walks.filter fun w => w.part == pn).map (·.id))) ∧
    (reqBar s e (qlinkReserved e) = none →
      (∀ st, qlinkBad s e = some st → refuses (.qlinkUnlink e) st) ∧
      (qlinkBad s e = none →
        ((mtileOf s (epMt (reqFld e 8 4))).link = none → refuses (.qlinkUnlink e) 0) ∧
        ((mtileOf s (epMt (reqFld e 8 4))).link = some (epMt (reqFld e 12 4)) → begins (.qlinkUnlink e)
          (setMTile s (epMt (reqFld e 8 4)) { mtileOf s (epMt (reqFld e 8 4)) with unlinking := true }) [0]))) ∧
    (reqBar s e (xdReserved e) = none →
      ((tabAt s (xdKey e)).isSome = true ∨ reqFld e 16 8 % 4096 ≠ 0 ∨ tabRead s pn (reqFld e 16 8) = none → refuses (.xdTable e) 0x120) ∧
      (∀ h r, tabAt s (xdKey e) = none → reqFld e 16 8 % 4096 = 0 → reqFld e 16 8 < 2 ^ 48 →
        tabRead s pn (reqFld e 16 8) = some (h, r) →
        let x := tabNew s pn (reqFld e 8 1) (reqFld e 16 8) h r
        (tabBad s pn x = true → refuses (.xdTable e) 0x120) ∧
        (tabBad s pn x = false → begins (.xdTable e) { (toDies s).1 with
          xtabs := (toDies s).1.xtabs ++ [{ x with adopting := (toDies s).2, regOf := some (pn, reqTag e) }] } [0])) ∧
      ((tabAt s (xdKey e)).isSome = true → begins (.xdTableRemove e) s [0])) ∧
    (reqBar s e (reqReserved e [(8, 1)] || decide (64 ≤ reqFld e 8 1)) = none →
      (∀ x, tabAt s (xdKey e) = some x → tabHost x = true → begins (.xdPublish e) s [0]) ∧
      ((∀ x, tabAt s (xdKey e) = some x → tabHost x = false) → refuses (.xdPublish e) 0x120))) ∧
  ∀ (s : State) (e : BitVec 512) (l : List Nat), reqTodo s e = some l →
    let k := reqKey e
    let ends := fun (i : Instr) (t : State) (st : Nat) => exec i s = .next (reqEnd t e st 0)
    (∀ r, rgnOf s k = some r → releaseReady s k = true → (l ≠ [1] → ends (.release e) (releaseEnd s k r) 0) ∧
      (l = [1] → exec (.release e) s = .next (reqDrop (releaseEnd s k r) e))) ∧
    (∀ r, rgnOf s k = some r → r.st = .frozen → r.drain = none → recordsWritten s k = true →
      (rgnRecovers s k = true → ends (.resume e) (resumeRegion s k) 0) ∧ (rgnRecovers s k = false → ends (.resume e) s 0x115)) ∧
    (∀ r, rgnOf s k = some r → r.st = .live → r.rewire = none → r.plans = [] → r.drain = none → r.stopAt = none →
      shrinkNext r (l.drop 2) = none → ends (.shrink e) s (if (shrinkOps r (l.drop 2)).isEmpty then 0 else 0x112)) ∧
    (∀ m, l = 0 :: m → (∀ x, x ∈ partRgns s (reqPart e) → x.2.drain = none ∧ x.2.releasing = none ∧ rewireEnds x.2 = false) → exec (.swap e) s = .next
      (reqSet (swapStops (modPart s (reqPart e) fun p => { p with swap := some (s.cyc, reqTag e) }) (reqPart e)) e [1])) ∧
    (∀ r m, l = 0 :: m → rgnOf s k = some r → r.st = .live → r.drain = none → rewireEnds r = false → exec (.drainSave e) s =
      .next (reqSet (setRgn s k { r with drain := some (saveDrain s e) }) e [2])) ∧
    (∀ r, l ≠ [3] → rgnOf s k = some r → r.drain = none → opsSettled s k = true →
      let x := saveMake s k (reqFld e 16 8) true false ((reqFld e 24 1).testBit 0)
      let done := saveAnswer x.1 (reqPart e) (reqTag e) x.2
      (∀ m, l = 1 :: m → exec (.drainSave e) s = .next done) ∧ exec (.fullSave e) s = .next done) ∧
    (∀ r, l = [3] → rgnOf s k = some r → rewireEnds r = false →
      let t := reqSet (saveBegin s k r).1 e (saveBegin s k r).2
      exec (.drainSave e) s = .next t ∧ exec (.fullSave e) s = .next t) ∧
    ((∀ w, w ∈ s.walks → w.id ∉ l) →
      ends (.inval e) (dropTlbs s (reqPart e) (reqFld e 16 8 / 4096) (reqFld e 24 8)) 0) ∧
    ((mtileOf s (epMt (reqFld e 8 4))).crossing = [] → ends (.qlinkUnlink e) (setMTile s (epMt (reqFld e 8 4))
      { mtileOf s (epMt (reqFld e 8 4)) with link := none, unlinking := false }) 0) ∧
    (∀ c m, l = c :: m → c ≠ 0 → c ≤ s.cyc → ∃ t, ends (.xdTableRemove e) t 0 ∧ tabAt t (xdKey e) = none) ∧
    ∀ m x, l = 0 :: m → tabAt s (xdKey e) = some x → x.op = 0 → x.adopting = [] → placeRoom s x.part 1 = true →
      recWaits s .place = false →
      (tabRead s x.part x.va = none → ends (.xdPublish e) s 0x120) ∧
      ∀ h w, tabRead s x.part x.va = some (h, w) →
        let y := { x with hdr := h, recs := w }
        let spare := fun i => fld (slotW y (i / 8) (i % 8)) 61 58
        (publishOk x y = false → ends (.xdPublish e) s 0x120) ∧
        let p := publishRecs s y (changedRecs x y)
        (publishOk x y = true → p.2 = false → ends (.xdPublish e) p.1 0x120) ∧
        (publishOk x y = true → p.2 = true → exec (.xdPublish e) s = .next (publishBack (reqSet (publish (publishSpares
          (setTab p.1 { x with recs := w, pubs := some (x.part, reqTag e) }) (xdKey e) ((newSlots x y).map spare)) (xdKey e)) e [1])
            (xdKey e) x.recs))
end

