-- ==== Sys2Proof/Laws/Decode.lean ====
section
/-! SUPPORT. What each field of an encoded word is, and that a word is made of its fields. -/
namespace Sys2Proof

theorem toNat_append_add {m n : Nat} (x : BitVec m) (y : BitVec n) : (x ++ y).toNat = x.toNat * 2 ^ n + y.toNat := by
  rw [BitVec.toNat_append, ← Nat.shiftLeft_add_eq_or_of_lt y.isLt, Nat.shiftLeft_eq]

theorem wordOf_toNat (f : Fields) : (wordOf f).toNat =
    f.op.toNat * 4194304 + f.a.toNat * 131072 + f.b.toNat * 4096 + f.d.toNat * 256 + f.e.toNat * 16 + f.t.toNat := by
  simp only [wordOf, toNat_append_add]; omega

theorem toNat_field (w : BitVec 32) (k n : Nat) : (w.extractLsb' k n).toNat = w.toNat / 2 ^ k % 2 ^ n := by
  simp [BitVec.extractLsb'_toNat, Nat.shiftRight_eq_div_pow]

@[simp] theorem fA_wordOf (f : Fields) : fA (wordOf f) = f.a := by
  apply BitVec.eq_of_toNat_eq; rw [fA, toNat_field, wordOf_toNat]; omega
@[simp] theorem fB_wordOf (f : Fields) : fB (wordOf f) = f.b := by
  apply BitVec.eq_of_toNat_eq; rw [fB, toNat_field, wordOf_toNat]; omega
@[simp] theorem fD_wordOf (f : Fields) : fD (wordOf f) = f.d := by
  apply BitVec.eq_of_toNat_eq; rw [fD, toNat_field, wordOf_toNat]; omega
@[simp] theorem fE_wordOf (f : Fields) : fE (wordOf f) = f.e := by
  apply BitVec.eq_of_toNat_eq; rw [fE, toNat_field, wordOf_toNat]; omega
@[simp] theorem fT_wordOf (f : Fields) : fT (wordOf f) = f.t := by
  apply BitVec.eq_of_toNat_eq; rw [fT, toNat_field, wordOf_toNat]; omega
@[simp] theorem fOp_wordOf (f : Fields) : fOp (wordOf f) = f.op := by
  apply BitVec.eq_of_toNat_eq; rw [fOp, toNat_field, wordOf_toNat]; omega
/-- The group of a word is the upper four bits of its opcode. -/
theorem fGroup_eq (w : BitVec 32) : fGroup w = (fOp w).extractLsb' 6 4 := by
  apply BitVec.eq_of_toNat_eq
  rw [fGroup, toNat_field, BitVec.extractLsb'_toNat, fOp, toNat_field, Nat.shiftRight_eq_div_pow]; omega
/-- The offset of a word is the lower six bits of its opcode. -/
theorem fOff_eq (w : BitVec 32) : fOff w = (fOp w).extractLsb' 0 6 := by
  apply BitVec.eq_of_toNat_eq
  rw [fOff, toNat_field, BitVec.extractLsb'_toNat, fOp, toNat_field, Nat.shiftRight_eq_div_pow]; omega
theorem fY3_eq (w : BitVec 32) : fY3 w = (fOp w).extractLsb' 0 3 := by
  apply BitVec.eq_of_toNat_eq
  rw [fY3, toNat_field, BitVec.extractLsb'_toNat, fOp, toNat_field, Nat.shiftRight_eq_div_pow]; omega
theorem fY2_eq (w : BitVec 32) : fY2 w = (fOp w).extractLsb' 0 2 := by
  apply BitVec.eq_of_toNat_eq
  rw [fY2, toNat_field, BitVec.extractLsb'_toNat, fOp, toNat_field, Nat.shiftRight_eq_div_pow]; omega
theorem fG_eq (w : BitVec 32) : fG w = (fOp w).extractLsb' 6 2 := by
  apply BitVec.eq_of_toNat_eq
  rw [fG, toNat_field, BitVec.extractLsb'_toNat, fOp, toNat_field, Nat.shiftRight_eq_div_pow]; omega
/-- The operation of a group 0 word: bits [27:25] are bits [5:3] of its opcode. -/
theorem fOp3_eq (w : BitVec 32) : w.extractLsb' 25 3 = (fOp w).extractLsb' 3 3 := by
  apply BitVec.eq_of_toNat_eq
  rw [toNat_field, BitVec.extractLsb'_toNat, fOp, toNat_field, Nat.shiftRight_eq_div_pow]; omega
/-- A word is made of its fields. -/
theorem wordOf_fields (w : BitVec 32) : wordOf ⟨fOp w, fA w, fB w, fD w, fE w, fT w⟩ = w := by
  apply BitVec.eq_of_toNat_eq
  rw [wordOf_toNat]
  simp only [fOp, fA, fB, fD, fE, fT, toNat_field]
  omega

/-! ### The decoder by group -/

theorem decodeWord_group0 (w : BitVec 32) (h : (fGroup w).toNat = 0) : decodeWord w = decGroup0 w := by
  unfold decodeWord; rw [h]; rfl
theorem decodeWord_group1 (w : BitVec 32) (h : (fGroup w).toNat = 1) : decodeWord w = decGroup1 w := by
  unfold decodeWord; rw [h]; rfl
theorem decodeWord_group2 (w : BitVec 32) (h : (fGroup w).toNat = 2) : decodeWord w = decGroup2 w := by
  unfold decodeWord; rw [h]; rfl
theorem decodeWord_group3 (w : BitVec 32) (h : (fGroup w).toNat = 3) : decodeWord w = decGroup3 w := by
  unfold decodeWord; rw [h]; rfl
theorem decodeWord_group4 (w : BitVec 32) (h : (fGroup w).toNat = 4) : decodeWord w = decGroupF w := by
  unfold decodeWord; rw [h]; rfl
theorem decodeWord_group5 (w : BitVec 32) (h : (fGroup w).toNat = 5) : decodeWord w = decGroupF w := by
  unfold decodeWord; rw [h]; rfl
theorem decodeWord_group6 (w : BitVec 32) (h : (fGroup w).toNat = 6) : decodeWord w = decGroupF w := by
  unfold decodeWord; rw [h]; rfl
theorem decodeWord_group7 (w : BitVec 32) (h : (fGroup w).toNat = 7) : decodeWord w = decGroup7 w := by
  unfold decodeWord; rw [h]; rfl
theorem decodeWord_group8 (w : BitVec 32) (h : (fGroup w).toNat = 8) : decodeWord w = decGroup8 w := by
  unfold decodeWord; rw [h]; rfl
theorem decodeWord_group9 (w : BitVec 32) (h : (fGroup w).toNat = 9) : decodeWord w = decGroup9 w := by
  unfold decodeWord; rw [h]; rfl
theorem decodeWord_group10 (w : BitVec 32) (h : (fGroup w).toNat = 10) : decodeWord w = decGroup10 w := by
  unfold decodeWord; rw [h]; rfl
theorem decodeWord_group11 (w : BitVec 32) (h : (fGroup w).toNat = 11) : decodeWord w = decGroup11 w := by
  unfold decodeWord; rw [h]; rfl
theorem decodeWord_group12 (w : BitVec 32) (h : (fGroup w).toNat = 12) : decodeWord w = decGroup12 w := by
  unfold decodeWord; rw [h]; rfl
theorem decodeWord_group13 (w : BitVec 32) (h : (fGroup w).toNat = 13) : decodeWord w = decGroup13 w := by
  unfold decodeWord; rw [h]; rfl
theorem decodeWord_group14 (w : BitVec 32) (h : (fGroup w).toNat = 14) : decodeWord w = decGroup14 w := by
  unfold decodeWord; rw [h]; rfl
theorem decodeWord_group15 (w : BitVec 32) (h : (fGroup w).toNat = 15) : decodeWord w = decGroup15 w := by
  unfold decodeWord; rw [h]; rfl

end Sys2Proof
end

