-- ==== Sys2Proof/Laws/Events.lean ====
section
/-! SUPPORT. A step of an engine is the instruction of the same name: the schedule's names lead to the meanings that `exec` has. -/
namespace Sys2Proof.Machine

theorem runEvent_resultWrite (tile : Nat) (job : Nat) (s : State) : runEvent (.resultWrite tile job) s = exec (.resultWrite tile job) s := rfl
theorem runEvent_bankSwitch (tile : Nat) (s : State) : runEvent (.bankSwitch tile) s = exec (.bankSwitch tile) s := rfl
theorem runEvent_tokenArrival (chan : Nat) (cons : Nat) (s : State) : runEvent (.tokenArrival chan cons) s = exec (.tokenArrival chan cons) s := rfl
theorem runEvent_portRequest (chan : Nat) (cons : Nat) (s : State) : runEvent (.portRequest chan cons) s = exec (.portRequest chan cons) s := rfl
theorem runEvent_requestArrival (chan : Nat) (cons : Nat) (s : State) : runEvent (.requestArrival chan cons) s = exec (.requestArrival chan cons) s := rfl
theorem runEvent_delayLineDepart (chan : Nat) (s : State) : runEvent (.delayLineDepart chan) s = exec (.delayLineDepart chan) s := rfl
theorem runEvent_indexDelivery (rgn : Nat) (s : State) : runEvent (.indexDelivery rgn) s = exec (.indexDelivery rgn) s := rfl
theorem runEvent_switchGather (tile : Nat) (s : State) : runEvent (.switchGather tile) s = exec (.switchGather tile) s := rfl
theorem runEvent_switchScatter (tile : Nat) (s : State) : runEvent (.switchScatter tile) s = exec (.switchScatter tile) s := rfl
theorem runEvent_multicastDetach (chan : Nat) (cons : Nat) (s : State) : runEvent (.multicastDetach chan cons) s = exec (.multicastDetach chan cons) s := rfl
theorem runEvent_detached (chan : Nat) (cons : Nat) (s : State) : runEvent (.detached chan cons) s = exec (.detached chan cons) s := rfl
theorem runEvent_laggard (chan : Nat) (cons : Nat) (s : State) : runEvent (.laggard chan cons) s = exec (.laggard chan cons) s := rfl
theorem runEvent_laggardEnd (chan : Nat) (cons : Nat) (s : State) : runEvent (.laggardEnd chan cons) s = exec (.laggardEnd chan cons) s := rfl
theorem runEvent_regionCompletion (rgn : Nat) (s : State) : runEvent (.regionCompletion rgn) s = exec (.regionCompletion rgn) s := rfl
theorem runEvent_trapRecord (tile : Nat) (s : State) : runEvent (.trapRecord tile) s = exec (.trapRecord tile) s := rfl
theorem runEvent_regionStop (rgn : Nat) (s : State) : runEvent (.regionStop rgn) s = exec (.regionStop rgn) s := rfl
theorem runEvent_unitFence (u : Unit0) (s : State) : runEvent (.unitFence u) s = exec (.unitFence u) s := rfl
theorem runEvent_matrixEntryStart (tile : Nat) (s : State) : runEvent (.matrixEntryStart tile) s = exec (.matrixEntryStart tile) s := rfl
theorem runEvent_matrixEntryDone (tile : Nat) (s : State) : runEvent (.matrixEntryDone tile) s = exec (.matrixEntryDone tile) s := rfl
theorem runEvent_followOnEnter (tile : Nat) (s : State) : runEvent (.followOnEnter tile) s = exec (.followOnEnter tile) s := rfl
theorem runEvent_streamFetch (tile : Nat) (s : State) : runEvent (.streamFetch tile) s = exec (.streamFetch tile) s := rfl
theorem runEvent_mtRequest (mt : Nat) (port : Nat) (s : State) : runEvent (.mtRequest mt port) s = exec (.mtRequest mt port) s := rfl
theorem runEvent_fifoEnqueue (mt : Nat) (port : Nat) (s : State) : runEvent (.fifoEnqueue mt port) s = exec (.fifoEnqueue mt port) s := rfl
theorem runEvent_fifoDequeue (mt : Nat) (port : Nat) (s : State) : runEvent (.fifoDequeue mt port) s = exec (.fifoDequeue mt port) s := rfl
theorem runEvent_ringAdvance (id : Nat) (s : State) : runEvent (.ringAdvance id) s = exec (.ringAdvance id) s := rfl
theorem runEvent_advanceAnswer (id : Nat) (s : State) : runEvent (.advanceAnswer id) s = exec (.advanceAnswer id) s := rfl
theorem runEvent_handleViewUpdate (tile : Nat) (hdl : Nat) (s : State) : runEvent (.handleViewUpdate tile hdl) s = exec (.handleViewUpdate tile hdl) s := rfl
theorem runEvent_agtTakeSet (agt : Nat) (s : State) : runEvent (.agtTakeSet agt) s = exec (.agtTakeSet agt) s := rfl
theorem runEvent_agtTakeBase (agt : Nat) (s : State) : runEvent (.agtTakeBase agt) s = exec (.agtTakeBase agt) s := rfl
theorem runEvent_agtTakeDim (agt : Nat) (s : State) : runEvent (.agtTakeDim agt) s = exec (.agtTakeDim agt) s := rfl
theorem runEvent_agtTakeGo (agt : Nat) (s : State) : runEvent (.agtTakeGo agt) s = exec (.agtTakeGo agt) s := rfl
theorem runEvent_agtTakeStop (agt : Nat) (s : State) : runEvent (.agtTakeStop agt) s = exec (.agtTakeStop agt) s := rfl
theorem runEvent_agtTakeHand (agt : Nat) (s : State) : runEvent (.agtTakeHand agt) s = exec (.agtTakeHand agt) s := rfl
theorem runEvent_handoverSend (agt : Nat) (s : State) : runEvent (.handoverSend agt) s = exec (.handoverSend agt) s := rfl
theorem runEvent_handoverReceive (agt : Nat) (s : State) : runEvent (.handoverReceive agt) s = exec (.handoverReceive agt) s := rfl
theorem runEvent_agtTakeResume (agt : Nat) (s : State) : runEvent (.agtTakeResume agt) s = exec (.agtTakeResume agt) s := rfl
theorem runEvent_agtTakeStat (agt : Nat) (s : State) : runEvent (.agtTakeStat agt) s = exec (.agtTakeStat agt) s := rfl
theorem runEvent_agtTakeCfg (agt : Nat) (s : State) : runEvent (.agtTakeCfg agt) s = exec (.agtTakeCfg agt) s := rfl
theorem runEvent_agtTakeDiscard (agt : Nat) (s : State) : runEvent (.agtTakeDiscard agt) s = exec (.agtTakeDiscard agt) s := rfl
theorem runEvent_agtTakeErr (agt : Nat) (s : State) : runEvent (.agtTakeErr agt) s = exec (.agtTakeErr agt) s := rfl
theorem runEvent_agtTakeReserved (agt : Nat) (s : State) : runEvent (.agtTakeReserved agt) s = exec (.agtTakeReserved agt) s := rfl
theorem runEvent_agtElement (agt : Nat) (s : State) : runEvent (.agtElement agt) s = exec (.agtElement agt) s := rfl
theorem runEvent_agtTokenOut (agt : Nat) (s : State) : runEvent (.agtTokenOut agt) s = exec (.agtTokenOut agt) s := rfl
theorem runEvent_agtWalkReport (agt : Nat) (s : State) : runEvent (.agtWalkReport agt) s = exec (.agtWalkReport agt) s := rfl
theorem runEvent_pageWalk (id : Nat) (s : State) : runEvent (.pageWalk id) s = exec (.pageWalk id) s := rfl
theorem runEvent_bteCommandBegin (bte : Nat) (ch : Nat) (s : State) : runEvent (.bteCommandBegin bte ch) s = exec (.bteCommandBegin bte ch) s := rfl
theorem runEvent_chainTake (bte : Nat) (ch : Nat) (s : State) : runEvent (.chainTake bte ch) s = exec (.chainTake bte ch) s := rfl
theorem runEvent_followOnHandoff (bte : Nat) (ch : Nat) (s : State) : runEvent (.followOnHandoff bte ch) s = exec (.followOnHandoff bte ch) s := rfl
theorem runEvent_bteCommandReport (bte : Nat) (ch : Nat) (s : State) : runEvent (.bteCommandReport bte ch) s = exec (.bteCommandReport bte ch) s := rfl
theorem runEvent_promiseMissed (bte : Nat) (ch : Nat) (seq : Nat) (s : State) : runEvent (.promiseMissed bte ch seq) s = exec (.promiseMissed bte ch seq) s := rfl
theorem runEvent_accessPerform (id : Nat) (s : State) : runEvent (.accessPerform id) s = exec (.accessPerform id) s := rfl
theorem runEvent_releasePerform (id : Nat) (s : State) : runEvent (.releasePerform id) s = exec (.releasePerform id) s := rfl
theorem runEvent_loadReturn (id : Nat) (s : State) : runEvent (.loadReturn id) s = exec (.loadReturn id) s := rfl
theorem runEvent_raceSweep (part : Nat) (s : State) : runEvent (.raceSweep part) s = exec (.raceSweep part) s := rfl
theorem runEvent_raceModeClear (part : Nat) (s : State) : runEvent (.raceModeClear part) s = exec (.raceModeClear part) s := rfl
theorem runEvent_taskPacketArrival (id : Nat) (s : State) : runEvent (.taskPacketArrival id) s = exec (.taskPacketArrival id) s := rfl
theorem runEvent_packetPresent (tile : Nat) (s : State) : runEvent (.packetPresent tile) s = exec (.packetPresent tile) s := rfl
theorem runEvent_launchAccept (id : Nat) (s : State) : runEvent (.launchAccept id) s = exec (.launchAccept id) s := rfl
theorem runEvent_spillMove (part : Nat) (s : State) : runEvent (.spillMove part) s = exec (.spillMove part) s := rfl
theorem runEvent_launchDistribution (part : Nat) (s : State) : runEvent (.launchDistribution part) s = exec (.launchDistribution part) s := rfl
theorem runEvent_tileRecordRead (part : Nat) (seq : Nat) (s : State) : runEvent (.tileRecordRead part seq) s = exec (.tileRecordRead part seq) s := rfl
theorem runEvent_taskBind (part : Nat) (die : Nat) (s : State) : runEvent (.taskBind part die) s = exec (.taskBind part die) s := rfl
theorem runEvent_launchCompletion (part : Nat) (seq : Nat) (s : State) : runEvent (.launchCompletion part seq) s = exec (.launchCompletion part seq) s := rfl
theorem runEvent_futureOperation (id : Nat) (s : State) : runEvent (.futureOperation id) s = exec (.futureOperation id) s := rfl
theorem runEvent_futureAnswer (id : Nat) (s : State) : runEvent (.futureAnswer id) s = exec (.futureAnswer id) s := rfl
theorem runEvent_watchReport (tile : Nat) (fut : Nat) (s : State) : runEvent (.watchReport tile fut) s = exec (.watchReport tile fut) s := rfl
theorem runEvent_collectiveArrival (id : Nat) (s : State) : runEvent (.collectiveArrival id) s = exec (.collectiveArrival id) s := rfl
theorem runEvent_collectiveComplete (grp : Nat) (s : State) : runEvent (.collectiveComplete grp) s = exec (.collectiveComplete grp) s := rfl
theorem runEvent_barometerWindow (rgn : Nat) (s : State) : runEvent (.barometerWindow rgn) s = exec (.barometerWindow rgn) s := rfl
theorem runEvent_proposalLapse (rgn : Nat) (s : State) : runEvent (.proposalLapse rgn) s = exec (.proposalLapse rgn) s := rfl
theorem runEvent_planArm (rgn : Nat) (s : State) : runEvent (.planArm rgn) s = exec (.planArm rgn) s := rfl
theorem runEvent_gating (rgn : Nat) (s : State) : runEvent (.gating rgn) s = exec (.gating rgn) s := rfl
theorem runEvent_ungate (rgn : Nat) (s : State) : runEvent (.ungate rgn) s = exec (.ungate rgn) s := rfl
theorem runEvent_rewireFail (rgn : Nat) (s : State) : runEvent (.rewireFail rgn) s = exec (.rewireFail rgn) s := rfl
theorem runEvent_steerToken (chan : Nat) (s : State) : runEvent (.steerToken chan) s = exec (.steerToken chan) s := rfl
theorem runEvent_mergeOutput (chan : Nat) (s : State) : runEvent (.mergeOutput chan) s = exec (.mergeOutput chan) s := rfl
theorem runEvent_retirement (rgn : Nat) (s : State) : runEvent (.retirement rgn) s = exec (.retirement rgn) s := rfl
theorem runEvent_elementDrained (elem : Nat) (s : State) : runEvent (.elementDrained elem) s = exec (.elementDrained elem) s := rfl
theorem runEvent_saveDone (rgn : Nat) (s : State) : runEvent (.saveDone rgn) s = exec (.saveDone rgn) s := rfl
theorem runEvent_drainTimeout (rgn : Nat) (s : State) : runEvent (.drainTimeout rgn) s = exec (.drainTimeout rgn) s := rfl
theorem runEvent_shadowExchange (part : Nat) (s : State) : runEvent (.shadowExchange part) s = exec (.shadowExchange part) s := rfl
theorem runEvent_loadSend (die : Nat) (s : State) : runEvent (.loadSend die) s = exec (.loadSend die) s := rfl
theorem runEvent_replicationCopyDone (tab : Nat) (s : State) : runEvent (.replicationCopyDone tab) s = exec (.replicationCopyDone tab) s := rfl
theorem runEvent_rollback (tab : Nat) (s : State) : runEvent (.rollback tab) s = exec (.rollback tab) s := rfl
theorem runEvent_versionAdopt (tab : Nat) (die : Nat) (s : State) : runEvent (.versionAdopt tab die) s = exec (.versionAdopt tab die) s := rfl
theorem runEvent_tableAdopt (tab : Nat) (die : Nat) (s : State) : runEvent (.tableAdopt tab die) s = exec (.tableAdopt tab die) s := rfl
theorem runEvent_packetRedirect (tile : Nat) (s : State) : runEvent (.packetRedirect tile) s = exec (.packetRedirect tile) s := rfl
theorem runEvent_gradientMerge (tab : Nat) (s : State) : runEvent (.gradientMerge tab) s = exec (.gradientMerge tab) s := rfl
theorem runEvent_partSet (e : BitVec 512) (s : State) : runEvent (.partSet e) s = exec (.partSet e) s := rfl
theorem runEvent_install (e : BitVec 512) (s : State) : runEvent (.install e) s = exec (.install e) s := rfl
theorem runEvent_release (e : BitVec 512) (s : State) : runEvent (.release e) s = exec (.release e) s := rfl
theorem runEvent_shrink (e : BitVec 512) (s : State) : runEvent (.shrink e) s = exec (.shrink e) s := rfl
theorem runEvent_drainSave (e : BitVec 512) (s : State) : runEvent (.drainSave e) s = exec (.drainSave e) s := rfl
theorem runEvent_fullSave (e : BitVec 512) (s : State) : runEvent (.fullSave e) s = exec (.fullSave e) s := rfl
theorem runEvent_swap (e : BitVec 512) (s : State) : runEvent (.swap e) s = exec (.swap e) s := rfl
theorem runEvent_resume (e : BitVec 512) (s : State) : runEvent (.resume e) s = exec (.resume e) s := rfl
theorem runEvent_restore (e : BitVec 512) (s : State) : runEvent (.restore e) s = exec (.restore e) s := rfl
theorem runEvent_approve (e : BitVec 512) (s : State) : runEvent (.approve e) s = exec (.approve e) s := rfl
theorem runEvent_plan (e : BitVec 512) (s : State) : runEvent (.plan e) s = exec (.plan e) s := rfl
theorem runEvent_arm (e : BitVec 512) (s : State) : runEvent (.arm e) s = exec (.arm e) s := rfl
theorem runEvent_agtResumeRequest (e : BitVec 512) (s : State) : runEvent (.agtResumeRequest e) s = exec (.agtResumeRequest e) s := rfl
theorem runEvent_inval (e : BitVec 512) (s : State) : runEvent (.inval e) s = exec (.inval e) s := rfl
theorem runEvent_qlink (e : BitVec 512) (s : State) : runEvent (.qlink e) s = exec (.qlink e) s := rfl
theorem runEvent_qlinkUnlink (e : BitVec 512) (s : State) : runEvent (.qlinkUnlink e) s = exec (.qlinkUnlink e) s := rfl
theorem runEvent_xdTable (e : BitVec 512) (s : State) : runEvent (.xdTable e) s = exec (.xdTable e) s := rfl
theorem runEvent_xdTableRemove (e : BitVec 512) (s : State) : runEvent (.xdTableRemove e) s = exec (.xdTableRemove e) s := rfl
theorem runEvent_xdPublish (e : BitVec 512) (s : State) : runEvent (.xdPublish e) s = exec (.xdPublish e) s := rfl
theorem runEvent_xdStep (e : BitVec 512) (s : State) : runEvent (.xdStep e) s = exec (.xdStep e) s := rfl
theorem runEvent_attest (e : BitVec 512) (s : State) : runEvent (.attest e) s = exec (.attest e) s := rfl
theorem runEvent_hostLaunchPacket (queue : Nat) (s : State) : runEvent (.hostLaunchPacket queue) s = exec (.hostLaunchPacket queue) s := rfl
theorem runEvent_registerWrite (off : Nat) (val : BitVec 64) (s : State) : runEvent (.registerWrite off val) s = exec (.registerWrite off val) s := rfl
theorem runEvent_gatewayCrossing (mt : Nat) (s : State) : runEvent (.gatewayCrossing mt) s = exec (.gatewayCrossing mt) s := rfl
theorem runEvent_flitRetry (link : Nat) (s : State) : runEvent (.flitRetry link) s = exec (.flitRetry link) s := rfl
theorem runEvent_linkRetryExhausted (link : Nat) (s : State) : runEvent (.linkRetryExhausted link) s = exec (.linkRetryExhausted link) s := rfl
theorem runEvent_reset (s : State) : runEvent (.reset) s = exec (.reset) s := rfl
theorem runEvent_currentSample (die : Nat) (s : State) : runEvent (.currentSample die) s = exec (.currentSample die) s := rfl
theorem runEvent_pathWalk (part : Nat) (s : State) : runEvent (.pathWalk part) s = exec (.pathWalk part) s := rfl
theorem runEvent_halt (cmd : BitVec 512) (s : State) : runEvent (.halt cmd) s = exec (.halt cmd) s := rfl
theorem runEvent_step (cmd : BitVec 512) (s : State) : runEvent (.step cmd) s = exec (.step cmd) s := rfl
theorem runEvent_stop (rgn : Nat) (s : State) : runEvent (.stop rgn) s = exec (.stop rgn) s := rfl
theorem runEvent_stepTimeout (rgn : Nat) (s : State) : runEvent (.stepTimeout rgn) s = exec (.stepTimeout rgn) s := rfl
theorem runEvent_slotBreakpoint (rgn : Nat) (brk : Nat) (s : State) : runEvent (.slotBreakpoint rgn brk) s = exec (.slotBreakpoint rgn brk) s := rfl
theorem runEvent_brkSet (cmd : BitVec 512) (s : State) : runEvent (.brkSet cmd) s = exec (.brkSet cmd) s := rfl
theorem runEvent_brkClr (cmd : BitVec 512) (s : State) : runEvent (.brkClr cmd) s = exec (.brkClr cmd) s := rfl
theorem runEvent_regRd (cmd : BitVec 512) (s : State) : runEvent (.regRd cmd) s = exec (.regRd cmd) s := rfl
theorem runEvent_regWr (cmd : BitVec 512) (s : State) : runEvent (.regWr cmd) s = exec (.regWr cmd) s := rfl
theorem runEvent_memRd (cmd : BitVec 512) (s : State) : runEvent (.memRd cmd) s = exec (.memRd cmd) s := rfl
theorem runEvent_memWr (cmd : BitVec 512) (s : State) : runEvent (.memWr cmd) s = exec (.memWr cmd) s := rfl
theorem runEvent_dbgResume (cmd : BitVec 512) (s : State) : runEvent (.dbgResume cmd) s = exec (.dbgResume cmd) s := rfl
theorem runEvent_throttle (die : Nat) (s : State) : runEvent (.throttle die) s = exec (.throttle die) s := rfl
theorem runEvent_throttleEnd (die : Nat) (s : State) : runEvent (.throttleEnd die) s = exec (.throttleEnd die) s := rfl
theorem runEvent_clockGate (tile : Nat) (s : State) : runEvent (.clockGate tile) s = exec (.clockGate tile) s := rfl
theorem runEvent_mtileClockGate (mt : Nat) (s : State) : runEvent (.mtileClockGate mt) s = exec (.mtileClockGate mt) s := rfl
theorem runEvent_selfRefresh (stack : Nat) (s : State) : runEvent (.selfRefresh stack) s = exec (.selfRefresh stack) s := rfl
theorem runEvent_lanesIdle (link : Nat) (s : State) : runEvent (.lanesIdle link) s = exec (.lanesIdle link) s := rfl
theorem runEvent_consumerIndexAdvance (ring : Nat) (s : State) : runEvent (.consumerIndexAdvance ring) s = exec (.consumerIndexAdvance ring) s := rfl

end Sys2Proof.Machine
end

