-- ==== Sys2Proof/Laws/Experts.lean ====
section
/-! SUPPORT. Writes of the placement engine that a race stops. -/
namespace Sys2Proof.Machine

/-- An engine's access to a line that an unordered write of another holder has left is stopped (R318, R323). -/
theorem raced_access (s : State) (a : Acc) (m : BitVec 64) (hm : (partOf s a.part).raceMode = 1) (hg : metaGet s a.part a.loc = some m)
    (hc : lmWclk m ≠ 0) (hw : lmWid m ≠ a.holder) (hv : covers (partOf s a.part) a.holder (lmWid m) (lmWclk m) = false)
    (hp : a.agent = .place) (hr : a.ring = none) (hq : a.acq = none) : (homeAccess s a).2.ok = false := by
  obtain ⟨⟩ := a
  simp only at hm hg hw hv hp hr hq
  subst hp hr hq
  unfold homeAccess raceCheck raceHit
  simp [accLoc, hm, hg, hw, hv, hc]
/-- How a write of a slot word ends is how its engine write ends. -/
theorem putSlot_end (s : State) (x : XTab) (e r : Nat) (w : W64) :
    (putSlot s x e r w).2 = (placePut s x.part (slotVa x e r) w.toNat 8 4 false).2 := rfl
/-- How a write of a header word ends is how its engine write ends. -/
theorem putHdr_end (s : State) (x : XTab) (i kind : Nat) (w : W64) (rel : Bool) :
    (putHdr s x i w kind rel).2 = (placePut s x.part (x.va + 8 * i) w.toNat 8 kind rel).2 := rfl
/-- Where the write of MERGED is unmade, the table's own copy of it, `merged`, stays as it was (R431). -/
theorem mergedPut_unmade {s : State} {k n : Nat} {z : XTab} (h : tabAt s k = some z)
    (hp : (placePut s z.part (z.va + 48) n 8 6 true).2 = .unmade) :
    mergedPut s k n = ((placePut s z.part (z.va + 48) n 8 6 true).1, none) := by
  simp [mergedPut, h, hp]
/-- A race on MERGED is the merge's fault. -/
theorem mergedPut_raced {s : State} {k n : Nat} {z : XTab} (h : tabAt s k = some z)
    (hp : (placePut s z.part (z.va + 48) n 8 6 true).2 = .raced) : (mergedPut s k n).2.isSome = true := by
  simp [mergedPut, h, hp]
/-- A race on a slot word that a merge frees is the merge's fault. -/
theorem slotFree_raced {s : State} {k e r sp : Nat} {x : XTab} (h : tabAt s k = some x) (hp : (putSlot s x e r 0).2 = .raced) :
    (slotFree k e r sp (s, none)).2.isSome = true := by
  unfold slotFree
  simp only [h]
  generalize putSlot s x e r 0 = p at hp
  obtain ⟨s1, d⟩ := p
  simp only at hp
  simp [hp]
/-- A race on the first slot freed is the merge's fault, whatever slots follow. -/
theorem freeRetired_raced {s : State} {k : Nat} {x y : XTab} (h : tabAt s k = some x) (hp : (putSlot s x 0 0 0).2 = .raced)
    (hn : tabNexp y = 1) (hw : slotSt (slotW y 0 0) = 3) (hi : y.inf = []) : (freeRetired s k y).2.isSome = true := by
  have keep : ∀ (l : List Nat) (m : MergeSt), m.2.isSome = true → (l.foldl (fun y' i =>
      let w := slotW y (i / 8) (i % 8)
      if slotSt w = 3 && mapGet y.inf i 0 = 0 then slotFree k (i / 8) (i % 8) (fld w 61 58) y' else y') m).2.isSome = true := by
    intro l
    induction l with
    | nil => intro m hm; exact hm
    | cons i l ih =>
      intro m hm
      apply ih
      obtain ⟨s, f⟩ := m
      cases f with
      | none => simp at hm
      | some f => simp only; split <;> simp [slotFree]
  unfold freeRetired
  rw [hn, show List.range (8 * 1) = 0 :: [1, 2, 3, 4, 5, 6, 7] from rfl, List.foldl_cons]
  apply keep
  simp [hw, hi, mapGet, mapFind, slotFree_raced h hp]

end Sys2Proof.Machine
end

