-- ==== Sys2Proof/Laws/Maps.lean ====
section
/-! SUPPORT. Laws of sparse maps and of bytes in memory: read after write, the canonical form that every memory operation
keeps, and that memories which read alike are equal. -/
namespace Sys2Proof.Machine

variable {α : Type}

/-! ### Sparse maps -/

theorem mapFind_put_same (m : SMap α) (k : Nat) (v : α) : mapFind (mapPut m k v) k = some v := by
  induction m with
  | nil => simp [mapPut, mapFind]
  | cons x t ih =>
    obtain ⟨j, w⟩ := x
    simp only [mapPut]
    split
    · simp [mapFind]
    · split
      · simp [mapFind]
      · rename_i h1 h2
        simp [mapFind, h1, h2, ih]

theorem mapFind_put_other (m : SMap α) (k j : Nat) (v : α) (h : j ≠ k) : mapFind (mapPut m k v) j = mapFind m j := by
  induction m with
  | nil => simp only [mapPut, mapFind]; split <;> simp_all
  | cons x t ih =>
    obtain ⟨i, w⟩ := x
    simp only [mapPut]
    split
    · simp only [mapFind]
      repeat' split
      all_goals first | rfl | omega
    · split
      · simp only [mapFind]
        repeat' split
        all_goals first | rfl | omega
      · simp only [mapFind, ih]

@[simp] theorem mapGet_put_same (m : SMap α) (k : Nat) (v d : α) : mapGet (mapPut m k v) k d = v := by
  simp [mapGet, mapFind_put_same]

theorem mapGet_put_other (m : SMap α) (k j : Nat) (v d : α) (h : j ≠ k) : mapGet (mapPut m k v) j d = mapGet m j d := by
  simp [mapGet, mapFind_put_other m k j v h]

theorem mapSorted_mono (lo hi : Nat) (m : SMap α) (h : lo ≤ hi) (hs : mapSorted hi m = true) : mapSorted lo m = true := by
  cases m with
  | nil => rfl
  | cons x t =>
    obtain ⟨j, w⟩ := x
    simp only [mapSorted, Bool.and_eq_true, decide_eq_true_eq] at hs ⊢
    exact ⟨by omega, hs.2⟩

theorem mapFind_below (m : SMap α) (lo k : Nat) (hs : mapSorted lo m = true) (h : k < lo) : mapFind m k = none := by
  cases m with
  | nil => rfl
  | cons x t =>
    obtain ⟨j, w⟩ := x
    simp only [mapSorted, Bool.and_eq_true, decide_eq_true_eq] at hs
    simp only [mapFind]
    rw [if_pos (by omega)]

theorem mapSorted_put (m : SMap α) (lo k : Nat) (v : α) (h : lo ≤ k) (hs : mapSorted lo m = true) :
    mapSorted lo (mapPut m k v) = true := by
  induction m generalizing lo with
  | nil => simp [mapPut, mapSorted, h]
  | cons x t ih =>
    obtain ⟨j, w⟩ := x
    simp only [mapSorted, Bool.and_eq_true, decide_eq_true_eq] at hs
    simp only [mapPut]
    split
    · simp only [mapSorted, Bool.and_eq_true, decide_eq_true_eq]
      exact ⟨h, by omega, hs.2⟩
    · split
      · simp only [mapSorted, Bool.and_eq_true, decide_eq_true_eq]
        rename_i h1 h2
        subst h2
        exact ⟨h, hs.2⟩
      · simp only [mapSorted, Bool.and_eq_true, decide_eq_true_eq]
        exact ⟨hs.1, ih (j + 1) (by omega) hs.2⟩

theorem mapSorted_del (m : SMap α) (lo k : Nat) (hs : mapSorted lo m = true) : mapSorted lo (mapDel m k) = true := by
  induction m generalizing lo with
  | nil => rfl
  | cons x t ih =>
    obtain ⟨j, w⟩ := x
    have hs' := hs
    simp only [mapSorted, Bool.and_eq_true, decide_eq_true_eq] at hs'
    simp only [mapDel]
    split
    · exact hs
    · split
      · exact mapSorted_mono lo (j + 1) t (by omega) hs'.2
      · simp only [mapSorted, Bool.and_eq_true, decide_eq_true_eq]
        exact ⟨hs'.1, ih (j + 1) hs'.2⟩

theorem mapFind_del_same (m : SMap α) (lo k : Nat) (hs : mapSorted lo m = true) : mapFind (mapDel m k) k = none := by
  induction m generalizing lo with
  | nil => rfl
  | cons x t ih =>
    obtain ⟨j, w⟩ := x
    simp only [mapSorted, Bool.and_eq_true, decide_eq_true_eq] at hs
    simp only [mapDel]
    split
    · rename_i h; simp [mapFind, h]
    · split
      · rename_i h1 h2; exact mapFind_below t (j + 1) k hs.2 (by omega)
      · rename_i h1 h2; simp [mapFind, h1, h2, ih (j + 1) hs.2]

theorem mapFind_del_other (m : SMap α) (lo k j : Nat) (h : j ≠ k) (hs : mapSorted lo m = true) :
    mapFind (mapDel m k) j = mapFind m j := by
  induction m generalizing lo with
  | nil => rfl
  | cons x t ih =>
    obtain ⟨i, w⟩ := x
    simp only [mapSorted, Bool.and_eq_true, decide_eq_true_eq] at hs
    simp only [mapDel]
    split
    · rfl
    · split
      · rename_i h1 h2
        simp only [mapFind]
        split
        · exact mapFind_below t (i + 1) j hs.2 (by omega)
        · rw [if_neg (by omega)]
      · simp only [mapFind, ih (i + 1) hs.2]

theorem mapGet_set_same [DecidableEq α] (m : SMap α) (lo k : Nat) (v d : α) (hs : mapSorted lo m = true) :
    mapGet (mapSet m k v d) k d = v := by
  simp only [mapSet]
  split
  · rename_i h; simp [mapGet, mapFind_del_same m lo k hs, h]
  · simp

theorem mapGet_set_other [DecidableEq α] (m : SMap α) (lo k j : Nat) (v d : α) (h : j ≠ k) (hs : mapSorted lo m = true) :
    mapGet (mapSet m k v d) j d = mapGet m j d := by
  simp only [mapSet]
  split
  · simp [mapGet, mapFind_del_other m lo k j h hs]
  · exact mapGet_put_other m k j v d h

theorem mapSorted_set [DecidableEq α] (m : SMap α) (k : Nat) (v d : α) (hs : mapSorted 0 m = true) :
    mapSorted 0 (mapSet m k v d) = true := by
  simp only [mapSet]
  split
  · exact mapSorted_del m 0 k hs
  · exact mapSorted_put m 0 k v (Nat.zero_le k) hs

theorem mapSorted_filter (m : SMap α) (lo : Nat) (p : Nat × α → Bool) (hs : mapSorted lo m = true) :
    mapSorted lo (m.filter p) = true := by
  induction m generalizing lo with
  | nil => rfl
  | cons x t ih =>
    obtain ⟨j, w⟩ := x
    simp only [mapSorted, Bool.and_eq_true, decide_eq_true_eq] at hs
    simp only [List.filter]
    split
    · simp only [mapSorted, Bool.and_eq_true, decide_eq_true_eq]
      exact ⟨hs.1, ih (j + 1) hs.2⟩
    · exact mapSorted_mono lo (j + 1) _ (by omega) (ih (j + 1) hs.2)

/-! ### The entries of a map after an update -/

theorem mem_put (m : SMap α) (k : Nat) (v : α) (x : Nat × α) (h : x ∈ mapPut m k v) : x = (k, v) ∨ x ∈ m := by
  induction m with
  | nil => simpa [mapPut] using h
  | cons y t ih =>
    obtain ⟨j, w⟩ := y
    simp only [mapPut] at h
    split at h
    · simpa using h
    · split at h
      · rcases List.mem_cons.1 h with h | h
        · exact .inl h
        · exact .inr (List.mem_cons_of_mem _ h)
      · rcases List.mem_cons.1 h with h | h
        · exact .inr (h ▸ List.mem_cons_self ..)
        · exact (ih h).imp_right (List.mem_cons_of_mem _)

theorem mem_del (m : SMap α) (k : Nat) (x : Nat × α) (h : x ∈ mapDel m k) : x ∈ m := by
  induction m with
  | nil => simp [mapDel] at h
  | cons y t ih =>
    obtain ⟨j, w⟩ := y
    simp only [mapDel] at h
    split at h
    · exact h
    · split at h
      · exact List.mem_cons_of_mem _ h
      · rcases List.mem_cons.1 h with h | h
        · exact h ▸ List.mem_cons_self ..
        · exact List.mem_cons_of_mem _ (ih h)

/-! ### Bytes -/

theorem memWf_sorted (m : SMap Byte) (h : memWf m = true) : mapSorted 0 m = true := by
  simp only [memWf, Bool.and_eq_true] at h
  exact h.1

theorem memWf_byteSet (m : SMap Byte) (a : Nat) (b : Byte) (h : memWf m = true) : memWf (byteSet m a b) = true := by
  simp only [memWf, Bool.and_eq_true, List.all_eq_true] at *
  refine ⟨mapSorted_set m a b emptyByte h.1, ?_⟩
  intro x hx
  simp only [byteSet, mapSet] at hx
  split at hx
  · exact h.2 x (mem_del m a x hx)
  · rename_i hb
    rcases mem_put m a b x hx with rfl | hx
    · simpa using hb
    · exact h.2 x hx

theorem memWf_bytesSet (m : SMap Byte) (a x n : Nat) (h : memWf m = true) : memWf (bytesSet m a x n) = true := by
  induction n generalizing m a x with
  | zero => exact h
  | succ n ih => exact ih _ _ _ (memWf_byteSet m a _ h)

theorem memWf_bytesMask (m : SMap Byte) (a x k n : Nat) (h : memWf m = true) : memWf (bytesMask m a x k n) = true := by
  induction n generalizing m a x k with
  | zero => exact h
  | succ n ih =>
    simp only [bytesMask]
    split
    · exact ih _ _ _ _ (memWf_byteSet m a _ h)
    · exact ih _ _ _ _ h

theorem memWf_filter (m : SMap Byte) (p : Nat × Byte → Bool) (h : memWf m = true) : memWf (m.filter p) = true := by
  simp only [memWf, Bool.and_eq_true, List.all_eq_true] at *
  exact ⟨mapSorted_filter m 0 p h.1, fun x hx => h.2 x (List.mem_filter.1 hx).1⟩

theorem byteGet_set_same (m : SMap Byte) (a : Nat) (b : Byte) (h : memWf m = true) : byteGet (byteSet m a b) a = b :=
  mapGet_set_same m 0 a b emptyByte (memWf_sorted m h)

theorem byteGet_set_other (m : SMap Byte) (a c : Nat) (b : Byte) (hc : c ≠ a) (h : memWf m = true) :
    byteGet (byteSet m a b) c = byteGet m c :=
  mapGet_set_other m 0 a c b emptyByte hc (memWf_sorted m h)

theorem byteGet_bytesSet_other (m : SMap Byte) (a x n c : Nat) (hc : c < a ∨ a + n ≤ c) (h : memWf m = true) :
    byteGet (bytesSet m a x n) c = byteGet m c := by
  induction n generalizing m a x with
  | zero => rfl
  | succ n ih =>
    simp only [bytesSet]
    rw [ih _ _ _ (by omega) (memWf_byteSet m a _ h), byteGet_set_other m a c _ (by omega) h]

theorem bytesGet_congr (m l : SMap Byte) (a n : Nat) (h : ∀ i, a ≤ i → i < a + n → byteGet m i = byteGet l i) :
    bytesGet m a n = bytesGet l a n := by
  induction n generalizing a with
  | zero => rfl
  | succ n ih =>
    simp only [bytesGet]
    rw [h a (Nat.le_refl a) (by omega), ih (a + 1) fun i h1 h2 => h i (by omega) (by omega)]

theorem bytesGet_set (m : SMap Byte) (a x n : Nat) (h : memWf m = true) : bytesGet (bytesSet m a x n) a n = x % 256 ^ n := by
  induction n generalizing m a x with
  | zero => simp [bytesGet, Nat.mod_one]
  | succ n ih =>
    simp only [bytesSet, bytesGet]
    rw [byteGet_bytesSet_other _ _ _ _ _ (by omega) (memWf_byteSet m a _ h), byteGet_set_same m a _ h,
      ih _ _ _ (memWf_byteSet m a _ h), BitVec.toNat_ofNat]
    rw [show 256 ^ (n + 1) = 256 * 256 ^ n from by rw [Nat.pow_succ, Nat.mul_comm], Nat.mod_mul]

theorem mapSorted_ext (m l : SMap Byte) (lo : Nat) (hm : mapSorted lo m = true) (hl : mapSorted lo l = true)
    (zm : ∀ x ∈ m, x.2 ≠ emptyByte) (zl : ∀ x ∈ l, x.2 ≠ emptyByte) (h : ∀ a, byteGet m a = byteGet l a) : m = l := by
  induction m generalizing l lo with
  | nil =>
    cases l with
    | nil => rfl
    | cons y u =>
      obtain ⟨j, w⟩ := y
      exact absurd (by simpa [byteGet, mapGet, mapFind] using (h j).symm) (zl (j, w) (List.mem_cons_self ..))
  | cons x t ih =>
    obtain ⟨i, v⟩ := x
    cases l with
    | nil => exact absurd (by simpa [byteGet, mapGet, mapFind] using h i) (zm (i, v) (List.mem_cons_self ..))
    | cons y u =>
      obtain ⟨j, w⟩ := y
      simp only [mapSorted, Bool.and_eq_true, decide_eq_true_eq] at hm hl
      have hij : i = j := by
        rcases Nat.lt_trichotomy i j with hlt | heq | hgt
        · exact absurd (by simpa [byteGet, mapGet, mapFind, hlt] using h i) (zm (i, v) (List.mem_cons_self ..))
        · exact heq
        · exact absurd (by simpa [byteGet, mapGet, mapFind, hgt] using (h j).symm) (zl (j, w) (List.mem_cons_self ..))
      subst hij
      have hv : v = w := by simpa [byteGet, mapGet, mapFind] using h i
      subst hv
      have ht : t = u := by
        refine ih u (i + 1) hm.2 hl.2 (fun x hx => zm x (List.mem_cons_of_mem _ hx)) (fun x hx => zl x (List.mem_cons_of_mem _ hx)) ?_
        intro a
        rcases Nat.lt_or_ge i a with ha | ha
        · simpa [byteGet, mapGet, mapFind, Nat.not_lt.2 (Nat.le_of_lt ha), Nat.ne_of_gt ha] using h a
        · simp [byteGet, mapGet, mapFind_below t (i + 1) a hm.2 (by omega), mapFind_below u (i + 1) a hl.2 (by omega)]
      rw [ht]

theorem memWf_ext (m l : SMap Byte) (hm : memWf m = true) (hl : memWf l = true) (h : ∀ a, byteGet m a = byteGet l a) : m = l := by
  simp only [memWf, Bool.and_eq_true, List.all_eq_true] at hm hl
  exact mapSorted_ext m l 0 hm.1 hl.1 (fun x hx => by simpa using hm.2 x hx) (fun x hx => by simpa using hl.2 x hx) h

end Sys2Proof.Machine
end

