-- ==== Sys2Proof/Laws/State.lean ====
section
/-! SUPPORT. What each update of the state does to each of its fields: one lemma per update and field, so that no proof unfolds
a record update. -/
namespace Sys2Proof.Machine

/-! ### setTile -/

@[simp] theorem setTile_cyc (s : State) (n : Nat) (t : Tile) : (setTile s n t).cyc = s.cyc := rfl
@[simp] theorem setTile_free (s : State) (n : Nat) (t : Tile) : (setTile s n t).free = s.free := rfl
@[simp] theorem setTile_turns (s : State) (n : Nat) (t : Tile) : (setTile s n t).turns = s.turns := rfl
@[simp] theorem setTile_inbox (s : State) (n : Nat) (t : Tile) : (setTile s n t).inbox = s.inbox := rfl
@[simp] theorem setTile_cur (s : State) (n : Nat) (t : Tile) : (setTile s n t).cur = s.cur := rfl
@[simp] theorem setTile_nid (s : State) (n : Nat) (t : Tile) : (setTile s n t).nid = s.nid := rfl
@[simp] theorem setTile_tiles (s : State) (n : Nat) (t : Tile) : (setTile s n t).tiles = mapPut s.tiles n t := rfl
@[simp] theorem setTile_shadows (s : State) (n : Nat) (t : Tile) : (setTile s n t).shadows = s.shadows := rfl
@[simp] theorem setTile_shadowPorts (s : State) (n : Nat) (t : Tile) : (setTile s n t).shadowPorts = s.shadowPorts := rfl
@[simp] theorem setTile_shadowOuts (s : State) (n : Nat) (t : Tile) : (setTile s n t).shadowOuts = s.shadowOuts := rfl
@[simp] theorem setTile_shadowMts (s : State) (n : Nat) (t : Tile) : (setTile s n t).shadowMts = s.shadowMts := rfl
@[simp] theorem setTile_mtiles (s : State) (n : Nat) (t : Tile) : (setTile s n t).mtiles = s.mtiles := rfl
@[simp] theorem setTile_inPorts (s : State) (n : Nat) (t : Tile) : (setTile s n t).inPorts = s.inPorts := rfl
@[simp] theorem setTile_outPorts (s : State) (n : Nat) (t : Tile) : (setTile s n t).outPorts = s.outPorts := rfl
@[simp] theorem setTile_chans (s : State) (n : Nat) (t : Tile) : (setTile s n t).chans = s.chans := rfl
@[simp] theorem setTile_rgns (s : State) (n : Nat) (t : Tile) : (setTile s n t).rgns = s.rgns := rfl
@[simp] theorem setTile_agts (s : State) (n : Nat) (t : Tile) : (setTile s n t).agts = s.agts := rfl
@[simp] theorem setTile_agtTlb (s : State) (n : Nat) (t : Tile) : (setTile s n t).agtTlb = s.agtTlb := rfl
@[simp] theorem setTile_btes (s : State) (n : Nat) (t : Tile) : (setTile s n t).btes = s.btes := rfl
@[simp] theorem setTile_mem (s : State) (n : Nat) (t : Tile) : (setTile s n t).mem = s.mem := rfl
@[simp] theorem setTile_memBad (s : State) (n : Nat) (t : Tile) : (setTile s n t).memBad = s.memBad := rfl
@[simp] theorem setTile_lmeta (s : State) (n : Nat) (t : Tile) : (setTile s n t).lmeta = s.lmeta := rfl
@[simp] theorem setTile_sums (s : State) (n : Nat) (t : Tile) : (setTile s n t).sums = s.sums := rfl
@[simp] theorem setTile_accs (s : State) (n : Nat) (t : Tile) : (setTile s n t).accs = s.accs := rfl
@[simp] theorem setTile_walks (s : State) (n : Nat) (t : Tile) : (setTile s n t).walks = s.walks := rfl
@[simp] theorem setTile_packets (s : State) (n : Nat) (t : Tile) : (setTile s n t).packets = s.packets := rfl
@[simp] theorem setTile_futOps (s : State) (n : Nat) (t : Tile) : (setTile s n t).futOps = s.futOps := rfl
@[simp] theorem setTile_arrivals (s : State) (n : Nat) (t : Tile) : (setTile s n t).arrivals = s.arrivals := rfl
@[simp] theorem setTile_dies (s : State) (n : Nat) (t : Tile) : (setTile s n t).dies = s.dies := rfl
@[simp] theorem setTile_parts (s : State) (n : Nat) (t : Tile) : (setTile s n t).parts = s.parts := rfl
@[simp] theorem setTile_xtabs (s : State) (n : Nat) (t : Tile) : (setTile s n t).xtabs = s.xtabs := rfl
@[simp] theorem setTile_saves (s : State) (n : Nat) (t : Tile) : (setTile s n t).saves = s.saves := rfl
@[simp] theorem setTile_owed (s : State) (n : Nat) (t : Tile) : (setTile s n t).owed = s.owed := rfl
@[simp] theorem setTile_host (s : State) (n : Nat) (t : Tile) : (setTile s n t).host = s.host := rfl

/-! ### modTile -/

@[simp] theorem modTile_cyc (s : State) (n : Nat) (f : Tile → Tile) : (modTile s n f).cyc = s.cyc := rfl
@[simp] theorem modTile_free (s : State) (n : Nat) (f : Tile → Tile) : (modTile s n f).free = s.free := rfl
@[simp] theorem modTile_turns (s : State) (n : Nat) (f : Tile → Tile) : (modTile s n f).turns = s.turns := rfl
@[simp] theorem modTile_inbox (s : State) (n : Nat) (f : Tile → Tile) : (modTile s n f).inbox = s.inbox := rfl
@[simp] theorem modTile_cur (s : State) (n : Nat) (f : Tile → Tile) : (modTile s n f).cur = s.cur := rfl
@[simp] theorem modTile_nid (s : State) (n : Nat) (f : Tile → Tile) : (modTile s n f).nid = s.nid := rfl
@[simp] theorem modTile_tiles (s : State) (n : Nat) (f : Tile → Tile) : (modTile s n f).tiles = mapPut s.tiles n (f (tileOf s n)) := rfl
@[simp] theorem modTile_shadows (s : State) (n : Nat) (f : Tile → Tile) : (modTile s n f).shadows = s.shadows := rfl
@[simp] theorem modTile_shadowPorts (s : State) (n : Nat) (f : Tile → Tile) : (modTile s n f).shadowPorts = s.shadowPorts := rfl
@[simp] theorem modTile_shadowOuts (s : State) (n : Nat) (f : Tile → Tile) : (modTile s n f).shadowOuts = s.shadowOuts := rfl
@[simp] theorem modTile_shadowMts (s : State) (n : Nat) (f : Tile → Tile) : (modTile s n f).shadowMts = s.shadowMts := rfl
@[simp] theorem modTile_mtiles (s : State) (n : Nat) (f : Tile → Tile) : (modTile s n f).mtiles = s.mtiles := rfl
@[simp] theorem modTile_inPorts (s : State) (n : Nat) (f : Tile → Tile) : (modTile s n f).inPorts = s.inPorts := rfl
@[simp] theorem modTile_outPorts (s : State) (n : Nat) (f : Tile → Tile) : (modTile s n f).outPorts = s.outPorts := rfl
@[simp] theorem modTile_chans (s : State) (n : Nat) (f : Tile → Tile) : (modTile s n f).chans = s.chans := rfl
@[simp] theorem modTile_rgns (s : State) (n : Nat) (f : Tile → Tile) : (modTile s n f).rgns = s.rgns := rfl
@[simp] theorem modTile_agts (s : State) (n : Nat) (f : Tile → Tile) : (modTile s n f).agts = s.agts := rfl
@[simp] theorem modTile_agtTlb (s : State) (n : Nat) (f : Tile → Tile) : (modTile s n f).agtTlb = s.agtTlb := rfl
@[simp] theorem modTile_btes (s : State) (n : Nat) (f : Tile → Tile) : (modTile s n f).btes = s.btes := rfl
@[simp] theorem modTile_mem (s : State) (n : Nat) (f : Tile → Tile) : (modTile s n f).mem = s.mem := rfl
@[simp] theorem modTile_memBad (s : State) (n : Nat) (f : Tile → Tile) : (modTile s n f).memBad = s.memBad := rfl
@[simp] theorem modTile_lmeta (s : State) (n : Nat) (f : Tile → Tile) : (modTile s n f).lmeta = s.lmeta := rfl
@[simp] theorem modTile_sums (s : State) (n : Nat) (f : Tile → Tile) : (modTile s n f).sums = s.sums := rfl
@[simp] theorem modTile_accs (s : State) (n : Nat) (f : Tile → Tile) : (modTile s n f).accs = s.accs := rfl
@[simp] theorem modTile_walks (s : State) (n : Nat) (f : Tile → Tile) : (modTile s n f).walks = s.walks := rfl
@[simp] theorem modTile_packets (s : State) (n : Nat) (f : Tile → Tile) : (modTile s n f).packets = s.packets := rfl
@[simp] theorem modTile_futOps (s : State) (n : Nat) (f : Tile → Tile) : (modTile s n f).futOps = s.futOps := rfl
@[simp] theorem modTile_arrivals (s : State) (n : Nat) (f : Tile → Tile) : (modTile s n f).arrivals = s.arrivals := rfl
@[simp] theorem modTile_dies (s : State) (n : Nat) (f : Tile → Tile) : (modTile s n f).dies = s.dies := rfl
@[simp] theorem modTile_parts (s : State) (n : Nat) (f : Tile → Tile) : (modTile s n f).parts = s.parts := rfl
@[simp] theorem modTile_xtabs (s : State) (n : Nat) (f : Tile → Tile) : (modTile s n f).xtabs = s.xtabs := rfl
@[simp] theorem modTile_saves (s : State) (n : Nat) (f : Tile → Tile) : (modTile s n f).saves = s.saves := rfl
@[simp] theorem modTile_owed (s : State) (n : Nat) (f : Tile → Tile) : (modTile s n f).owed = s.owed := rfl
@[simp] theorem modTile_host (s : State) (n : Nat) (f : Tile → Tile) : (modTile s n f).host = s.host := rfl

/-! ### modBank -/

@[simp] theorem modBank_cyc (s : State) (n b : Nat) (f : Bank → Bank) : (modBank s n b f).cyc = s.cyc := rfl
@[simp] theorem modBank_free (s : State) (n b : Nat) (f : Bank → Bank) : (modBank s n b f).free = s.free := rfl
@[simp] theorem modBank_turns (s : State) (n b : Nat) (f : Bank → Bank) : (modBank s n b f).turns = s.turns := rfl
@[simp] theorem modBank_inbox (s : State) (n b : Nat) (f : Bank → Bank) : (modBank s n b f).inbox = s.inbox := rfl
@[simp] theorem modBank_cur (s : State) (n b : Nat) (f : Bank → Bank) : (modBank s n b f).cur = s.cur := rfl
@[simp] theorem modBank_nid (s : State) (n b : Nat) (f : Bank → Bank) : (modBank s n b f).nid = s.nid := rfl
@[simp] theorem modBank_tiles (s : State) (n b : Nat) (f : Bank → Bank) : (modBank s n b f).tiles = mapPut s.tiles n (setBank (tileOf s n) b (f (bankOf (tileOf s n) b))) := rfl
@[simp] theorem modBank_shadows (s : State) (n b : Nat) (f : Bank → Bank) : (modBank s n b f).shadows = s.shadows := rfl
@[simp] theorem modBank_shadowPorts (s : State) (n b : Nat) (f : Bank → Bank) : (modBank s n b f).shadowPorts = s.shadowPorts := rfl
@[simp] theorem modBank_shadowOuts (s : State) (n b : Nat) (f : Bank → Bank) : (modBank s n b f).shadowOuts = s.shadowOuts := rfl
@[simp] theorem modBank_shadowMts (s : State) (n b : Nat) (f : Bank → Bank) : (modBank s n b f).shadowMts = s.shadowMts := rfl
@[simp] theorem modBank_mtiles (s : State) (n b : Nat) (f : Bank → Bank) : (modBank s n b f).mtiles = s.mtiles := rfl
@[simp] theorem modBank_inPorts (s : State) (n b : Nat) (f : Bank → Bank) : (modBank s n b f).inPorts = s.inPorts := rfl
@[simp] theorem modBank_outPorts (s : State) (n b : Nat) (f : Bank → Bank) : (modBank s n b f).outPorts = s.outPorts := rfl
@[simp] theorem modBank_chans (s : State) (n b : Nat) (f : Bank → Bank) : (modBank s n b f).chans = s.chans := rfl
@[simp] theorem modBank_rgns (s : State) (n b : Nat) (f : Bank → Bank) : (modBank s n b f).rgns = s.rgns := rfl
@[simp] theorem modBank_agts (s : State) (n b : Nat) (f : Bank → Bank) : (modBank s n b f).agts = s.agts := rfl
@[simp] theorem modBank_agtTlb (s : State) (n b : Nat) (f : Bank → Bank) : (modBank s n b f).agtTlb = s.agtTlb := rfl
@[simp] theorem modBank_btes (s : State) (n b : Nat) (f : Bank → Bank) : (modBank s n b f).btes = s.btes := rfl
@[simp] theorem modBank_mem (s : State) (n b : Nat) (f : Bank → Bank) : (modBank s n b f).mem = s.mem := rfl
@[simp] theorem modBank_memBad (s : State) (n b : Nat) (f : Bank → Bank) : (modBank s n b f).memBad = s.memBad := rfl
@[simp] theorem modBank_lmeta (s : State) (n b : Nat) (f : Bank → Bank) : (modBank s n b f).lmeta = s.lmeta := rfl
@[simp] theorem modBank_sums (s : State) (n b : Nat) (f : Bank → Bank) : (modBank s n b f).sums = s.sums := rfl
@[simp] theorem modBank_accs (s : State) (n b : Nat) (f : Bank → Bank) : (modBank s n b f).accs = s.accs := rfl
@[simp] theorem modBank_walks (s : State) (n b : Nat) (f : Bank → Bank) : (modBank s n b f).walks = s.walks := rfl
@[simp] theorem modBank_packets (s : State) (n b : Nat) (f : Bank → Bank) : (modBank s n b f).packets = s.packets := rfl
@[simp] theorem modBank_futOps (s : State) (n b : Nat) (f : Bank → Bank) : (modBank s n b f).futOps = s.futOps := rfl
@[simp] theorem modBank_arrivals (s : State) (n b : Nat) (f : Bank → Bank) : (modBank s n b f).arrivals = s.arrivals := rfl
@[simp] theorem modBank_dies (s : State) (n b : Nat) (f : Bank → Bank) : (modBank s n b f).dies = s.dies := rfl
@[simp] theorem modBank_parts (s : State) (n b : Nat) (f : Bank → Bank) : (modBank s n b f).parts = s.parts := rfl
@[simp] theorem modBank_xtabs (s : State) (n b : Nat) (f : Bank → Bank) : (modBank s n b f).xtabs = s.xtabs := rfl
@[simp] theorem modBank_saves (s : State) (n b : Nat) (f : Bank → Bank) : (modBank s n b f).saves = s.saves := rfl
@[simp] theorem modBank_owed (s : State) (n b : Nat) (f : Bank → Bank) : (modBank s n b f).owed = s.owed := rfl
@[simp] theorem modBank_host (s : State) (n b : Nat) (f : Bank → Bank) : (modBank s n b f).host = s.host := rfl

/-! ### setInPort -/

@[simp] theorem setInPort_cyc (s : State) (e : Nat) (p : InPort) : (setInPort s e p).cyc = s.cyc := rfl
@[simp] theorem setInPort_free (s : State) (e : Nat) (p : InPort) : (setInPort s e p).free = s.free := rfl
@[simp] theorem setInPort_turns (s : State) (e : Nat) (p : InPort) : (setInPort s e p).turns = s.turns := rfl
@[simp] theorem setInPort_inbox (s : State) (e : Nat) (p : InPort) : (setInPort s e p).inbox = s.inbox := rfl
@[simp] theorem setInPort_cur (s : State) (e : Nat) (p : InPort) : (setInPort s e p).cur = s.cur := rfl
@[simp] theorem setInPort_nid (s : State) (e : Nat) (p : InPort) : (setInPort s e p).nid = s.nid := rfl
@[simp] theorem setInPort_tiles (s : State) (e : Nat) (p : InPort) : (setInPort s e p).tiles = s.tiles := rfl
@[simp] theorem setInPort_shadows (s : State) (e : Nat) (p : InPort) : (setInPort s e p).shadows = s.shadows := rfl
@[simp] theorem setInPort_shadowPorts (s : State) (e : Nat) (p : InPort) : (setInPort s e p).shadowPorts = s.shadowPorts := rfl
@[simp] theorem setInPort_shadowOuts (s : State) (e : Nat) (p : InPort) : (setInPort s e p).shadowOuts = s.shadowOuts := rfl
@[simp] theorem setInPort_shadowMts (s : State) (e : Nat) (p : InPort) : (setInPort s e p).shadowMts = s.shadowMts := rfl
@[simp] theorem setInPort_mtiles (s : State) (e : Nat) (p : InPort) : (setInPort s e p).mtiles = s.mtiles := rfl
@[simp] theorem setInPort_inPorts (s : State) (e : Nat) (p : InPort) : (setInPort s e p).inPorts = mapPut s.inPorts e p := rfl
@[simp] theorem setInPort_outPorts (s : State) (e : Nat) (p : InPort) : (setInPort s e p).outPorts = s.outPorts := rfl
@[simp] theorem setInPort_chans (s : State) (e : Nat) (p : InPort) : (setInPort s e p).chans = s.chans := rfl
@[simp] theorem setInPort_rgns (s : State) (e : Nat) (p : InPort) : (setInPort s e p).rgns = s.rgns := rfl
@[simp] theorem setInPort_agts (s : State) (e : Nat) (p : InPort) : (setInPort s e p).agts = s.agts := rfl
@[simp] theorem setInPort_agtTlb (s : State) (e : Nat) (p : InPort) : (setInPort s e p).agtTlb = s.agtTlb := rfl
@[simp] theorem setInPort_btes (s : State) (e : Nat) (p : InPort) : (setInPort s e p).btes = s.btes := rfl
@[simp] theorem setInPort_mem (s : State) (e : Nat) (p : InPort) : (setInPort s e p).mem = s.mem := rfl
@[simp] theorem setInPort_memBad (s : State) (e : Nat) (p : InPort) : (setInPort s e p).memBad = s.memBad := rfl
@[simp] theorem setInPort_lmeta (s : State) (e : Nat) (p : InPort) : (setInPort s e p).lmeta = s.lmeta := rfl
@[simp] theorem setInPort_sums (s : State) (e : Nat) (p : InPort) : (setInPort s e p).sums = s.sums := rfl
@[simp] theorem setInPort_accs (s : State) (e : Nat) (p : InPort) : (setInPort s e p).accs = s.accs := rfl
@[simp] theorem setInPort_walks (s : State) (e : Nat) (p : InPort) : (setInPort s e p).walks = s.walks := rfl
@[simp] theorem setInPort_packets (s : State) (e : Nat) (p : InPort) : (setInPort s e p).packets = s.packets := rfl
@[simp] theorem setInPort_futOps (s : State) (e : Nat) (p : InPort) : (setInPort s e p).futOps = s.futOps := rfl
@[simp] theorem setInPort_arrivals (s : State) (e : Nat) (p : InPort) : (setInPort s e p).arrivals = s.arrivals := rfl
@[simp] theorem setInPort_dies (s : State) (e : Nat) (p : InPort) : (setInPort s e p).dies = s.dies := rfl
@[simp] theorem setInPort_parts (s : State) (e : Nat) (p : InPort) : (setInPort s e p).parts = s.parts := rfl
@[simp] theorem setInPort_xtabs (s : State) (e : Nat) (p : InPort) : (setInPort s e p).xtabs = s.xtabs := rfl
@[simp] theorem setInPort_saves (s : State) (e : Nat) (p : InPort) : (setInPort s e p).saves = s.saves := rfl
@[simp] theorem setInPort_owed (s : State) (e : Nat) (p : InPort) : (setInPort s e p).owed = s.owed := rfl
@[simp] theorem setInPort_host (s : State) (e : Nat) (p : InPort) : (setInPort s e p).host = s.host := rfl

/-! ### setOutPort -/

@[simp] theorem setOutPort_cyc (s : State) (e : Nat) (p : OutPort) : (setOutPort s e p).cyc = s.cyc := rfl
@[simp] theorem setOutPort_free (s : State) (e : Nat) (p : OutPort) : (setOutPort s e p).free = s.free := rfl
@[simp] theorem setOutPort_turns (s : State) (e : Nat) (p : OutPort) : (setOutPort s e p).turns = s.turns := rfl
@[simp] theorem setOutPort_inbox (s : State) (e : Nat) (p : OutPort) : (setOutPort s e p).inbox = s.inbox := rfl
@[simp] theorem setOutPort_cur (s : State) (e : Nat) (p : OutPort) : (setOutPort s e p).cur = s.cur := rfl
@[simp] theorem setOutPort_nid (s : State) (e : Nat) (p : OutPort) : (setOutPort s e p).nid = s.nid := rfl
@[simp] theorem setOutPort_tiles (s : State) (e : Nat) (p : OutPort) : (setOutPort s e p).tiles = s.tiles := rfl
@[simp] theorem setOutPort_shadows (s : State) (e : Nat) (p : OutPort) : (setOutPort s e p).shadows = s.shadows := rfl
@[simp] theorem setOutPort_shadowPorts (s : State) (e : Nat) (p : OutPort) : (setOutPort s e p).shadowPorts = s.shadowPorts := rfl
@[simp] theorem setOutPort_shadowOuts (s : State) (e : Nat) (p : OutPort) : (setOutPort s e p).shadowOuts = s.shadowOuts := rfl
@[simp] theorem setOutPort_shadowMts (s : State) (e : Nat) (p : OutPort) : (setOutPort s e p).shadowMts = s.shadowMts := rfl
@[simp] theorem setOutPort_mtiles (s : State) (e : Nat) (p : OutPort) : (setOutPort s e p).mtiles = s.mtiles := rfl
@[simp] theorem setOutPort_inPorts (s : State) (e : Nat) (p : OutPort) : (setOutPort s e p).inPorts = s.inPorts := rfl
@[simp] theorem setOutPort_outPorts (s : State) (e : Nat) (p : OutPort) : (setOutPort s e p).outPorts = mapPut s.outPorts e p := rfl
@[simp] theorem setOutPort_chans (s : State) (e : Nat) (p : OutPort) : (setOutPort s e p).chans = s.chans := rfl
@[simp] theorem setOutPort_rgns (s : State) (e : Nat) (p : OutPort) : (setOutPort s e p).rgns = s.rgns := rfl
@[simp] theorem setOutPort_agts (s : State) (e : Nat) (p : OutPort) : (setOutPort s e p).agts = s.agts := rfl
@[simp] theorem setOutPort_agtTlb (s : State) (e : Nat) (p : OutPort) : (setOutPort s e p).agtTlb = s.agtTlb := rfl
@[simp] theorem setOutPort_btes (s : State) (e : Nat) (p : OutPort) : (setOutPort s e p).btes = s.btes := rfl
@[simp] theorem setOutPort_mem (s : State) (e : Nat) (p : OutPort) : (setOutPort s e p).mem = s.mem := rfl
@[simp] theorem setOutPort_memBad (s : State) (e : Nat) (p : OutPort) : (setOutPort s e p).memBad = s.memBad := rfl
@[simp] theorem setOutPort_lmeta (s : State) (e : Nat) (p : OutPort) : (setOutPort s e p).lmeta = s.lmeta := rfl
@[simp] theorem setOutPort_sums (s : State) (e : Nat) (p : OutPort) : (setOutPort s e p).sums = s.sums := rfl
@[simp] theorem setOutPort_accs (s : State) (e : Nat) (p : OutPort) : (setOutPort s e p).accs = s.accs := rfl
@[simp] theorem setOutPort_walks (s : State) (e : Nat) (p : OutPort) : (setOutPort s e p).walks = s.walks := rfl
@[simp] theorem setOutPort_packets (s : State) (e : Nat) (p : OutPort) : (setOutPort s e p).packets = s.packets := rfl
@[simp] theorem setOutPort_futOps (s : State) (e : Nat) (p : OutPort) : (setOutPort s e p).futOps = s.futOps := rfl
@[simp] theorem setOutPort_arrivals (s : State) (e : Nat) (p : OutPort) : (setOutPort s e p).arrivals = s.arrivals := rfl
@[simp] theorem setOutPort_dies (s : State) (e : Nat) (p : OutPort) : (setOutPort s e p).dies = s.dies := rfl
@[simp] theorem setOutPort_parts (s : State) (e : Nat) (p : OutPort) : (setOutPort s e p).parts = s.parts := rfl
@[simp] theorem setOutPort_xtabs (s : State) (e : Nat) (p : OutPort) : (setOutPort s e p).xtabs = s.xtabs := rfl
@[simp] theorem setOutPort_saves (s : State) (e : Nat) (p : OutPort) : (setOutPort s e p).saves = s.saves := rfl
@[simp] theorem setOutPort_owed (s : State) (e : Nat) (p : OutPort) : (setOutPort s e p).owed = s.owed := rfl
@[simp] theorem setOutPort_host (s : State) (e : Nat) (p : OutPort) : (setOutPort s e p).host = s.host := rfl

/-! ### setChan -/

@[simp] theorem setChan_cyc (s : State) (c : Nat) (x : Chan) : (setChan s c x).cyc = s.cyc := rfl
@[simp] theorem setChan_free (s : State) (c : Nat) (x : Chan) : (setChan s c x).free = s.free := rfl
@[simp] theorem setChan_turns (s : State) (c : Nat) (x : Chan) : (setChan s c x).turns = s.turns := rfl
@[simp] theorem setChan_inbox (s : State) (c : Nat) (x : Chan) : (setChan s c x).inbox = s.inbox := rfl
@[simp] theorem setChan_cur (s : State) (c : Nat) (x : Chan) : (setChan s c x).cur = s.cur := rfl
@[simp] theorem setChan_nid (s : State) (c : Nat) (x : Chan) : (setChan s c x).nid = s.nid := rfl
@[simp] theorem setChan_tiles (s : State) (c : Nat) (x : Chan) : (setChan s c x).tiles = s.tiles := rfl
@[simp] theorem setChan_shadows (s : State) (c : Nat) (x : Chan) : (setChan s c x).shadows = s.shadows := rfl
@[simp] theorem setChan_shadowPorts (s : State) (c : Nat) (x : Chan) : (setChan s c x).shadowPorts = s.shadowPorts := rfl
@[simp] theorem setChan_shadowOuts (s : State) (c : Nat) (x : Chan) : (setChan s c x).shadowOuts = s.shadowOuts := rfl
@[simp] theorem setChan_shadowMts (s : State) (c : Nat) (x : Chan) : (setChan s c x).shadowMts = s.shadowMts := rfl
@[simp] theorem setChan_mtiles (s : State) (c : Nat) (x : Chan) : (setChan s c x).mtiles = s.mtiles := rfl
@[simp] theorem setChan_inPorts (s : State) (c : Nat) (x : Chan) : (setChan s c x).inPorts = s.inPorts := rfl
@[simp] theorem setChan_outPorts (s : State) (c : Nat) (x : Chan) : (setChan s c x).outPorts = s.outPorts := rfl
@[simp] theorem setChan_chans (s : State) (c : Nat) (x : Chan) : (setChan s c x).chans = mapPut s.chans c x := rfl
@[simp] theorem setChan_rgns (s : State) (c : Nat) (x : Chan) : (setChan s c x).rgns = s.rgns := rfl
@[simp] theorem setChan_agts (s : State) (c : Nat) (x : Chan) : (setChan s c x).agts = s.agts := rfl
@[simp] theorem setChan_agtTlb (s : State) (c : Nat) (x : Chan) : (setChan s c x).agtTlb = s.agtTlb := rfl
@[simp] theorem setChan_btes (s : State) (c : Nat) (x : Chan) : (setChan s c x).btes = s.btes := rfl
@[simp] theorem setChan_mem (s : State) (c : Nat) (x : Chan) : (setChan s c x).mem = s.mem := rfl
@[simp] theorem setChan_memBad (s : State) (c : Nat) (x : Chan) : (setChan s c x).memBad = s.memBad := rfl
@[simp] theorem setChan_lmeta (s : State) (c : Nat) (x : Chan) : (setChan s c x).lmeta = s.lmeta := rfl
@[simp] theorem setChan_sums (s : State) (c : Nat) (x : Chan) : (setChan s c x).sums = s.sums := rfl
@[simp] theorem setChan_accs (s : State) (c : Nat) (x : Chan) : (setChan s c x).accs = s.accs := rfl
@[simp] theorem setChan_walks (s : State) (c : Nat) (x : Chan) : (setChan s c x).walks = s.walks := rfl
@[simp] theorem setChan_packets (s : State) (c : Nat) (x : Chan) : (setChan s c x).packets = s.packets := rfl
@[simp] theorem setChan_futOps (s : State) (c : Nat) (x : Chan) : (setChan s c x).futOps = s.futOps := rfl
@[simp] theorem setChan_arrivals (s : State) (c : Nat) (x : Chan) : (setChan s c x).arrivals = s.arrivals := rfl
@[simp] theorem setChan_dies (s : State) (c : Nat) (x : Chan) : (setChan s c x).dies = s.dies := rfl
@[simp] theorem setChan_parts (s : State) (c : Nat) (x : Chan) : (setChan s c x).parts = s.parts := rfl
@[simp] theorem setChan_xtabs (s : State) (c : Nat) (x : Chan) : (setChan s c x).xtabs = s.xtabs := rfl
@[simp] theorem setChan_saves (s : State) (c : Nat) (x : Chan) : (setChan s c x).saves = s.saves := rfl
@[simp] theorem setChan_owed (s : State) (c : Nat) (x : Chan) : (setChan s c x).owed = s.owed := rfl
@[simp] theorem setChan_host (s : State) (c : Nat) (x : Chan) : (setChan s c x).host = s.host := rfl

/-! ### setMTile -/

@[simp] theorem setMTile_cyc (s : State) (n : Nat) (m : MTile) : (setMTile s n m).cyc = s.cyc := rfl
@[simp] theorem setMTile_free (s : State) (n : Nat) (m : MTile) : (setMTile s n m).free = s.free := rfl
@[simp] theorem setMTile_turns (s : State) (n : Nat) (m : MTile) : (setMTile s n m).turns = s.turns := rfl
@[simp] theorem setMTile_inbox (s : State) (n : Nat) (m : MTile) : (setMTile s n m).inbox = s.inbox := rfl
@[simp] theorem setMTile_cur (s : State) (n : Nat) (m : MTile) : (setMTile s n m).cur = s.cur := rfl
@[simp] theorem setMTile_nid (s : State) (n : Nat) (m : MTile) : (setMTile s n m).nid = s.nid := rfl
@[simp] theorem setMTile_tiles (s : State) (n : Nat) (m : MTile) : (setMTile s n m).tiles = s.tiles := rfl
@[simp] theorem setMTile_shadows (s : State) (n : Nat) (m : MTile) : (setMTile s n m).shadows = s.shadows := rfl
@[simp] theorem setMTile_shadowPorts (s : State) (n : Nat) (m : MTile) : (setMTile s n m).shadowPorts = s.shadowPorts := rfl
@[simp] theorem setMTile_shadowOuts (s : State) (n : Nat) (m : MTile) : (setMTile s n m).shadowOuts = s.shadowOuts := rfl
@[simp] theorem setMTile_shadowMts (s : State) (n : Nat) (m : MTile) : (setMTile s n m).shadowMts = s.shadowMts := rfl
@[simp] theorem setMTile_mtiles (s : State) (n : Nat) (m : MTile) : (setMTile s n m).mtiles = mapPut s.mtiles n m := rfl
@[simp] theorem setMTile_inPorts (s : State) (n : Nat) (m : MTile) : (setMTile s n m).inPorts = s.inPorts := rfl
@[simp] theorem setMTile_outPorts (s : State) (n : Nat) (m : MTile) : (setMTile s n m).outPorts = s.outPorts := rfl
@[simp] theorem setMTile_chans (s : State) (n : Nat) (m : MTile) : (setMTile s n m).chans = s.chans := rfl
@[simp] theorem setMTile_rgns (s : State) (n : Nat) (m : MTile) : (setMTile s n m).rgns = s.rgns := rfl
@[simp] theorem setMTile_agts (s : State) (n : Nat) (m : MTile) : (setMTile s n m).agts = s.agts := rfl
@[simp] theorem setMTile_agtTlb (s : State) (n : Nat) (m : MTile) : (setMTile s n m).agtTlb = s.agtTlb := rfl
@[simp] theorem setMTile_btes (s : State) (n : Nat) (m : MTile) : (setMTile s n m).btes = s.btes := rfl
@[simp] theorem setMTile_mem (s : State) (n : Nat) (m : MTile) : (setMTile s n m).mem = s.mem := rfl
@[simp] theorem setMTile_memBad (s : State) (n : Nat) (m : MTile) : (setMTile s n m).memBad = s.memBad := rfl
@[simp] theorem setMTile_lmeta (s : State) (n : Nat) (m : MTile) : (setMTile s n m).lmeta = s.lmeta := rfl
@[simp] theorem setMTile_sums (s : State) (n : Nat) (m : MTile) : (setMTile s n m).sums = s.sums := rfl
@[simp] theorem setMTile_accs (s : State) (n : Nat) (m : MTile) : (setMTile s n m).accs = s.accs := rfl
@[simp] theorem setMTile_walks (s : State) (n : Nat) (m : MTile) : (setMTile s n m).walks = s.walks := rfl
@[simp] theorem setMTile_packets (s : State) (n : Nat) (m : MTile) : (setMTile s n m).packets = s.packets := rfl
@[simp] theorem setMTile_futOps (s : State) (n : Nat) (m : MTile) : (setMTile s n m).futOps = s.futOps := rfl
@[simp] theorem setMTile_arrivals (s : State) (n : Nat) (m : MTile) : (setMTile s n m).arrivals = s.arrivals := rfl
@[simp] theorem setMTile_dies (s : State) (n : Nat) (m : MTile) : (setMTile s n m).dies = s.dies := rfl
@[simp] theorem setMTile_parts (s : State) (n : Nat) (m : MTile) : (setMTile s n m).parts = s.parts := rfl
@[simp] theorem setMTile_xtabs (s : State) (n : Nat) (m : MTile) : (setMTile s n m).xtabs = s.xtabs := rfl
@[simp] theorem setMTile_saves (s : State) (n : Nat) (m : MTile) : (setMTile s n m).saves = s.saves := rfl
@[simp] theorem setMTile_owed (s : State) (n : Nat) (m : MTile) : (setMTile s n m).owed = s.owed := rfl
@[simp] theorem setMTile_host (s : State) (n : Nat) (m : MTile) : (setMTile s n m).host = s.host := rfl

/-! ### setAgt -/

@[simp] theorem setAgt_cyc (s : State) (n : Nat) (a : Agt) : (setAgt s n a).cyc = s.cyc := rfl
@[simp] theorem setAgt_free (s : State) (n : Nat) (a : Agt) : (setAgt s n a).free = s.free := rfl
@[simp] theorem setAgt_turns (s : State) (n : Nat) (a : Agt) : (setAgt s n a).turns = s.turns := rfl
@[simp] theorem setAgt_inbox (s : State) (n : Nat) (a : Agt) : (setAgt s n a).inbox = s.inbox := rfl
@[simp] theorem setAgt_cur (s : State) (n : Nat) (a : Agt) : (setAgt s n a).cur = s.cur := rfl
@[simp] theorem setAgt_nid (s : State) (n : Nat) (a : Agt) : (setAgt s n a).nid = s.nid := rfl
@[simp] theorem setAgt_tiles (s : State) (n : Nat) (a : Agt) : (setAgt s n a).tiles = s.tiles := rfl
@[simp] theorem setAgt_shadows (s : State) (n : Nat) (a : Agt) : (setAgt s n a).shadows = s.shadows := rfl
@[simp] theorem setAgt_shadowPorts (s : State) (n : Nat) (a : Agt) : (setAgt s n a).shadowPorts = s.shadowPorts := rfl
@[simp] theorem setAgt_shadowOuts (s : State) (n : Nat) (a : Agt) : (setAgt s n a).shadowOuts = s.shadowOuts := rfl
@[simp] theorem setAgt_shadowMts (s : State) (n : Nat) (a : Agt) : (setAgt s n a).shadowMts = s.shadowMts := rfl
@[simp] theorem setAgt_mtiles (s : State) (n : Nat) (a : Agt) : (setAgt s n a).mtiles = s.mtiles := rfl
@[simp] theorem setAgt_inPorts (s : State) (n : Nat) (a : Agt) : (setAgt s n a).inPorts = s.inPorts := rfl
@[simp] theorem setAgt_outPorts (s : State) (n : Nat) (a : Agt) : (setAgt s n a).outPorts = s.outPorts := rfl
@[simp] theorem setAgt_chans (s : State) (n : Nat) (a : Agt) : (setAgt s n a).chans = s.chans := rfl
@[simp] theorem setAgt_rgns (s : State) (n : Nat) (a : Agt) : (setAgt s n a).rgns = s.rgns := rfl
@[simp] theorem setAgt_agts (s : State) (n : Nat) (a : Agt) : (setAgt s n a).agts = mapPut s.agts n a := rfl
@[simp] theorem setAgt_agtTlb (s : State) (n : Nat) (a : Agt) : (setAgt s n a).agtTlb = s.agtTlb := rfl
@[simp] theorem setAgt_btes (s : State) (n : Nat) (a : Agt) : (setAgt s n a).btes = s.btes := rfl
@[simp] theorem setAgt_mem (s : State) (n : Nat) (a : Agt) : (setAgt s n a).mem = s.mem := rfl
@[simp] theorem setAgt_memBad (s : State) (n : Nat) (a : Agt) : (setAgt s n a).memBad = s.memBad := rfl
@[simp] theorem setAgt_lmeta (s : State) (n : Nat) (a : Agt) : (setAgt s n a).lmeta = s.lmeta := rfl
@[simp] theorem setAgt_sums (s : State) (n : Nat) (a : Agt) : (setAgt s n a).sums = s.sums := rfl
@[simp] theorem setAgt_accs (s : State) (n : Nat) (a : Agt) : (setAgt s n a).accs = s.accs := rfl
@[simp] theorem setAgt_walks (s : State) (n : Nat) (a : Agt) : (setAgt s n a).walks = s.walks := rfl
@[simp] theorem setAgt_packets (s : State) (n : Nat) (a : Agt) : (setAgt s n a).packets = s.packets := rfl
@[simp] theorem setAgt_futOps (s : State) (n : Nat) (a : Agt) : (setAgt s n a).futOps = s.futOps := rfl
@[simp] theorem setAgt_arrivals (s : State) (n : Nat) (a : Agt) : (setAgt s n a).arrivals = s.arrivals := rfl
@[simp] theorem setAgt_dies (s : State) (n : Nat) (a : Agt) : (setAgt s n a).dies = s.dies := rfl
@[simp] theorem setAgt_parts (s : State) (n : Nat) (a : Agt) : (setAgt s n a).parts = s.parts := rfl
@[simp] theorem setAgt_xtabs (s : State) (n : Nat) (a : Agt) : (setAgt s n a).xtabs = s.xtabs := rfl
@[simp] theorem setAgt_saves (s : State) (n : Nat) (a : Agt) : (setAgt s n a).saves = s.saves := rfl
@[simp] theorem setAgt_owed (s : State) (n : Nat) (a : Agt) : (setAgt s n a).owed = s.owed := rfl
@[simp] theorem setAgt_host (s : State) (n : Nat) (a : Agt) : (setAgt s n a).host = s.host := rfl

/-! ### setBte -/

@[simp] theorem setBte_cyc (s : State) (n ch : Nat) (c : BteCh) : (setBte s n ch c).cyc = s.cyc := rfl
@[simp] theorem setBte_free (s : State) (n ch : Nat) (c : BteCh) : (setBte s n ch c).free = s.free := rfl
@[simp] theorem setBte_turns (s : State) (n ch : Nat) (c : BteCh) : (setBte s n ch c).turns = s.turns := rfl
@[simp] theorem setBte_inbox (s : State) (n ch : Nat) (c : BteCh) : (setBte s n ch c).inbox = s.inbox := rfl
@[simp] theorem setBte_cur (s : State) (n ch : Nat) (c : BteCh) : (setBte s n ch c).cur = s.cur := rfl
@[simp] theorem setBte_nid (s : State) (n ch : Nat) (c : BteCh) : (setBte s n ch c).nid = s.nid := rfl
@[simp] theorem setBte_tiles (s : State) (n ch : Nat) (c : BteCh) : (setBte s n ch c).tiles = s.tiles := rfl
@[simp] theorem setBte_shadows (s : State) (n ch : Nat) (c : BteCh) : (setBte s n ch c).shadows = s.shadows := rfl
@[simp] theorem setBte_shadowPorts (s : State) (n ch : Nat) (c : BteCh) : (setBte s n ch c).shadowPorts = s.shadowPorts := rfl
@[simp] theorem setBte_shadowOuts (s : State) (n ch : Nat) (c : BteCh) : (setBte s n ch c).shadowOuts = s.shadowOuts := rfl
@[simp] theorem setBte_shadowMts (s : State) (n ch : Nat) (c : BteCh) : (setBte s n ch c).shadowMts = s.shadowMts := rfl
@[simp] theorem setBte_mtiles (s : State) (n ch : Nat) (c : BteCh) : (setBte s n ch c).mtiles = s.mtiles := rfl
@[simp] theorem setBte_inPorts (s : State) (n ch : Nat) (c : BteCh) : (setBte s n ch c).inPorts = s.inPorts := rfl
@[simp] theorem setBte_outPorts (s : State) (n ch : Nat) (c : BteCh) : (setBte s n ch c).outPorts = s.outPorts := rfl
@[simp] theorem setBte_chans (s : State) (n ch : Nat) (c : BteCh) : (setBte s n ch c).chans = s.chans := rfl
@[simp] theorem setBte_rgns (s : State) (n ch : Nat) (c : BteCh) : (setBte s n ch c).rgns = s.rgns := rfl
@[simp] theorem setBte_agts (s : State) (n ch : Nat) (c : BteCh) : (setBte s n ch c).agts = s.agts := rfl
@[simp] theorem setBte_agtTlb (s : State) (n ch : Nat) (c : BteCh) : (setBte s n ch c).agtTlb = s.agtTlb := rfl
@[simp] theorem setBte_btes (s : State) (n ch : Nat) (c : BteCh) : (setBte s n ch c).btes = mapPut s.btes (n * 16 + ch) c := rfl
@[simp] theorem setBte_mem (s : State) (n ch : Nat) (c : BteCh) : (setBte s n ch c).mem = s.mem := rfl
@[simp] theorem setBte_memBad (s : State) (n ch : Nat) (c : BteCh) : (setBte s n ch c).memBad = s.memBad := rfl
@[simp] theorem setBte_lmeta (s : State) (n ch : Nat) (c : BteCh) : (setBte s n ch c).lmeta = s.lmeta := rfl
@[simp] theorem setBte_sums (s : State) (n ch : Nat) (c : BteCh) : (setBte s n ch c).sums = s.sums := rfl
@[simp] theorem setBte_accs (s : State) (n ch : Nat) (c : BteCh) : (setBte s n ch c).accs = s.accs := rfl
@[simp] theorem setBte_walks (s : State) (n ch : Nat) (c : BteCh) : (setBte s n ch c).walks = s.walks := rfl
@[simp] theorem setBte_packets (s : State) (n ch : Nat) (c : BteCh) : (setBte s n ch c).packets = s.packets := rfl
@[simp] theorem setBte_futOps (s : State) (n ch : Nat) (c : BteCh) : (setBte s n ch c).futOps = s.futOps := rfl
@[simp] theorem setBte_arrivals (s : State) (n ch : Nat) (c : BteCh) : (setBte s n ch c).arrivals = s.arrivals := rfl
@[simp] theorem setBte_dies (s : State) (n ch : Nat) (c : BteCh) : (setBte s n ch c).dies = s.dies := rfl
@[simp] theorem setBte_parts (s : State) (n ch : Nat) (c : BteCh) : (setBte s n ch c).parts = s.parts := rfl
@[simp] theorem setBte_xtabs (s : State) (n ch : Nat) (c : BteCh) : (setBte s n ch c).xtabs = s.xtabs := rfl
@[simp] theorem setBte_saves (s : State) (n ch : Nat) (c : BteCh) : (setBte s n ch c).saves = s.saves := rfl
@[simp] theorem setBte_owed (s : State) (n ch : Nat) (c : BteCh) : (setBte s n ch c).owed = s.owed := rfl
@[simp] theorem setBte_host (s : State) (n ch : Nat) (c : BteCh) : (setBte s n ch c).host = s.host := rfl

/-! ### setRgn -/

@[simp] theorem setRgn_cyc (s : State) (k : Nat) (r : Region) : (setRgn s k r).cyc = s.cyc := rfl
@[simp] theorem setRgn_free (s : State) (k : Nat) (r : Region) : (setRgn s k r).free = s.free := rfl
@[simp] theorem setRgn_turns (s : State) (k : Nat) (r : Region) : (setRgn s k r).turns = s.turns := rfl
@[simp] theorem setRgn_inbox (s : State) (k : Nat) (r : Region) : (setRgn s k r).inbox = s.inbox := rfl
@[simp] theorem setRgn_cur (s : State) (k : Nat) (r : Region) : (setRgn s k r).cur = s.cur := rfl
@[simp] theorem setRgn_nid (s : State) (k : Nat) (r : Region) : (setRgn s k r).nid = s.nid := rfl
@[simp] theorem setRgn_tiles (s : State) (k : Nat) (r : Region) : (setRgn s k r).tiles = s.tiles := rfl
@[simp] theorem setRgn_shadows (s : State) (k : Nat) (r : Region) : (setRgn s k r).shadows = s.shadows := rfl
@[simp] theorem setRgn_shadowPorts (s : State) (k : Nat) (r : Region) : (setRgn s k r).shadowPorts = s.shadowPorts := rfl
@[simp] theorem setRgn_shadowOuts (s : State) (k : Nat) (r : Region) : (setRgn s k r).shadowOuts = s.shadowOuts := rfl
@[simp] theorem setRgn_shadowMts (s : State) (k : Nat) (r : Region) : (setRgn s k r).shadowMts = s.shadowMts := rfl
@[simp] theorem setRgn_mtiles (s : State) (k : Nat) (r : Region) : (setRgn s k r).mtiles = s.mtiles := rfl
@[simp] theorem setRgn_inPorts (s : State) (k : Nat) (r : Region) : (setRgn s k r).inPorts = s.inPorts := rfl
@[simp] theorem setRgn_outPorts (s : State) (k : Nat) (r : Region) : (setRgn s k r).outPorts = s.outPorts := rfl
@[simp] theorem setRgn_chans (s : State) (k : Nat) (r : Region) : (setRgn s k r).chans = s.chans := rfl
@[simp] theorem setRgn_rgns (s : State) (k : Nat) (r : Region) : (setRgn s k r).rgns = mapPut s.rgns k r := rfl
@[simp] theorem setRgn_agts (s : State) (k : Nat) (r : Region) : (setRgn s k r).agts = s.agts := rfl
@[simp] theorem setRgn_agtTlb (s : State) (k : Nat) (r : Region) : (setRgn s k r).agtTlb = s.agtTlb := rfl
@[simp] theorem setRgn_btes (s : State) (k : Nat) (r : Region) : (setRgn s k r).btes = s.btes := rfl
@[simp] theorem setRgn_mem (s : State) (k : Nat) (r : Region) : (setRgn s k r).mem = s.mem := rfl
@[simp] theorem setRgn_memBad (s : State) (k : Nat) (r : Region) : (setRgn s k r).memBad = s.memBad := rfl
@[simp] theorem setRgn_lmeta (s : State) (k : Nat) (r : Region) : (setRgn s k r).lmeta = s.lmeta := rfl
@[simp] theorem setRgn_sums (s : State) (k : Nat) (r : Region) : (setRgn s k r).sums = s.sums := rfl
@[simp] theorem setRgn_accs (s : State) (k : Nat) (r : Region) : (setRgn s k r).accs = s.accs := rfl
@[simp] theorem setRgn_walks (s : State) (k : Nat) (r : Region) : (setRgn s k r).walks = s.walks := rfl
@[simp] theorem setRgn_packets (s : State) (k : Nat) (r : Region) : (setRgn s k r).packets = s.packets := rfl
@[simp] theorem setRgn_futOps (s : State) (k : Nat) (r : Region) : (setRgn s k r).futOps = s.futOps := rfl
@[simp] theorem setRgn_arrivals (s : State) (k : Nat) (r : Region) : (setRgn s k r).arrivals = s.arrivals := rfl
@[simp] theorem setRgn_dies (s : State) (k : Nat) (r : Region) : (setRgn s k r).dies = s.dies := rfl
@[simp] theorem setRgn_parts (s : State) (k : Nat) (r : Region) : (setRgn s k r).parts = s.parts := rfl
@[simp] theorem setRgn_xtabs (s : State) (k : Nat) (r : Region) : (setRgn s k r).xtabs = s.xtabs := rfl
@[simp] theorem setRgn_saves (s : State) (k : Nat) (r : Region) : (setRgn s k r).saves = s.saves := rfl
@[simp] theorem setRgn_owed (s : State) (k : Nat) (r : Region) : (setRgn s k r).owed = s.owed := rfl
@[simp] theorem setRgn_host (s : State) (k : Nat) (r : Region) : (setRgn s k r).host = s.host := rfl

/-! ### setPart -/

@[simp] theorem setPart_cyc (s : State) (p : Nat) (x : Part) : (setPart s p x).cyc = s.cyc := rfl
@[simp] theorem setPart_free (s : State) (p : Nat) (x : Part) : (setPart s p x).free = s.free := rfl
@[simp] theorem setPart_turns (s : State) (p : Nat) (x : Part) : (setPart s p x).turns = s.turns := rfl
@[simp] theorem setPart_inbox (s : State) (p : Nat) (x : Part) : (setPart s p x).inbox = s.inbox := rfl
@[simp] theorem setPart_cur (s : State) (p : Nat) (x : Part) : (setPart s p x).cur = s.cur := rfl
@[simp] theorem setPart_nid (s : State) (p : Nat) (x : Part) : (setPart s p x).nid = s.nid := rfl
@[simp] theorem setPart_tiles (s : State) (p : Nat) (x : Part) : (setPart s p x).tiles = s.tiles := rfl
@[simp] theorem setPart_shadows (s : State) (p : Nat) (x : Part) : (setPart s p x).shadows = s.shadows := rfl
@[simp] theorem setPart_shadowPorts (s : State) (p : Nat) (x : Part) : (setPart s p x).shadowPorts = s.shadowPorts := rfl
@[simp] theorem setPart_shadowOuts (s : State) (p : Nat) (x : Part) : (setPart s p x).shadowOuts = s.shadowOuts := rfl
@[simp] theorem setPart_shadowMts (s : State) (p : Nat) (x : Part) : (setPart s p x).shadowMts = s.shadowMts := rfl
@[simp] theorem setPart_mtiles (s : State) (p : Nat) (x : Part) : (setPart s p x).mtiles = s.mtiles := rfl
@[simp] theorem setPart_inPorts (s : State) (p : Nat) (x : Part) : (setPart s p x).inPorts = s.inPorts := rfl
@[simp] theorem setPart_outPorts (s : State) (p : Nat) (x : Part) : (setPart s p x).outPorts = s.outPorts := rfl
@[simp] theorem setPart_chans (s : State) (p : Nat) (x : Part) : (setPart s p x).chans = s.chans := rfl
@[simp] theorem setPart_rgns (s : State) (p : Nat) (x : Part) : (setPart s p x).rgns = s.rgns := rfl
@[simp] theorem setPart_agts (s : State) (p : Nat) (x : Part) : (setPart s p x).agts = s.agts := rfl
@[simp] theorem setPart_agtTlb (s : State) (p : Nat) (x : Part) : (setPart s p x).agtTlb = s.agtTlb := rfl
@[simp] theorem setPart_btes (s : State) (p : Nat) (x : Part) : (setPart s p x).btes = s.btes := rfl
@[simp] theorem setPart_mem (s : State) (p : Nat) (x : Part) : (setPart s p x).mem = s.mem := rfl
@[simp] theorem setPart_memBad (s : State) (p : Nat) (x : Part) : (setPart s p x).memBad = s.memBad := rfl
@[simp] theorem setPart_lmeta (s : State) (p : Nat) (x : Part) : (setPart s p x).lmeta = s.lmeta := rfl
@[simp] theorem setPart_sums (s : State) (p : Nat) (x : Part) : (setPart s p x).sums = s.sums := rfl
@[simp] theorem setPart_accs (s : State) (p : Nat) (x : Part) : (setPart s p x).accs = s.accs := rfl
@[simp] theorem setPart_walks (s : State) (p : Nat) (x : Part) : (setPart s p x).walks = s.walks := rfl
@[simp] theorem setPart_packets (s : State) (p : Nat) (x : Part) : (setPart s p x).packets = s.packets := rfl
@[simp] theorem setPart_futOps (s : State) (p : Nat) (x : Part) : (setPart s p x).futOps = s.futOps := rfl
@[simp] theorem setPart_arrivals (s : State) (p : Nat) (x : Part) : (setPart s p x).arrivals = s.arrivals := rfl
@[simp] theorem setPart_dies (s : State) (p : Nat) (x : Part) : (setPart s p x).dies = s.dies := rfl
@[simp] theorem setPart_parts (s : State) (p : Nat) (x : Part) : (setPart s p x).parts = s.parts.setIfInBounds p x := rfl
@[simp] theorem setPart_xtabs (s : State) (p : Nat) (x : Part) : (setPart s p x).xtabs = s.xtabs := rfl
@[simp] theorem setPart_saves (s : State) (p : Nat) (x : Part) : (setPart s p x).saves = s.saves := rfl
@[simp] theorem setPart_owed (s : State) (p : Nat) (x : Part) : (setPart s p x).owed = s.owed := rfl
@[simp] theorem setPart_host (s : State) (p : Nat) (x : Part) : (setPart s p x).host = s.host := rfl

/-! ### modPart -/

@[simp] theorem modPart_cyc (s : State) (p : Nat) (f : Part → Part) : (modPart s p f).cyc = s.cyc := rfl
@[simp] theorem modPart_free (s : State) (p : Nat) (f : Part → Part) : (modPart s p f).free = s.free := rfl
@[simp] theorem modPart_turns (s : State) (p : Nat) (f : Part → Part) : (modPart s p f).turns = s.turns := rfl
@[simp] theorem modPart_inbox (s : State) (p : Nat) (f : Part → Part) : (modPart s p f).inbox = s.inbox := rfl
@[simp] theorem modPart_cur (s : State) (p : Nat) (f : Part → Part) : (modPart s p f).cur = s.cur := rfl
@[simp] theorem modPart_nid (s : State) (p : Nat) (f : Part → Part) : (modPart s p f).nid = s.nid := rfl
@[simp] theorem modPart_tiles (s : State) (p : Nat) (f : Part → Part) : (modPart s p f).tiles = s.tiles := rfl
@[simp] theorem modPart_shadows (s : State) (p : Nat) (f : Part → Part) : (modPart s p f).shadows = s.shadows := rfl
@[simp] theorem modPart_shadowPorts (s : State) (p : Nat) (f : Part → Part) : (modPart s p f).shadowPorts = s.shadowPorts := rfl
@[simp] theorem modPart_shadowOuts (s : State) (p : Nat) (f : Part → Part) : (modPart s p f).shadowOuts = s.shadowOuts := rfl
@[simp] theorem modPart_shadowMts (s : State) (p : Nat) (f : Part → Part) : (modPart s p f).shadowMts = s.shadowMts := rfl
@[simp] theorem modPart_mtiles (s : State) (p : Nat) (f : Part → Part) : (modPart s p f).mtiles = s.mtiles := rfl
@[simp] theorem modPart_inPorts (s : State) (p : Nat) (f : Part → Part) : (modPart s p f).inPorts = s.inPorts := rfl
@[simp] theorem modPart_outPorts (s : State) (p : Nat) (f : Part → Part) : (modPart s p f).outPorts = s.outPorts := rfl
@[simp] theorem modPart_chans (s : State) (p : Nat) (f : Part → Part) : (modPart s p f).chans = s.chans := rfl
@[simp] theorem modPart_rgns (s : State) (p : Nat) (f : Part → Part) : (modPart s p f).rgns = s.rgns := rfl
@[simp] theorem modPart_agts (s : State) (p : Nat) (f : Part → Part) : (modPart s p f).agts = s.agts := rfl
@[simp] theorem modPart_agtTlb (s : State) (p : Nat) (f : Part → Part) : (modPart s p f).agtTlb = s.agtTlb := rfl
@[simp] theorem modPart_btes (s : State) (p : Nat) (f : Part → Part) : (modPart s p f).btes = s.btes := rfl
@[simp] theorem modPart_mem (s : State) (p : Nat) (f : Part → Part) : (modPart s p f).mem = s.mem := rfl
@[simp] theorem modPart_memBad (s : State) (p : Nat) (f : Part → Part) : (modPart s p f).memBad = s.memBad := rfl
@[simp] theorem modPart_lmeta (s : State) (p : Nat) (f : Part → Part) : (modPart s p f).lmeta = s.lmeta := rfl
@[simp] theorem modPart_sums (s : State) (p : Nat) (f : Part → Part) : (modPart s p f).sums = s.sums := rfl
@[simp] theorem modPart_accs (s : State) (p : Nat) (f : Part → Part) : (modPart s p f).accs = s.accs := rfl
@[simp] theorem modPart_walks (s : State) (p : Nat) (f : Part → Part) : (modPart s p f).walks = s.walks := rfl
@[simp] theorem modPart_packets (s : State) (p : Nat) (f : Part → Part) : (modPart s p f).packets = s.packets := rfl
@[simp] theorem modPart_futOps (s : State) (p : Nat) (f : Part → Part) : (modPart s p f).futOps = s.futOps := rfl
@[simp] theorem modPart_arrivals (s : State) (p : Nat) (f : Part → Part) : (modPart s p f).arrivals = s.arrivals := rfl
@[simp] theorem modPart_dies (s : State) (p : Nat) (f : Part → Part) : (modPart s p f).dies = s.dies := rfl
@[simp] theorem modPart_parts (s : State) (p : Nat) (f : Part → Part) : (modPart s p f).parts = s.parts.setIfInBounds p (f (partOf s p)) := rfl
@[simp] theorem modPart_xtabs (s : State) (p : Nat) (f : Part → Part) : (modPart s p f).xtabs = s.xtabs := rfl
@[simp] theorem modPart_saves (s : State) (p : Nat) (f : Part → Part) : (modPart s p f).saves = s.saves := rfl
@[simp] theorem modPart_owed (s : State) (p : Nat) (f : Part → Part) : (modPart s p f).owed = s.owed := rfl
@[simp] theorem modPart_host (s : State) (p : Nat) (f : Part → Part) : (modPart s p f).host = s.host := rfl

/-! ### modDie -/

@[simp] theorem modDie_cyc (s : State) (d : Nat) (f : Die → Die) : (modDie s d f).cyc = s.cyc := rfl
@[simp] theorem modDie_free (s : State) (d : Nat) (f : Die → Die) : (modDie s d f).free = s.free := rfl
@[simp] theorem modDie_turns (s : State) (d : Nat) (f : Die → Die) : (modDie s d f).turns = s.turns := rfl
@[simp] theorem modDie_inbox (s : State) (d : Nat) (f : Die → Die) : (modDie s d f).inbox = s.inbox := rfl
@[simp] theorem modDie_cur (s : State) (d : Nat) (f : Die → Die) : (modDie s d f).cur = s.cur := rfl
@[simp] theorem modDie_nid (s : State) (d : Nat) (f : Die → Die) : (modDie s d f).nid = s.nid := rfl
@[simp] theorem modDie_tiles (s : State) (d : Nat) (f : Die → Die) : (modDie s d f).tiles = s.tiles := rfl
@[simp] theorem modDie_shadows (s : State) (d : Nat) (f : Die → Die) : (modDie s d f).shadows = s.shadows := rfl
@[simp] theorem modDie_shadowPorts (s : State) (d : Nat) (f : Die → Die) : (modDie s d f).shadowPorts = s.shadowPorts := rfl
@[simp] theorem modDie_shadowOuts (s : State) (d : Nat) (f : Die → Die) : (modDie s d f).shadowOuts = s.shadowOuts := rfl
@[simp] theorem modDie_shadowMts (s : State) (d : Nat) (f : Die → Die) : (modDie s d f).shadowMts = s.shadowMts := rfl
@[simp] theorem modDie_mtiles (s : State) (d : Nat) (f : Die → Die) : (modDie s d f).mtiles = s.mtiles := rfl
@[simp] theorem modDie_inPorts (s : State) (d : Nat) (f : Die → Die) : (modDie s d f).inPorts = s.inPorts := rfl
@[simp] theorem modDie_outPorts (s : State) (d : Nat) (f : Die → Die) : (modDie s d f).outPorts = s.outPorts := rfl
@[simp] theorem modDie_chans (s : State) (d : Nat) (f : Die → Die) : (modDie s d f).chans = s.chans := rfl
@[simp] theorem modDie_rgns (s : State) (d : Nat) (f : Die → Die) : (modDie s d f).rgns = s.rgns := rfl
@[simp] theorem modDie_agts (s : State) (d : Nat) (f : Die → Die) : (modDie s d f).agts = s.agts := rfl
@[simp] theorem modDie_agtTlb (s : State) (d : Nat) (f : Die → Die) : (modDie s d f).agtTlb = s.agtTlb := rfl
@[simp] theorem modDie_btes (s : State) (d : Nat) (f : Die → Die) : (modDie s d f).btes = s.btes := rfl
@[simp] theorem modDie_mem (s : State) (d : Nat) (f : Die → Die) : (modDie s d f).mem = s.mem := rfl
@[simp] theorem modDie_memBad (s : State) (d : Nat) (f : Die → Die) : (modDie s d f).memBad = s.memBad := rfl
@[simp] theorem modDie_lmeta (s : State) (d : Nat) (f : Die → Die) : (modDie s d f).lmeta = s.lmeta := rfl
@[simp] theorem modDie_sums (s : State) (d : Nat) (f : Die → Die) : (modDie s d f).sums = s.sums := rfl
@[simp] theorem modDie_accs (s : State) (d : Nat) (f : Die → Die) : (modDie s d f).accs = s.accs := rfl
@[simp] theorem modDie_walks (s : State) (d : Nat) (f : Die → Die) : (modDie s d f).walks = s.walks := rfl
@[simp] theorem modDie_packets (s : State) (d : Nat) (f : Die → Die) : (modDie s d f).packets = s.packets := rfl
@[simp] theorem modDie_futOps (s : State) (d : Nat) (f : Die → Die) : (modDie s d f).futOps = s.futOps := rfl
@[simp] theorem modDie_arrivals (s : State) (d : Nat) (f : Die → Die) : (modDie s d f).arrivals = s.arrivals := rfl
@[simp] theorem modDie_dies (s : State) (d : Nat) (f : Die → Die) : (modDie s d f).dies = s.dies.setIfInBounds d (f (dieOf s d)) := rfl
@[simp] theorem modDie_parts (s : State) (d : Nat) (f : Die → Die) : (modDie s d f).parts = s.parts := rfl
@[simp] theorem modDie_xtabs (s : State) (d : Nat) (f : Die → Die) : (modDie s d f).xtabs = s.xtabs := rfl
@[simp] theorem modDie_saves (s : State) (d : Nat) (f : Die → Die) : (modDie s d f).saves = s.saves := rfl
@[simp] theorem modDie_owed (s : State) (d : Nat) (f : Die → Die) : (modDie s d f).owed = s.owed := rfl
@[simp] theorem modDie_host (s : State) (d : Nat) (f : Die → Die) : (modDie s d f).host = s.host := rfl

/-! ### modHost -/

@[simp] theorem modHost_cyc (s : State) (f : HostPort → HostPort) : (modHost s f).cyc = s.cyc := rfl
@[simp] theorem modHost_free (s : State) (f : HostPort → HostPort) : (modHost s f).free = s.free := rfl
@[simp] theorem modHost_turns (s : State) (f : HostPort → HostPort) : (modHost s f).turns = s.turns := rfl
@[simp] theorem modHost_inbox (s : State) (f : HostPort → HostPort) : (modHost s f).inbox = s.inbox := rfl
@[simp] theorem modHost_cur (s : State) (f : HostPort → HostPort) : (modHost s f).cur = s.cur := rfl
@[simp] theorem modHost_nid (s : State) (f : HostPort → HostPort) : (modHost s f).nid = s.nid := rfl
@[simp] theorem modHost_tiles (s : State) (f : HostPort → HostPort) : (modHost s f).tiles = s.tiles := rfl
@[simp] theorem modHost_shadows (s : State) (f : HostPort → HostPort) : (modHost s f).shadows = s.shadows := rfl
@[simp] theorem modHost_shadowPorts (s : State) (f : HostPort → HostPort) : (modHost s f).shadowPorts = s.shadowPorts := rfl
@[simp] theorem modHost_shadowOuts (s : State) (f : HostPort → HostPort) : (modHost s f).shadowOuts = s.shadowOuts := rfl
@[simp] theorem modHost_shadowMts (s : State) (f : HostPort → HostPort) : (modHost s f).shadowMts = s.shadowMts := rfl
@[simp] theorem modHost_mtiles (s : State) (f : HostPort → HostPort) : (modHost s f).mtiles = s.mtiles := rfl
@[simp] theorem modHost_inPorts (s : State) (f : HostPort → HostPort) : (modHost s f).inPorts = s.inPorts := rfl
@[simp] theorem modHost_outPorts (s : State) (f : HostPort → HostPort) : (modHost s f).outPorts = s.outPorts := rfl
@[simp] theorem modHost_chans (s : State) (f : HostPort → HostPort) : (modHost s f).chans = s.chans := rfl
@[simp] theorem modHost_rgns (s : State) (f : HostPort → HostPort) : (modHost s f).rgns = s.rgns := rfl
@[simp] theorem modHost_agts (s : State) (f : HostPort → HostPort) : (modHost s f).agts = s.agts := rfl
@[simp] theorem modHost_agtTlb (s : State) (f : HostPort → HostPort) : (modHost s f).agtTlb = s.agtTlb := rfl
@[simp] theorem modHost_btes (s : State) (f : HostPort → HostPort) : (modHost s f).btes = s.btes := rfl
@[simp] theorem modHost_mem (s : State) (f : HostPort → HostPort) : (modHost s f).mem = s.mem := rfl
@[simp] theorem modHost_memBad (s : State) (f : HostPort → HostPort) : (modHost s f).memBad = s.memBad := rfl
@[simp] theorem modHost_lmeta (s : State) (f : HostPort → HostPort) : (modHost s f).lmeta = s.lmeta := rfl
@[simp] theorem modHost_sums (s : State) (f : HostPort → HostPort) : (modHost s f).sums = s.sums := rfl
@[simp] theorem modHost_accs (s : State) (f : HostPort → HostPort) : (modHost s f).accs = s.accs := rfl
@[simp] theorem modHost_walks (s : State) (f : HostPort → HostPort) : (modHost s f).walks = s.walks := rfl
@[simp] theorem modHost_packets (s : State) (f : HostPort → HostPort) : (modHost s f).packets = s.packets := rfl
@[simp] theorem modHost_futOps (s : State) (f : HostPort → HostPort) : (modHost s f).futOps = s.futOps := rfl
@[simp] theorem modHost_arrivals (s : State) (f : HostPort → HostPort) : (modHost s f).arrivals = s.arrivals := rfl
@[simp] theorem modHost_dies (s : State) (f : HostPort → HostPort) : (modHost s f).dies = s.dies := rfl
@[simp] theorem modHost_parts (s : State) (f : HostPort → HostPort) : (modHost s f).parts = s.parts := rfl
@[simp] theorem modHost_xtabs (s : State) (f : HostPort → HostPort) : (modHost s f).xtabs = s.xtabs := rfl
@[simp] theorem modHost_saves (s : State) (f : HostPort → HostPort) : (modHost s f).saves = s.saves := rfl
@[simp] theorem modHost_owed (s : State) (f : HostPort → HostPort) : (modHost s f).owed = s.owed := rfl
@[simp] theorem modHost_host (s : State) (f : HostPort → HostPort) : (modHost s f).host = f s.host := rfl

/-! ### physSet -/

@[simp] theorem physSet_cyc (s : State) (a x n : Nat) : (physSet s a x n).cyc = s.cyc := rfl
@[simp] theorem physSet_free (s : State) (a x n : Nat) : (physSet s a x n).free = s.free := rfl
@[simp] theorem physSet_turns (s : State) (a x n : Nat) : (physSet s a x n).turns = s.turns := rfl
@[simp] theorem physSet_inbox (s : State) (a x n : Nat) : (physSet s a x n).inbox = s.inbox := rfl
@[simp] theorem physSet_cur (s : State) (a x n : Nat) : (physSet s a x n).cur = s.cur := rfl
@[simp] theorem physSet_nid (s : State) (a x n : Nat) : (physSet s a x n).nid = s.nid := rfl
@[simp] theorem physSet_tiles (s : State) (a x n : Nat) : (physSet s a x n).tiles = s.tiles := rfl
@[simp] theorem physSet_shadows (s : State) (a x n : Nat) : (physSet s a x n).shadows = s.shadows := rfl
@[simp] theorem physSet_shadowPorts (s : State) (a x n : Nat) : (physSet s a x n).shadowPorts = s.shadowPorts := rfl
@[simp] theorem physSet_shadowOuts (s : State) (a x n : Nat) : (physSet s a x n).shadowOuts = s.shadowOuts := rfl
@[simp] theorem physSet_shadowMts (s : State) (a x n : Nat) : (physSet s a x n).shadowMts = s.shadowMts := rfl
@[simp] theorem physSet_mtiles (s : State) (a x n : Nat) : (physSet s a x n).mtiles = s.mtiles := rfl
@[simp] theorem physSet_inPorts (s : State) (a x n : Nat) : (physSet s a x n).inPorts = s.inPorts := rfl
@[simp] theorem physSet_outPorts (s : State) (a x n : Nat) : (physSet s a x n).outPorts = s.outPorts := rfl
@[simp] theorem physSet_chans (s : State) (a x n : Nat) : (physSet s a x n).chans = s.chans := rfl
@[simp] theorem physSet_rgns (s : State) (a x n : Nat) : (physSet s a x n).rgns = s.rgns := rfl
@[simp] theorem physSet_agts (s : State) (a x n : Nat) : (physSet s a x n).agts = s.agts := rfl
@[simp] theorem physSet_agtTlb (s : State) (a x n : Nat) : (physSet s a x n).agtTlb = s.agtTlb := rfl
@[simp] theorem physSet_btes (s : State) (a x n : Nat) : (physSet s a x n).btes = s.btes := rfl
@[simp] theorem physSet_mem (s : State) (a x n : Nat) : (physSet s a x n).mem = bytesSet s.mem a x n := rfl
@[simp] theorem physSet_memBad (s : State) (a x n : Nat) : (physSet s a x n).memBad = s.memBad := rfl
@[simp] theorem physSet_lmeta (s : State) (a x n : Nat) : (physSet s a x n).lmeta = s.lmeta := rfl
@[simp] theorem physSet_sums (s : State) (a x n : Nat) : (physSet s a x n).sums = s.sums := rfl
@[simp] theorem physSet_accs (s : State) (a x n : Nat) : (physSet s a x n).accs = s.accs := rfl
@[simp] theorem physSet_walks (s : State) (a x n : Nat) : (physSet s a x n).walks = s.walks := rfl
@[simp] theorem physSet_packets (s : State) (a x n : Nat) : (physSet s a x n).packets = s.packets := rfl
@[simp] theorem physSet_futOps (s : State) (a x n : Nat) : (physSet s a x n).futOps = s.futOps := rfl
@[simp] theorem physSet_arrivals (s : State) (a x n : Nat) : (physSet s a x n).arrivals = s.arrivals := rfl
@[simp] theorem physSet_dies (s : State) (a x n : Nat) : (physSet s a x n).dies = s.dies := rfl
@[simp] theorem physSet_parts (s : State) (a x n : Nat) : (physSet s a x n).parts = s.parts := rfl
@[simp] theorem physSet_xtabs (s : State) (a x n : Nat) : (physSet s a x n).xtabs = s.xtabs := rfl
@[simp] theorem physSet_saves (s : State) (a x n : Nat) : (physSet s a x n).saves = s.saves := rfl
@[simp] theorem physSet_owed (s : State) (a x n : Nat) : (physSet s a x n).owed = s.owed := rfl
@[simp] theorem physSet_host (s : State) (a x n : Nat) : (physSet s a x n).host = s.host := rfl

/-! ### modRgn -/

@[simp] theorem modRgn_cyc (s : State) (k : Nat) (f : Region → Region) : (modRgn s k f).cyc = s.cyc := by
  unfold modRgn; split <;> rfl
@[simp] theorem modRgn_free (s : State) (k : Nat) (f : Region → Region) : (modRgn s k f).free = s.free := by
  unfold modRgn; split <;> rfl
@[simp] theorem modRgn_turns (s : State) (k : Nat) (f : Region → Region) : (modRgn s k f).turns = s.turns := by
  unfold modRgn; split <;> rfl
@[simp] theorem modRgn_inbox (s : State) (k : Nat) (f : Region → Region) : (modRgn s k f).inbox = s.inbox := by
  unfold modRgn; split <;> rfl
@[simp] theorem modRgn_cur (s : State) (k : Nat) (f : Region → Region) : (modRgn s k f).cur = s.cur := by
  unfold modRgn; split <;> rfl
@[simp] theorem modRgn_nid (s : State) (k : Nat) (f : Region → Region) : (modRgn s k f).nid = s.nid := by
  unfold modRgn; split <;> rfl
@[simp] theorem modRgn_tiles (s : State) (k : Nat) (f : Region → Region) : (modRgn s k f).tiles = s.tiles := by
  unfold modRgn; split <;> rfl
@[simp] theorem modRgn_shadows (s : State) (k : Nat) (f : Region → Region) : (modRgn s k f).shadows = s.shadows := by
  unfold modRgn; split <;> rfl
@[simp] theorem modRgn_shadowPorts (s : State) (k : Nat) (f : Region → Region) : (modRgn s k f).shadowPorts = s.shadowPorts := by
  unfold modRgn; split <;> rfl
@[simp] theorem modRgn_shadowOuts (s : State) (k : Nat) (f : Region → Region) : (modRgn s k f).shadowOuts = s.shadowOuts := by
  unfold modRgn; split <;> rfl
@[simp] theorem modRgn_shadowMts (s : State) (k : Nat) (f : Region → Region) : (modRgn s k f).shadowMts = s.shadowMts := by
  unfold modRgn; split <;> rfl
@[simp] theorem modRgn_mtiles (s : State) (k : Nat) (f : Region → Region) : (modRgn s k f).mtiles = s.mtiles := by
  unfold modRgn; split <;> rfl
@[simp] theorem modRgn_inPorts (s : State) (k : Nat) (f : Region → Region) : (modRgn s k f).inPorts = s.inPorts := by
  unfold modRgn; split <;> rfl
@[simp] theorem modRgn_outPorts (s : State) (k : Nat) (f : Region → Region) : (modRgn s k f).outPorts = s.outPorts := by
  unfold modRgn; split <;> rfl
@[simp] theorem modRgn_chans (s : State) (k : Nat) (f : Region → Region) : (modRgn s k f).chans = s.chans := by
  unfold modRgn; split <;> rfl
@[simp] theorem modRgn_agts (s : State) (k : Nat) (f : Region → Region) : (modRgn s k f).agts = s.agts := by
  unfold modRgn; split <;> rfl
@[simp] theorem modRgn_agtTlb (s : State) (k : Nat) (f : Region → Region) : (modRgn s k f).agtTlb = s.agtTlb := by
  unfold modRgn; split <;> rfl
@[simp] theorem modRgn_btes (s : State) (k : Nat) (f : Region → Region) : (modRgn s k f).btes = s.btes := by
  unfold modRgn; split <;> rfl
@[simp] theorem modRgn_mem (s : State) (k : Nat) (f : Region → Region) : (modRgn s k f).mem = s.mem := by
  unfold modRgn; split <;> rfl
@[simp] theorem modRgn_memBad (s : State) (k : Nat) (f : Region → Region) : (modRgn s k f).memBad = s.memBad := by
  unfold modRgn; split <;> rfl
@[simp] theorem modRgn_lmeta (s : State) (k : Nat) (f : Region → Region) : (modRgn s k f).lmeta = s.lmeta := by
  unfold modRgn; split <;> rfl
@[simp] theorem modRgn_sums (s : State) (k : Nat) (f : Region → Region) : (modRgn s k f).sums = s.sums := by
  unfold modRgn; split <;> rfl
@[simp] theorem modRgn_accs (s : State) (k : Nat) (f : Region → Region) : (modRgn s k f).accs = s.accs := by
  unfold modRgn; split <;> rfl
@[simp] theorem modRgn_walks (s : State) (k : Nat) (f : Region → Region) : (modRgn s k f).walks = s.walks := by
  unfold modRgn; split <;> rfl
@[simp] theorem modRgn_packets (s : State) (k : Nat) (f : Region → Region) : (modRgn s k f).packets = s.packets := by
  unfold modRgn; split <;> rfl
@[simp] theorem modRgn_futOps (s : State) (k : Nat) (f : Region → Region) : (modRgn s k f).futOps = s.futOps := by
  unfold modRgn; split <;> rfl
@[simp] theorem modRgn_arrivals (s : State) (k : Nat) (f : Region → Region) : (modRgn s k f).arrivals = s.arrivals := by
  unfold modRgn; split <;> rfl
@[simp] theorem modRgn_dies (s : State) (k : Nat) (f : Region → Region) : (modRgn s k f).dies = s.dies := by
  unfold modRgn; split <;> rfl
@[simp] theorem modRgn_parts (s : State) (k : Nat) (f : Region → Region) : (modRgn s k f).parts = s.parts := by
  unfold modRgn; split <;> rfl
@[simp] theorem modRgn_xtabs (s : State) (k : Nat) (f : Region → Region) : (modRgn s k f).xtabs = s.xtabs := by
  unfold modRgn; split <;> rfl
@[simp] theorem modRgn_saves (s : State) (k : Nat) (f : Region → Region) : (modRgn s k f).saves = s.saves := by
  unfold modRgn; split <;> rfl
@[simp] theorem modRgn_owed (s : State) (k : Nat) (f : Region → Region) : (modRgn s k f).owed = s.owed := by
  unfold modRgn; split <;> rfl
@[simp] theorem modRgn_host (s : State) (k : Nat) (f : Region → Region) : (modRgn s k f).host = s.host := by
  unfold modRgn; split <;> rfl

/-! ### What an access reads after an update -/

@[simp] theorem inPortOf_setTile (s : State) (u : Nat) (t : Tile) (n : Nat) : inPortOf (setTile s u t) n = inPortOf s n := rfl
@[simp] theorem outPortOf_setTile (s : State) (u : Nat) (t : Tile) (n : Nat) : outPortOf (setTile s u t) n = outPortOf s n := rfl
@[simp] theorem chanOf_setTile (s : State) (u : Nat) (t : Tile) (n : Nat) : chanOf (setTile s u t) n = chanOf s n := rfl
@[simp] theorem mtileOf_setTile (s : State) (u : Nat) (t : Tile) (n : Nat) : mtileOf (setTile s u t) n = mtileOf s n := rfl
@[simp] theorem agtOf_setTile (s : State) (u : Nat) (t : Tile) (n : Nat) : agtOf (setTile s u t) n = agtOf s n := rfl
@[simp] theorem bteOf_setTile (s : State) (u : Nat) (t : Tile) (n i : Nat) : bteOf (setTile s u t) n i = bteOf s n i := rfl
@[simp] theorem rgnOf_setTile (s : State) (u : Nat) (t : Tile) (n : Nat) : rgnOf (setTile s u t) n = rgnOf s n := rfl
@[simp] theorem partOf_setTile (s : State) (u : Nat) (t : Tile) (n : Nat) : partOf (setTile s u t) n = partOf s n := rfl
@[simp] theorem dieOf_setTile (s : State) (u : Nat) (t : Tile) (n : Nat) : dieOf (setTile s u t) n = dieOf s n := rfl
@[simp] theorem inPortOf_modTile (s : State) (u : Nat) (f : Tile → Tile) (n : Nat) : inPortOf (modTile s u f) n = inPortOf s n := rfl
@[simp] theorem outPortOf_modTile (s : State) (u : Nat) (f : Tile → Tile) (n : Nat) : outPortOf (modTile s u f) n = outPortOf s n := rfl
@[simp] theorem chanOf_modTile (s : State) (u : Nat) (f : Tile → Tile) (n : Nat) : chanOf (modTile s u f) n = chanOf s n := rfl
@[simp] theorem mtileOf_modTile (s : State) (u : Nat) (f : Tile → Tile) (n : Nat) : mtileOf (modTile s u f) n = mtileOf s n := rfl
@[simp] theorem agtOf_modTile (s : State) (u : Nat) (f : Tile → Tile) (n : Nat) : agtOf (modTile s u f) n = agtOf s n := rfl
@[simp] theorem bteOf_modTile (s : State) (u : Nat) (f : Tile → Tile) (n i : Nat) : bteOf (modTile s u f) n i = bteOf s n i := rfl
@[simp] theorem rgnOf_modTile (s : State) (u : Nat) (f : Tile → Tile) (n : Nat) : rgnOf (modTile s u f) n = rgnOf s n := rfl
@[simp] theorem partOf_modTile (s : State) (u : Nat) (f : Tile → Tile) (n : Nat) : partOf (modTile s u f) n = partOf s n := rfl
@[simp] theorem dieOf_modTile (s : State) (u : Nat) (f : Tile → Tile) (n : Nat) : dieOf (modTile s u f) n = dieOf s n := rfl
@[simp] theorem inPortOf_modBank (s : State) (u b : Nat) (f : Bank → Bank) (n : Nat) : inPortOf (modBank s u b f) n = inPortOf s n := rfl
@[simp] theorem outPortOf_modBank (s : State) (u b : Nat) (f : Bank → Bank) (n : Nat) : outPortOf (modBank s u b f) n = outPortOf s n := rfl
@[simp] theorem chanOf_modBank (s : State) (u b : Nat) (f : Bank → Bank) (n : Nat) : chanOf (modBank s u b f) n = chanOf s n := rfl
@[simp] theorem mtileOf_modBank (s : State) (u b : Nat) (f : Bank → Bank) (n : Nat) : mtileOf (modBank s u b f) n = mtileOf s n := rfl
@[simp] theorem agtOf_modBank (s : State) (u b : Nat) (f : Bank → Bank) (n : Nat) : agtOf (modBank s u b f) n = agtOf s n := rfl
@[simp] theorem bteOf_modBank (s : State) (u b : Nat) (f : Bank → Bank) (n i : Nat) : bteOf (modBank s u b f) n i = bteOf s n i := rfl
@[simp] theorem rgnOf_modBank (s : State) (u b : Nat) (f : Bank → Bank) (n : Nat) : rgnOf (modBank s u b f) n = rgnOf s n := rfl
@[simp] theorem partOf_modBank (s : State) (u b : Nat) (f : Bank → Bank) (n : Nat) : partOf (modBank s u b f) n = partOf s n := rfl
@[simp] theorem dieOf_modBank (s : State) (u b : Nat) (f : Bank → Bank) (n : Nat) : dieOf (modBank s u b f) n = dieOf s n := rfl
@[simp] theorem tileOf_setInPort (s : State) (e : Nat) (p : InPort) (n : Nat) : tileOf (setInPort s e p) n = tileOf s n := rfl
@[simp] theorem outPortOf_setInPort (s : State) (e : Nat) (p : InPort) (n : Nat) : outPortOf (setInPort s e p) n = outPortOf s n := rfl
@[simp] theorem chanOf_setInPort (s : State) (e : Nat) (p : InPort) (n : Nat) : chanOf (setInPort s e p) n = chanOf s n := rfl
@[simp] theorem mtileOf_setInPort (s : State) (e : Nat) (p : InPort) (n : Nat) : mtileOf (setInPort s e p) n = mtileOf s n := rfl
@[simp] theorem agtOf_setInPort (s : State) (e : Nat) (p : InPort) (n : Nat) : agtOf (setInPort s e p) n = agtOf s n := rfl
@[simp] theorem bteOf_setInPort (s : State) (e : Nat) (p : InPort) (n i : Nat) : bteOf (setInPort s e p) n i = bteOf s n i := rfl
@[simp] theorem rgnOf_setInPort (s : State) (e : Nat) (p : InPort) (n : Nat) : rgnOf (setInPort s e p) n = rgnOf s n := rfl
@[simp] theorem partOf_setInPort (s : State) (e : Nat) (p : InPort) (n : Nat) : partOf (setInPort s e p) n = partOf s n := rfl
@[simp] theorem dieOf_setInPort (s : State) (e : Nat) (p : InPort) (n : Nat) : dieOf (setInPort s e p) n = dieOf s n := rfl
@[simp] theorem tileOf_setOutPort (s : State) (e : Nat) (p : OutPort) (n : Nat) : tileOf (setOutPort s e p) n = tileOf s n := rfl
@[simp] theorem inPortOf_setOutPort (s : State) (e : Nat) (p : OutPort) (n : Nat) : inPortOf (setOutPort s e p) n = inPortOf s n := rfl
@[simp] theorem chanOf_setOutPort (s : State) (e : Nat) (p : OutPort) (n : Nat) : chanOf (setOutPort s e p) n = chanOf s n := rfl
@[simp] theorem mtileOf_setOutPort (s : State) (e : Nat) (p : OutPort) (n : Nat) : mtileOf (setOutPort s e p) n = mtileOf s n := rfl
@[simp] theorem agtOf_setOutPort (s : State) (e : Nat) (p : OutPort) (n : Nat) : agtOf (setOutPort s e p) n = agtOf s n := rfl
@[simp] theorem bteOf_setOutPort (s : State) (e : Nat) (p : OutPort) (n i : Nat) : bteOf (setOutPort s e p) n i = bteOf s n i := rfl
@[simp] theorem rgnOf_setOutPort (s : State) (e : Nat) (p : OutPort) (n : Nat) : rgnOf (setOutPort s e p) n = rgnOf s n := rfl
@[simp] theorem partOf_setOutPort (s : State) (e : Nat) (p : OutPort) (n : Nat) : partOf (setOutPort s e p) n = partOf s n := rfl
@[simp] theorem dieOf_setOutPort (s : State) (e : Nat) (p : OutPort) (n : Nat) : dieOf (setOutPort s e p) n = dieOf s n := rfl
@[simp] theorem tileOf_setChan (s : State) (c : Nat) (x : Chan) (n : Nat) : tileOf (setChan s c x) n = tileOf s n := rfl
@[simp] theorem inPortOf_setChan (s : State) (c : Nat) (x : Chan) (n : Nat) : inPortOf (setChan s c x) n = inPortOf s n := rfl
@[simp] theorem outPortOf_setChan (s : State) (c : Nat) (x : Chan) (n : Nat) : outPortOf (setChan s c x) n = outPortOf s n := rfl
@[simp] theorem mtileOf_setChan (s : State) (c : Nat) (x : Chan) (n : Nat) : mtileOf (setChan s c x) n = mtileOf s n := rfl
@[simp] theorem agtOf_setChan (s : State) (c : Nat) (x : Chan) (n : Nat) : agtOf (setChan s c x) n = agtOf s n := rfl
@[simp] theorem bteOf_setChan (s : State) (c : Nat) (x : Chan) (n i : Nat) : bteOf (setChan s c x) n i = bteOf s n i := rfl
@[simp] theorem rgnOf_setChan (s : State) (c : Nat) (x : Chan) (n : Nat) : rgnOf (setChan s c x) n = rgnOf s n := rfl
@[simp] theorem partOf_setChan (s : State) (c : Nat) (x : Chan) (n : Nat) : partOf (setChan s c x) n = partOf s n := rfl
@[simp] theorem dieOf_setChan (s : State) (c : Nat) (x : Chan) (n : Nat) : dieOf (setChan s c x) n = dieOf s n := rfl
@[simp] theorem tileOf_setMTile (s : State) (u : Nat) (m : MTile) (n : Nat) : tileOf (setMTile s u m) n = tileOf s n := rfl
@[simp] theorem inPortOf_setMTile (s : State) (u : Nat) (m : MTile) (n : Nat) : inPortOf (setMTile s u m) n = inPortOf s n := rfl
@[simp] theorem outPortOf_setMTile (s : State) (u : Nat) (m : MTile) (n : Nat) : outPortOf (setMTile s u m) n = outPortOf s n := rfl
@[simp] theorem chanOf_setMTile (s : State) (u : Nat) (m : MTile) (n : Nat) : chanOf (setMTile s u m) n = chanOf s n := rfl
@[simp] theorem agtOf_setMTile (s : State) (u : Nat) (m : MTile) (n : Nat) : agtOf (setMTile s u m) n = agtOf s n := rfl
@[simp] theorem bteOf_setMTile (s : State) (u : Nat) (m : MTile) (n i : Nat) : bteOf (setMTile s u m) n i = bteOf s n i := rfl
@[simp] theorem rgnOf_setMTile (s : State) (u : Nat) (m : MTile) (n : Nat) : rgnOf (setMTile s u m) n = rgnOf s n := rfl
@[simp] theorem partOf_setMTile (s : State) (u : Nat) (m : MTile) (n : Nat) : partOf (setMTile s u m) n = partOf s n := rfl
@[simp] theorem dieOf_setMTile (s : State) (u : Nat) (m : MTile) (n : Nat) : dieOf (setMTile s u m) n = dieOf s n := rfl
@[simp] theorem tileOf_setAgt (s : State) (u : Nat) (a : Agt) (n : Nat) : tileOf (setAgt s u a) n = tileOf s n := rfl
@[simp] theorem inPortOf_setAgt (s : State) (u : Nat) (a : Agt) (n : Nat) : inPortOf (setAgt s u a) n = inPortOf s n := rfl
@[simp] theorem outPortOf_setAgt (s : State) (u : Nat) (a : Agt) (n : Nat) : outPortOf (setAgt s u a) n = outPortOf s n := rfl
@[simp] theorem chanOf_setAgt (s : State) (u : Nat) (a : Agt) (n : Nat) : chanOf (setAgt s u a) n = chanOf s n := rfl
@[simp] theorem mtileOf_setAgt (s : State) (u : Nat) (a : Agt) (n : Nat) : mtileOf (setAgt s u a) n = mtileOf s n := rfl
@[simp] theorem bteOf_setAgt (s : State) (u : Nat) (a : Agt) (n i : Nat) : bteOf (setAgt s u a) n i = bteOf s n i := rfl
@[simp] theorem rgnOf_setAgt (s : State) (u : Nat) (a : Agt) (n : Nat) : rgnOf (setAgt s u a) n = rgnOf s n := rfl
@[simp] theorem partOf_setAgt (s : State) (u : Nat) (a : Agt) (n : Nat) : partOf (setAgt s u a) n = partOf s n := rfl
@[simp] theorem dieOf_setAgt (s : State) (u : Nat) (a : Agt) (n : Nat) : dieOf (setAgt s u a) n = dieOf s n := rfl
@[simp] theorem tileOf_setBte (s : State) (u ch : Nat) (c : BteCh) (n : Nat) : tileOf (setBte s u ch c) n = tileOf s n := rfl
@[simp] theorem inPortOf_setBte (s : State) (u ch : Nat) (c : BteCh) (n : Nat) : inPortOf (setBte s u ch c) n = inPortOf s n := rfl
@[simp] theorem outPortOf_setBte (s : State) (u ch : Nat) (c : BteCh) (n : Nat) : outPortOf (setBte s u ch c) n = outPortOf s n := rfl
@[simp] theorem chanOf_setBte (s : State) (u ch : Nat) (c : BteCh) (n : Nat) : chanOf (setBte s u ch c) n = chanOf s n := rfl
@[simp] theorem mtileOf_setBte (s : State) (u ch : Nat) (c : BteCh) (n : Nat) : mtileOf (setBte s u ch c) n = mtileOf s n := rfl
@[simp] theorem agtOf_setBte (s : State) (u ch : Nat) (c : BteCh) (n : Nat) : agtOf (setBte s u ch c) n = agtOf s n := rfl
@[simp] theorem rgnOf_setBte (s : State) (u ch : Nat) (c : BteCh) (n : Nat) : rgnOf (setBte s u ch c) n = rgnOf s n := rfl
@[simp] theorem partOf_setBte (s : State) (u ch : Nat) (c : BteCh) (n : Nat) : partOf (setBte s u ch c) n = partOf s n := rfl
@[simp] theorem dieOf_setBte (s : State) (u ch : Nat) (c : BteCh) (n : Nat) : dieOf (setBte s u ch c) n = dieOf s n := rfl
@[simp] theorem tileOf_setRgn (s : State) (k : Nat) (r : Region) (n : Nat) : tileOf (setRgn s k r) n = tileOf s n := rfl
@[simp] theorem inPortOf_setRgn (s : State) (k : Nat) (r : Region) (n : Nat) : inPortOf (setRgn s k r) n = inPortOf s n := rfl
@[simp] theorem outPortOf_setRgn (s : State) (k : Nat) (r : Region) (n : Nat) : outPortOf (setRgn s k r) n = outPortOf s n := rfl
@[simp] theorem chanOf_setRgn (s : State) (k : Nat) (r : Region) (n : Nat) : chanOf (setRgn s k r) n = chanOf s n := rfl
@[simp] theorem mtileOf_setRgn (s : State) (k : Nat) (r : Region) (n : Nat) : mtileOf (setRgn s k r) n = mtileOf s n := rfl
@[simp] theorem agtOf_setRgn (s : State) (k : Nat) (r : Region) (n : Nat) : agtOf (setRgn s k r) n = agtOf s n := rfl
@[simp] theorem bteOf_setRgn (s : State) (k : Nat) (r : Region) (n i : Nat) : bteOf (setRgn s k r) n i = bteOf s n i := rfl
@[simp] theorem partOf_setRgn (s : State) (k : Nat) (r : Region) (n : Nat) : partOf (setRgn s k r) n = partOf s n := rfl
@[simp] theorem dieOf_setRgn (s : State) (k : Nat) (r : Region) (n : Nat) : dieOf (setRgn s k r) n = dieOf s n := rfl
@[simp] theorem tileOf_setPart (s : State) (p : Nat) (x : Part) (n : Nat) : tileOf (setPart s p x) n = tileOf s n := rfl
@[simp] theorem inPortOf_setPart (s : State) (p : Nat) (x : Part) (n : Nat) : inPortOf (setPart s p x) n = inPortOf s n := rfl
@[simp] theorem outPortOf_setPart (s : State) (p : Nat) (x : Part) (n : Nat) : outPortOf (setPart s p x) n = outPortOf s n := rfl
@[simp] theorem chanOf_setPart (s : State) (p : Nat) (x : Part) (n : Nat) : chanOf (setPart s p x) n = chanOf s n := rfl
@[simp] theorem mtileOf_setPart (s : State) (p : Nat) (x : Part) (n : Nat) : mtileOf (setPart s p x) n = mtileOf s n := rfl
@[simp] theorem agtOf_setPart (s : State) (p : Nat) (x : Part) (n : Nat) : agtOf (setPart s p x) n = agtOf s n := rfl
@[simp] theorem bteOf_setPart (s : State) (p : Nat) (x : Part) (n i : Nat) : bteOf (setPart s p x) n i = bteOf s n i := rfl
@[simp] theorem rgnOf_setPart (s : State) (p : Nat) (x : Part) (n : Nat) : rgnOf (setPart s p x) n = rgnOf s n := rfl
@[simp] theorem dieOf_setPart (s : State) (p : Nat) (x : Part) (n : Nat) : dieOf (setPart s p x) n = dieOf s n := rfl
@[simp] theorem tileOf_modPart (s : State) (p : Nat) (f : Part → Part) (n : Nat) : tileOf (modPart s p f) n = tileOf s n := rfl
@[simp] theorem inPortOf_modPart (s : State) (p : Nat) (f : Part → Part) (n : Nat) : inPortOf (modPart s p f) n = inPortOf s n := rfl
@[simp] theorem outPortOf_modPart (s : State) (p : Nat) (f : Part → Part) (n : Nat) : outPortOf (modPart s p f) n = outPortOf s n := rfl
@[simp] theorem chanOf_modPart (s : State) (p : Nat) (f : Part → Part) (n : Nat) : chanOf (modPart s p f) n = chanOf s n := rfl
@[simp] theorem mtileOf_modPart (s : State) (p : Nat) (f : Part → Part) (n : Nat) : mtileOf (modPart s p f) n = mtileOf s n := rfl
@[simp] theorem agtOf_modPart (s : State) (p : Nat) (f : Part → Part) (n : Nat) : agtOf (modPart s p f) n = agtOf s n := rfl
@[simp] theorem bteOf_modPart (s : State) (p : Nat) (f : Part → Part) (n i : Nat) : bteOf (modPart s p f) n i = bteOf s n i := rfl
@[simp] theorem rgnOf_modPart (s : State) (p : Nat) (f : Part → Part) (n : Nat) : rgnOf (modPart s p f) n = rgnOf s n := rfl
@[simp] theorem dieOf_modPart (s : State) (p : Nat) (f : Part → Part) (n : Nat) : dieOf (modPart s p f) n = dieOf s n := rfl
@[simp] theorem tileOf_modDie (s : State) (d : Nat) (f : Die → Die) (n : Nat) : tileOf (modDie s d f) n = tileOf s n := rfl
@[simp] theorem inPortOf_modDie (s : State) (d : Nat) (f : Die → Die) (n : Nat) : inPortOf (modDie s d f) n = inPortOf s n := rfl
@[simp] theorem outPortOf_modDie (s : State) (d : Nat) (f : Die → Die) (n : Nat) : outPortOf (modDie s d f) n = outPortOf s n := rfl
@[simp] theorem chanOf_modDie (s : State) (d : Nat) (f : Die → Die) (n : Nat) : chanOf (modDie s d f) n = chanOf s n := rfl
@[simp] theorem mtileOf_modDie (s : State) (d : Nat) (f : Die → Die) (n : Nat) : mtileOf (modDie s d f) n = mtileOf s n := rfl
@[simp] theorem agtOf_modDie (s : State) (d : Nat) (f : Die → Die) (n : Nat) : agtOf (modDie s d f) n = agtOf s n := rfl
@[simp] theorem bteOf_modDie (s : State) (d : Nat) (f : Die → Die) (n i : Nat) : bteOf (modDie s d f) n i = bteOf s n i := rfl
@[simp] theorem rgnOf_modDie (s : State) (d : Nat) (f : Die → Die) (n : Nat) : rgnOf (modDie s d f) n = rgnOf s n := rfl
@[simp] theorem partOf_modDie (s : State) (d : Nat) (f : Die → Die) (n : Nat) : partOf (modDie s d f) n = partOf s n := rfl
@[simp] theorem tileOf_modHost (s : State) (f : HostPort → HostPort) (n : Nat) : tileOf (modHost s f) n = tileOf s n := rfl
@[simp] theorem inPortOf_modHost (s : State) (f : HostPort → HostPort) (n : Nat) : inPortOf (modHost s f) n = inPortOf s n := rfl
@[simp] theorem outPortOf_modHost (s : State) (f : HostPort → HostPort) (n : Nat) : outPortOf (modHost s f) n = outPortOf s n := rfl
@[simp] theorem chanOf_modHost (s : State) (f : HostPort → HostPort) (n : Nat) : chanOf (modHost s f) n = chanOf s n := rfl
@[simp] theorem mtileOf_modHost (s : State) (f : HostPort → HostPort) (n : Nat) : mtileOf (modHost s f) n = mtileOf s n := rfl
@[simp] theorem agtOf_modHost (s : State) (f : HostPort → HostPort) (n : Nat) : agtOf (modHost s f) n = agtOf s n := rfl
@[simp] theorem bteOf_modHost (s : State) (f : HostPort → HostPort) (n i : Nat) : bteOf (modHost s f) n i = bteOf s n i := rfl
@[simp] theorem rgnOf_modHost (s : State) (f : HostPort → HostPort) (n : Nat) : rgnOf (modHost s f) n = rgnOf s n := rfl
@[simp] theorem partOf_modHost (s : State) (f : HostPort → HostPort) (n : Nat) : partOf (modHost s f) n = partOf s n := rfl
@[simp] theorem dieOf_modHost (s : State) (f : HostPort → HostPort) (n : Nat) : dieOf (modHost s f) n = dieOf s n := rfl
@[simp] theorem tileOf_physSet (s : State) (a x u : Nat) (n : Nat) : tileOf (physSet s a x u) n = tileOf s n := rfl
@[simp] theorem inPortOf_physSet (s : State) (a x u : Nat) (n : Nat) : inPortOf (physSet s a x u) n = inPortOf s n := rfl
@[simp] theorem outPortOf_physSet (s : State) (a x u : Nat) (n : Nat) : outPortOf (physSet s a x u) n = outPortOf s n := rfl
@[simp] theorem chanOf_physSet (s : State) (a x u : Nat) (n : Nat) : chanOf (physSet s a x u) n = chanOf s n := rfl
@[simp] theorem mtileOf_physSet (s : State) (a x u : Nat) (n : Nat) : mtileOf (physSet s a x u) n = mtileOf s n := rfl
@[simp] theorem agtOf_physSet (s : State) (a x u : Nat) (n : Nat) : agtOf (physSet s a x u) n = agtOf s n := rfl
@[simp] theorem bteOf_physSet (s : State) (a x u : Nat) (n i : Nat) : bteOf (physSet s a x u) n i = bteOf s n i := rfl
@[simp] theorem rgnOf_physSet (s : State) (a x u : Nat) (n : Nat) : rgnOf (physSet s a x u) n = rgnOf s n := rfl
@[simp] theorem partOf_physSet (s : State) (a x u : Nat) (n : Nat) : partOf (physSet s a x u) n = partOf s n := rfl
@[simp] theorem dieOf_physSet (s : State) (a x u : Nat) (n : Nat) : dieOf (physSet s a x u) n = dieOf s n := rfl
@[simp] theorem tileOf_modRgn (s : State) (k : Nat) (f : Region → Region) (n : Nat) : tileOf (modRgn s k f) n = tileOf s n := by
  unfold modRgn; split <;> rfl
@[simp] theorem inPortOf_modRgn (s : State) (k : Nat) (f : Region → Region) (n : Nat) : inPortOf (modRgn s k f) n = inPortOf s n := by
  unfold modRgn; split <;> rfl
@[simp] theorem outPortOf_modRgn (s : State) (k : Nat) (f : Region → Region) (n : Nat) : outPortOf (modRgn s k f) n = outPortOf s n := by
  unfold modRgn; split <;> rfl
@[simp] theorem chanOf_modRgn (s : State) (k : Nat) (f : Region → Region) (n : Nat) : chanOf (modRgn s k f) n = chanOf s n := by
  unfold modRgn; split <;> rfl
@[simp] theorem mtileOf_modRgn (s : State) (k : Nat) (f : Region → Region) (n : Nat) : mtileOf (modRgn s k f) n = mtileOf s n := by
  unfold modRgn; split <;> rfl
@[simp] theorem agtOf_modRgn (s : State) (k : Nat) (f : Region → Region) (n : Nat) : agtOf (modRgn s k f) n = agtOf s n := by
  unfold modRgn; split <;> rfl
@[simp] theorem bteOf_modRgn (s : State) (k : Nat) (f : Region → Region) (n i : Nat) : bteOf (modRgn s k f) n i = bteOf s n i := by
  unfold modRgn; split <;> rfl
@[simp] theorem partOf_modRgn (s : State) (k : Nat) (f : Region → Region) (n : Nat) : partOf (modRgn s k f) n = partOf s n := by
  unfold modRgn; split <;> rfl
@[simp] theorem dieOf_modRgn (s : State) (k : Nat) (f : Region → Region) (n : Nat) : dieOf (modRgn s k f) n = dieOf s n := by
  unfold modRgn; split <;> rfl

end Sys2Proof.Machine
end

