-- ==== Sys2Proof/Laws/Ops.lean ====
section
/-! SUPPORT. What an element reads after it is written, and that it alone changed; physical memory keeps its canonical form. -/
namespace Sys2Proof.Machine

/-! ### Vectors -/

theorem vecGetD_set_same {α : Type} {n : Nat} (v : Vector α n) (i : Nat) (x d : α) (h : i < n) :
    (v.setIfInBounds i x).getD i d = x := by
  simp [Vector.getD, h]
theorem vecGetD_set_other {α : Type} {n : Nat} (v : Vector α n) (i j : Nat) (x d : α) (h : j ≠ i) :
    (v.setIfInBounds i x).getD j d = v.getD j d := by
  simp [Vector.getD, Array.getElem?_setIfInBounds_ne (Ne.symm h)]

/-! ### Tiles and banks -/

@[simp] theorem tileOf_setTile_same (s : State) (n : Nat) (t : Tile) : tileOf (setTile s n t) n = t := by simp [tileOf, setTile]
theorem tileOf_setTile_other (s : State) (n m : Nat) (t : Tile) (h : m ≠ n) : tileOf (setTile s n t) m = tileOf s m :=
  mapGet_put_other s.tiles n m t tile0 h
@[simp] theorem tileOf_modTile_same (s : State) (n : Nat) (f : Tile → Tile) : tileOf (modTile s n f) n = f (tileOf s n) :=
  tileOf_setTile_same s n _
theorem tileOf_modTile_other (s : State) (n m : Nat) (f : Tile → Tile) (h : m ≠ n) : tileOf (modTile s n f) m = tileOf s m :=
  tileOf_setTile_other s n m _ h
theorem bankOf_setBank_same (t : Tile) (b : Nat) (x : Bank) (h : b < 4) : bankOf (setBank t b x) b = x :=
  vecGetD_set_same t.banks b x bank0 h
theorem bankOf_setBank_other (t : Tile) (b c : Nat) (x : Bank) (h : c ≠ b) : bankOf (setBank t b x) c = bankOf t c :=
  vecGetD_set_other t.banks b c x bank0 h
theorem bankOf_modBank_same (s : State) (n b : Nat) (f : Bank → Bank) (h : b < 4) :
    bankOf (tileOf (modBank s n b f) n) b = f (bankOf (tileOf s n) b) := by
  simp [modBank, bankOf_setBank_same _ _ _ h]
theorem bankOf_modBank_other (s : State) (n b c : Nat) (f : Bank → Bank) (h : c ≠ b) :
    bankOf (tileOf (modBank s n b f) n) c = bankOf (tileOf s n) c := by
  simp [modBank, bankOf_setBank_other _ _ _ _ h]
theorem tileOf_modBank_other (s : State) (n b m : Nat) (f : Bank → Bank) (h : m ≠ n) :
    tileOf (modBank s n b f) m = tileOf s m := tileOf_modTile_other s n m _ h

/-! ### Ports, channels, memory tiles, walkers, block-transfer channels, regions -/

@[simp] theorem inPortOf_setInPort_same (s : State) (e : Nat) (p : InPort) : inPortOf (setInPort s e p) e = p := by
  simp [inPortOf, setInPort]
theorem inPortOf_setInPort_other (s : State) (e f : Nat) (p : InPort) (h : f ≠ e) : inPortOf (setInPort s e p) f = inPortOf s f :=
  mapGet_put_other s.inPorts e f p inPort0 h
@[simp] theorem outPortOf_setOutPort_same (s : State) (e : Nat) (p : OutPort) : outPortOf (setOutPort s e p) e = p := by
  simp [outPortOf, setOutPort]
theorem outPortOf_setOutPort_other (s : State) (e f : Nat) (p : OutPort) (h : f ≠ e) :
    outPortOf (setOutPort s e p) f = outPortOf s f := mapGet_put_other s.outPorts e f p outPort0 h
@[simp] theorem chanOf_setChan_same (s : State) (c : Nat) (x : Chan) : chanOf (setChan s c x) c = some x :=
  mapFind_put_same s.chans c x
theorem chanOf_setChan_other (s : State) (c d : Nat) (x : Chan) (h : d ≠ c) : chanOf (setChan s c x) d = chanOf s d :=
  mapFind_put_other s.chans c d x h
@[simp] theorem mtileOf_setMTile_same (s : State) (n : Nat) (m : MTile) : mtileOf (setMTile s n m) n = m := by
  simp [mtileOf, setMTile]
theorem mtileOf_setMTile_other (s : State) (n k : Nat) (m : MTile) (h : k ≠ n) : mtileOf (setMTile s n m) k = mtileOf s k :=
  mapGet_put_other s.mtiles n k m mtile0 h
@[simp] theorem agtOf_setAgt_same (s : State) (n : Nat) (a : Agt) : agtOf (setAgt s n a) n = a := by simp [agtOf, setAgt]
theorem agtOf_setAgt_other (s : State) (n k : Nat) (a : Agt) (h : k ≠ n) : agtOf (setAgt s n a) k = agtOf s k :=
  mapGet_put_other s.agts n k a agt0 h
@[simp] theorem bteOf_setBte_same (s : State) (n ch : Nat) (c : BteCh) : bteOf (setBte s n ch c) n ch = c := by
  simp [bteOf, setBte]
theorem bteOf_setBte_other (s : State) (n ch m i : Nat) (c : BteCh) (h : m * 16 + i ≠ n * 16 + ch) :
    bteOf (setBte s n ch c) m i = bteOf s m i := mapGet_put_other s.btes _ _ c bteCh0 h
@[simp] theorem rgnOf_setRgn_same (s : State) (k : Nat) (r : Region) : rgnOf (setRgn s k r) k = some r :=
  mapFind_put_same s.rgns k r
theorem rgnOf_setRgn_other (s : State) (k j : Nat) (r : Region) (h : j ≠ k) : rgnOf (setRgn s k r) j = rgnOf s j :=
  mapFind_put_other s.rgns k j r h
theorem rgnOf_modRgn_same (s : State) (k : Nat) (f : Region → Region) : rgnOf (modRgn s k f) k = (rgnOf s k).map f := by
  unfold modRgn; split <;> simp_all
theorem rgnOf_modRgn_other (s : State) (k j : Nat) (f : Region → Region) (h : j ≠ k) : rgnOf (modRgn s k f) j = rgnOf s j := by
  unfold modRgn; split
  · exact rgnOf_setRgn_other s k j _ h
  · rfl

/-! ### Partitions and dies -/

theorem partOf_setPart_same (s : State) (p : Nat) (x : Part) (h : p < 16) : partOf (setPart s p x) p = x :=
  vecGetD_set_same s.parts p x part0 h
theorem partOf_setPart_other (s : State) (p q : Nat) (x : Part) (h : q ≠ p) : partOf (setPart s p x) q = partOf s q :=
  vecGetD_set_other s.parts p q x part0 h
theorem dieOf_modDie_same (s : State) (d : Nat) (f : Die → Die) (h : d < 4) : dieOf (modDie s d f) d = f (dieOf s d) :=
  vecGetD_set_same s.dies d _ die0 h
theorem dieOf_modDie_other (s : State) (d e : Nat) (f : Die → Die) (h : e ≠ d) : dieOf (modDie s d f) e = dieOf s e :=
  vecGetD_set_other s.dies d e _ die0 h

/-! ### Physical memory and records -/

theorem physSet_wf (s : State) (a x n : Nat) (h : memWf s.mem = true) : memWf (physSet s a x n).mem = true :=
  memWf_bytesSet s.mem a x n h
theorem physGet_set (s : State) (a x n : Nat) (h : memWf s.mem = true) : physGet (physSet s a x n) a n = x % 256 ^ n :=
  bytesGet_set s.mem a x n h
theorem faultRecord_wf (s : State) (p : Nat) (w : Agent) (r : BitVec 512) (h : memWf s.mem = true) :
    memWf (faultRecord s p w r).mem = true := by
  simp only [faultRecord]; split
  · exact h
  · exact physSet_wf s _ _ _ h
theorem mgmtRecord_wf (s : State) (w : Agent) (r : BitVec 512) (h : memWf s.mem = true) :
    memWf (mgmtRecord s w r).mem = true := by
  simp only [mgmtRecord]; split
  · exact h
  · exact physSet_wf s _ _ _ h
@[simp] theorem clkBare_mem (s : State) (p : Nat) (i : ObjId) (sc : Nat) (a : Place) : (clkBare s p i sc a).mem = s.mem := rfl
theorem raceRecord_wf (s : State) (p : Nat) (r : BitVec 512) (h : memWf s.mem = true) : memWf (raceRecord s p r).mem = true := by
  simp only [raceRecord]; split
  · exact h
  · simp only [modPart_mem, clkBare_mem]
    exact physSet_wf _ _ _ _ (physSet_wf s _ _ _ h)
theorem traceRecord_wf (s : State) (p : Nat) (r : BitVec 512) (h : memWf s.mem = true) : memWf (traceRecord s p r).mem = true := by
  simp only [traceRecord]; split
  · exact h
  · exact physSet_wf s _ _ _ h
theorem respond_wf (s : State) (t st v : Nat) (h : memWf s.mem = true) : memWf (respond s t st v).mem = true :=
  mgmtRecord_wf s _ _ h
theorem poolPage_wf (s s1 : State) (pn pa : Nat) (h : memWf s.mem = true) (hp : poolPage s pn = some (pa, s1)) :
    memWf s1.mem = true := by
  simp only [poolPage] at hp
  split at hp
  · simp only [Option.some.injEq, Prod.mk.injEq] at hp
    rw [← hp.2]
    exact memWf_filter s.mem _ h
  · cases hp
theorem walkAlloc_wf (s : State) (pn vp : Nat) (w : Bool) (n : Nat) (h : memWf s.mem = true) :
    memWf (walkAlloc s pn vp w n).2.mem = true := by
  induction n generalizing s with
  | zero => exact h
  | succ n ih =>
    simp only [walkAlloc]
    split
    · exact h
    · split
      · split
        · rename_i hp
          exact ih _ (physSet_wf _ _ _ _ (poolPage_wf s _ pn _ h hp))
        · exact h
      · exact h
theorem walkServed_wf (s : State) (pn vp : Nat) (w : Bool) (h : memWf s.mem = true) : memWf (walkServed s pn vp w).2.mem = true := by
  simp only [walkServed]; split
  · exact walkAlloc_wf s pn vp w 4 h
  · exact h
theorem virtSet_wf (s : State) (pn va x n : Nat) (h : memWf s.mem = true) : memWf (virtSet s pn va x n).1.mem = true := by
  induction n generalizing s va x with
  | zero => exact h
  | succ n ih =>
    have hw := walkServed_wf s pn (va / 4096) true h
    simp only [virtSet]
    split
    · rename_i heq
      rw [heq] at hw
      exact ih _ _ _ (memWf_byteSet _ _ _ hw)
    · rename_i heq
      rw [heq] at hw
      exact hw
/-- The memory of the part right after reset is in canonical form. -/
theorem reset_mem_wf : memWf State.reset.mem = true := rfl

end Sys2Proof.Machine
end

