-- ==== Sys2Proof/Laws/Fire.lean ====
section
/-! SUPPORT. What a firing can do, said once: it is held, it traps before any effect, or it has its whole effect; and the
parts of its end. -/
namespace Sys2Proof.Machine

/-- A firing whose instruction gives an effect completes with it. -/
theorem pe_go (s : State) (i : Instr) (eff : State → Firing → Opnd → Nat → Effect) (e : Eff) (h : Fires i s)
    (he : eff (started i s) s.cur (operands i s) (jobNo s) = .go e) : pe s i eff = .next (finished i s e) := by
  obtain ⟨h1, h2, h3⟩ := h
  simp only [started, operands, jobNo] at he
  unfold pe peNext
  simp only [h1, h2, h3, he, Bool.not_true, Bool.false_eq_true, if_false, finished, operands]

/-- A firing whose instruction stops it traps, with none of its effect: the state is as before but for the trap. -/
theorem pe_stop (s : State) (i : Instr) (eff : State → Firing → Opnd → Nat → Effect) (c : Nat) (d : W64) (h : Fires i s)
    (he : eff (started i s) s.cur (operands i s) (jobNo s) = .stop c d) : pe s i eff = .next (trapPE s s.cur c d) := by
  obtain ⟨h1, h2, h3⟩ := h
  simp only [started, operands, jobNo] at he
  unfold pe peNext
  simp only [h1, h2, h3, he, Bool.not_true, Bool.false_eq_true, if_false]

/-- A slot that is not ready does nothing. -/
theorem pe_held (s : State) (i : Instr) (eff : State → Firing → Opnd → Nat → Effect) (h : peReady s i s.cur false = false) :
    pe s i eff = .next s := by
  unfold pe peNext
  simp only [h, Bool.not_false, if_true]

/-- An ERR head that the firing would dequeue traps it (R57). -/
theorem pe_err (s : State) (i : Instr) (eff : State → Firing → Opnd → Nat → Effect) (d : W64) (h : peReady s i s.cur false = true)
    (he : errHead s i s.cur = some d) : pe s i eff = .next (trapPE s s.cur 2 d) := by
  unfold pe peNext
  simp only [h, he, Bool.not_true, Bool.false_eq_true, if_false]

/-- Everything a firing can do. -/
theorem pe_cases (s : State) (i : Instr) (eff : State → Firing → Opnd → Nat → Effect) :
    pe s i eff = .next s ∨ (∃ c d, pe s i eff = .next (trapPE s s.cur c d))
      ∨ (∃ l c d, pe s i eff = .next (trapPE (errNote s l) s.cur c d)) ∨ ∃ e, Fires i s ∧ eff (started i s) s.cur (operands i s) (jobNo s) = .go e ∧ pe s i eff = .next (finished i s e) := by
  cases h1 : peReady s i s.cur false with
  | false => exact .inl (pe_held s i eff h1)
  | true =>
    cases h2 : errHead s i s.cur with
    | some d => exact .inr (.inl ⟨2, d, pe_err s i eff d h1 h2⟩)
    | none =>
      cases h3 : (readsLm i && lmNext s s.cur.tile == some none) with
      | true =>
        refine .inr (.inr (.inl ?_))
        unfold pe peNext
        simp only [h1, h2, h3, Bool.not_true, Bool.false_eq_true, if_false, if_true]
        exact ⟨_, _, _, rfl⟩
      | false =>
        have hf : Fires i s := ⟨h1, h2, h3⟩
        cases he : eff (started i s) s.cur (operands i s) (jobNo s) with
        | stop c d => exact .inr (.inl ⟨c, d, pe_stop s i eff c d hf he⟩)
        | go e => exact .inr (.inr (.inr ⟨e, hf, rfl, pe_go s i eff e hf he⟩))

/-! ### Traps -/

/-- A trap writes no memory of the part. -/
@[simp] theorem stopRegion_mem (s : State) (k : Nat) : (stopRegion s k).mem = s.mem := by simp [stopRegion, freeDelay]
@[simp] theorem takeTrap_mem (s : State) (n : Nat) (x : Trap) : (takeTrap s n x).mem = s.mem := by
  simp only [takeTrap]; split <;> simp
@[simp] theorem trapPE_mem (s : State) (f : Firing) (c : Nat) (d : W64) : (trapPE s f c d).mem = s.mem := takeTrap_mem s _ _
@[simp] theorem tileOf_stopRegion (s : State) (k n : Nat) : tileOf (stopRegion s k) n = tileOf s n := by
  simp only [stopRegion, freeDelay, tileOf_modRgn]; rfl
/-- The PE of a trap stops firing and holds the trap behind those it holds. -/
theorem tileOf_takeTrap_same (s : State) (n : Nat) (x : Trap) :
    tileOf (takeTrap s n x) n = { tileOf s n with stopped := true, traps := (tileOf s n).traps ++ [x] } := by
  simp only [takeTrap]; split <;> simp
theorem tileOf_takeTrap_other (s : State) (n m : Nat) (x : Trap) (h : m ≠ n) : tileOf (takeTrap s n x) m = tileOf s m := by
  simp only [takeTrap]; split
  · rw [tileOf_stopRegion, tileOf_modTile_other _ _ _ _ h]
  · exact tileOf_modTile_other _ _ _ _ h

end Sys2Proof.Machine
end

