-- ==== Sys2Proof/Laws/Frame.lean ====
section
/-! SUPPORT. What a firing leaves alone: for each operation that a firing is made of, the parts of the state it has no way
to. -/
namespace Sys2Proof.Machine

theorem sameTiles_refl (s : State) : SameTiles s s := ⟨rfl, rfl⟩
theorem sameTiles_trans {s t u : State} (h : SameTiles s t) (k : SameTiles t u) : SameTiles s u :=
  ⟨k.1.trans h.1, k.2.trans h.2⟩
theorem sameBeyond_refl (n : Nat) (s : State) : SameBeyond n s s := ⟨rfl, fun _ _ => rfl⟩
theorem sameBeyond_trans {n : Nat} {s t u : State} (h : SameBeyond n s t) (k : SameBeyond n t u) : SameBeyond n s u :=
  ⟨k.1.trans h.1, fun m hm => (k.2 m hm).trans (h.2 m hm)⟩
theorem sameTiles_beyond {s t : State} (n : Nat) (h : SameTiles s t) : SameBeyond n s t :=
  ⟨h.1, fun m _ => by simp only [tileOf, h.2]⟩
theorem sameTiles_foldl {α : Type} (f : State → α → State) (l : List α) (s : State) (h : ∀ s a, SameTiles s (f s a)) :
    SameTiles s (l.foldl f s) := by
  induction l generalizing s with
  | nil => exact sameTiles_refl s
  | cons a l ih => exact sameTiles_trans (h s a) (ih _)

/-! ### Operations that touch no tile -/

theorem sameTiles_setInPort (s : State) (e : Nat) (p : InPort) : SameTiles s (setInPort s e p) := ⟨rfl, rfl⟩
theorem sameTiles_setOutPort (s : State) (e : Nat) (p : OutPort) : SameTiles s (setOutPort s e p) := ⟨rfl, rfl⟩
theorem sameTiles_setChan (s : State) (k : Nat) (c : Chan) : SameTiles s (setChan s k c) := ⟨rfl, rfl⟩
theorem sameTiles_setRgn (s : State) (k : Nat) (r : Region) : SameTiles s (setRgn s k r) := ⟨rfl, rfl⟩
theorem sameTiles_setPart (s : State) (k : Nat) (r : Part) : SameTiles s (setPart s k r) := ⟨rfl, rfl⟩
theorem sameTiles_modRgn (s : State) (k : Nat) (f : Region → Region) : SameTiles s (modRgn s k f) := by
  unfold modRgn; split <;> exact ⟨rfl, rfl⟩
theorem sameTiles_errNote (s : State) (l : Loc) : SameTiles s (errNote s l) := by
  unfold errNote; split <;> exact ⟨rfl, rfl⟩
theorem sameTiles_takeRequest (s : State) (ep : Nat) : SameTiles s (takeRequest s ep) := by
  unfold takeRequest; repeat' split
  all_goals exact ⟨rfl, rfl⟩
theorem sameTiles_queueOut (s : State) (ep j : Nat) (t : Option Token) : SameTiles s (queueOut s ep j t) := ⟨rfl, rfl⟩
theorem sameTiles_fillOut (s : State) (ep j : Nat) (t : Token) : SameTiles s (fillOut s ep j t) := ⟨rfl, rfl⟩
theorem sameTiles_dropOut (s : State) (ep j : Nat) : SameTiles s (dropOut s ep j) := by
  unfold dropOut; simp only []; repeat' split
  all_goals exact ⟨rfl, rfl⟩
theorem sameTiles_pathStart (s : State) (k : Nat) (r : Region) (ep : Nat) : SameTiles s (pathStart s k r ep) := by
  unfold pathStart; simp only []; split <;> exact ⟨rfl, rfl⟩
theorem sameTiles_deqHead (s : State) (ep : Nat) : SameTiles s (deqHead s ep) := by
  unfold deqHead; simp only []
  split
  · exact sameTiles_refl s
  · split
    · exact ⟨rfl, rfl⟩
    · split
      · exact ⟨rfl, rfl⟩
      · exact sameTiles_trans ⟨rfl, rfl⟩ (sameTiles_pathStart _ _ _ _)
theorem sameTiles_infAdd (s : State) (a b c d : Nat) (u : Bool) : SameTiles s (infAdd s a b c d u) := ⟨rfl, rfl⟩
theorem sameTiles_clkAcquire (s : State) (pn h : Nat) (i : ObjId) (sc : Nat) (b : Place) (x : Option Place) :
    SameTiles s (clkAcquire s pn h i sc b x) := by
  unfold clkAcquire; simp only []; repeat' split
  all_goals exact ⟨rfl, rfl⟩
theorem sameTiles_stopRegion (s : State) (k : Nat) : SameTiles s (stopRegion s k) :=
  sameTiles_trans (t := { s with free := s.free + 1 }) ⟨rfl, rfl⟩ (sameTiles_modRgn _ _ _)
theorem sameTiles_startHalt (s : State) (k c : Nat) (v : W64) (e : Nat) : SameTiles s (startHalt s k c v e) :=
  sameTiles_modRgn _ _ _
theorem sameTiles_countBrk (s : State) (f : Firing) : SameTiles s (countBrk s f) := by
  unfold countBrk; repeat' split
  all_goals exact ⟨rfl, rfl⟩

/-! ### Operations on one tile -/

theorem sameBeyond_setTile (s : State) (n : Nat) (t : Tile) : SameBeyond n s (setTile s n t) :=
  ⟨rfl, fun m hm => tileOf_setTile_other s n m t hm⟩
theorem sameBeyond_modTile (s : State) (n : Nat) (f : Tile → Tile) : SameBeyond n s (modTile s n f) := sameBeyond_setTile s n _
theorem sameBeyond_modBank (s : State) (n b : Nat) (f : Bank → Bank) : SameBeyond n s (modBank s n b f) := sameBeyond_setTile s n _
theorem sameBeyond_takeTrap (s : State) (n : Nat) (x : Trap) : SameBeyond n s (takeTrap s n x) := by
  unfold takeTrap; simp only []; split
  · exact sameBeyond_trans (sameBeyond_modTile s n _) (sameTiles_beyond n (sameTiles_stopRegion _ _))
  · exact sameBeyond_modTile s n _
theorem sameBeyond_trapPE (s : State) (f : Firing) (c : Nat) (d : W64) : SameBeyond f.tile s (trapPE s f c d) :=
  sameBeyond_takeTrap s f.tile _
theorem sameBeyond_takePacket (s : State) (n : Nat) : SameBeyond n s (takePacket s n) := by
  unfold takePacket; simp only []
  split
  · exact sameBeyond_refl n s
  · split <;> split <;>
      first
      | exact sameBeyond_modTile s n _
      | exact sameBeyond_trans (sameBeyond_modTile s n _) (sameTiles_beyond n (sameTiles_clkAcquire _ _ _ _ _ _ _))
      | exact sameBeyond_trans (sameBeyond_modTile s n _) (sameTiles_beyond n (sameTiles_infAdd _ _ _ _ _ _))
theorem sameBeyond_foldl {α : Type} (n : Nat) (f : State → α → State) (l : List α) (s : State)
    (h : ∀ s a, SameBeyond n s (f s a)) : SameBeyond n s (l.foldl f s) := by
  induction l generalizing s with
  | nil => exact sameBeyond_refl n s
  | cons a l ih => exact sameBeyond_trans (h s a) (ih _)
theorem sameBeyond_takeInputs (s : State) (i : Instr) (f : Firing) : SameBeyond f.tile s (takeInputs s i f) := by
  unfold takeInputs; simp only []
  have h0 : SameBeyond f.tile s (if trTch f.trig = 6 then takePacket s f.tile else s) := by
    split
    · exact sameBeyond_takePacket s f.tile
    · exact sameBeyond_refl _ s
  have h1 := sameBeyond_trans h0 (sameTiles_beyond f.tile (sameTiles_foldl (fun x p => deqHead x (tileEp f.tile p)) (deqPorts i) _
    fun s a => sameTiles_deqHead s _))
  have h2 := sameBeyond_trans h1 (sameBeyond_foldl f.tile (fun x q =>
    if popsQ i q then modBank x f.tile f.bank fun b => qSet b q ((qGet b q).drop 1) else x) (List.range 2) _ fun s a => by
      split
      · exact sameBeyond_modBank s _ _ _
      · exact sameBeyond_refl _ s)
  split
  · exact sameBeyond_trans h2 (sameBeyond_modTile _ _ _)
  · exact h2
theorem sameBeyond_reserveDst (s : State) (n : Nat) (d : Dst) : SameBeyond n s (reserveDst s n d).2 := by
  unfold reserveDst; split
  · exact sameBeyond_setTile s n _
  · exact sameBeyond_refl n s
theorem sameBeyond_putDst (s : State) (n b j : Nat) (d : Dst) (r : Kind × W512) : SameBeyond n s (putDst s n b j d r) := by
  unfold putDst; split
  · exact sameBeyond_refl n s
  · exact sameBeyond_modBank s n _ _
  · exact sameBeyond_modBank s n _ _
  · exact sameBeyond_modBank s n _ _
  · exact sameTiles_beyond n (sameTiles_fillOut _ _ _ _)
  · exact sameBeyond_modTile s n _
theorem sameBeyond_finishJob (s : State) (n : Nat) (j : Job) : SameBeyond n s (finishJob s n j) :=
  sameBeyond_trans (sameBeyond_trans (sameBeyond_trans (sameBeyond_modTile s n _) (sameBeyond_putDst _ _ _ _ _ _))
    (sameBeyond_putDst _ _ _ _ _ _)) (sameBeyond_modBank _ _ _ _)
theorem sameBeyond_dropDst (s : State) (n j : Nat) (d : Dst) : SameBeyond n s (dropDst s n j d) := by
  unfold dropDst; split
  · exact sameTiles_beyond n (sameTiles_dropOut _ _ _)
  · exact sameBeyond_refl n s
theorem sameBeyond_dropJob (s : State) (n : Nat) (j : Job) : SameBeyond n s (dropJob s n j) :=
  sameBeyond_trans (sameBeyond_trans (sameBeyond_modTile s n _) (sameBeyond_dropDst _ _ _ _)) (sameBeyond_dropDst _ _ _ _)
theorem sameTiles_completePorts (s : State) (i : Instr) (f : Firing) (e : Eff) : SameTiles e.st (completePorts s i f e) :=
  sameTiles_foldl _ _ _ fun s _ => sameTiles_trans (sameTiles_trans (sameTiles_takeRequest s _) (sameTiles_queueOut _ _ _ _))
    (sameTiles_setOutPort _ _ _)
theorem sameBeyond_enterJob (s x : State) (i : Instr) (f : Firing) (j : Job) : SameBeyond f.tile x (enterJob s x i f j) :=
  sameBeyond_modTile x f.tile _
theorem sameBeyond_settleJob (x : State) (f : Firing) (e : Eff) (j : Job) : SameBeyond f.tile x (settleJob x f e j) := by
  unfold settleJob; split
  · exact sameBeyond_dropJob x f.tile j
  · split
    · exact sameBeyond_finishJob x f.tile j
    · exact sameBeyond_refl _ x
/-- The end of a firing touches no more than its tile, its ports and channels, and its region. -/
theorem sameBeyond_complete (s : State) (i : Instr) (f : Firing) (o : Opnd) (e : Eff) : SameBeyond f.tile e.st (complete s i f o e) := by
  have h := fun (da db : Dst) (j : Job) => sameBeyond_trans (sameBeyond_trans (sameBeyond_trans (sameBeyond_trans (sameBeyond_trans
    (sameTiles_beyond f.tile (sameTiles_completePorts s i f e)) (sameBeyond_reserveDst _ f.tile da)) (sameBeyond_reserveDst _ f.tile db))
    (sameBeyond_enterJob s _ i f j)) (sameTiles_beyond f.tile (sameTiles_countBrk _ f))) (sameBeyond_settleJob _ f e j)
  unfold complete; simp only []
  split
  · exact sameBeyond_trans (h _ _ _) (sameBeyond_trapPE _ f _ _)
  · exact h _ _ _

/-- A firing whose effect touches no more than its tile, ports, channels and region leaves the rest of the machine alone,
whatever its outcome. -/
theorem pe_beyond (s t : State) (i : Instr) (eff : State → Firing → Opnd → Nat → Effect)
    (he : ∀ e, eff (started i s) s.cur (operands i s) (jobNo s) = .go e → SameBeyond s.cur.tile (started i s) e.st)
    (h : pe s i eff = .next t) : SameBeyond s.cur.tile s t := by
  rcases pe_cases s i eff with h0 | ⟨c, d, h0⟩ | ⟨l, c, d, h0⟩ | ⟨e, -, h1, h0⟩
  · rw [h0] at h; cases h; exact sameBeyond_refl _ s
  · rw [h0] at h; cases h; exact sameBeyond_trapPE s s.cur c d
  · rw [h0] at h; cases h
    exact sameBeyond_trans (sameTiles_beyond _ (sameTiles_errNote s l)) (sameBeyond_trapPE _ s.cur c d)
  · rw [h0] at h; cases h
    exact sameBeyond_trans (sameBeyond_trans (sameBeyond_takeInputs s i s.cur) (he e h1)) (sameBeyond_complete s i s.cur _ e)

end Sys2Proof.Machine
end

