-- ==== Sys2Proof/Tests/Slice0.lean ====
section
/-! SUPPORT. Tests: words and the instructions they stand for, ill-formed operands, firings and steps, and for every statement with
hypotheses a state that meets them. -/
namespace Sys2Proof.Tests

open Machine

set_option Elab.async false

/-! ### Words of every encoded instruction, written out from the encodings of its entry -/

/-- The decoder reads the word as the instruction. -/
def dec (w : BitVec 32) (i : Instr) : Prop := decodeWord w = .ok i

theorem test_decode_group0 :
    dec 0x0147296C (.add 5 3 18 9 6 12) ∧
    dec 0x0347296C (.sub 5 3 18 9 6 12) ∧
    dec 0x0547296C (.mulLo 5 3 18 9 6 12) ∧
    dec 0x0747296C (.mulHi 5 3 18 9 6 12) ∧
    dec 0x0947296C (.div 5 3 18 9 6 12) ∧
    dec 0x0B47296C (.rem 5 3 18 9 6 12) ∧
    dec 0x0D47296C (.min 5 3 18 9 6 12) ∧
    dec 0x0F47296C (.max 5 3 18 9 6 12) := by repeat (first | rfl | refine ⟨rfl, ?_⟩)

theorem test_decode_group1 :
    dec 0x1087296C (.cmpEq 2 3 18 9 6 12) ∧
    dec 0x1187296C (.cmpNe 2 3 18 9 6 12) ∧
    dec 0x1287296C (.cmpLt 2 3 18 9 6 12) ∧
    dec 0x1387296C (.cmpLe 2 3 18 9 6 12) ∧
    dec 0x1487196C (.abs 2 3 9 6 12) ∧
    dec 0x1587196C (.neg 2 3 9 6 12) ∧
    dec 0x1607296C (.sel 3 18 9 6 12) ∧
    dec 0x1647296C (.and 3 18 9 6 12) ∧
    dec 0x1687296C (.or 3 18 9 6 12) ∧
    dec 0x16C7296C (.xor 3 18 9 6 12) ∧
    dec 0x1707296C (.andn 3 18 9 6 12) ∧
    dec 0x1747196C (.not 3 9 6 12) ∧
    dec 0x1787296C (.shl 3 18 9 6 12) ∧
    dec 0x17C7296C (.shr 3 18 9 6 12) ∧
    dec 0x1807296C (.sar 3 18 9 6 12) ∧
    dec 0x1847296C (.rol 3 18 9 6 12) ∧
    dec 0x1887296C (.ror 3 18 9 6 12) ∧
    dec 0x18C7296C (.extr 3 18 9 6 12) ∧
    dec 0x1907296C (.extrS 3 18 9 6 12) ∧
    dec 0x1947296C (.ins 3 18 9 6 12) ∧
    dec 0x1987196C (.popc 3 9 6 12) ∧
    dec 0x19C7196C (.clz 3 9 6 12) ∧
    dec 0x1A07196C (.ctz 3 9 6 12) ∧
    dec 0x1A47196C (.bswap 3 9 6 12) ∧
    dec 0x1A87255C (.pset 3 18 12) ∧
    dec 0x1AE3196C (.pget 9 6 12) ∧
    dec 0x1B23155C (.pand 12) ∧
    dec 0x1B63155C (.por 12) ∧
    dec 0x1BA3155C (.pxor 12) ∧
    dec 0x1BE3155C (.pnot 12) := by repeat (first | rfl | refine ⟨rfl, ?_⟩)

theorem test_decode_group2 :
    dec 0x2007196C (.deq 3 9 6 12) ∧
    dec 0x2047196C (.peek 3 9 6 12) ∧
    dec 0x2087196C (.fwd 3 9 6 12) ∧
    dec 0x20E3196C (.emitNull 9 6 12) ∧
    dec 0x2107196C (.emitMark 3 9 6 12) ∧
    dec 0x2147196C (.emitErr 3 9 6 12) ∧
    dec 0x2187255C (.retag 3 18 12) ∧
    dec 0x21C7155C (.posReset 3 12) ∧
    dec 0x2807196C (.deqD 3 9 6 12) ∧
    dec 0x2847196C (.peekD 3 9 6 12) ∧
    dec 0x2887196C (.fwdD 3 9 6 12) ∧
    dec 0x28E3196C (.emitNullD 9 6 12) ∧
    dec 0x2907196C (.emitMarkD 3 9 6 12) ∧
    dec 0x2947196C (.emitErrD 3 9 6 12) ∧
    dec 0x2987255C (.retagD 3 18 12) ∧
    dec 0x29C7155C (.posResetD 3 12) := by repeat (first | rfl | refine ⟨rfl, ?_⟩)

theorem test_decode_group3 :
    dec 0x3007196C (.dlGet 3 9 6 12) ∧
    dec 0x3047255C (.dlPut 3 18 12) ∧
    dec 0x3087196C (.dlGetD 3 9 6 12) ∧
    dec 0x30C7255C (.dlPutD 3 18 12) ∧
    dec 0x3207196C (.qCnt 3 9 6 12) ∧
    dec 0x3247155C (.qClr 3 12) ∧
    dec 0x3287255C (.qDepth 3 18 12) ∧
    dec 0x3423196C (.modeRd 9 6 12) ∧
    dec 0x3447155C (.modeWr 3 12) ∧
    dec 0x3487155C (.modeSet 3 12) ∧
    dec 0x34C7155C (.modeClr 3 12) ∧
    dec 0x3607296C (.swIdx 3 18 9 6 12) ∧
    dec 0x3807255C (.mlOn 3 18 12) ∧
    dec 0x3863155C (.mlOff 12) ∧
    dec 0x38A3196C (.mlRd 9 6 12) := by repeat (first | rfl | refine ⟨rfl, ?_⟩)

theorem test_decode_group6 :
    dec 0x6007296C (.fadd 2 3 18 9 6 12) ∧
    dec 0x6047296C (.fsub 2 3 18 9 6 12) ∧
    dec 0x6087296C (.fmul 2 3 18 9 6 12) ∧
    dec 0x60C7296C (.fma 2 3 18 9 6 12) ∧
    dec 0x6107296C (.fms 2 3 18 9 6 12) ∧
    dec 0x6147296C (.fnma 2 3 18 9 6 12) ∧
    dec 0x6187296C (.fmin 2 3 18 9 6 12) ∧
    dec 0x61C7296C (.fmax 2 3 18 9 6 12) ∧
    dec 0x6207196C (.fabs 2 3 9 6 12) ∧
    dec 0x6247196C (.fneg 2 3 9 6 12) ∧
    dec 0x6287296C (.fcmpEq 2 3 18 9 6 12) ∧
    dec 0x62C7296C (.fcmpLt 2 3 18 9 6 12) ∧
    dec 0x6307296C (.fcmpLe 2 3 18 9 6 12) ∧
    dec 0x6347296C (.fcmpUn 2 3 18 9 6 12) ∧
    dec 0x6387196C (.fclass 2 3 9 6 12) ∧
    dec 0x63C7196C (.fsqrt 2 3 9 6 12) ∧
    dec 0x6407196C (.frcpe 2 3 9 6 12) ∧
    dec 0x6447296C (.fdiv 2 3 18 9 6 12) := by repeat (first | rfl | refine ⟨rfl, ?_⟩)

theorem test_decode_group7 :
    dec 0x7147296C (.vadd 5 3 18 9 6 12) ∧
    dec 0x7347296C (.vsub 5 3 18 9 6 12) ∧
    dec 0x7547296C (.vmul 5 3 18 9 6 12) ∧
    dec 0x7747296C (.vmulh 5 3 18 9 6 12) ∧
    dec 0x7947296C (.vmin 5 3 18 9 6 12) ∧
    dec 0x7B47296C (.vmax 5 3 18 9 6 12) ∧
    dec 0x7D47296C (.vshr 5 3 18 9 6 12) ∧
    dec 0x7F47296C (.vcmpLt 5 3 18 9 6 12) := by repeat (first | rfl | refine ⟨rfl, ?_⟩)

theorem test_decode_group8 :
    dec 0x8087296C (.vshl 2 3 18 9 6 12) ∧
    dec 0x8187296C (.vcmpEq 2 3 18 9 6 12) ∧
    dec 0x8287196C (.vabs 2 3 9 6 12) ∧
    dec 0x8307296C (.vand 3 18 9 6 12) ∧
    dec 0x8347296C (.vor 3 18 9 6 12) ∧
    dec 0x8387296C (.vxor 3 18 9 6 12) ∧
    dec 0x83C7196C (.vnot 3 9 6 12) ∧
    dec 0x8407296C (.cvtF32F64 3 18 9 6 12) ∧
    dec 0x8447296C (.cvtF64F32 3 18 9 6 12) ∧
    dec 0x8487296C (.cvtBf16F32 3 18 9 6 12) ∧
    dec 0x84C7296C (.cvtF32Bf16 3 18 9 6 12) ∧
    dec 0x8507196C (.cvtI32F32 3 9 6 12) ∧
    dec 0x8547196C (.cvtF32I32 3 9 6 12) ∧
    dec 0x8587196C (.cvtN32F32 3 9 6 12) ∧
    dec 0x85C7196C (.cvtF32N32 3 9 6 12) ∧
    dec 0x8607196C (.cvtI64F64 3 9 6 12) ∧
    dec 0x8647196C (.cvtF64I64 3 9 6 12) ∧
    dec 0x8687296C (.vperm 3 18 9 6 12) ∧
    dec 0x86C7296C (.vshuf 3 18 9 6 12) ∧
    dec 0x8707296C (.vrot 3 18 9 6 12) ∧
    dec 0x8747296C (.vbcast 3 18 9 6 12) ∧
    dec 0x8807196C (.vredFaddF64 3 9 6 12) ∧
    dec 0x8847196C (.vredFaddF32 3 9 6 12) ∧
    dec 0x8887196C (.vredFaddBf16 3 9 6 12) ∧
    dec 0x88C7196C (.vredFmaxF32 3 9 6 12) ∧
    dec 0x8907196C (.vredFminF32 3 9 6 12) ∧
    dec 0x8947196C (.vredAddI32 3 9 6 12) ∧
    dec 0x8987196C (.vredAddI64 3 9 6 12) ∧
    dec 0x89C7196C (.vredMaxI32 3 9 6 12) ∧
    dec 0x8A07296C (.compressN32 3 18 9 6 12) ∧
    dec 0x8C07196C (.rep 3 9 6 12) ∧
    dec 0x8C47296C (.ext 3 18 9 6 12) := by repeat (first | rfl | refine ⟨rfl, ?_⟩)

theorem test_decode_group9 :
    dec 0x9007196C (.mmaBf16 3 9 6 12) ∧
    dec 0x9047196C (.mmaF32 3 9 6 12) ∧
    dec 0x9087196C (.mmaF64 3 9 6 12) ∧
    dec 0x90C7196C (.mmaCb4 3 9 6 12) ∧
    dec 0x9107296C (.mmaSpBf16 3 18 9 6 12) ∧
    dec 0x9147296C (.mmaSpCb4 3 18 9 6 12) ∧
    dec 0x9207196C (.mpl 3 9 6 12) ∧
    dec 0x9247296C (.mcb 3 18 9 6 12) ∧
    dec 0x9423196C (.accZero 9 6 12) ∧
    dec 0x9447196C (.accRd 3 9 6 12) ∧
    dec 0x9487196C (.accWr 3 9 6 12) ∧
    dec 0x94E3196C (.accCp 9 6 12) ∧
    dec 0x9507296C (.sacc 3 18 9 6 12) := by repeat (first | rfl | refine ⟨rfl, ?_⟩)

theorem test_decode_group10 :
    dec 0xA007255C (.ssSet 3 18 12) ∧
    dec 0xA047155C (.ssGo 3 12) ∧
    dec 0xA087155C (.ssStop 3 12) ∧
    dec 0xA0C7196C (.ssStat 3 9 6 12) ∧
    dec 0xA207196C (.lmLd 3 9 6 12) ∧
    dec 0xA247255C (.lmSt 3 18 12) ∧
    dec 0xA423155C (.ringBind 12) ∧
    dec 0xA463196C (.ringWaitf 9 6 12) ∧
    dec 0xA4A3196C (.ringWaite 9 6 12) ∧
    dec 0xA4E3155C (.ringAdvp 12) ∧
    dec 0xA523155C (.ringAdvc 12) ∧
    dec 0xA547196C (.ringRd 3 9 6 12) ∧
    dec 0xA587255C (.ringWr 3 18 12) ∧
    dec 0xA5C7196C (.ringRdv 3 9 6 12) ∧
    dec 0xA607255C (.ringWrv 3 18 12) := by repeat (first | rfl | refine ⟨rfl, ?_⟩)

theorem test_decode_group11 :
    dec 0xB007196C (.agtSet 3 9 6 12) ∧
    dec 0xB047196C (.agtBase 3 9 6 12) ∧
    dec 0xB087296C (.agtDim 3 18 9 6 12) ∧
    dec 0xB0E3196C (.agtGo 9 6 12) ∧
    dec 0xB123196C (.agtStop 9 6 12) ∧
    dec 0xB147196C (.agtCfg 3 9 6 12) ∧
    dec 0xB1A3196C (.agtHand 9 6 12) ∧
    dec 0xB1E3196C (.agtResume 9 6 12) ∧
    dec 0xB223196C (.agtStat 9 6 12) := by repeat (first | rfl | refine ⟨rfl, ?_⟩)

theorem test_decode_group12 :
    dec 0xC087296C (.amoAdd 2 3 18 9 6 12) ∧
    dec 0xC187296C (.amoFadd 2 3 18 9 6 12) ∧
    dec 0xC287296C (.amoMin 2 3 18 9 6 12) ∧
    dec 0xC387296C (.amoMax 2 3 18 9 6 12) ∧
    dec 0xC487296C (.amoAnd 2 3 18 9 6 12) ∧
    dec 0xC587296C (.amoOr 2 3 18 9 6 12) ∧
    dec 0xC687296C (.amoXor 2 3 18 9 6 12) ∧
    dec 0xC787296C (.amoExch 2 3 18 9 6 12) ∧
    dec 0xC887296C (.amoCas 2 3 18 9 6 12) ∧
    dec 0xC9A3155C (.fence 2 12) ∧
    dec 0xCA87255C (.stRel 2 3 18 12) ∧
    dec 0xCB87196C (.ldAcq 2 3 9 6 12) ∧
    dec 0xCC07196C (.ld 3 9 6 12) ∧
    dec 0xCC47255C (.st 3 18 12) := by repeat (first | rfl | refine ⟨rfl, ?_⟩)

theorem test_decode_group13 :
    dec 0xD007296C (.bteCopy 3 18 9 6 12) ∧
    dec 0xD047296C (.bteCopyMx 3 18 9 6 12) ∧
    dec 0xD087196C (.bteAppend 3 9 6 12) ∧
    dec 0xD0C7155C (.bteTail 3 12) ∧
    dec 0xD107196C (.bteProm 3 9 6 12) ∧
    dec 0xD147155C (.sleepUntil 3 12) ∧
    dec 0xD187196C (.bteSeq 3 9 6 12) ∧
    dec 0xD1E3196C (.bteStat 9 6 12) := by repeat (first | rfl | refine ⟨rfl, ?_⟩)

theorem test_decode_group14 :
    dec 0xE007255C (.tsend 3 18 12) ∧
    dec 0xE063155C (.hbind 12) ∧
    dec 0xE0A3155C (.hunbind 12) ∧
    dec 0xE223196C (.futNew 9 6 12) ∧
    dec 0xE247296C (.futReg 3 18 9 6 12) ∧
    dec 0xE287255C (.futRes 3 18 12) ∧
    dec 0xE2C7255C (.futFault 3 18 12) ∧
    dec 0xE307196C (.futWait 3 9 6 12) ∧
    dec 0xE347196C (.futRd 3 9 6 12) ∧
    dec 0xE407196C (.launch 3 9 6 12) ∧
    dec 0xE447196C (.launchTry 3 9 6 12) ∧
    dec 0xE607196C (.join 3 9 6 12) ∧
    dec 0xE647155C (.leave 3 12) ∧
    dec 0xE687296C (.barrier 3 18 9 6 12) ∧
    dec 0xE6C7296C (.reduce 3 18 9 6 12) ∧
    dec 0xE707296C (.allreduce 3 18 9 6 12) ∧
    dec 0xE747296C (.bcast 3 18 9 6 12) ∧
    dec 0xE7A3196C (.grpNew 9 6 12) ∧
    dec 0xE7C7196C (.grpSize 3 9 6 12) ∧
    dec 0xE807296C (.xdDispatch 3 18 9 6 12) ∧
    dec 0xE847196C (.xdLoad 3 9 6 12) ∧
    dec 0xE887196C (.xdTab 3 9 6 12) ∧
    dec 0xE8C7196C (.xdVer 3 9 6 12) ∧
    dec 0xE923196C (.xdStat 9 6 12) := by repeat (first | rfl | refine ⟨rfl, ?_⟩)

theorem test_decode_group15 :
    dec 0xF007155C (.trap 3 12) ∧
    dec 0xF063155C (.yield 12) ∧
    dec 0xF087155C (.cfgSel 3 12) ∧
    dec 0xF0C7196C (.rgnStat 3 9 6 12) ∧
    dec 0xF107155C (.dbgBrk 3 12) ∧
    dec 0xF163155C (.nop 12) ∧
    dec 0xF407196C (.clkRd 3 9 6 12) ∧
    dec 0xF447196C (.raceMode 3 9 6 12) ∧
    dec 0xF487196C (.raceLog 3 9 6 12) ∧
    dec 0xF4C7196C (.raceGen 3 9 6 12) := by repeat (first | rfl | refine ⟨rfl, ?_⟩)

/-- A word whose unused field holds another value than the encoding's is refused, as is an opcode that the map does not assign. -/
theorem test_decode_refuses : decodeWord 0x17412100 = .error .unusedField ∧ decodeWord 0x1C000000 = .error .unassigned := by
  repeat (first | rfl | refine ⟨rfl, ?_⟩)

/-- The encoder gives the words of R87's and R136's examples. -/
theorem test_encode : encode (.add 2 2 0 1 8 8) = some 0x00840188#32 ∧ encode (.tsend 7 8 0) = some 0xE00E8550#32 := ⟨rfl, rfl⟩

/-! ### Ill-formed operands: each check refuses a term -/

/-- Well-formed instructions are accepted, and each check of an operand field refuses an instruction. -/
theorem test_wellFormed_refuses :
    ([Instr.add 2 2 0 1 8 8, .fma 1 0 1 9 0 0, .amoCas 2 6 7 10 10 0].all Instr.wf
      && [Instr.add 2 31 0 1 8 8, .peek 6 0 0 0, .qCnt 0 6 6 0, .xdDispatch 16 0 6 6 0, .add 2 0 31 1 8 8, .xdDispatch 0 16 6 6 0, .fadd 1 0 1 15 15 0,
          .fadd 1 0 1 6 15 0, .agtGo 6 6 0, .swIdx 0 1 5 5 0, .mmaBf16 0 1 6 0, .agtGo 0 1 0, .bteStat 6 6 0, .fma 1 0 1 5 5 0, .fms 1 0 1 14 14 0,
          .fnma 1 0 1 0 0 0, .amoCas 2 6 7 5 5 0, .mmaSpBf16 0 1 5 5 0, .mmaSpCb4 0 1 5 5 0, .add 2 2 0 1 8 12].all
        fun i => !i.wf) = true := by decide

/-- A slot's words: a valid trigger word with an instruction, or zeros. -/
def slotWith (trig word lit : Nat) : Bool := slotWf ⟨BitVec.ofNat 32 trig, BitVec.ofNat 32 word, BitVec.ofNat 64 lit⟩

/-- Well-formed slots are accepted, and each check of a trigger word and a literal refuses a slot. -/
theorem test_slot_refuses :
    (let none_ := 1 + 7 * 2 ^ 18
     let in0 := 1 + 2 ^ 26
     slotWith 0 0 0 && slotWith none_ 0xF0011550 0 && slotWith in0 0x30400550 4
      && [slotWith 2 0 0, slotWith 0 1 0, slotWith 1 0xF0011550 0, slotWith (none_ + 2 ^ 17) 0xF0011550 0,
          slotWith (none_ + 2 ^ 15) 0xF0011550 0, slotWith (none_ + 2 ^ 13) 0xF0011550 0, slotWith (none_ + 6) 0xF0011550 0,
          slotWith none_ 0x00240100 0, slotWith none_ 0x00018100 0, slotWith none_ 0x94411000 (2 ^ 63), slotWith in0 0x30400550 8,
          slotWith in0 0x30400550 7].all fun x => !x) = true := by decide

/-! ### Walkers and block transfers: every clause is met -/

/-- A partition's descriptor with every cluster and pseudo-channel, and further fields (bit, value). -/
def descOf (l : List (Nat × Nat)) : BitVec 2048 := BitVec.ofNat 2048 (l.foldl (fun n f => n + f.2 * 2 ^ f.1) (2 ^ 768 - 1))
/-- A part with a LIVE region on tile 0, of a partition with every cluster. -/
def base : State :=
  let s := { fetchState State.reset 32 0 with turns := [] }
  setPart s 0 { partOf s 0 with isSet := true, desc := descOf [] }
/-- A channel with four requests pending at an output port. -/
def withOut (s : State) (key ep : Nat) : State :=
  setOutPort (setChan s key { fetchChan 0 with prod := ep }) ep { outPort0 with chan := some key }
/-- AGT 0 of the region, with a head at its port 0. -/
def agtWith (k : Kind) (pay : Nat) (a : Agt) : State :=
  setAgt (setInPort base (agtEp 0 0) { inPort0 with queue := [(0, ⟨k, 0, BitVec.ofNat 512 pay⟩)] }) 0 { a with rgn := some fetchRgn }
/-- A command's payload. -/
def cmdPay (k : Nat) : Nat := k * 2 ^ 60

theorem test_agtCommandSteps :
    ([agtCanTake (agtWith .data 0 agt0) 0 0, agtCanTake (agtWith .data (cmdPay 1) agt0) 0 1, agtCanTake (agtWith .data (cmdPay 2) agt0) 0 2,
      agtGoWaits (agtWith .data 0 { agt0 with goes := 1 }) 0,
      !agtGoWaits (agtWith .data (cmdPay 3) agt0) 0 && agtCanTake (agtWith .data (cmdPay 3) agt0) 0 3,
      agtCanTake (agtWith .data (cmdPay 4) agt0) 0 4 && agtResting agt0,
      agtCanTake (agtWith .data (cmdPay 4) { agt0 with st := .run }) 0 4 && !agtResting { agt0 with st := .run },
      agtCanTake (agtWith .data (cmdPay 6) agt0) 0 6, handQuiet (agtWith .data 0 { agt0 with hand := true }) 0, !handDue base 0,
      handDue (withOut (agtWith .data 0 { agt0 with handTok := true }) 9 (agtEp 0 4)) 0,
      handIn (setInPort (agtWith .data 0 { agt0 with st := .wait }) (agtEp 0 5) { inPort0 with queue := [(0, ⟨.data, 0, 0⟩)] }) 0,
      agtCanTake (agtWith .data (cmdPay 7) agt0) 0 7, agtCanTake (agtWith .data (cmdPay 8) agt0) 0 8, agtCanTake (agtWith .cfg 0 agt0) 0 9,
      agtCanTake (agtWith .null 0 agt0) 0 10, agtCanTake (agtWith .err 0 agt0) 0 11, agtCanTake (agtWith .data (cmdPay 15) agt0) 0 12].all
        id) = true := by decide +kernel

/-- A walking AGT 0. -/
def walking (a : Agt) : State := agtWith .data 0 { a with st := .run }
/-- A walk of page 0 that ends now. -/
def walk0 : Walk := { id := 7, die := 0, part := 0, vp := 0, who := [(.pe 0, false)], due := 0 }
/-- Page tables at addresses 0 and 4096 with one entry each, the second a page of 1 GiB. -/
def pageState (s : State) (e : Nat) : State := physSet (physSet s 0 e 8) 4096 9 8
/-- A command of a channel. -/
def bteCmd : BteCmd :=
  { seq := 1, src := 0, dst := 0, len := 64, mcast := 0, fon := .none, strict := some (0, 0, 0, 0), promise := 0, chain := true,
    pre := (0, 0, 0), after := 0, bank := 0 }
/-- A copy that has written every byte. -/
def bteRun (fon : Fon) : BteRun :=
  { cmd := { bteCmd with fon := fon }, units := 1, next := 1, hold := false, live := [], smap := [], dmap := [], status := 0, bytes := 64,
    addr := 0, target := 0, detail := 0, handed := [], fonLeft := [], fonSt := [] }

theorem test_walkAndCopySteps :
    ([agtElemDue (walking agt0) 0 && (agtRace (walking agt0) 0).isNone,
      agtElemDue { walking agt0 with accs := [{ acc0 with agent := .walk 0, race := some 0 }] } 0,
      (agtRace { walking agt0 with accs := [{ acc0 with agent := .walk 0, race := some 0 }] } 0).isSome,
      rgnMoves base (agtOf (walking agt0) 0).rgn && agtPasses agt0 && outWritable (withOut (walking agt0) 9 (agtEp 0 1)) (agtEp 0 1),
      outWritable (withOut (walking agt0) 9 (agtEp 0 3)) (agtEp 0 3),
      agtReportDue (walking { agt0 with ended := true, buf := [⟨0, 0, 0, 0⟩] }) 0, agtReportDue (walking { agt0 with ended := true }) 0,
      (walkServed (pageState base 4097) 0 0 false).1 == .ok 0 false, (walkServed (pageState base 0) 0 0 false).1 == .fail 130 0 4 0,
      (({ base with walks := [walk0] } : State).walks.find? fun w => w.id == 7).any fun w => decide (w.due ≤ base.cyc),
      (agtOf (setAgt base 0 { agt0 with xl := some (0, none) }) 0).xl == some (0, none),
      beginDue (setBte base 0 0 { bteCh0 with q := [bteCmd] }) 0 0, chainDue (setBte base 0 0 { bteCh0 with w0 := 2 ^ 62, tail := 1 }) 0 0,
      fonDue (setBte base 0 0 { bteCh0 with run := some { bteRun (.lmAt 0) with cmd := { bteCmd with fon := .lmAt 0, dst := BitVec.ofNat 64 (14 * 2 ^ 60) } } }) 0 0 == [0],
      (reportNext (setBte base 0 0 { bteCh0 with run := some (bteRun .none) }) 0 0).isSome, missDue 1 bteCmd].all id) = true := by
  decide +kernel

/-! ### Units, power, the debug port: every clause is met -/

/-- The region of the tests, changed. -/
def withRgn (f : Region → Region) : State := modRgn base fetchRgn f
/-- The part in reset, with steps of its boot behind it. -/
def resetState (n : Nat) : State := modHost base fun h => { h with booted := false, failed := false, boot := n }
/-- A later cycle. -/
def atCyc (s : State) (c : Nat) : State := { s with cyc := c }

theorem test_unitSteps :
    ([(atCyc base 1050).cyc % 1050 == 0 && !dieFenced base 3,
      (partOf (modPart base 0 fun p => { p with pathAt := some (5, 0) }) 0).pathAt.isSome && (rgnOf base 5).isNone && (rgnOf base fetchRgn).isSome,
      decide (256 ≤ { tileOf base 0 with idle := 256 }.idle), !(mtileOf base 0).gated, refreshDue (atCyc base 10500) 7,
      lanesDue (atCyc base 105000) 17, !isFenced base (.link 3), isFenced (modHost base fun h => { h with fenced := [.link 3] }) (.link 3),
      wqDue (modHost (modPart base 0 fun p => { p with desc := descOf [(800, 4)] }) fun h => { h with wq := [(0, (1, 1, 0, 0x8000))] }) 0,
      linkLive base 0 && decide ((linkOf base 0).retries < 17), linkLive (setLink base 0 { linkOf base 0 with retries := 17 }) 0,
      !ringFull base 1 0 0, base.host.booted, !(resetState 0).host.booted && !(resetState 0).host.failed && (resetState 0).host.boot == 0,
      (resetState 1).host.boot == 1, (resetState 2).host.boot == 2].all id) = true := by decide +kernel

/-- Whether the image is taken is no value that the model gives; a boot meets one of the two premises. -/
theorem test_boot : imageTaken = true ∨ imageTaken = false := by cases imageTaken <;> simp

/-- An engine that waits for a record of its own, and another. -/
theorem test_engineWaits :
    (let s := modPart base 0 fun p => { p with heldFault := [(.walk 3, 0)] }
     engineWaits s (.agtElement 3) && !engineWaits s (.agtElement 4) && !engineWaits base (.agtElement 3)) = true := by decide +kernel

/-- A debug command's word from its fields: byte, bytes, value. -/
def command (op : Nat) (l : List (Nat × Nat × Nat)) : BitVec 512 := recOf ((0, 2, op) :: l)
/-- The port with a command under way. -/
def dbgAsks (s : State) (c : BitVec 512) : State := modHost s fun h => { h with dbgGo := true, dbgDone := false, dbgHold := none, dbgCmd := c }
/-- A frozen region. -/
def frozen : State := withRgn fun r => { r with st := .frozen, stopAt := some 0 }

theorem test_debugCommands :
    ([dbgOpen (dbgAsks base (command 1 [])) (command 1 []), (rgnOf base (dbgKey (command 1 [(4, 4, 9)]))).isNone,
      (rgnOf base (dbgKey (command 1 []))).any fun r => r.st == .live && r.drain.isNone,
      (rgnOf frozen (dbgKey (command 1 []))).any fun r => r.st != .live,
      (rgnOf frozen (dbgKey (command 9 []))).any fun r => r.st == .frozen && r.drain.isNone && clockRoom (partOf frozen r.part) 0,
      recordsWritten frozen (dbgKey (command 9 [])) && rgnRecovers frozen (dbgKey (command 9 [])), (rgnTiles frozen fetchRgn).contains 0,
      !rgnRecovers (modTile frozen 0 fun t => { t with traps := [{ trapOf base base.cur 2 0 with written := true }] }) fetchRgn,
      (rgnOf (withRgn fun r => { r with st := .shadow }) (dbgKey (command 1 []))).any fun r => r.st != .live && r.st != .frozen,
      decide (1 ≤ dbgFld (command 2 [(8, 8, 2 ^ 32)]) 8 8) && decide (dbgFld (command 2 [(8, 8, 2 ^ 32)]) 8 8 ≤ 2 ^ 32),
      dbgFld (command 2 []) 8 8 == 0, decide (dbgFld (command 4 [(8, 1, 3)]) 8 1 ≤ 3), !dbgTileBad (command 3 [(16, 2, 1)]),
      partTile (partOf base 0) (epTile (dbgFld (command 3 []) 12 4)), dbgRegBad (command 5 [(8, 1, 4)]), !dbgRegBad (command 5 [(9, 1, 20)]),
      (tileOf frozen 0).rgn == some (dbgKey (command 5 [])), (rgnOf frozen fetchRgn).any fun r => !atLull frozen fetchRgn r || r.chans.isEmpty,
      (dbgPut frozen bank0 16 (command 6 [(9, 1, 16)])).isSome, (dbgPut frozen bank0 20 (command 6 [])).isNone,
      decide (6 < dbgFld (command 7 [(8, 1, 7)]) 8 1), decide (5 < dbgFld (command 8 [(8, 1, 6)]) 8 1),
      (match dbgPieces (pageState base 4097) 0 (BitVec.ofNat 64 120) false 3 0 (2 ^ 6) with | (_, .ok l) => l.length == 2 | _ => false),
      (match dbgPieces base 0 20480 false 3 0 1 with | (_, .error e) => e == 0x134 | _ => false),
      (match dbgPieces base 0 0 true 3 0 (2 ^ 5) with | (_, .ok l) => l.length == 1 | _ => false)].all id) = true := by
  decide +kernel

/-! ### Tokens, switch elements, traps, the matrix unit, memory: every clause is met -/

/-- A consumer at input port 5 of tile 0. -/
def cons0 : Cons := { ep := tileEp 0 5, pf := 1, attached := true, pend := 1, reqs := [], toks := [], stall := 0, lag := false }
/-- Channel 7 with two consumers, the second at a port of tile 1. -/
def chanWith (f : Chan → Chan) (x : Cons) : Chan := f { fetchChan 0 with w := 1, cons := [x, { cons0 with ep := tileEp 1 0 }] }
/-- The part with channel 7 and an empty port 5. -/
def chanState (c : Chan) : State := setChan (setInPort base (tileEp 0 5) { inPort0 with chan := some 7 }) 7 c
/-- A head at a port. -/
def headOf (s : State) (ep : Nat) (k : Kind) (pay : Nat) : State := setInPort s ep { inPort0 with queue := [(0, ⟨k, 0, BitVec.ofNat 512 pay⟩)] }
/-- A token of data 0. -/
def tok0 : Token := ⟨.data, 0, 0⟩
/-- The tile's trap. -/
def trap0 : Trap := trapOf base base.cur 1 0
/-- The switch element of tile 0, gathering or scattering over two value ports. -/
def switchState (scatter : Bool) : State :=
  let s := modTile base 0 fun t => { t with sw := BitVec.ofNat 64 (2 ^ 63 + scatter.toNat * 2 ^ 61 + 2 ^ 58) }
  (List.range 10).foldl (fun s p => withOut (headOf s (swEp 0 p) .data 1) (20 + p) (swEp 0 p)) s

theorem test_tokenSteps :
    (let st := fun (f : Chan → Chan) (x : Cons) => chanState (chanWith f x)
     [(tokDue (st id { cons0 with toks := [(0, tok0)] }) (chanWith id cons0) { cons0 with toks := [(0, tok0)] }).isSome,
      portAsks (st id cons0) (chanWith id cons0) cons0, reqDue base { cons0 with reqs := [0] },
      detachDue (chanWith (fun c => { c with detach := true }) { cons0 with stall := 1 }) 0, chanHere (st id cons0) (chanWith id cons0),
      detachDue (chanWith (fun c => { c with detach := true, steer := [(tileEp 0 0, [])] }) { cons0 with stall := 1, copy := some (tileEp 0 0) }) 0,
      detachedDue (setInPort (st id cons0) (tileEp 0 5) { inPort0 with errs := [tok0] }) (chanWith id cons0) cons0,
      lagDue (chanWith id { cons0 with stall := 1 }) 0, lagEnds (chanWith id { cons0 with lag := true }) 0,
      (gatherNext (switchState false) 0).isSome, (scatterNext (switchState true) 0).isSome,
      (trapDue (modTile base 0 fun t => { t with traps := [trap0] }) 0).isSome,
      (rgnOf (withRgn fun r => { r with stopAt := some 0 }) fetchRgn).any fun r => stopDue (withRgn fun r => { r with stopAt := some 0 }) fetchRgn
        r && r.st == .live, !(rgnTiles base fetchRgn).contains 1].all id) = true := by decide +kernel

/-- An entry of the matrix queue, and a follow-on. -/
def cmd0 (fon : Option (BitVec 256 × Nat × Nat × Nat)) : MatCmd :=
  { op := if fon.isSome then 0 else 0x250, spec := 0, row := 0, two := false, a := 0, b := 0, ftzi := false, ftzo := false, skip := none,
    job := 0, bank := 0, fon := fon }
/-- The job of a firing. -/
def job0 : Job :=
  { id := 0, bank := 0, slot := 0, ctx := 0, wait := .none, due := 0, da := .k 0, db := .none, r1 := (.data, 5), r2 := (.data, 5),
    raise := 0x3F, pred := none, unit := (info (.nop 0)).unit, mem := false, acq := false }
/-- A load of a PE, not yet performed. -/
def load0 : Acc :=
  { acc0 with id := 4, agent := .bank 0 0, op := .read, loc := .phys 64, size := 8, toward := .job 0 0, ok := true }
/-- A token FIFO. -/
def fifo0 : MTile := { mtileOf base 0 with rgn := some fetchRgn, role := BitVec.ofNat 64 (2 ^ 63 + 2 ^ 61), fifo := [tok0] }
/-- A packet. -/
def packet0 : Packet := { label := 3, two := false, w0 := 0, w1 := 0, acq := none, slot := none }

theorem test_matrixAndMemorySteps :
    (let adv := { load0 with op := .ringAdv true 1, ring := some (0, 0, 0), toward := .none }
     let one := fun a : Acc => { base with accs := [a] }
     [canStart 0 [] (cmd0 none), (matDue (atCyc base 9) { tileOf base 0 with runs := [⟨cmd0 (some (0, 0, 0, 1)), 0, 1, true⟩] }).any fun r =>
        r.cmd.fon.isSome && r.bad,
      (fonEffect { tileOf base 0 with bad := [0] } 0 false false).2.2.1 == 0xA06, (fonEffect (tileOf base 0) 0 false false).2.2.1 != 0xA06,
      (matDue (atCyc base 9) { tileOf base 0 with runs := [⟨cmd0 (some (0, 0, 0, 1)), 0, 1, false⟩] }).any fun r => r.cmd.fon.isSome && !r.bad,
      (matDue (atCyc base 9) { tileOf base 0 with runs := [⟨cmd0 none, 0, 1, false⟩] }).any fun r => r.cmd.fon.isNone,
      ([job0].find? fun j : Job => j.id == (cmd0 none).job).isSome,
      fetchDue (atCyc base 1) { tileOf base 0 with rd := { stream0 with st := .run } },
      (nextLabel { tileOf base 0 with tbuf := [packet0], bind := [(3, ⟨0, 0⟩)], slots := [(0, ⟨BitVec.ofNat 32 (1 + 6 * 2 ^ 18), 0, 0⟩)] }) == some 3,
      (takeFirst (fun p => p.label == 3) [packet0]).isSome, packetDue { base with packets := [⟨0, 0, 0, 0, packet0⟩] } ⟨0, 0, 0, 0, packet0⟩,
      accReady (one load0) load0, returns (one { load0 with done := true }) { load0 with done := true }, advanceDue (one adv) adv,
      advanceBack (one { adv with done := true }) { adv with done := true },
      (mtHead { setMTile base 0 { mtileOf base 0 with pq := [(1, [4])] } with accs := [{ load0 with loc := .mtile 0 0 }] } 0 1).isSome,
      fifoTakes (headOf (setMTile base 0 { fifo0 with fifo := [] }) (mtEp 0 0) .data 0) 0 0,
      fifoTakes (headOf (setMTile base 0 { fifo0 with fifo := [] }) (mtEp 0 3) .data 0) 0 3, !gwWaits (setMTile base 0 fifo0) 0,
      (let s := setMTile base 0 { fifo0 with fifo := [], role := BitVec.ofNat 64 (2 ^ 63 + 2 ^ 61 + 2 ^ 59) }
       let t := { headOf s (mtEp 0 0) .data 0 with accs := [{ load0 with loc := .mtile 1 0, holder := fetchRegion.holder }], nid := 5 }
       fifoTakes t 0 0 && gwWaits t 0),
      (partOf (modPart base 0 fun p => { p with raceNext := some (1, 0) }) 0).raceNext == some (1, 0),
      fifoGives (withOut (setMTile base 0 fifo0) 30 (mtEp 0 1)) 0 1, (fifoHead fifo0).isSome,
      !(sweepTargets { partOf base 0 with holders := [(0, { v := [(0, 2 ^ 18 + 1)], pg := Vector.replicate 4 0 })] }).isEmpty,
      (partOf base 0).sweep.isNone, (partOf (modPart base 0 fun p => { p with raceMode := 1 }) 0).raceMode == 1,
      (partOf (modPart base 0 fun p => { p with sweep := some ([], [0]) }) 0).sweep == some ([], [0])].all id) = true := by
  decide +kernel

/-! ### Launches, futures, groups, expert tables: every clause is met -/

/-- An operation on future 0 of die 0. -/
def futOp0 (op : Nat) : FutOp :=
  { id := 3, op := op, fut := 0, arg := 0, tile := 0, job := 0, bank := 0, part := 0, due := 0, after := 0, who := (0, 0, 0), src := none,
    done := false, val := 0, flag := false, trap := 0, back := 0 }
/-- The part with the operation under way, on a future that is PENDING. -/
def futState (o : FutOp) : State :=
  modDie { base with futOps := [o] } 0 fun d => { d with futs := [(0, { fut0 with st := 0, cnt := 1 })] }
/-- An arrival of context 0 of tile 0 at group 0. -/
def arrival0 : Arrival :=
  { id := 1, op := 0, spec := 0, grp := 0, buf := 0, hasBuf := false, tile := 0, bank := 0, job := 0, part := 0, holder := 0, rgn := 0,
    due := 0, after := 0 }
/-- A group with one member, whose instance has its arrival. -/
def group0 : Grp := { grp0 with live := true, members := [0], insts := [⟨1, [0], [arrival0]⟩] }
/-- A task. -/
def task0 : Task := { seq := 5, num := 0, blk := 0, first := 0, count := 4, trl := none, bypass := 0 }
/-- A launch of configuration 0 over 4 indices in blocks of one, with further fields of its descriptor. -/
def launch0 (l : List (Nat × Nat × Nat)) : Launch :=
  { seq := 5, part := 0, desc := recOf ((16, 8, 4) :: (24, 8, 1) :: l), holder := 0, agent := .host 0, checked := false, bad := false, whole := false,
    blocks := 4, out := 0, outs := [], dies := [0], recs := [], ready := [], bound := [], reported := [], lost := [], last := 0, given := [],
    redo := [], gone := [], flags := 0, stuck := false }
/-- The part with the launch, its region changed. -/
def launched (l : Launch) (f : Region → Region) : State := modPart (withRgn f) 0 fun p => { p with devq := [l] }
/-- The region bound to the launch. -/
def bound (f : Option Feed) (r : Region) : Region := { r with launch := some (5, 0, 4, 0), feed := f, idx := some 0, arg := some 1 }
/-- What the index source port has to deliver. -/
def feed0 : Feed := { seq := 5, lead := true, next := 0, total := 4, task := task0, marked := false }
/-- The argument channel of the region's copy. -/
def sourceChan (s : State) (k prod : Nat) : State := setChan s k { fetchChan 0 with prod := prod }

theorem test_groupSteps :
    (let grp := fun (g : Grp) => modDie base 0 fun d => { d with grps := [(0, g)] }
     let arr := { grp { group0 with insts := [] } with arrivals := [arrival0] }
     [futDue (futState (futOp0 2)) (futOp0 2) && (futPerform (futState (futOp0 2)) (futOp0 2)).trap == 0,
      futDue (futState (futOp0 4)) (futOp0 4), futDue base (futOp0 2) && (futPerform base (futOp0 2)).trap != 0,
      (jobOf { tileOf base 0 with jobs := [job0] } 0).isSome, (jobOf (tileOf base 0) 0).isNone, collReady base ⟨1, [0], [arrival0]⟩,
      (grpAt (grp group0) 0 0).insts == group0.insts, (grpLive base 0 0).isNone, (grpLive (grp group0) 0 0).any fun g => g.2.2 == group0,
      rankOf 0 group0.members == some 0, rankOf 4 group0.members == none, (grpPick base 0 0).isNone, !dieFenced base 0,
      (grpPick (modPart base 0 fun p => { p with desc := descOf [(1520, 1)] }) 0 0) == some 0,
      !dispEarlier arr 1 0 0 0, (arr.arrivals.find? fun a => a.id == 1) == some arrival0,
      [(⟨1, [0], []⟩ : Inst)].any fun i => i.snap.contains 0 && !entered i 0].all id) = true := by decide +kernel

/-- A group of 65536 members, the most there can be. -/
theorem test_groupFull (n : Nat) : rankOf 0 (List.replicate n 4) = none ∧ (List.replicate n 4).length = n := by
  refine ⟨?_, List.length_replicate ..⟩
  induction n with
  | zero => rfl
  | succ n ih => simp [List.replicate_succ, rankOf, ih]

theorem test_launchSteps :
    (let acc : Acc := { acc0 with id := 4, agent := .bank 0 0, toward := .launch 0, done := true, ok := true }
     let rec_ := fun x : Nat => physSet base 0 x 16
     let got := fun x : Nat => (recordRead (rec_ x) (launch0 [(4, 1, 4)]) 0 0).2
     [(feedNext base (bound (some feed0) fetchRegion)).any fun x => x.1 == some 0 && x.2.1 == indexProd,
      sourcesOpen base fetchRgn fetchRegion indexProd, sourceReady (sourceChan base 0 indexProd) (some 0) indexProd,
      (rgnOf (withRgn (bound none)) fetchRgn).any fun r => completes (modTile (withRgn (bound none)) 0 fun t => { t with traps := [] }) fetchRgn r,
      (launchOf (launched (launch0 []) (bound none)) 0 5).isSome, (descParts { base with accs := [acc] } acc).all (partBack base),
      !dispEarlier { base with accs := [acc] } acc.id 0 0 (tileDie 0), launchRoom (partOf base 0) == some true, queueUsed (partOf base 0) == 0,
      (jobOf { tileOf base 0 with jobs := [job0] } 0).isSome, (jobOf (tileOf base 0) 0).isNone, clockRooms (partOf base 0) 0 1,
      (match distNext (launched (launch0 []) id) 0 with | some (.inl _) => true | _ => false),
      (launchCheck base 0 (launch0 []).desc).isNone, launchCheck base 0 (launch0 [(0, 4, 9)]).desc == some 1,
      (match distNext (launched { launch0 [] with checked := true } id) 0 with | some (.inr _) => true | _ => false),
      (recordRead base (launch0 [(8, 8, 2 ^ 48)]) 0 0).2.isNone, got 7 == some 7,
      got (2 ^ 64 + 65535) == some (2 ^ 64 + 65535), got (2 ^ 64 + 65536) == some (2 ^ 64 + 65536),
      (bindNext (launched { launch0 [] with checked := true, ready := [(0, task0)] } fun r => { r with reusable := true }) 0 0).any fun x =>
        x.2.1.reusable,
      (bindNext (launched { launch0 [] with checked := true, ready := [(0, task0)] } (bound (some { feed0 with lead := false, next := 4 }))) 0
        0).any fun x => !x.2.1.reusable,
      launchDone base { launch0 [] with checked := true, out := 4, outs := [(0, 4)] }].all id) = true := by decide +kernel

/-- A table of one expert and no bytes, changed. -/
def xtab0 (op : Nat) : XTab :=
  { part := 0, tab := 0, va := 0, hdr := [(1, 1)], recs := [], ver := 0, counts := [], got := 0, lastCounts := [], interval := 0, nextEnd := 0, inf := [],
    step := 0, merged := 0, steps := [(1, 0, 0)], adopting := [], regOf := none, pubs := none, target := some (0, 1, 0), copied := 0, op := op,
    fail := none }
/-- The part with the table. -/
def tabState (x : XTab) : State := { base with xtabs := [x] }

/-- The part with race checking, in which holder `w` has written the line at an address. -/
def racing (s : State) (x w : Nat) : State :=
  metaSet (modPart (physSet (pageState s 4097) 4096 13 8) 0 fun p => { p with desc := descOf [(864, 1)], raceMode := 1 }) 0 (lmWord w 5 0 0 0 0) (.phys x)
/-- A table of one expert with its header and its slot at hand. -/
def merging : XTab :=
  { xtab0 3 with hdr := [(1, 1), (5, BitVec.ofNat 64 (64 * 2 ^ 32 + 64))], recs := [(1, BitVec.ofNat 64 (2 ^ 40)), (9, BitVec.ofNat 64 (2 ^ 62))] }

theorem test_expertSteps :
    (let x := xtab0 3
     let s := tabState x
     [sendDue base 3, (tabAt (tabState (xtab0 1)) 0).isSome && (copyOver s (xtab0 1)).isSome,
      (putSlot (tabState (xtab0 1)) (xtab0 1) 0 0 0).2 != .raced,
      (rollNow { xtab0 1 with fail := some (2, 0) }).isSome, (adoptDue (tabState { x with adopting := [(3, 0)] }) 0 3 false).isSome,
      (adoptDue (tabState { x with adopting := [(3, 0)], regOf := some (0, 1) }) 0 3 true).isSome,
      (redirAll (modTile (modDie base 0 fun d => { d with tabs := [⟨0, 0, 1, 1, [(1, BitVec.ofNat 64 (3 * 2 ^ 62 + 3 * 2 ^ 32))]⟩] }) 0 fun t =>
        { t with present := some packet0 }) 0).length == 1, (mergeDue s 0).isSome, (mergeAll s x).2.isNone,
      (freeRetired (mergeAll s x).1 0 x).2.isNone, (mergedPut (freeRetired (mergeAll s x).1 0 x).1 0 1).2.isNone,
      (mergeAll s merging).2.isSome].all id) = true := by decide +kernel

/-- A holder other than the engine's, whoever the engine is. -/
def otherHolder : Nat := if (placeAcc 0).holder = 9 then 10 else 9
theorem otherHolder_cases : otherHolder = 9 ∨ otherHolder = 10 := by unfold otherHolder; split <;> simp
/-- A write of the engine to a line that the other holder has written is stopped by the race. -/
theorem racing_put (x va n sz kind : Nat) (rel : Bool) (h : x = 512 ∧ va = 576 ∧ sz = 8 ∨ x = 0 ∧ va = 48 ∧ sz = 8 ∨ x = 512 ∧ va = 512 ∧ sz = 128)
    (op : Nat) (hop : op = 1 ∨ op = 3) : (placePut (racing (tabState (xtab0 op)) x otherHolder) 0 va n sz kind rel).2 = .raced := by
  have ho : otherHolder ≠ (placeAcc 0).holder ∧ (otherHolder = 9 ∨ otherHolder = 10) := by unfold otherHolder; split <;> omega
  generalize otherHolder = w at ho
  obtain ⟨hw, hv⟩ := ho
  have h1 : (xlateNow (racing (tabState (xtab0 op)) x w) 0 0 (va / 4096) true).2 = .ok 0 true := by
    rcases h with ⟨rfl, rfl, rfl⟩ | ⟨rfl, rfl, rfl⟩ | ⟨rfl, rfl, rfl⟩ <;> rcases hv with rfl | rfl <;> rcases hop with rfl | rfl <;> decide +kernel
  have hg : metaGet (xlateNow (racing (tabState (xtab0 op)) x w) 0 0 (va / 4096) true).1 0 (.phys va) = some (lmWord w 5 0 0 0 0) ∧
      lmWid (lmWord w 5 0 0 0 0) = w ∧ lmWclk (lmWord w 5 0 0 0 0) = 5 ∧ va / 4096 = (va + sz - 1) / 4096 ∧ va % 4096 = va ∧ va % 128 + sz ≤ 128 ∧
      va + sz ≤ 4096 ∧ 8 ≤ sz := by
    rcases h with ⟨rfl, rfl, rfl⟩ | ⟨rfl, rfl, rfl⟩ | ⟨rfl, rfl, rfl⟩ <;> rcases hv with rfl | rfl <;> rcases hop with rfl | rfl <;> decide +kernel
  have hp : (partOf (xlateNow (racing (tabState (xtab0 op)) x w) 0 0 (va / 4096) true).1 0).raceMode = 1 ∧
      (partOf (xlateNow (racing (tabState (xtab0 op)) x w) 0 0 (va / 4096) true).1 0).holders = [] ∧
      (partOf (xlateNow (racing (tabState (xtab0 op)) x w) 0 0 (va / 4096) true).1 0).floor = [] := by
    rcases h with ⟨rfl, rfl, rfl⟩ | ⟨rfl, rfl, rfl⟩ | ⟨rfl, rfl, rfl⟩ <;> rcases hv with rfl | rfl <;> rcases hop with rfl | rfl <;> decide +kernel
  generalize hx : xlateNow (racing (tabState (xtab0 op)) x w) 0 0 (va / 4096) true = y at h1 hg hp
  obtain ⟨s1, v⟩ := y
  obtain ⟨hg, hi, hk, hsame, hmod, h128, hpg, hsz⟩ := hg
  simp only at h1 hp
  subst h1
  have hcov : ∀ a : Nat, w ≠ a → covers (partOf s1 0) a w 5 = false := by
    intro a ha
    simp [covers, holderV, floorOf, hp, mapFind, mapGet, ha]; decide
  unfold placePut engineWrite
  simp only [show (placeAcc 0).part = 0 from rfl, if_pos hsame]
  have hone : ∀ a : Acc, a.part = 0 → a.agent = .place → a.ring = none → a.acq = none → a.holder = (placeAcc 0).holder →
      (enginePieces s1 a va n (sz + 1) sz).2 = false := by
    intro a ha hb hc hd he
    obtain ⟨m, rfl⟩ : ∃ m, sz = m + 1 := ⟨sz - 1, by omega⟩
    unfold enginePieces
    simp only [Bool.and_eq_false_iff]
    right
    apply raced_access (m := lmWord w 5 0 0 0 0) <;> simp_all
  have hmin : min sz (4096 - va) = sz := by omega
  simp only [hx, hmod, Nat.zero_mul, Nat.zero_add, hmin]
  rw [hone] <;> rfl

/-- A race stops the record that a host's publish writes. -/
theorem test_racedPublish : (publishRecs (racing (tabState (xtab0 1)) 512 otherHolder) (xtab0 1) [0]).2 = false := by
  have h := racing_put 512 512 (recNum (xtab0 1) 0) 128 4 false (.inr (.inr ⟨rfl, rfl, rfl⟩)) 1 (.inl rfl)
  simp only [publishRecs, List.foldl_cons, List.foldl_nil, if_true]
  rw [show (xtab0 1).part = 0 from rfl, show (xtab0 1).va + 512 + 128 * 0 = 512 from rfl, h]
  rfl
/-- A race stops each kind of write that a merge or a replication makes. -/
theorem test_racedWrites :
    (putSlot (racing (tabState (xtab0 1)) 512 otherHolder) (xtab0 1) 0 0 0).2 = .raced ∧
    (mergedPut (racing (tabState (xtab0 3)) 0 otherHolder) 0 1).2.isSome = true ∧
    (freeRetired (racing (tabState (xtab0 3)) 512 otherHolder) 0 { xtab0 3 with recs := [(8, BitVec.ofNat 64 (3 * 2 ^ 62))] }).2.isSome
      = true := by
  have t : ∀ x, x = 512 ∨ x = 0 → tabAt (racing (tabState (xtab0 3)) x otherHolder) 0 = some (xtab0 3) := by
    intro x hx
    rcases otherHolder_cases with h | h <;> rw [h] <;> rcases hx with rfl | rfl <;> decide +kernel
  have e1 : slotVa (xtab0 1) 0 0 = 576 ∧ slotVa (xtab0 3) 0 0 = 576 ∧ (xtab0 1).part = 0 ∧ (xtab0 3).part = 0 ∧
      (xtab0 3).va + 8 * 6 = 48 ∧ (0 : W64).toNat = 0 ∧ (BitVec.ofNat 64 1).toNat = 1 := ⟨rfl, rfl, rfl, rfl, rfl, rfl, rfl⟩
  refine ⟨?_, mergedPut_raced (t 0 (.inr rfl)) ?_, freeRetired_raced (t 512 (.inl rfl)) ?_ rfl rfl rfl⟩
  · rw [putSlot_end, e1.1, e1.2.2.1]; exact racing_put 512 576 _ _ _ _ (.inl ⟨rfl, rfl, rfl⟩) 1 (.inl rfl)
  · exact racing_put 0 48 _ _ _ _ (.inr (.inl ⟨rfl, rfl, rfl⟩)) 3 (.inr rfl)
  · rw [putSlot_end, e1.2.1, e1.2.2.2.1]; exact racing_put 512 576 _ _ _ _ (.inl ⟨rfl, rfl, rfl⟩) 3 (.inr rfl)

/-! ### Draining and the live rewire: every clause is met -/

/-- A fold of the operator of tile 0 onto tile 1. -/
def fold0 : FoldEnt := { src := tileEp 0 0, dst := tileEp 1 0, bank := 0, ctx := 1, slots := [], remap := [] }
/-- An image with an operator on tile 0, its input channel and its fold. -/
def image0 : Image :=
  { fetchImage with
      pes := [⟨tileEp 0 0, 0, [(0, { slot0 with trig := fetchTrig })]⟩], chs := [⟨0, [BitVec.ofNat 64 (tileEp 0 0)], []⟩], folds := [fold0] }
/-- The region with that image and the channels 9 and 10, changed; the operator's port is empty. -/
def opState (c9 : Chan) (f : Region → Region) : State :=
  let s := modRgn base fetchRgn fun r => f { r with img := image0, chans := [9, 10] }
  setChan (setChan (setInPort s (tileEp 0 0) inPort0) 9 c9) 10 { fetchChan 0 with prod := argProd }
/-- Channel 9, from the index source port. -/
def chan9 : Chan := { fetchChan 0 with prod := indexProd }
/-- A drain. -/
def drain0 (kind : Nat) : Drain :=
  { kind := kind, start := 0, k := 0, area := 0, keep := false, cause := 0, value := 0, elem := 0, part := 0, tag := 0, resp := true,
    left := [(indexProd, 0)], gone := [] }
/-- A plan for the operator. -/
def plan0 (action cut : Nat) : Plan := { baroPlan action (tileEp 0 0) 0 with cut := some cut }
/-- A rewire of the operator under way. -/
def rewire0 (action step : Nat) : Rewire := ⟨baroPlan action (tileEp 0 0) 0, step, 9, 0, 0, [], [], []⟩
/-- Two copies of the operator. -/
def clone0 (chunks : List Chunk) (outs : SMap (List (Nat × Nat × Token))) : Clone :=
  { op := tileEp 0 0, copies := [0, 1], inch := 9, outch := 10, inPort := 0, outPort := 0, size := 4, cls := .stateless, mergeBank := 0,
    mode := 0, regs := [], skip := 0, next := 1, hpos := 0, hrank := 0, run := 0, fresh := [], chunks := chunks, carry := 0, last := none, outs := outs, at_ := [],
    given := [], calm := 0 }
/-- The region with the rewire under way and further changes. -/
def rewiring (action step : Nat) (f : Region → Region) : State := opState chan9 fun r => f { r with rewire := some (rewire0 action step) }
/-- A test of the region. -/
def rgnIs (s : State) (p : Region → Bool) : Bool := (rgnOf s fetchRgn).any p

theorem test_drainSteps :
    (let draining := fun (k : Nat) (f : Region → Region) => opState chan9 fun r => f { r with drain := some (drain0 k) }
     let src := fun e : Nat => (fetchRgn + 1) * 2 ^ 20 + e
     let off := fun s : State => modTile s 0 fun t => { t with slots := [] }
     let late := fun (k : Nat) => atCyc (withRgn fun r => { r with drain := some (drain0 k) }) (65536 * 64)
     [(drainNow (draining 0 fun r => { r with idx := some 9 }) (src indexProd)).isSome, isSource (src indexProd % 2 ^ 20),
      (drainNow (draining 0 id) (src argProd)).any fun x => x.2.1.arg.isNone,
      (drainNow (off (setChan (draining 0 id) 10 (fetchChan 0))) (tileEp 0 0)).isSome, !isSource (tileEp 0 0),
      (exchangeDue (atCyc (modPart base 0 fun p => { p with swap := some (0, 5) }) 64) 0).isSome,
      (saveDue (withRgn fun r => { r with drain := some (drain0 0) }) fetchRgn).isSome,
      ((rgnOf (rewiring 1 1 fun r => { r with stopAt := some 0 }) fetchRgn).bind (failNow base fetchRgn)).isSome,
      rgnIs (withRgn fun r => { r with drain := some (drain0 1) }) fun r =>
        (stopEnds (withRgn fun r => { r with drain := some (drain0 1) }) fetchRgn r).any fun x => x.2 == 0,
      rgnIs (withRgn fun r => { r with drain := some (drain0 1), st := .frozen }) fun r => (stopEnds base fetchRgn r).any fun x => x.2 != 0,
      rgnIs (late 1) fun r => (drainLate (late 1) r false).isSome, rgnIs (late 0) fun r => (drainLate (late 0) r true).isSome,
      (brkHit { fetchRegion with brks := [(0, ⟨0, 0, 0, 0, some 1⟩)] } 0).isSome].all id) = true := by decide +kernel

theorem test_rewireSteps :
    (let plans := fun (f : Chan → Chan) (p : Plan) => opState (f chan9) fun r => { r with plans := [p] }
     let folded := fun (r : Region) => { r with folds := [⟨0, 0, 0, [], stream0, stream0⟩] }
     let ready := fun (s : State) (p : Nat → Bool) => rgnIs s fun r => (rewireReady s fetchRgn r p).isSome
     let free := fun (f : Region → Region) => atCyc (opState chan9 fun r => f { r with policy := BitVec.ofNat 64 (2 ^ 40), winDue := true }) 4096
     let choice := fun (s : State) => (rgnOf s fetchRgn).bind fun r => chooseRewire s fetchRgn r
     [rgnIs (plans (fun c => { c with passed := 1 }) (plan0 1 0)) fun r => (planToArm r).any fun p =>
        decide (p.cut.getD 0 < opPassed (plans (fun c => { c with passed := 1 }) (plan0 1 0)) r p.op),
      rgnIs (plans id (plan0 1 0)) fun r => (planToArm r).any fun p => decide (opPassed (plans id (plan0 1 0)) r p.op ≤ p.cut.getD 0),
      rgnIs (plans id { plan0 1 0 with armed := true, held := true }) fun r => (gateNow (plans id (plan0 1 0)) fetchRgn r).any fun p =>
        ((opChan (plans id (plan0 1 0)) r p.op).bind (chanOf (plans id (plan0 1 0)))).isSome,
      rgnIs (plans id { plan0 1 0 with armed := true }) fun r => (planAtCut (plans id { plan0 1 0 with armed := true }) r).isSome,
      ready (rewiring 1 3 id) (· != 2), ready (rewiring 3 3 id) (· != 2), ready (rewiring 1 3 fun r => { r with clones := [clone0 [] []] }) (· != 2),
      mergeEmpty (rewiring 1 3 id) (clone0 [] []),
      rgnIs (rewiring 3 3 id) fun r => (foldIdx r (baroPlan 3 (tileEp 0 0) 0)).any fun k => (r.img.folds[k]?).isSome,
      ready (rewiring 4 3 folded) (· != 2), rgnIs (rewiring 4 3 folded) fun r => (foldOf r (tileEp 0 0)).isSome,
      ready (rewiring 2 3 fun r => { r with clones := [clone0 [] []] }) (· == 2),
      rgnIs (rewiring 2 3 fun r => { r with clones := [clone0 [] []] }) fun r => (opClone r (tileEp 0 0)).isSome,
      rgnIs (free id) fun r => windowDue (free id) r && r.rewire.isNone && r.plans.isEmpty && r.drain.isNone && r.stopAt.isNone,
      (choice (free id)).isSome, (choice base).isNone, rgnIs (free fun r => { r with st := .frozen }) (windowDue (free id)),
      (let c := { chan9 with d := 1, line := [0] }
       delayDue (opState c id) 9 c && (lineTok c).isSome),
      (let c := { chan9 with steer := [(tileEp 0 0, [tok0])] }
       (steerNext (opState c fun r => { r with clones := [clone0 [] []] }) c).isSome),
      (let c := { fetchChan 0 with merge := some (tileEp 0 0) }
       let with_ := fun t => opState c fun r => { r with clones :=
         [clone0 [⟨0, [(0, 0, true), (1, 0, true)], 1, true, true, false⟩] [(0, [(0, 0, t)]), (1, [(0, 0, ⟨.mark, 1, 0⟩)])]] }
       ((mergeNext (with_ ⟨.mark, 1, 0⟩) c).any fun x => x.2.1.isNone) && (mergeNext (with_ tok0) c).any fun x => x.2.1 == some tok0)].all
        id) = true := by decide +kernel

/-! ### Requests: every clause is met -/

/-- A request's entry: its fields (byte, bytes, value). -/
def ask (l : List (Nat × Nat × Nat)) : BitVec 512 := recOf l
/-- The request's response ring is free and it passes the checks of every request. -/
def heard (s : State) (e : BitVec 512) (l : List (Nat × Nat)) : Bool := !reqBusy s e && (reqBar s e (reqReserved e l)).isNone
/-- An error of a check, or none. -/
def errOf {α : Type} : Except Nat α → Option Nat
  | .ok _ => none
  | .error e => some e
/-- The test region, SAVED, and what its save holds. -/
def snap0 (f : Region → Region) : Snap :=
  { rgn := f { fetchRegion with st := .saved }, full := true, drained := false, keep := false, frozen := false, tiles := [], inPorts := [],
    outPorts := [], chans := [], mtiles := [], agts := [], btes := [], accs := [], body := [] }
/-- The part with the save. -/
def savedState (f : Region → Region) : State :=
  { withRgn (fun r => { r with st := .saved }) with saves := [(0, snap0 f)] }
/-- Two gateway FIFOs, the first changed. -/
def gateways (f : MTile → MTile) : State :=
  let g : MTile := { fifo0 with role := BitVec.ofNat 64 (2 ^ 63 + 2 ^ 61 + 2 ^ 59) }
  setMTile (setMTile base 0 (f g)) 1 g
/-- A link request between them. -/
def linkAsk : BitVec 512 := ask [(8, 4, mtEp 0 0), (12, 4, mtEp 1 0)]
/-- Memory with words of 8 bytes. -/
def withWords (s : State) (l : List (Nat × Nat)) : State := l.foldl (fun s x => physSet s x.1 x.2 8) s
/-- A table of one expert at address 8192. -/
def tableState : State := withWords (pageState base 4097) [(8200, 1), (8216, 1), (8232, 64 * 2 ^ 32 + 64), (8768, 2 ^ 62)]

theorem test_requestsAtOnce :
    (let part1 := [(2, 1, 1)]
     let agtAsk := ask [(8, 4, agtEp 0 0)]
     let errs := fun f : Region → Region => errSort (restoreErrs (savedState f) (snap0 f) 0 0)
     [heard base (ask part1) [(8, 8)], !(partRgns base 0).isEmpty, (partRgns base 1).isEmpty,
      descBad (BitVec.ofNat 2048 (physGet (physSet base 108 0x40 1) 0 256)), descPast (BitVec.ofNat 2048 (8193 * 2 ^ 800)),
      descsMeet 1 (partOf base 0).desc, !descBad 0 && !descPast 0 && !descsMeet 0 (partOf base 0).desc && descShort 0,
      (let d := (BitVec.ofNat 2048 (1 + 2 ^ 512 + 2 ^ 800 + 2 ^ 848))
       !descBad d && !descPast d && !descShort d),
      heard base (ask []) [(8, 4), (16, 8), (24, 2)], (errOf (reqRgn base (ask [(8, 4, 9)]) 8 (· == .saved))).isSome,
      (errOf (reqRgn (savedState id) (ask []) 8 (· == .saved))).isNone,
      (snapAt (savedState id) 0 fetchRegion.id 0).isSome, (snapAt base 0 fetchRegion.id 0).isNone,
      !(errOf (reqRgn base (ask []) 8 (· == .saved))).isNone, (errs fun r => { r with row0 := 64 }).isEmpty,
      !(errSort (restoreErrs (savedState id) (snap0 id) 1 0)).isEmpty, (errs id).isEmpty,
      heard base (ask []) [(8, 6)], (errOf (reqRgn base (ask []) 8 (· == .live))).isNone,
      rgnIs (withRgn fun r => { r with proposals := [plan0 1 0] }) fun r => (r.proposals.find? fun p => p.num == 0).isSome && r.rewire.isNone,
      planBad base (ask []) fetchRegion, rgnIs (opState chan9 id) fun r => !planBad (opState chan9 id) (ask [(8, 2, 2)]) r,
      (armPages base 0 0 0 1).2, !(armPages base 0 0 (2 ^ 36) 1).2, heard base agtAsk [(8, 4)],
      (agtOf (agtWith .data 0 { agt0 with st := .stalled }) 0).st == .stalled, partPchan (partOf base 0) (epAgt (agtEp 0 0)),
      heard base linkAsk [(8, 8), (16, 1)], (qlinkBad (gateways id) linkAsk).isNone, (qlinkBad base linkAsk).isSome,
      qlinkTaken (gateways fun m => { m with link := some 2 }) 0 1, !qlinkTaken (gateways id) 0 1,
      (tabAt (tabState (xtab0 0)) (xdKey (ask []))).isSome, (tabAt base (xdKey (ask []))).isNone,
      doorOf (modHost base fun h => { h with doors := [(reqRingNo, [4])], reqCI := 4 }) reqRingNo 3 == some 4, (doorOf base reqRingNo 3).isNone,
      heard base (ask []) [(16, 8), (24, 8)],
      decide (base.host.leaf < 2 ^ 20)].all id) = true := by decide +kernel

theorem test_requestsThatWait :
    (let ok := fun (s : State) (e : BitVec 512) (p : RgnSt → Bool) => (errOf (reqRgn s e 8 p)).isNone
     let list := physSet (pageState base 4097) 8192 (2 ^ 32 * (2 ^ 32 - 1)) 8
     let doing := fun (s : State) (e : BitVec 512) (l : List Nat) => modHost s fun h => { h with reqs := [⟨e, l⟩] }
     let host := { xtab0 0 with hdr := [(1, BitVec.ofNat 64 (2 ^ 32))] }
     [heard base (ask []) [(8, 4)], (reqTodo base (ask [])).isNone, !ok base (ask [(8, 4, 9)]) (fun _ => true), ok base (ask []) (· != .saved),
      (partOf (modPart base 0 fun p => { p with isArmed := true }) 0).isArmed, !(partOf base 0).isArmed,
      rgnIs (withRgn fun r => { r with st := .saved, image := some 0 }) fun r => r.st == .saved && r.image == some 0, ok frozen (ask []) stLiveFrozen,
      rgnIs base fun r => r.st == .live && r.stopAt.isNone, (errOf (shrinkSet list (ask [(16, 8, 8192)]) fetchRgn)) == none,
      rgnIs base fun r => shrinkCovers base r [0], !shrinkCovers base { fetchRegion with img := { image0 with folds := [] } } [0],
      areaPinned { partOf base 0 with armed := some (0, 1) } 4095, !areaPinned (partOf base 0) 0, (qlinkBad (gateways id) linkAsk).isNone,
      (mtileOf (gateways fun m => { m with link := some 1 }) 0).link == some (epMt (reqFld linkAsk 12 4)), (tabRead base 0 0).isNone,
      (tabRead tableState 0 8192).any fun x => !tabBad tableState 0 (tabNew tableState 0 0 8192 x.1 x.2),
      (tabRead (withWords tableState [(8216, 0)]) 0 8192).any fun x => tabBad base 0 (tabNew base 0 0 8192 x.1 x.2), tabHost host, !tabHost (xtab0 0),
      (reqTodo (doing base (ask []) [0]) (ask [])) == some [0], releaseReady (doing base (ask []) [0]) fetchRgn,
      rgnRecovers (doing frozen (ask []) []) fetchRgn && recordsWritten frozen fetchRgn,
      opsSettled base fetchRgn, !rewireEnds fetchRegion, rewireEnds { fetchRegion with rewire := some (rewire0 3 3) },
      (reqTodo (doing base (ask []) [3]) (ask [])) == some [3], (reqTodo (doing base (ask []) [1]) (ask [])) == some [1],
      !rgnRecovers (setAgt frozen 0 { agt0 with rgn := some fetchRgn, st := .faulted }) fetchRgn,
      (shrinkNext fetchRegion [0]).isNone && (shrinkOps fetchRegion [0]).isEmpty,
      !(shrinkOps { fetchRegion with img := { image0 with folds := [] } } [0]).isEmpty, base.walks.isEmpty, (mtileOf base 0).crossing.isEmpty,
      placeRoom base 0 1 && !recWaits base .place,
      (tabAt (tabState (xtab0 0)) 0).any fun x => x.op == 0 && x.adopting.isEmpty && (tabRead base 0 0).isNone,
      (tabRead tableState 0 8192).any fun y =>
        publishOk { xtab0 0 with hdr := mapSet y.1 0 (hdrW { xtab0 0 with hdr := y.1 } 0) 0, recs := y.2, ver := 65535 }
          { xtab0 0 with hdr := y.1, recs := y.2 } &&
        !publishOk (xtab0 0) { xtab0 0 with hdr := y.1, recs := y.2 } && (publishRecs tableState { xtab0 0 with recs := y.2 } [0]).2].all
          id) = true := by
  decide +kernel

/-! ### Every instruction fires somewhere, and every clause about a firing is met -/

/-- A state in which the PE of tile 0 has a slot with the word, its literal, heads of a kind and a payload at two input ports, and a
further change. -/
def at_ (w lit : Nat) (k : Kind) (pay : Nat) (f : State → State) : State :=
  let x : Slot := { trig := fetchTrig, word := BitVec.ofNat 32 w, lit := BitVec.ofNat 64 lit }
  let s1 := modTile (fetchState State.reset 32 w) 0 fun t => { t with slots := [(0, x)] }
  let s2 := if pay = 0 && k == .data then s1 else (List.range 2).foldl (fun s p => setInPort s (tileEp 0 p)
    { inPort0 with queue := [(0, ⟨k, 0, BitVec.ofNat 512 pay⟩)] }) s1
  { f s2 with turns := [], cur := firingOf 0 0 0 0 x }
/-- The word's instruction is ready there and a condition holds. -/
def met (w lit : Nat) (k : Kind) (pay : Nat) (f : State → State) (p : Instr → State → Bool) : Bool :=
  match decodeWord (BitVec.ofNat 32 w) with
  | .ok i => let s := at_ w lit k pay f
    peReady s i s.cur false && p i s
  | .error _ => false
/-- Nothing stands in the way of a ready instruction's effect. -/
def clear_ (i : Instr) (s : State) : Bool := (errHead s i s.cur).isNone && !(readsLm i && lmNext s s.cur.tile == some none)
/-- The word's instruction fires there, on heads of data, and a condition holds. -/
def fires (w lit pay : Nat) (f : State → State) (p : Instr → State → Bool) : Bool := met w lit .data pay f fun i s => clear_ i s && p i s
/-- Such a word meets the premises of the statements about a firing. -/
theorem fires_spec {w lit pay : Nat} {f : State → State} {p : Instr → State → Bool} (h : fires w lit pay f p = true) :
    ∃ i s, decodeWord (BitVec.ofNat 32 w) = .ok i ∧ Fires i s ∧ p i s = true := by
  unfold fires met at h
  split at h
  · rename_i i hi
    simp only [clear_, Bool.and_eq_true, Option.isNone_iff_eq_none, Bool.not_eq_true'] at h
    exact ⟨i, _, hi, ⟨h.1, h.2.1.1, h.2.1.2⟩, h.2.2⟩
  · simp at h
/-- The word's instruction fires there with nothing more asked. -/
def firesAs (w : Nat) : Bool := fires w 0 0 id fun _ _ => true

theorem test_fires_control :
    ([0x00000000, 0x02000000, 0x04000000, 0x06000000, 0x08000000, 0x0A000000, 0x0C000000, 0x0E000000, 0x10000000, 0x11000000,
      0x12000000, 0x13000000, 0x14011000, 0x15011000, 0x16000000, 0x16400000, 0x16800000, 0x16C00000, 0x17000000, 0x17411000,
      0x17800000, 0x17C00000, 0x18000000, 0x18400000, 0x18800000, 0x18C00000, 0x19000000, 0x19400000, 0x19811000, 0x19C11000,
      0x1A011000, 0x1A411000, 0x1A800550, 0x1AE31000, 0x1B231550, 0x1B631550, 0x1BA31550, 0x1BE31550, 0x20011000, 0x20411000,
      0x20811000, 0x20E31000, 0x21011000, 0x21411000, 0x21800550, 0x21C11550, 0x28011000, 0x28411000, 0x28811000, 0x28E31000,
      0x29011000, 0x29411000, 0x29800550, 0x29C11550, 0x30011000, 0x30400550, 0x30811000, 0x30C00550, 0x32011000, 0x32411550,
      0x32800550, 0x34231000, 0x34411550, 0x34811550, 0x34C11550, 0x36000000, 0x38000550, 0x38631550, 0x38A31000].all firesAs) = true := by
  decide +kernel

theorem test_fires_vector :
    ([0x40000000, 0x40400000, 0x40800000, 0x40C00000, 0x41000000, 0x41400000, 0x41800000, 0x41C00000, 0x42011000, 0x42411000,
      0x42800000, 0x42C00000, 0x43000000, 0x43400000, 0x43811000, 0x43C11000, 0x44011000, 0x44400000, 0x70000000, 0x72000000,
      0x74000000, 0x76000000, 0x78000000, 0x7A000000, 0x7C000000, 0x7E000000, 0x80000000, 0x81000000, 0x82011000, 0x83000000,
      0x83400000, 0x83800000, 0x83C11000, 0x84000000, 0x84400000, 0x84800000, 0x84C00000, 0x85011000, 0x85411000, 0x85811000,
      0x85C11000, 0x86011000, 0x86411000, 0x86800000, 0x86C00000, 0x87000000, 0x87400000, 0x88011000, 0x88411000, 0x88811000,
      0x88C11000, 0x89011000, 0x89411000, 0x89811000, 0x89C11000, 0x8A000000, 0x8C011000, 0x8C400000].all firesAs) = true := by
  decide +kernel

theorem test_fires_engines :
    ([0x90011000, 0x90411000, 0x90811000, 0x90C11000, 0x91000000, 0x91400000, 0x92011000, 0x92400000, 0x94231000, 0x94411000,
      0x94811000, 0x94E31000, 0x95000000, 0xA0000550, 0xA0411550, 0xA0811550, 0xA0C11000, 0xA2011000, 0xA2400550, 0xA4231550,
      0xA4631000, 0xA4A31000, 0xA4E31550, 0xA5231550, 0xA5411000, 0xA5800550, 0xA5C11000, 0xA6000550, 0xB0011000, 0xB0411000,
      0xB0800000, 0xB0E31000, 0xB1231000, 0xB1411000, 0xB1A31000, 0xB1E31000, 0xB2231000].all firesAs) = true := by
  decide +kernel

theorem test_fires_memoryAndTasks :
    ([0xC0000000, 0xC1000000, 0xC2000000, 0xC3000000, 0xC4000000, 0xC5000000, 0xC6000000, 0xC7000000, 0xC8000000, 0xC9231550,
      0xCA000550, 0xCB011000, 0xCC011000, 0xCC400550, 0xD0000000, 0xD0400000, 0xD0811000, 0xD0C11550, 0xD1011000, 0xD1411550,
      0xD1811000, 0xD1E31000, 0xE0000550, 0xE0631550, 0xE0A31550, 0xE2231000, 0xE2400000, 0xE2800550, 0xE2C00550, 0xE3011000,
      0xE3411000, 0xE4011000, 0xE4411000, 0xE6011000, 0xE6411550, 0xE6800000, 0xE6C00000, 0xE7000000, 0xE7400000, 0xE7A31000,
      0xE7C11000, 0xE8000000, 0xE8411000, 0xE8811000, 0xE8C11000, 0xE9231000, 0xF0011550, 0xF0631550, 0xF0811550, 0xF0C11000,
      0xF1011550, 0xF1631550, 0xF4011000, 0xF4411000, 0xF4811000, 0xF4C11000].all firesAs) = true := by
  decide +kernel

/-- The head of input port 1 replaced by data. -/
def port1 (pay : Nat) (s : State) : State := setInPort s (tileEp 0 1) { inPort0 with queue := [(0, ⟨.data, 0, BitVec.ofNat 512 pay⟩)] }
/-- The region maintained; the partition set, with fields of its descriptor; tile 0 changed; and so on. -/
def maintained (s : State) : State := modRgn s fetchRgn fun r => { r with maint := true }
/-- The partition set, with fields of its descriptor. -/
def partSet (l : List (Nat × Nat)) (s : State) : State := modPart s 0 fun p => { p with isSet := true, desc := descOf l }
/-- A delay line of two stages behind output port 0, with room at its consumer. -/
def lined (s : State) : State := setChan s 0 { fetchChan 0 with d := 2, line := [5, 6] }
/-- Handle 0 bound to ring 0 of memory tile 0, of one slot. -/
def ringed (s : State) : State :=
  setMTile (modTile s 0 fun t => setHandle t 0 { handle0 with ring := some (0, 0), p := 1 }) 0
    { mtile0 with rgn := some fetchRgn, role := BitVec.ofNat 64 (2 ^ 63), rings := [(0, ⟨BitVec.ofNat 64 (2 ^ 63), 1, 1⟩)] }
/-- A further slot of tile 0, triggered by the task port. -/
def taskSlotted (s : State) : State := modTile s 0 fun t => { t with slots := t.slots ++ [(1, ⟨BitVec.ofNat 32 (1 + 6 * 2 ^ 18), 0, 0⟩)] }
/-- Group 0 of die 0 with members. -/
def grouped (l : List Nat) (s : State) : State := modDie s 0 fun d => { d with grps := [(0, { grp0 with live := true, members := l })] }
/-- Table 0 adopted by die 0, with one LIVE slot of expert 0, and registered with an operation. -/
def tabled (op : Nat) (s : State) : State :=
  modDie { s with xtabs := [{ xtab0 op with adopting := [] }] } 0 fun d => { d with tabs := [⟨0, 0, 1, 1, [(0, BitVec.ofNat 64 (2 ^ 62))]⟩] }

/-- The mode word, delay lines, queue registers and the maintenance loop at the ends of their ranges. -/
theorem test_controlClauses :
    ([fires 0x30400550 0 0 lined fun i s => (lineOf (started i s) s.cur).any fun c => decide ((operands i s).kb.toNat < c.2.line.length),
      fires 0x30400550 0 2 lined fun i s => (lineOf (started i s) s.cur).any fun c => decide (c.2.line.length ≤ (operands i s).kb.toNat),
      fires 0x32800550 0 1 id fun i s => (operands i s).kb.toNat == 1, fires 0x32800550 0 16 id fun i s => (operands i s).kb.toNat == 16,
      fires 0x32800550 0 0 id fun i s => (operands i s).kb.toNat == 0, fires 0x32800550 0 17 id fun i s => (operands i s).kb.toNat == 17,
      fires 0x38000550 0 1 maintained fun i s => (operands i s).ka.toNat == 1, fires 0x38000550 0 8 maintained fun i s => (operands i s).ka.toNat == 8,
      fires 0x38000550 0 0 maintained fun i s => (operands i s).ka.toNat == 0, fires 0x38000550 0 9 maintained fun i s => (operands i s).ka.toNat == 9,
      fires 0x38000550 0 1 id fun i s => ((tileRgn (started i s) 0).map fun r => r.2.maint) == some false,
      fires 0xF1011550 0 0 (fun s => modPart s 0 fun p => { p with traceCtl := 4 }) fun i s => (partOf (started i s) 0).traceCtl.getLsbD 2,
      fires 0xF1011550 0 0 id fun i s => !(partOf (started i s) 0).traceCtl.getLsbD 2 && (tileRgn (started i s) 0).isSome,
      met 0x40000000 0 .null 0 id fun i s => clear_ i s && (skipToken i (operands i s)).isSome,
      met 0x40000000 0 .mark 3 id fun i s => clear_ i s && (skipToken i (operands i s)).isSome,
      [0x8A000000, 0xC0000000, 0xC8000000, 0xCA000550, 0xCB011000, 0xCC011000, 0xCC400550, 0xE4011000, 0xE4411000, 0xE8000000].all fun w =>
        met w 0 .mark 7 id fun i s => clear_ i s && (skipToken i (operands i s)).isSome && (info i).skip && !isMatrix i,
      fires 0x40000000 0 0 id fun i s => (skipToken i (operands i s)).isNone, fires 0x8A000000 0 16 id fun i s => (operands i s).b.toNat % 32 == 16,
      fires 0x8A000000 0 1 id fun i s => (operands i s).b.toNat % 32 == 1, fires 0x8A000000 0 0 id fun i s => (operands i s).b.toNat % 32 == 0,
      fires 0x8A000000 0 17 id fun i s => (operands i s).b.toNat % 32 == 17].all id) = true := by decide +kernel

/-- Streams, local memory and rings. -/
theorem test_streamAndRingClauses :
    (let bad := fun (i : Instr) (s : State) => fld (operands i s).ka 62 47 != 0 || fld (operands i s).kb 63 48 != 0
     [fires 0xA0001550 0 (2 ^ 47) (port1 0) bad, fires 0xA0001550 0 (2 ^ 63) (port1 0) fun i s => !bad i s && (operands i s).ka.getLsbD 63,
      fires 0xA0001550 0 0 (port1 0) fun i s => !bad i s && !(operands i s).ka.getLsbD 63,
      fires 0xA0411550 0 1 id fun i s => (operands i s).ka.getLsbD 0, fires 0xA0411550 0 0 id fun i s => !(operands i s).ka.getLsbD 0,
      fires 0xA0811550 0 1 id fun i s => (operands i s).ka.getLsbD 0, fires 0xA0811550 0 0 id fun i s => !(operands i s).ka.getLsbD 0,
      fires 0xA2011000 0 0 id fun i s => !lmBad (tileOf (started i s) 0) 0 8,
      fires 0xA2011000 0 0 (fun s => modTile s 0 fun t => { t with bad := [0] }) fun i s => lmBad (tileOf (started i s) 0) 0 8,
      fires 0xA4631000 (2 ^ 8) 0 ringed fun i s =>
        (ringWordOf (started i s) (handleOf (tileOf (started i s) 0) s.cur.lit)).any fun w => decide (ringN s.cur.lit ≤ ringSlots w),
      fires 0xA4A31000 (2 ^ 9) 0 ringed fun i s =>
        (ringWordOf (started i s) (handleOf (tileOf (started i s) 0) s.cur.lit)).any fun w => decide (ringSlots w < ringN s.cur.lit),
      fires 0xA4E31550 (2 ^ 8) 0 ringed fun i s => (handleOf (tileOf (started i s) 0) s.cur.lit).ring.isSome,
      fires 0xA5231550 0 0 id fun i s => (handleOf (tileOf (started i s) 0) s.cur.lit).ring.isNone,
      fires 0xA5411000 0 0 ringed fun i s => (handleOf (tileOf (started i s) 0) s.cur.lit).ring.isSome,
      fires 0xA5800550 0 0 ringed fun i s => (handleOf (tileOf (started i s) 0) s.cur.lit).ring.isSome].all id) = true := by decide +kernel

/-- Address generators and block transfers, by the operands that their instructions take or refuse. -/
theorem test_engineClauses :
    (let n := fun (i : Instr) (s : State) => (operands i s).ka.toNat
     [fires 0xB0011000 0 (6 * 2 ^ 56) id fun i s => n i s == 6 * 2 ^ 56, fires 0xB0011000 0 (7 * 2 ^ 56) id fun i s => n i s == 7 * 2 ^ 56,
      fires 0xB0411000 0 (2 ^ 48 - 1) id fun i s => n i s == 2 ^ 48 - 1, fires 0xB0411000 0 (2 ^ 48) id fun i s => n i s == 2 ^ 48,
      fires 0xB0800000 0 (2 ^ 24) id fun i s => n i s == 2 ^ 24, fires 0xB0800000 0 (2 ^ 24 + 1) id fun i s => n i s == 2 ^ 24 + 1,
      fires 0xB1411000 4 1 id fun i s => n i s == 1, fires 0xB1411000 4 0 id fun i s => n i s == 0,
      fires 0xB1411000 260 (2 ^ 31 - 1) id fun i s => n i s == 2 ^ 31 - 1, fires 0xB1411000 260 (2 ^ 31) id fun i s => n i s == 2 ^ 31,
      fires 0xB1411000 5 0 id fun i s => n i s == 0, fires 0xB1411000 6 0 id fun i s => n i s == 0,
      fires 0xD0811000 0 64 id fun i s => entryOk (started i s) 0 (operands i s).ka,
      fires 0xD0811000 0 63 id fun i s => !entryOk (started i s) 0 (operands i s).ka,
      fires 0xD1011000 0 1 (fun s => setBte s 0 0 { bteCh0 with issued := 64, view := (1, 0) }) fun i s => promKnown (chanFor (started i s) s.cur) (n i s),
      fires 0xD1011000 0 1 (fun s => setBte s 0 0 { bteCh0 with issued := 65 }) fun i s => !promKnown (chanFor (started i s) s.cur) (n i s)].all
        id) = true := by decide +kernel

/-- Memory, packets, futures, launches, groups, expert tables and the race checker. -/
theorem test_memoryAndTaskClauses :
    (let n := fun (i : Instr) (s : State) => (operands i s).ka.toNat
     let ok := fun (w : Bool) (link : Nat) (i : Instr) (s : State) => (skipToken i (operands i s)).isNone &&
       (match memCheck (started i s) 0 (operands i s).ka (2 ^ fld s.cur.lit 1 0) w link with | .ok _ _ => true | _ => false)
     let bad := fun (w : Bool) (link : Nat) (i : Instr) (s : State) => (skipToken i (operands i s)).isNone &&
       (match memCheck (started i s) 0 (operands i s).ka (2 ^ fld s.cur.lit 1 0) w link with | .trap _ _ => true | _ => false)
     let grp := fun (i : Instr) (s : State) => grpLive (started i s) 0 (n i s)
     let tab := fun (i : Instr) (s : State) => (tabOf (started i s) 0 0).isSome
     let prog := fun s => modPart s 0 fun p => { p with desc := descOf [(867, 1)] }
     [fires 0xCC011000 3 8 id (ok false 0), fires 0xCC011000 3 1 id (bad false 0), fires 0xCB011000 3 8 id (ok false 0), fires 0xCC400550 3 8 id (ok true 1),
      fires 0xCC400550 3 4 id (bad true 1), fires 0xCA000550 2 0 id (ok true 0), fires 0xC0000000 3 8 id (ok true 0), fires 0xC8000000 2 4 id (ok true 0),
      fires 0xC8000000 2 2 id (bad true 0), fires 0xE0000550 0 0 (partSet []) fun i s => liveTileEp (started i s) (partOf s 0) (fld (routeValue s s.cur) 25 7),
      fires 0xE0000550 (2 ^ 7) 0 (partSet []) fun i s => !liveTileEp (started i s) (partOf s 0) (fld (routeValue s s.cur) 25 7),
      fires 0xE0631550 (2 ^ 8) 0 taskSlotted fun i s => taskSlot (tileOf (started i s) 0) 1,
      fires 0xE0631550 0 0 taskSlotted fun i s => !taskSlot (tileOf (started i s) 0) 0,
      fires 0xE3011000 0 0 id fun i s => (watchSeen (started i s) 0 (operands i s).ka).any fun w => fld w 63 62 != 3,
      fires 0xE3011000 0 0 (fun s => modTile s 0 fun t => { t with watches := [⟨0, some (BitVec.ofNat 64 (3 * 2 ^ 62)), 0⟩] }) fun i s =>
        (watchSeen (started i s) 0 (operands i s).ka).any fun w => fld w 63 62 == 3,
      fires 0xE4011000 0 8 id fun i s => (match descCheck (started i s) 0 (operands i s).ka with | .ok _ _ => true | _ => false),
      fires 0xE4411000 0 (2 ^ 63) id fun i s => (match descCheck (started i s) 0 (operands i s).ka with | .trap _ _ => true | _ => false),
      fires 0xE8000000 0 0 id fun i s => (adoptedOf (started i s) 0 0 0).isNone,
      fires 0xE8000000 0 1 (tabled 0) fun i s => (adoptedOf (started i s) 0 0 0).any fun x => decide (x.nexp ≤ n i s),
      fires 0xE8000000 0 0 (tabled 0) fun i s => (adoptedOf (started i s) 0 0 0).any fun x => decide (0 < x.nexp) && liveSlots x 0 == [0],
      fires 0xE8411000 0 0 id fun i s => (tabOf (started i s) 0 0).isNone, fires 0xE8411000 256 0 (tabled 0) tab, fires 0xE8411000 0 0 (tabled 0) fun i s => tab i s && n i s == 0,
      fires 0xE8411000 0 1 (tabled 0) fun i s => tab i s && n i s == 1, fires 0xE8811000 (2 ^ 13) 1 (tabled 0) tab, fires 0xE8811000 0 0 (tabled 0) tab,
      fires 0xE8811000 (2 ^ 12) 0 (tabled 0) tab, fires 0xE8811000 0 1 (tabled 0) tab, fires 0xE8C11000 0 0 (tabled 0) tab, fires 0xE8C11000 (2 ^ 8) 0 (tabled 0) tab,
      fires 0xE8C11000 (2 ^ 9) 0 (tabled 0) tab, fires 0xE9231000 0 0 (tabled 1) tab, fires 0xE9231000 0 0 (tabled 0) tab,
      fires 0xF4411000 0 8 prog fun i s => n i s == 8, fires 0xF4411000 0 3 prog fun i s => n i s == 3, fires 0xF4411000 0 6 prog fun i s => n i s == 6,
      fires 0xF4411000 0 7 prog fun i s => n i s == 7, fires 0xF4811000 0 3 id fun i s => n i s == 3, fires 0xF4811000 0 4 id fun i s => n i s == 4,
      fires 0xF4C11000 256 0 (grouped []) fun i s => (grp i s).isSome, fires 0xF4C11000 256 0 id fun i s => (grp i s).isNone].all id) = true := by
  decide +kernel

/-! ### The statements about every firing, the step, frames and memory: their premises are met -/

/-- The instruction `add` on 32-bit numbers, from input ports 0 and 1 to a place. -/
def addTo (d : BitVec 4) : Instr := .add 2 0 1 d d 0
/-- A state in which it fires. -/
def addState (d : Nat) (trig : Nat) : State :=
  let s := at_ (0x00801000 + d * 256 + d * 16) 0 .data 1 id
  { s with cur := { s.cur with trig := s.cur.trig ||| BitVec.ofNat 32 trig } }
/-- The part when tile 0 has its turn with `add` in its slot 0, its tile changed. -/
def turnState (f : Tile → Tile) : State := { modTile (fetchState State.reset 32 0x00801660) 0 f with turns := [.pe 0] }
/-- The state at the end of the turn's requests for pages. -/
def asked (f : Tile → Tile) : State := postAll { turnState f with turns := [] } 0

theorem test_stepRunsDecoded :
    ((badSlot (asked id) 0).isNone && (readySlot (asked id) 0 0).any fun x => x.2.word == 0x00801660) = true ∧
    (turnState id).turns = [.pe 0] := by decide +kernel

theorem test_bankArbiter :
    (let off := fun t : Tile => { t with slots := [] }
     let other := fun t : Tile => { t with bank := 3 }
     (readySlot (asked other) 0 3).isNone && (readySlot (asked other) 0 0).isSome && (badSlot (asked other) 0).isNone
       && (List.range 4).all fun k => (readySlot (asked off) 0 k).isNone) = true := by decide +kernel

theorem test_firing :
    (let err := fun s => setInPort s (tileEp 0 1) { inPort0 with queue := [(0, ⟨.err, 0, 7⟩)] }
     let kind3 := fun s : State => { s with cur := { s.cur with trig := BitVec.ofNat 32 (1 + 2 ^ 26 + 3 * 2 ^ 13) } }
     let held := modTile (addState 6 0) 0 fun t => { t with stopped := true }
     !peReady held (addTo 6) held.cur false && peReady (err (addState 6 0)) (addTo 6) (addState 6 0).cur false
       && peReady (kind3 (addState 6 0)) (addTo 6) (kind3 (addState 6 0)).cur false && namedPorts (addTo 6) == [0, 1]
       && (rgnOf (addState 6 0) fetchRgn).any (fun r => r.stopAt.isNone) && deqPorts (addTo 6) == [0, 1] && (info (addTo 6)).noDeq == false
       && deqPorts (.peek 0 6 6 0) == [] && deqPorts (.retag 0 1 0) == [1] && deqPorts (.retagD 1 1 0) == []) = true := by decide +kernel

/-- A v destination, a queue register and a predicate copied from the flag. -/
theorem test_results :
    (let dst := fun i : Instr => (dsts (curBank (addState 6 0)) i (operands i (addState 6 0)).tag)
     dst (addTo 6) == (.k 0, .none) && dst (addTo 13) == (.k 7, .none) && dst (.add 2 0 1 6 7 0) == (.k 0, .k 1) && dst (addTo 14) == (.q 0, .none)
       && dst (.add 2 0 1 6 14 0) == (.k 0, .q 0)
       && dst (.vand 0 1 6 13 0) == (.v 0, .v 7) && (info (addTo 6)).dst != .none && outPorts (addTo 4) == [4] && outPorts (addTo 6) == []
       && [0, 2, 4, 6].map (fun p => trPop (addState 6 p).cur.trig) == [0, 1, 2, 3]
       && (let j : Job := { job0 with da := .k 3 }
           let s := modTile (addState 6 0) 0 fun t => { t with jobs := [j] }
           jobOf (tileOf s 0) 0 == some j && resultDue s j && !resultDue s { j with due := 1 })
       && (let j : Job := { job0 with da := .out 0 0, db := .v 7, pred := some (3, true) }
           let s := modTile (addState 6 0) 0 fun t => { t with jobs := [j] }
           jobOf (tileOf s 0) 0 == some j && resultDue s j)) = true := by
  decide +kernel

theorem test_frames :
    (onlyControl (addTo 6) && onlyVector (.vand 0 1 6 13 0)
      && (match exec (addTo 6) (addState 6 0) with | .next _ => true | _ => false)
      && fires 0xA2401550 0 8 id (fun _ _ => true)
      && memWf { tileOf base 0 with lmsts := [] ++ [((8 : W64).toNat, 7)] }.lm) = true := by decide +kernel

/-- A store of a PE that is ready at its home, and a load. -/
theorem test_accessPerformed :
    (let a : Acc := { acc0 with id := 4, agent := .bank 0 0, op := .write 255, loc := .phys (2 ^ 32 - 8), size := 8, ok := true }
     let b : Acc := { load0 with loc := .phys (2 ^ 32 - 8) }
     let s := fun x : Acc => { base with accs := [x] }
     accReady (s a) a && accReady (s b) b && (partOf base 0).raceMode == 0 && badWords base a.loc 8 == [] && memWf base.mem && a.ring.isNone
       && a.toward == .none) = true := by decide +kernel

/-- Accesses at other homes, with the race checker off, finding nothing, and stopping one. -/
theorem test_homes :
    (let a : Acc := { acc0 with id := 4, agent := .bank 0 0, op := .write 255, loc := .mtile 0 (2 ^ 19 - 8), size := 8, ok := true }
     let on := modPart base 0 fun p => { p with raceMode := 1 }
     let b : Acc := { a with loc := .phys 512, holder := 3 }
     (raceCheck base a).2.isNone && (raceCheck on b).2.isNone && (raceCheck (racing base 512 9) b).2.isSome && badWords base a.loc 8 == []
       && badWords on b.loc 8 == [] && decide (519 % 2 ^ 31 < 0x5A000000) && (accNew a.op 8 0 5).isSome && (accNew .read 8 0 5).isNone) = true ∧
    (raceCheck base { acc0 with agent := .bank 0 0, loc := .lm 0 8, size := 8 }).1 = base := ⟨by decide +kernel, by rfl⟩

/-- A legal state other than that after reset, which an instruction of the map takes to a next state. -/
theorem test_legal :
    let s := { State.reset with mem := [(7, 1)], cyc := 5 }
    Legal s ∧ encode (.nop 0) = some 0xF1631550#32 ∧ exec (.nop 0) s = .next s := by
  refine ⟨⟨by decide, ?_, ?_, ?_, ?_, ?_⟩, rfl, rfl⟩ <;> simp [State.reset]

/-- A legal state in which a PE has its turn, and the step answers a next state. -/
theorem test_legalTurn :
    let s := { State.reset with turns := [.pe 0] }
    Legal s ∧ ∃ t, step s = .next t := by
  refine ⟨⟨by decide, ?_, ?_, ?_, ?_, ?_⟩, _, rfl⟩ <;> simp [State.reset]

theorem test_division :
    intOf true 0 32 = 0 ∧ intOf true (2 ^ 31) 32 = -2 ^ 31 ∧ intOf true (2 ^ 32 - 1) 32 = -1 ∧ intOf true 7 32 = 7 := by decide

/-! ### Results of single steps, from the rules -/

/-- What the firing of the word on heads of a payload (at port 1 another) writes to k0, now or when its latency is over. -/
def gives (w pay pay1 : Nat) : Option Nat :=
  match decodeWord (BitVec.ofNat 32 w) with
  | .ok i => match exec i (at_ w 0 .data pay (port1 pay1)) with
    | .next t => some (match (tileOf t 0).jobs with
      | j :: _ => (j.r1.2.setWidth 64).toNat
      | [] => (kGet (bankOf (tileOf t 0) 0) 0).toNat)
    | _ => none
  | .error _ => none

/-- `add.n8` of 200 and 100 (R136's example), `mul.hi.i32` of the least number, `div` by zero and of the least number by −1 (R78),
`popc`, `clz` and `bswap` (R140). -/
theorem test_arithmetic :
    [gives 0x01001660 200 100, gives 0x06801660 0x80000000 0x80000000, gives 0x08801660 9 0, gives 0x0A801660 9 0,
     gives 0x08801660 0x80000000 0xFFFFFFFF, gives 0x19811660 0xFF 0, gives 0x19C11660 1 0, gives 0x1A411660 1 0]
      = [some 44, some 0x40000000, some 0xFFFFFFFFFFFFFFFF, some 9, some 0xFFFFFFFF80000000, some 8, some 63, some (2 ^ 56)] := by
  decide +kernel

/-- 1.0 + 1.0 = 2.0 and 1.0 / 0.0 is infinite with DZ, in the first lane of `f32` (R172, R174). -/
theorem test_float :
    (let m : FMode := fmode 0
     [lane (vFadd .f32 m 0x3F800000 0x3F800000).val 32 0, lane (vFdiv .f32 m 0x3F800000 0).val 32 0]) = [0x40000000, 0x7F800000] := by
  decide +kernel

/-- `trap` takes its trap: cause PROGRAM, detail A (R157, R161). -/
theorem test_trap :
    (match exec (.trap 0 0) (at_ 0xF0011550 0 .data 77 id) with
     | .next t => (tileOf t 0).stopped && (tileOf t 0).traps.map (fun r => (r.cause, r.detail)) == [(1, 77)]
     | _ => false) = true := by decide +kernel

end Sys2Proof.Tests
end

section
/-! What the passage to the next cycle and a launch packet of the host leave alone: the package cycle counter (R18), and the consumer
indices of the host's work queues (R408). -/
namespace Sys2Proof

open Machine

variable {cy : Nat} {wq : SMap Nat} {s r : State}

/-- The package cycle counter and the consumer indices of the work queues have given values. -/
def ClockIs (cy : Nat) (wq : SMap Nat) (s : State) : Prop := s.cyc = cy ∧ s.host.wqCI = wq

theorem modHost_clock {f : HostPort → HostPort} (hs : ClockIs cy wq s) (hf : (f s.host).wqCI = s.host.wqCI) : ClockIs cy wq (modHost s f) :=
  ⟨hs.1, hf.trans hs.2⟩

theorem foldl_clock {α : Type} {f : State → α → State} {l : List α} (hs : ClockIs cy wq s) (hf : ∀ x a, ClockIs cy wq x → ClockIs cy wq (f x a)) :
    ClockIs cy wq (l.foldl f s) := by
  induction l generalizing s with
  | nil => exact hs
  | cons a l ih => exact ih (hf s a hs)

theorem ite_clock {p : Prop} {_ : Decidable p} (h : ClockIs cy wq s) (hr : ClockIs cy wq r) : ClockIs cy wq (if p then s else r) := by
  split
  · exact h
  · exact hr

theorem ClockIs.ofPair {α : Type} {p : State × α} {a : α} (h : ClockIs cy wq p.1) (e : p = (s, a)) : ClockIs cy wq s := by
  rw [e] at h
  exact h

theorem ClockIs.ofPair' {α : Type} {p : α × State} {a : α} (h : ClockIs cy wq p.2) (e : p = (a, s)) : ClockIs cy wq s := by
  rw [e] at h
  exact h

/-! ### The state's own operations -/

theorem setPart_clock {p : Nat} {x : Machine.Part} (hs : ClockIs cy wq s) : ClockIs cy wq (setPart s p x) := hs

theorem modPart_clock {p : Nat} {f : Machine.Part → Machine.Part} (hs : ClockIs cy wq s) : ClockIs cy wq (modPart s p f) := setPart_clock hs

theorem modDie_clock {d : Nat} {f : Die → Die} (hs : ClockIs cy wq s) : ClockIs cy wq (modDie s d f) := hs

theorem setMTile_clock {n : Nat} {m : MTile} (hs : ClockIs cy wq s) : ClockIs cy wq (setMTile s n m) := hs

theorem setTile_clock {n : Nat} {t : Tile} (hs : ClockIs cy wq s) : ClockIs cy wq (setTile s n t) := hs

theorem setRgn_clock {k : Nat} {r : Region} (hs : ClockIs cy wq s) : ClockIs cy wq (setRgn s k r) := hs

theorem modRgn_clock {k : Nat} {f : Region → Region} (hs : ClockIs cy wq s) : ClockIs cy wq (modRgn s k f) := by
  unfold modRgn
  split
  · exact setRgn_clock hs
  · exact hs

theorem setAgt_clock {n : Nat} {a : Agt} (hs : ClockIs cy wq s) : ClockIs cy wq (setAgt s n a) := hs

theorem setBte_clock {n ch : Nat} {c : BteCh} (hs : ClockIs cy wq s) : ClockIs cy wq (setBte s n ch c) := hs

theorem setChan_clock {c : Nat} {x : Chan} (hs : ClockIs cy wq s) : ClockIs cy wq (setChan s c x) := hs

theorem setOutPort_clock {e : Nat} {p : OutPort} (hs : ClockIs cy wq s) : ClockIs cy wq (setOutPort s e p) := hs

theorem setTab_clock {x : XTab} (hs : ClockIs cy wq s) : ClockIs cy wq (setTab s x) := hs

theorem accPut_clock {a : Machine.Acc} (hs : ClockIs cy wq s) : ClockIs cy wq (accPut s a) := hs

theorem physSet_clock {pa x n : Nat} (hs : ClockIs cy wq s) : ClockIs cy wq (physSet s pa x n) := hs

theorem faultRecord_clock {p : Nat} {who : Agent} {r : BitVec 512} (hs : ClockIs cy wq s) : ClockIs cy wq (faultRecord s p who r) := by
  unfold faultRecord
  dsimp only
  split
  · exact setPart_clock hs
  · exact setPart_clock (physSet_clock hs)

/-! ### Accesses -/

theorem clkRelease_clock {pn h : Nat} {i : ObjId} {sc : Nat} {a : Place} (hs : ClockIs cy wq s) : ClockIs cy wq (clkRelease s pn h i sc a) := by
  unfold clkRelease
  dsimp only
  split
  · exact hs
  · exact setPart_clock hs

theorem clkAcquire_clock {pn h : Nat} {i : ObjId} {sc : Nat} {b : Place} {home : Option Place} (hs : ClockIs cy wq s) :
    ClockIs cy wq (clkAcquire s pn h i sc b home) := by
  unfold clkAcquire
  dsimp only
  split
  · exact hs
  · split
    · split
      · exact setPart_clock hs
      · exact hs
    · exact hs

theorem clkBare_clock {pn : Nat} {i : ObjId} {sc : Nat} {a : Place} (hs : ClockIs cy wq s) : ClockIs cy wq (clkBare s pn i sc a) :=
  modPart_clock hs

theorem clkCopy_clock {pn : Nat} {src dst : ObjId} (hs : ClockIs cy wq s) : ClockIs cy wq (clkCopy s pn src dst) := modPart_clock hs

theorem clkForget_clock {pn : Nat} {i : ObjId} (hs : ClockIs cy wq s) : ClockIs cy wq (clkForget s pn i) := modPart_clock hs

theorem raceRecord_clock {p : Nat} {r : BitVec 512} (hs : ClockIs cy wq s) : ClockIs cy wq (raceRecord s p r) := by
  unfold raceRecord
  dsimp only
  split
  · exact setPart_clock hs
  · exact modPart_clock (clkBare_clock (physSet_clock (clkBare_clock (physSet_clock hs))))

theorem raceCheck_clock {a : Machine.Acc} (hs : ClockIs cy wq s) : ClockIs cy wq (raceCheck s a).1 := by
  unfold raceCheck
  dsimp only
  split
  · exact hs
  · split
    · split
      · exact hs
      · split
        · split
          · exact hs
          · exact raceRecord_clock hs
        · split
          · exact hs
          · exact raceRecord_clock hs
        · split
          · exact hs
          · exact raceRecord_clock hs
    · split
      · split
        · split
          · split
            · exact raceRecord_clock hs
            · exact hs
          · exact hs
        · exact hs
      · exact hs

theorem metaFill_clock {pn line : Nat} (hs : ClockIs cy wq s) : ClockIs cy wq (metaFill s pn line) := by
  unfold metaFill
  split
  · exact ⟨hs.1, hs.2⟩
  · exact hs

theorem noteEvict_clock {pn line : Nat} (hs : ClockIs cy wq s) : ClockIs cy wq (noteEvict s pn line) := by
  unfold noteEvict
  dsimp only
  split
  · exact hs
  · exact hs

theorem cacheTouch_clock {pn pa : Nat} {write : Bool} (hs : ClockIs cy wq s) : ClockIs cy wq (cacheTouch s pn pa write) := by
  unfold cacheTouch
  dsimp only
  split
  · exact hs
  · exact foldl_clock (setMTile_clock (ite_clock hs (metaFill_clock hs))) fun _ _ => noteEvict_clock

theorem stackWake_clock {pn pa : Nat} (hs : ClockIs cy wq s) : ClockIs cy wq (stackWake s pn pa) := by
  unfold stackWake
  split
  · exact modDie_clock hs
  · exact hs

theorem errNote_clock {l : Loc} (hs : ClockIs cy wq s) : ClockIs cy wq (errNote s l) := by
  unfold errNote
  split
  · exact modHost_clock hs rfl
  · exact hs

theorem hbmMetaSet_clock {pn line : Nat} {x : BitVec 64} (hs : ClockIs cy wq s) : ClockIs cy wq (hbmMetaSet s pn x line) :=
  ite_clock hs (physSet_clock hs)

theorem metaSet_clock {pn : Nat} {x : BitVec 64} {a : Loc} (hs : ClockIs cy wq s) : ClockIs cy wq (metaSet s pn x a) := by
  unfold metaSet
  dsimp only
  split
  · exact setMTile_clock hs
  · exact hbmMetaSet_clock hs
  · exact hs

theorem raceNote_clock {a : Machine.Acc} (hs : ClockIs cy wq s) : ClockIs cy wq (raceNote s a) := by
  unfold raceNote
  dsimp only
  split
  · exact hs
  · split
    · exact metaSet_clock hs
    · exact hs

theorem clearBad_clock {l : Loc} {mask n : Nat} (hs : ClockIs cy wq s) : ClockIs cy wq (clearBad s l mask n) := by
  unfold clearBad
  dsimp only
  split
  · exact hs
  · exact setMTile_clock hs
  · exact hs
  · exact setTile_clock hs

theorem locSet_clock {l : Loc} {x mask n : Nat} (hs : ClockIs cy wq s) : ClockIs cy wq (locSet s l x mask n) := by
  unfold locSet
  dsimp only
  split
  · exact hs
  · exact setMTile_clock hs
  · exact hs
  · exact setTile_clock hs

theorem homeAccess_clock {a0 : Acc} (hs : ClockIs cy wq s) : ClockIs cy wq (homeAccess s a0).1 := by
  unfold homeAccess
  extract_lets a pl s1
  have h1 : ClockIs cy wq s1 := by
    simp only [s1]
    split
    · exact clkAcquire_clock hs
    · exact hs
  split
  · exact (raceCheck_clock h1).ofPair ‹_›
  · have h2 := (raceCheck_clock h1).ofPair ‹_›
    extract_lets s3 m s4 s5 s6
    have h3 : ClockIs cy wq s3 := by
      simp only [s3]
      split
      · exact cacheTouch_clock (stackWake_clock h2)
      · exact h2
    split
    · exact errNote_clock (raceNote_clock h3)
    · have h5 : ClockIs cy wq s5 := raceNote_clock (by
        simp only [s4]
        split
        · exact clearBad_clock (locSet_clock h3)
        · exact h3)
      show ClockIs cy wq s6
      simp only [s6]
      split
      · exact clkRelease_clock h5
      · exact h5

theorem enginePieces_clock {a : Acc} {pa x k n : Nat} (hs : ClockIs cy wq s) : ClockIs cy wq (enginePieces s a pa x k n).1 := by
  induction k generalizing s a pa x n with
  | zero => exact hs
  | succ k ih =>
    cases n with
    | zero => exact hs
    | succ n =>
      refine ih ?_
      split
      · exact faultRecord_clock (homeAccess_clock hs)
      · exact homeAccess_clock hs

/-! ### Translation -/

theorem poolPage_clock {pn pa : Nat} {r : State} (hs : ClockIs cy wq s) (e : poolPage s pn = some (pa, r)) : ClockIs cy wq r := by
  simp only [poolPage] at e
  split at e
  · cases e
    exact setPart_clock hs
  · cases e

theorem walkAlloc_clock {pn vp n : Nat} {write : Bool} (hs : ClockIs cy wq s) : ClockIs cy wq (walkAlloc s pn vp write n).2 := by
  induction n generalizing s with
  | zero => exact hs
  | succ n ih =>
    unfold walkAlloc
    split
    · exact hs
    · split
      · split
        · exact ih (physSet_clock (poolPage_clock hs ‹_›))
        · exact hs
      · exact hs

theorem walkServed_clock {pn vp : Nat} {write : Bool} (hs : ClockIs cy wq s) : ClockIs cy wq (walkServed s pn vp write).2 := by
  unfold walkServed
  split
  · exact walkAlloc_clock hs
  · exact hs

theorem dieEnter_clock {d : Nat} {e : TlbEnt} (hs : ClockIs cy wq s) : ClockIs cy wq (dieEnter s d e) := modDie_clock hs

theorem walkNow_clock {d pn vp : Nat} {write : Bool} (hs : ClockIs cy wq s) : ClockIs cy wq (walkNow s d pn vp write).1 := by
  unfold walkNow
  dsimp only
  split
  · split
    · exact (walkServed_clock hs).ofPair' ‹_›
    · exact dieEnter_clock ((walkServed_clock hs).ofPair' ‹_›)
  · exact (walkServed_clock hs).ofPair' ‹_›

theorem xlateNow_clock {d pn vp : Nat} {write : Bool} (hs : ClockIs cy wq s) : ClockIs cy wq (xlateNow s d pn vp write).1 := by
  unfold xlateNow
  split
  · split
    · exact walkNow_clock hs
    · exact hs
  · exact walkNow_clock hs

/-! ### The engines at the passage to the next cycle -/

theorem owedPerform_clock {o : Owed} (hs : ClockIs cy wq s) : ClockIs cy wq (owedPerform s o) := clkRelease_clock hs

theorem owedTick_clock (hs : ClockIs cy wq s) : ClockIs cy wq (owedTick s) := foldl_clock hs fun _ _ hx => ite_clock (owedPerform_clock hx) hx

theorem mtAdmit_clock (hs : ClockIs cy wq s) : ClockIs cy wq (mtAdmit s) :=
  foldl_clock hs fun _ _ hx => ite_clock (ite_clock (accPut_clock (setMTile_clock hx)) hx) hx

theorem placeAt_clock {pn va : Nat} {write : Bool} (hs : ClockIs cy wq s) : ClockIs cy wq (placeAt s pn va write).1 := by
  unfold placeAt
  split
  · exact hs
  · split
    · split
      · exact (xlateNow_clock hs).ofPair ‹_›
      · split
        · exact (xlateNow_clock hs).ofPair ‹_›
        · exact (xlateNow_clock hs).ofPair ‹_›
    · exact (xlateNow_clock hs).ofPair ‹_›

theorem placeDo_clock {pn va pa : Nat} {op : AccOp} {n x : Nat} (hs : ClockIs cy wq s) : ClockIs cy wq (placeDo s pn va pa op n x).1 := by
  unfold placeDo
  dsimp only
  split
  · exact faultRecord_clock (homeAccess_clock hs)
  · exact homeAccess_clock hs

theorem placeRead_clock {pn va k n : Nat} (hs : ClockIs cy wq s) : ClockIs cy wq (placeRead s pn va k n).1 := by
  induction k generalizing s va n with
  | zero => exact hs
  | succ k ih =>
    cases n with
    | zero => exact hs
    | succ n =>
      have h1 {w : Bool} : ClockIs cy wq (placeAt s pn va w).1 := placeAt_clock hs
      simp only [placeRead]
      split
      · exact h1.ofPair ‹_›
      · split
        · split
          · exact (ih (placeDo_clock (h1.ofPair ‹_›))).ofPair ‹_›
          · exact (ih (placeDo_clock (h1.ofPair ‹_›))).ofPair ‹_›
        · exact placeDo_clock (h1.ofPair ‹_›)

theorem placeWrite_clock {pn va x k n : Nat} (hs : ClockIs cy wq s) : ClockIs cy wq (placeWrite s pn va x k n).1 := by
  induction k generalizing s va x n with
  | zero => exact hs
  | succ k ih =>
    cases n with
    | zero => exact hs
    | succ n =>
      have h1 {w : Bool} : ClockIs cy wq (placeAt s pn va w).1 := placeAt_clock hs
      simp only [placeWrite]
      split
      · exact h1.ofPair ‹_›
      · split
        · exact ih (placeDo_clock (h1.ofPair ‹_›))
        · exact placeDo_clock (h1.ofPair ‹_›)

theorem copyUnit_clock {x : XTab} {e sp : Nat} (hs : ClockIs cy wq s) : ClockIs cy wq (copyUnit s x e sp) := by
  unfold copyUnit
  dsimp only
  split
  · exact setTab_clock hs
  · split
    · split
      · exact setTab_clock ((placeRead_clock hs).ofPair ‹_›)
      · have h1 := (placeRead_clock hs).ofPair ‹_›
        split
        · exact setTab_clock ((placeWrite_clock h1).ofPair ‹_›)
        · exact setTab_clock ((placeWrite_clock h1).ofPair ‹_›)
    · split
      · exact setTab_clock ((placeWrite_clock hs).ofPair ‹_›)
      · exact setTab_clock ((placeWrite_clock hs).ofPair ‹_›)

theorem placeTick_clock (hs : ClockIs cy wq s) : ClockIs cy wq (placeTick s) := by
  unfold placeTick
  split
  · exact hs
  · exact foldl_clock hs fun _ _ hx => by split; exacts [ite_clock (copyUnit_clock hx) hx, hx]

theorem freshId_clock (hs : ClockIs cy wq s) : ClockIs cy wq (freshId s).2 := hs

theorem freeDelay_clock (hs : ClockIs cy wq s) : ClockIs cy wq (freeDelay s).2 := hs

theorem accDelay_clock {pn : Nat} {l : Loc} (hs : ClockIs cy wq s) : ClockIs cy wq (accDelay s pn l).2 := by
  unfold accDelay
  split
  · exact hs
  · split
    · exact hs
    · exact freeDelay_clock hs
  · exact freeDelay_clock hs

theorem setLink_clock {l : Nat} {x : Link} (hs : ClockIs cy wq s) : ClockIs cy wq (setLink s l x) := modHost_clock hs rfl

theorem powerTouch_clock {pn : Nat} {l : Loc} (hs : ClockIs cy wq s) : ClockIs cy wq (powerTouch s pn l).2 := by
  unfold powerTouch
  dsimp only
  split
  · exact stackWake_clock hs
  · exact setLink_clock hs
  · exact hs

theorem accIssue_clock {a : Machine.Acc} {extra : Nat} (hs : ClockIs cy wq s) : ClockIs cy wq (accIssue s a extra).2 :=
  accDelay_clock (powerTouch_clock (freshId_clock hs))

theorem bteWrite_clock {n ch : Nat} {r : BteRun} {u : BteUnit} (hs : ClockIs cy wq s) : ClockIs cy wq (bteWrite s n ch r u) :=
  foldl_clock hs fun _ _ hx => foldl_clock hx fun _ _ => accIssue_clock

theorem bteDrain_clock {n ch : Nat} (hs : ClockIs cy wq s) : ClockIs cy wq (bteDrain s n ch) := by
  unfold bteDrain
  dsimp only
  split
  · split
    · split
      · exact setBte_clock hs
      · exact bteWrite_clock (setBte_clock hs)
    · exact hs
  · exact hs

theorem bteRead_clock {n ch : Nat} (hs : ClockIs cy wq s) : ClockIs cy wq (bteRead s n ch) := by
  unfold bteRead
  dsimp only
  split
  · split
    · exact foldl_clock (setBte_clock hs) fun _ _ => accIssue_clock
    · exact hs
  · exact hs

theorem bteMove_clock {n : Nat} {f : BteCh → Bool} {g : State → Nat → Nat → State} (hs : ClockIs cy wq s)
    (hg : ∀ x n ch, ClockIs cy wq x → ClockIs cy wq (g x n ch)) : ClockIs cy wq (bteMove s n f g) := by
  unfold bteMove
  split
  · exact hg _ _ _ (modDie_clock hs)
  · exact hs

theorem bteMoves_clock {n : Nat} (hs : ClockIs cy wq s) : ClockIs cy wq (bteMoves s n) :=
  foldl_clock (foldl_clock hs fun _ _ hx => bteMove_clock hx fun _ _ _ => bteDrain_clock)
    fun _ _ hx => bteMove_clock hx fun _ _ _ => bteRead_clock

theorem btesMove_clock (hs : ClockIs cy wq s) : ClockIs cy wq (btesMove s) := foldl_clock hs fun _ _ => bteMoves_clock

/-! ### Regions and channels at the passage to the next cycle -/

theorem rewireTick_clock {k : Nat} (hs : ClockIs cy wq s) : ClockIs cy wq (rewireTick s k) := by
  unfold rewireTick
  dsimp only
  split
  · exact hs
  · split
    · exact hs
    · split
      · exact setRgn_clock (freeDelay_clock hs)
      · exact hs

theorem drainBegin_clock {k : Nat} {d : Drain} (hs : ClockIs cy wq s) : ClockIs cy wq (drainBegin s k d) :=
  modRgn_clock (foldl_clock hs (fun _ _ hx => ite_clock hx (setAgt_clock hx)))

theorem drainTick_clock {k : Nat} (hs : ClockIs cy wq s) : ClockIs cy wq (drainTick s k) := by
  unfold drainTick
  split
  · split
    · exact drainBegin_clock hs
    · exact hs
  · exact hs

theorem copyTick_clock {k op n : Nat} (hs : ClockIs cy wq s) : ClockIs cy wq (copyTick s k op n) := by
  unfold copyTick
  dsimp only
  split
  · exact hs
  · split
    · exact hs
    · split
      · exact modRgn_clock hs
      · exact hs

theorem cloneTick_clock {k : Nat} (hs : ClockIs cy wq s) : ClockIs cy wq (cloneTick s k) := by
  unfold cloneTick
  dsimp only
  split
  · exact hs
  · exact foldl_clock hs fun _ _ hx => modRgn_clock (foldl_clock hx (fun _ _ => copyTick_clock))

theorem holdGate_clock {k : Nat} (hs : ClockIs cy wq s) : ClockIs cy wq (holdGate s k) := by
  unfold holdGate
  split
  · exact hs
  · split
    · exact setChan_clock (setRgn_clock hs)
    · exact hs

/-- Regions pass to the next cycle one by one, each step of one within its cycle. -/

theorem rgnsTick_clock (hs : ClockIs cy wq s) : ClockIs cy wq (rgnsTick s) :=
  foldl_clock (l := List.map _ _) (s := { s with rgns := _ }) hs fun _ _ hx => rewireTick_clock
    (drainTick_clock (cloneTick_clock (holdGate_clock hx)))

theorem watchAll_clock (hs : ClockIs cy wq s) : ClockIs cy wq (watchAll s) := hs

theorem unitsTick_clock (hs : ClockIs cy wq s) : ClockIs cy wq (unitsTick s) := hs

theorem enterChan_clock {k ep ord : Nat} {t : Token} (hs : ClockIs cy wq s) : ClockIs cy wq (enterChan s k ep ord t) := by
  unfold enterChan
  dsimp only
  split
  · exact hs
  · split
    · exact modRgn_clock hs
    · split
      · split
        · exact setChan_clock hs
        · split
          · exact hs
          · exact setChan_clock hs
      · split
        · exact setChan_clock hs
        · exact setChan_clock hs

theorem passOut_clock {ep : Nat} (hs : ClockIs cy wq s) : ClockIs cy wq (passOut s ep) := by
  unfold passOut
  dsimp only
  split
  · exact enterChan_clock (setOutPort_clock hs)
  · exact hs

theorem passGate_clock {id : Nat} (hs : ClockIs cy wq s) : ClockIs cy wq (passGate s id) := by
  unfold passGate
  dsimp only
  split
  · exact hs
  · split
    · exact hs
    · split
      · exact hs
      · split
        · exact setChan_clock hs
        · split
          · exact setChan_clock hs
          · exact hs

theorem passAll_clock (hs : ClockIs cy wq s) : ClockIs cy wq (passAll s) :=
  foldl_clock (foldl_clock hs (fun _ _ => passOut_clock)) fun _ _ => passGate_clock

/-! ### A launch packet of the host -/

theorem launchTake_clock {pn : Nat} {desc : BitVec 512} {holder : Nat} {ag : Agent} {inQueue : Bool} (hs : ClockIs cy wq s) :
    ClockIs cy wq (launchTake s pn desc holder ag inQueue).2 :=
  setPart_clock hs

theorem doorsDone_clock {ring n : Nat} (hs : ClockIs cy wq s) : ClockIs cy wq (doorsDone s ring n) :=
  modHost_clock (foldl_clock hs (fun _ _ hx => foldl_clock hx (fun _ _ => clkForget_clock))) rfl

theorem launchErr_clock {pn reason seq idx conf : Nat} (hs : ClockIs cy wq s) : ClockIs cy wq (launchErr s pn reason seq idx conf) :=
  faultRecord_clock hs

/-! ### The steps themselves -/

/-- The passage to the next cycle counts the package cycle counter up by one (R18). -/
theorem tick_cyc (s : State) : (tick s).cyc = s.cyc + 1 := by
  have h : ClockIs s.cyc s.host.wqCI s := ⟨rfl, rfl⟩
  have ht := owedTick_clock (mtAdmit_clock (placeTick_clock (btesMove_clock (unitsTick_clock (rgnsTick_clock
    (watchAll_clock (passAll_clock h)))))))
  exact congrArg (· + 1) ht.1

/-- A list of turns is made up in every cycle, in reset too (R415). -/
theorem cycleTurns_ne_nil (s : State) : cycleTurns s ≠ [] := by
  unfold cycleTurns
  split
  · simp [stages]
  · exact List.cons_ne_nil _ _

theorem nextCycle_turns_ne_nil (s : State) : (nextCycle s).turns ≠ [] := fun h =>
  cycleTurns_ne_nil s (List.append_eq_nil_iff.mp h).2

/-- The consumer indices once the entry at the head of queue `n` is taken (R408). -/
def wqTaken (s : State) (n : Nat) : SMap Nat := mapPut s.host.wqCI n (mapGet s.host.wqCI n 0 + 1)

theorem wqTaken_clock {n : Nat} (hr : ClockIs cy s.host.wqCI r) :
    ClockIs cy (wqTaken s n) (modHost r fun h => { h with wqCI := mapPut h.wqCI n (mapGet s.host.wqCI n 0 + 1) }) :=
  ⟨hr.1, by rw [modHost_host, hr.2, wqTaken]⟩

/-- A launch packet taken counts its queue's consumer index up, and no other's (R408). -/
theorem execHostLaunchPacket_clock {n : Nat} (h : wqDue s n = true) :
    ∃ t, execHostLaunchPacket n s = .next t ∧ ClockIs s.cyc (wqTaken s n) t := by
  have h0 : ClockIs s.cyc s.host.wqCI s := ⟨rfl, rfl⟩
  unfold execHostLaunchPacket
  rw [if_pos h]
  dsimp only
  have h2 {a b : Acc} {pa x k m p : Nat} {f : Part → Part} : ClockIs s.cyc (wqTaken s n) (enginePieces (modPart
      (modHost (homeAccess s a).1 fun h => { h with wqCI := mapPut h.wqCI n (mapGet s.host.wqCI n 0 + 1) }) p f) b pa x k m).1 :=
    enginePieces_clock (modPart_clock (wqTaken_clock (homeAccess_clock h0)))
  split
  · refine ⟨_, rfl, doorsDone_clock ?_⟩
    split
    · exact clkCopy_clock (launchTake_clock h2)
    · exact launchTake_clock h2
  · exact ⟨_, rfl, launchErr_clock (doorsDone_clock h2)⟩

end Sys2Proof
end
section
/-! An engine's turn and the passage of a cycle (O8), and the state right after reset (O25). -/
namespace Sys2Proof

open Machine

/-- Settles O8: an engine's turn by the definition of a step, the passage by `tick_cyc`. -/
theorem engineTurnsAndCycles : Obligations.EngineTurnsAndCycles := by
  unfold Obligations.EngineTurnsAndCycles
  intro s
  refine ⟨fun e ts ht hw => ?_, fun e ts ht hw => ?_, fun ht => ⟨tick s, ?_, tick_cyc s, rfl, nextCycle_turns_ne_nil _⟩⟩
  · simp only [step, ht, hw]
    rfl
  · simp only [step, ht, hw]
    rfl
  · simp only [step, ht]

/-- Settles O25: every map of stores is empty. -/
theorem resetLegal : Obligations.ResetLegal := by
  unfold Obligations.ResetLegal
  have none_in {α : Type} {P : Nat × α → Prop} : ∀ e ∈ ([] : SMap α), P e := fun _ he => absurd he List.not_mem_nil
  exact ⟨⟨rfl, none_in, none_in, none_in, none_in, none_in⟩, rfl, rfl, rfl, rfl⟩

end Sys2Proof
end
section
/-! Power, trace, boot, registers, queues, links and fencing (O52). -/
namespace Sys2Proof

open Machine

variable {s : State} {n : Nat}

/-! ### Trace and power -/

theorem exec_currentSample (hc : s.cyc % 1050 = 0) (h0 : s.cyc ≠ 0) (hf : dieFenced s n = false) : exec (.currentSample n) s =
    .next ((List.range 16).foldl (fun x p => if sampled x p n then traceRecord x p (currentRec x p n) else x) s) := by
  show execCurrentSample n s = _
  simp [execCurrentSample, hc, h0, hf]

theorem exec_pathWalk_outside {k ep : Nat} (hp : (partOf s n).pathAt = some (k, ep)) (hk : rgnOf s k = none) :
    exec (.pathWalk n) s = .next (setPart s n { partOf s n with pathAt := none }) := by
  show execPathWalk n s = _
  simp only [execPathWalk, hp, hk]

theorem exec_pathWalk {k ep : Nat} {r : Region} (hp : (partOf s n).pathAt = some (k, ep)) (hk : rgnOf s k = some r) :
    exec (.pathWalk n) s = .next ((pathRecs r ((partOf s n).pathDue - 1050 * fld (partOf s n).traceCtl 31 16) (pathHops s ep 32).1
      (pathHops s ep 32).2).foldl (fun x y => traceRecord x n y) (setPart s n { partOf s n with pathAt := none })) := by
  show execPathWalk n s = _
  simp only [execPathWalk, hp, hk]

theorem exec_clockGate (hi : 256 ≤ (tileOf s n).idle) (hg : (tileOf s n).gated = false) :
    exec (.clockGate n) s = .next (modTile s n fun t => { t with gated := true }) := by
  show execClockGate n s = _
  simp [execClockGate, hi, hg]

theorem exec_mtileClockGate (hi : 256 ≤ (mtileOf s n).idle) (hg : (mtileOf s n).gated = false) :
    exec (.mtileClockGate n) s = .next (setMTile s n { mtileOf s n with gated := true }) := by
  show execMtileClockGate n s = _
  simp [execMtileClockGate, hi, hg]

theorem exec_selfRefresh (h : refreshDue s n = true) :
    exec (.selfRefresh n) s = .next (modDie s (n / 2) fun d => { d with selfRef := d.selfRef ++ [n] }) := if_pos h

theorem exec_lanesIdle (h : lanesDue s n = true) :
    exec (.lanesIdle n) s = .next (setLink s n { linkOf s n with lanesIdle := true }) := if_pos h

/-! ### Fencing, queues and links -/

theorem exec_unitFence (u : Unit0) : exec (.unitFence u) s = .next (if isFenced s u then s else fenceService s u) := rfl

theorem exec_hostLaunchPacket (h : wqDue s n = true) : ∃ t, exec (.hostLaunchPacket n) s = .next t ∧
    mapGet t.host.wqCI n 0 = mapGet s.host.wqCI n 0 + 1 ∧ ∀ m, m ≠ n → mapGet t.host.wqCI m 0 = mapGet s.host.wqCI m 0 := by
  obtain ⟨t, ht, -, hq⟩ := execHostLaunchPacket_clock h
  refine ⟨t, ht, ?_, fun m hm => ?_⟩
  · rw [hq, wqTaken, mapGet_put_same]
  · rw [hq, wqTaken, mapGet_put_other _ _ _ _ _ hm]

theorem exec_gatewayCrossing {b : Nat} (h : (mtileOf s n).link = some b) :
    exec (.gatewayCrossing n) s = .next (gateDepart (gateArrive s n b) n b) := by
  show execGatewayCrossing n s = _
  simp only [execGatewayCrossing, h]

theorem exec_flitRetry (hl : linkLive s n = true) (hr : (linkOf s n).retries < 17) :
    exec (.flitRetry n) s = .next (setLink s n { linkOf s n with retries := (linkOf s n).retries + 1 }) := by
  show execFlitRetry n s = _
  simp [execFlitRetry, hl, hr]

theorem exec_linkRetryExhausted (hl : linkLive s n = true) (hr : 17 ≤ (linkOf s n).retries) :
    exec (.linkRetryExhausted n) s = .next (fenceService s (.link n)) := by
  show execLinkRetryExhausted n s = _
  simp [execLinkRetryExhausted, hl, hr]

/-! ### Boot (R415) -/

theorem exec_reset : exec .reset s = .next (bootPart s) := rfl

theorem bootPart_reset (h : s.host.booted = true ∨ s.host.failed = true) : bootPart s = resetPart s :=
  if_pos (by simpa using h)

/-- A part in reset whose image has not been refused goes on with its boot. -/
theorem bootPart_boot (hb : s.host.booted = false) (hf : s.host.failed = false) : bootPart s = match s.host.boot with
    | 0 => modHost s fun h => if imageTaken then { h with boot := 1 } else { h with failed := true }
    | 1 => modHost (Config.bootFails.foldl fenceUnit s) fun h => { h with boot := 2 }
    | _ => modHost s fun h => { h with booted := true, fwver := Config.fwVersion.toNat } :=
  if_neg (by simp [hb, hf])

/-! ### Rings that were full (R405) -/

theorem exec_consumerIndexAdvance_fault {a : Agent} {r : BitVec 512} {l : List (Agent × BitVec 512)} (hn : n < 16)
    (hh : (partOf s n).heldFault = (a, r) :: l)
    (hf : ringFull s (BitVec.ofNat 64 (partFld (partOf s n) 152 8)) (partFld (partOf s n) 160 8) (partOf s n).faultPI = false) :
    exec (.consumerIndexAdvance n) s = .next (setPart
      (physSet s (ringSlot (BitVec.ofNat 64 (partFld (partOf s n) 152 8)) (partOf s n).faultPI) (lateRec r s.cyc).toNat 64) n
      { partOf s n with faultPI := (partOf s n).faultPI + 1, heldFault := l }) := by
  show execConsumerIndexAdvance n s = _
  simp [execConsumerIndexAdvance, hn, hh, hf]

theorem exec_consumerIndexAdvance_mgmt {a : Agent} {r : BitVec 512} {l : List (Agent × BitVec 512)} (hn : 16 ≤ n)
    (hh : s.host.heldMgmt = (a, r) :: l)
    (hf : ringFull s s.host.mgmtRing s.host.mgmtCIAddr.toNat s.host.mgmtPI = false) :
    exec (.consumerIndexAdvance n) s = .next { physSet s (ringSlot s.host.mgmtRing s.host.mgmtPI) (lateRec r s.cyc).toNat 64 with
      host := { s.host with mgmtPI := s.host.mgmtPI + 1, heldMgmt := l } } := by
  show execConsumerIndexAdvance n s = _
  simp [execConsumerIndexAdvance, Nat.not_lt.mpr hn, hh, hf]

/-- Settles O52, clause by clause. -/
theorem unitSteps : Obligations.UnitSteps := by
  unfold Obligations.UnitSteps
  intro s n
  refine ⟨exec_currentSample, fun k ep hp => ⟨exec_pathWalk_outside hp, fun _ => exec_pathWalk hp⟩, rfl, rfl, exec_clockGate,
    exec_mtileClockGate, exec_selfRefresh, exec_lanesIdle, fun u hu => ?_, fun u hu => ?_, exec_hostLaunchPacket, fun _ => rfl,
    fun _ => exec_gatewayCrossing, exec_flitRetry, exec_linkRetryExhausted, exec_reset, fun h => ?_, fun hb hf => ?_, ?_, ?_⟩
  · rw [exec_unitFence, hu]
    rfl
  · rw [exec_unitFence, hu]
    rfl
  · rw [exec_reset, bootPart_reset h]
  · rw [exec_reset, bootPart_boot hb hf]
    refine ⟨fun h0 hi => ?_, fun h0 hi => ?_, fun h1 => ?_, fun h2 => ?_⟩
    · simp only [h0, hi]
      rfl
    · simp only [h0, hi]
      rfl
    · simp only [h1]
    · simp only [h2]
  · intro a r l w hn hh hw hf
    subst hw
    exact exec_consumerIndexAdvance_fault hn hh hf
  · exact fun _ _ _ => exec_consumerIndexAdvance_mgmt

end Sys2Proof
end

section
/-! The invariant `Legal`, layer 1: what it says of banks, tiles, memory tiles, save images and maps, and the operations that
replace one of them. -/
namespace Sys2Proof

open Machine

variable {b c : Bank} {t u x : Tile} {s r : State}

/-! ### Banks -/

theorem bank0_legal : BankLegal bank0 := ⟨by decide, by decide, by decide, by decide, by decide⟩

/-- Nothing of a bank counts but its mode word, its queue depths and its maintenance loop. -/
theorem BankLegal.congr (h : BankLegal b) (hm : c.mode = b.mode) (h0 : c.qd0 = b.qd0) (h1 : c.qd1 = b.qd1) (hr : c.rs = b.rs)
    (hl : c.lc = b.lc) : BankLegal c := by
  unfold BankLegal at *
  rwa [hm, h0, h1, hr, hl]

/-- A bank that is not in the tile reads as the bank at install. -/
theorem bankOf_outside (t : Tile) (n : Nat) (h : ¬ n < 4) : bankOf t n = bank0 := by
  rw [bankOf, Vector.getD, Array.getD, dif_neg (by rwa [Vector.size_toArray])]

/-! ### Compute tiles -/

theorem bankOf_tile0 (n : Nat) : bankOf tile0 n = bank0 := by
  simp only [bankOf, tile0, Vector.getD, Vector.toArray_replicate, Array.getD_eq_getD_getElem?, Array.getElem?_replicate]
  split <;> rfl

theorem tile0_legal : TileLegal tile0 := ⟨rfl, fun n => bankOf_tile0 n ▸ bank0_legal⟩

/-- A tile whose banks and whose local memory are each those of a legal tile. -/
theorem TileLegal.mix (ht : TileLegal t) (hu : TileLegal u) (hb : x.banks = t.banks) (hl : x.lm = u.lm) : TileLegal x := by
  refine ⟨hl ▸ hu.1, fun n => ?_⟩
  have e : bankOf x n = bankOf t n := by rw [bankOf, bankOf, hb]
  exact e ▸ ht.2 n

/-- Nothing of a tile counts but its banks and its local memory. -/
theorem TileLegal.congr (ht : TileLegal t) (hb : x.banks = t.banks) (hl : x.lm = t.lm) : TileLegal x := ht.mix ht hb hl

theorem bankOf_legal {n : Nat} (h : TileLegal t) : BankLegal (bankOf t n) := h.2 n

theorem setBank_legal {n : Nat} (h : TileLegal t) (hb : BankLegal b) : TileLegal (setBank t n b) := by
  refine ⟨h.1, fun m => ?_⟩
  by_cases h4 : m < 4
  · by_cases hmn : m = n
    · rw [← hmn, bankOf_setBank_same t m b h4]
      exact hb
    · rw [bankOf_setBank_other t n m b hmn]
      exact h.2 m
  · exact bankOf_outside _ m h4 ▸ bank0_legal

/-- What keeps a tile legal in each step of a fold keeps it in the fold. -/
theorem foldl_tileLegal {α : Type} {f : Tile → α → Tile} {l : List α} (ht : TileLegal t) (hf : ∀ x a, TileLegal x → TileLegal (f x a)) :
    TileLegal (l.foldl f t) := by
  induction l generalizing t with
  | nil => exact ht
  | cons a l ih => exact ih (hf t a ht)

/-! ### Memory tiles and save images -/

/-- A memory tile's memory is in canonical form. -/
def MTileLegal (m : MTile) : Prop := memWf m.mem = true

/-- Every tile of a save image is legal, and its memory tiles' memories are in canonical form. -/
def SnapLegal (x : Snap) : Prop := (∀ e ∈ x.tiles, TileLegal e.2) ∧ ∀ e ∈ x.mtiles, MTileLegal e.2

theorem mtile0_legal : MTileLegal mtile0 := rfl

/-- Nothing of a memory tile counts but its memory. -/
theorem MTileLegal.congr {m n : MTile} (h : MTileLegal m) (hm : n.mem = m.mem) : MTileLegal n := by
  unfold MTileLegal at *
  rwa [hm]

/-! ### Maps -/

section
variable {α : Type} {m : SMap α} {P : α → Prop} {k : Nat} {v d : α}

theorem mapFind_all (h : ∀ e ∈ m, P e.2) (hk : mapFind m k = some v) : P v := by
  induction m with
  | nil => cases hk
  | cons x t ih =>
    simp only [mapFind] at hk
    split at hk
    · cases hk
    · split at hk
      · cases hk
        exact h x (List.mem_cons_self ..)
      · exact ih (fun e he => h e (List.mem_cons_of_mem _ he)) hk

theorem mapGet_all (h : ∀ e ∈ m, P e.2) (hd : P d) : P (mapGet m k d) := by
  unfold mapGet
  cases hk : mapFind m k with
  | none => exact hd
  | some v => exact mapFind_all h hk

theorem mapPut_all (h : ∀ e ∈ m, P e.2) (hv : P v) : ∀ e ∈ mapPut m k v, P e.2 := by
  intro e he
  rcases mem_put m k v e he with rfl | he
  · exact hv
  · exact h e he

theorem mapDel_all (h : ∀ e ∈ m, P e.2) : ∀ e ∈ mapDel m k, P e.2 := fun e he => h e (mem_del m k e he)

theorem filter_all {p : Nat × α → Bool} (h : ∀ e ∈ m, P e.2) : ∀ e ∈ m.filter p, P e.2 :=
  fun e he => h e (List.mem_of_mem_filter he)

/-- The entries of a map whose values are changed one by one. -/
theorem map_all {f : Nat × α → Nat × α} (h : ∀ e ∈ m, P e.2) (hf : ∀ e, P e.2 → P (f e).2) : ∀ e ∈ m.map f, P e.2 := by
  intro e he
  obtain ⟨a, ha, rfl⟩ := List.mem_map.mp he
  exact hf a (h a ha)

end

/-! ### The state -/

theorem legal_iff : Legal s ↔ memWf s.mem = true ∧ (∀ e ∈ s.tiles, TileLegal e.2) ∧ (∀ e ∈ s.shadows, TileLegal e.2) ∧
    (∀ e ∈ s.mtiles, MTileLegal e.2) ∧ (∀ e ∈ s.shadowMts, MTileLegal e.2) ∧ ∀ e ∈ s.saves, SnapLegal e.2 := Iff.rfl

theorem Legal.memWf (h : Legal s) : memWf s.mem = true := h.1
theorem Legal.tiles (h : Legal s) : ∀ e ∈ s.tiles, TileLegal e.2 := h.2.1
theorem Legal.shadows (h : Legal s) : ∀ e ∈ s.shadows, TileLegal e.2 := h.2.2.1
theorem Legal.mtiles (h : Legal s) : ∀ e ∈ s.mtiles, MTileLegal e.2 := h.2.2.2.1
theorem Legal.shadowMts (h : Legal s) : ∀ e ∈ s.shadowMts, MTileLegal e.2 := h.2.2.2.2.1
theorem Legal.saves (h : Legal s) : ∀ e ∈ s.saves, SnapLegal e.2 := h.2.2.2.2.2

theorem tileOf_legal {n : Nat} (h : Legal s) : TileLegal (tileOf s n) := mapGet_all h.tiles tile0_legal
theorem mtileOf_legal {n : Nat} (h : Legal s) : MTileLegal (mtileOf s n) := mapGet_all h.mtiles mtile0_legal

/-- A state whose stores are those of a legal state. -/
theorem Legal.congr (h : Legal s) (hm : r.mem = s.mem) (ht : r.tiles = s.tiles) (hs : r.shadows = s.shadows) (hn : r.mtiles = s.mtiles)
    (ho : r.shadowMts = s.shadowMts) (hx : r.saves = s.saves) : Legal r := by
  rw [legal_iff, hm, ht, hs, hn, ho, hx]
  exact h

theorem setTile_legal {n : Nat} (h : Legal s) (ht : TileLegal t) : Legal (setTile s n t) := ⟨h.1, mapPut_all h.tiles ht, h.2.2⟩
theorem modTile_legal {n : Nat} {f : Tile → Tile} (h : Legal s) (hf : ∀ t, TileLegal t → TileLegal (f t)) : Legal (modTile s n f) :=
  setTile_legal h (hf _ (tileOf_legal h))
theorem modBank_legal {n i : Nat} {f : Bank → Bank} (h : Legal s) (hf : ∀ c, BankLegal c → BankLegal (f c)) :
    Legal (modBank s n i f) :=
  modTile_legal h fun _ ht => setBank_legal ht (hf _ (bankOf_legal ht))
theorem setMTile_legal {n : Nat} {m : MTile} (h : Legal s) (hm : MTileLegal m) : Legal (setMTile s n m) :=
  ⟨h.1, h.2.1, h.2.2.1, mapPut_all h.mtiles hm, h.2.2.2.2⟩

/-- What keeps the invariant in each step of a fold keeps it in the fold. -/
theorem foldl_legal {α : Type} {f : State → α → State} {l : List α} (h : Legal s) (hf : ∀ x a, Legal x → Legal (f x a)) :
    Legal (l.foldl f s) := by
  induction l generalizing s with
  | nil => exact h
  | cons a l ih => exact ih (hf s a h)

theorem foldl_fst_legal {α β : Type} {f : State × β → α → State × β} {l : List α} {p : State × β} (h : Legal p.1)
    (hf : ∀ p a, Legal p.1 → Legal (f p a).1) : Legal (l.foldl f p).1 := by
  induction l generalizing p with
  | nil => exact h
  | cons a l ih => exact ih (hf p a h)

theorem ite_legal {p : Prop} {_ : Decidable p} (h : Legal s) (hr : Legal r) : Legal (if p then s else r) := by
  split
  · exact h
  · exact hr

section
variable
    {cyc free : Nat} {turns : List Turn} {inbox : List Input} {cur : Firing} {nid : Nat} {shadowPorts : SMap InPort}
    {shadowOuts : SMap OutPort} {inPorts : SMap InPort} {outPorts : SMap OutPort} {chans : SMap Chan} {rgns : SMap Region}
    {agts : SMap Agt} {agtTlb : SMap (List TlbEnt)} {btes : SMap BteCh} {memBad : List Nat} {lmeta : SMap (BitVec 64)}
    {sums : SMap (Nat × Nat)} {accs : List Acc} {owed : List Owed} {walks : List Walk} {packets : List NetPacket}
    {futOps : List FutOp} {arrivals : List Arrival} {dies : Vector Die 4} {parts : Vector Part 16} {xtabs : List XTab}
    {host : HostPort}
  {m : SMap Byte}

/-- What is no store of a state does not count. -/
theorem Legal.frame (h : Legal s) :
    Legal { s with
      cyc := cyc, free := free, turns := turns, inbox := inbox, cur := cur, nid := nid, shadowPorts := shadowPorts,
      shadowOuts := shadowOuts, inPorts := inPorts, outPorts := outPorts, chans := chans, rgns := rgns, agts := agts,
      agtTlb := agtTlb, btes := btes, memBad := memBad, lmeta := lmeta, sums := sums, accs := accs, owed := owed, walks := walks,
      packets := packets, futOps := futOps, arrivals := arrivals, dies := dies, parts := parts, xtabs := xtabs, host := host } := h

/-- A legal state in which a memory in canonical form takes the place of the part's memory; what is no store does not count. -/
theorem Legal.withMem (h : Legal s) (hm : Machine.memWf m = true) :
    Legal { s with
      cyc := cyc, free := free, turns := turns, inbox := inbox, cur := cur, nid := nid, shadowPorts := shadowPorts,
      shadowOuts := shadowOuts, inPorts := inPorts, outPorts := outPorts, chans := chans, rgns := rgns, agts := agts,
      agtTlb := agtTlb, btes := btes, memBad := memBad, lmeta := lmeta, sums := sums, accs := accs, owed := owed, walks := walks,
      packets := packets, futOps := futOps, arrivals := arrivals, dies := dies, parts := parts, xtabs := xtabs, host := host,
      mem := m } := ⟨hm, h.2⟩

end

/-- The state that a pair holds, by the equation that a match on the pair gives. -/
theorem Legal.ofPair {α : Type} {p : State × α} {a : α} (h : Legal p.1) (e : p = (s, a)) : Legal s := by
  rw [e] at h
  exact h
theorem Legal.ofPair' {α : Type} {p : α × State} {a : α} (h : Legal p.2) (e : p = (a, s)) : Legal s := by
  rw [e] at h
  exact h

/-- Whatever state a step goes to is legal. -/
def OutLegal (o : Host.Outcome State Fault Refusal) : Prop := ∀ t, o = .next t → Legal t

/-- The state that a result may hold is legal. -/
def OptLegal (o : Option State) : Prop := ∀ t, o = some t → Legal t

theorem getD_legal {o : Option State} (ho : OptLegal o) (h : Legal s) : Legal (o.getD s) := by
  cases o with
  | none => exact h
  | some t => exact ho t rfl

/-- The state that a firing's effect goes on from is legal. -/
def EffLegal (e : Effect) : Prop := ∀ x, e = .go x → Legal x.st

theorem go_legal {e : Eff} (h : Legal e.st) : EffLegal (.go e) := by
  intro x hx
  cases hx
  exact h
theorem stop_legal {c : Nat} {d : W64} : EffLegal (.stop c d) := by
  intro x hx
  cases hx
theorem EffLegal.ofGo {e : Eff} {x : Effect} (h : EffLegal x) (hx : x = .go e) : Legal e.st := h e hx

theorem next_legal (h : Legal s) : OutLegal (.next s) := by
  intro t e
  cases e
  exact h
theorem some_legal (h : Legal s) : OptLegal (some s) := by
  intro t e
  cases e
  exact h
theorem none_legal : OptLegal none := by
  intro t e
  cases e

end Sys2Proof
end

section
/-! The invariant `Legal`, layer 2: the state's own operations, banks and local memory, homes and accesses. -/
namespace Sys2Proof

open Machine

variable {s : State} {t : Tile} {b : Bank}

/-! ### The state's own operations -/

theorem setInPort_legal {e : Nat} {p : InPort} (hs : Legal s) : Legal (setInPort s e p) := hs.frame

theorem setOutPort_legal {e : Nat} {p : OutPort} (hs : Legal s) : Legal (setOutPort s e p) := hs.frame

theorem setChan_legal {c : Nat} {x : Chan} (hs : Legal s) : Legal (setChan s c x) := hs.frame

theorem setAgt_legal {n : Nat} {a : Agt} (hs : Legal s) : Legal (setAgt s n a) := hs.frame

theorem setBte_legal {n ch : Nat} {c : BteCh} (hs : Legal s) : Legal (setBte s n ch c) := hs.frame

theorem fonReport_legal {tile bte ch seq status detail addr : Nat} (hs : Legal s) :
    Legal (fonReport s tile bte ch seq status detail addr) :=
  setBte_legal hs

theorem setRgn_legal {k : Nat} {r : Region} (hs : Legal s) : Legal (setRgn s k r) := hs.frame

theorem modRgn_legal {k : Nat} {f : Region → Region} (hs : Legal s) : Legal (modRgn s k f) := by
  unfold modRgn
  split
  · exact setRgn_legal hs
  · exact hs

theorem setPart_legal {p : Nat} {x : Machine.Part} (hs : Legal s) : Legal (setPart s p x) := hs.frame

theorem modPart_legal {p : Nat} {f : Machine.Part → Machine.Part} (hs : Legal s) : Legal (modPart s p f) := setPart_legal hs

theorem modDie_legal {d : Nat} {f : Die → Die} (hs : Legal s) : Legal (modDie s d f) := hs.frame

theorem modHost_legal {f : HostPort → HostPort} (hs : Legal s) : Legal (modHost s f) := hs.frame

theorem freshId_legal (hs : Legal s) : Legal (freshId s).2 := hs.frame

theorem freeDelay_legal (hs : Legal s) : Legal (freeDelay s).2 := hs.frame

theorem errNote_legal {l : Loc} (hs : Legal s) : Legal (errNote s l) := by
  unfold errNote
  split
  · exact modHost_legal hs
  · exact hs

theorem physSet_legal {pa x n : Nat} (hs : Legal s) : Legal (physSet s pa x n) := hs.withMem (memWf_bytesSet _ _ _ _ hs.memWf)

theorem faultRecord_legal {p : Nat} {who : Agent} {r : BitVec 512} (hs : Legal s) : Legal (faultRecord s p who r) := by
  unfold faultRecord
  dsimp only
  split
  · exact setPart_legal hs
  · exact setPart_legal (physSet_legal hs)

theorem mgmtRecord_legal {who : Agent} {r : BitVec 512} (hs : Legal s) : Legal (mgmtRecord s who r) := by
  unfold mgmtRecord
  dsimp only
  split
  · exact hs.frame
  · exact (physSet_legal hs).frame

theorem traceRecord_legal {p : Nat} {r : BitVec 512} (hs : Legal s) : Legal (traceRecord s p r) := by
  unfold traceRecord
  dsimp only
  split
  · exact setPart_legal hs
  · exact setPart_legal (physSet_legal hs)

theorem respond_legal {tag status val : Nat} (hs : Legal s) : Legal (respond s tag status val) := mgmtRecord_legal hs

theorem poolPage_legal {pn pa : Nat} {r : State} (hs : Legal s) (e : poolPage s pn = some (pa, r)) : Legal r := by
  simp only [poolPage] at e
  split at e
  · cases e
    exact setPart_legal (hs.withMem (memWf_filter _ _ hs.memWf))
  · cases e

theorem walkAlloc_legal {pn vp n : Nat} {write : Bool} (hs : Legal s) : Legal (walkAlloc s pn vp write n).2 := by
  induction n generalizing s with
  | zero => exact hs
  | succ n ih =>
    unfold walkAlloc
    split
    · exact hs
    · split
      · split
        · exact ih (physSet_legal (poolPage_legal hs ‹_›))
        · exact hs
      · exact hs

theorem walkServed_legal {pn vp : Nat} {write : Bool} (hs : Legal s) : Legal (walkServed s pn vp write).2 := by
  unfold walkServed
  split
  · exact walkAlloc_legal hs
  · exact hs

theorem clkRelease_legal {pn h : Nat} {i : ObjId} {sc : Nat} {a : Place} (hs : Legal s) : Legal (clkRelease s pn h i sc a) := by
  unfold clkRelease
  dsimp only
  split
  · exact hs
  · exact setPart_legal hs

theorem clkAcquire_legal {pn h : Nat} {i : ObjId} {sc : Nat} {b : Place} {home : Option Place} (hs : Legal s) :
    Legal (clkAcquire s pn h i sc b home) := by
  unfold clkAcquire
  dsimp only
  split
  · exact hs
  · split
    · split
      · exact setPart_legal hs
      · exact hs
    · exact hs

theorem clkJoin_legal {pn : Nat} {src dst : ObjId} {a : Place} (hs : Legal s) : Legal (clkJoin s pn src dst a) := by
  unfold clkJoin
  dsimp only
  split
  · exact hs
  · split
    · exact hs
    · exact setPart_legal hs

theorem clkBare_legal {pn : Nat} {i : ObjId} {sc : Nat} {a : Place} (hs : Legal s) : Legal (clkBare s pn i sc a) := modPart_legal hs

theorem raceRecord_legal {p : Nat} {r : BitVec 512} (hs : Legal s) : Legal (raceRecord s p r) := by
  unfold raceRecord
  dsimp only
  split
  · exact setPart_legal hs
  · exact modPart_legal (clkBare_legal (physSet_legal (clkBare_legal (physSet_legal hs))))

theorem clkCopy_legal {pn : Nat} {src dst : ObjId} (hs : Legal s) : Legal (clkCopy s pn src dst) := modPart_legal hs

theorem clkForget_legal {pn : Nat} {i : ObjId} (hs : Legal s) : Legal (clkForget s pn i) := modPart_legal hs

theorem clkRename_legal {pn : Nat} {src dst : ObjId} (hs : Legal s) : Legal (clkRename s pn src dst) := modPart_legal hs

/-! ### Banks and local memory -/

theorem kSet_legal {b : Bank} {j : Nat} {x : W64} (hb : BankLegal b) : BankLegal (kSet b j x) := hb.congr rfl rfl rfl rfl rfl

theorem vSet_legal {b : Bank} {j : Nat} {x : W512} (hb : BankLegal b) : BankLegal (vSet b j x) := hb.congr rfl rfl rfl rfl rfl

theorem qSet_legal {b : Bank} {i : Nat} {l : List W64} (hb : BankLegal b) : BankLegal (qSet b i l) := by
  unfold qSet
  split
  · exact hb.congr rfl rfl rfl rfl rfl
  · exact hb.congr rfl rfl rfl rfl rfl

theorem setPred_legal {b : Bank} {i : Nat} {v : Bool} (hb : BankLegal b) : BankLegal (setPred b i v) := hb.congr rfl rfl rfl rfl rfl

theorem lmWrite_legal {a x n : Nat} (ht : TileLegal t) : TileLegal (lmWrite t a x n) :=
  ⟨memWf_bytesSet _ _ _ _ ht.1, ht.2⟩

theorem lmStores_legal (ht : TileLegal t) : TileLegal (lmStores t) :=
  foldl_tileLegal (ht.congr rfl rfl) fun _ _ => lmWrite_legal

theorem lmTake_legal {t : Tile} {pos gen addr : Nat} {k : Kind} {x : W512} (ht : TileLegal t) :
    TileLegal (lmTake t pos gen addr k x) := by
  unfold lmTake
  dsimp only
  split
  · exact lmWrite_legal ht
  · exact ht
  · split
    · split
      · exact ht.congr rfl rfl
      · exact ht.congr rfl rfl
    · split
      · exact ht.congr rfl rfl
      · exact ht

theorem fetchNext_legal (ht : TileLegal t) : TileLegal (fetchNext s t) := ht.congr rfl rfl

/-! ### Homes and accesses -/

theorem noteEvict_legal {pn line : Nat} (hs : Legal s) : Legal (noteEvict s pn line) := by
  unfold noteEvict
  dsimp only
  split
  · refine hs.withMem ?_
    split
    · exact hs.memWf
    · exact memWf_bytesSet _ _ _ _ hs.memWf
  · exact hs.frame

theorem metaFill_legal {pn line : Nat} (hs : Legal s) : Legal (metaFill s pn line) := by
  unfold metaFill
  split
  · exact hs.frame
  · exact hs

theorem cacheTouch_legal {pn pa : Nat} {write : Bool} (hs : Legal s) : Legal (cacheTouch s pn pa write) := by
  unfold cacheTouch
  dsimp only
  split
  · exact hs
  · exact foldl_legal (setMTile_legal (ite_legal hs (metaFill_legal hs)) ((mtileOf_legal hs).congr rfl)) fun _ _ => noteEvict_legal

theorem hbmMetaSet_legal {pn : Nat} {x : BitVec 64} {line : Nat} (hs : Legal s) : Legal (hbmMetaSet s pn x line) := by
  unfold hbmMetaSet
  split
  · exact hs.frame
  · exact physSet_legal hs

theorem metaSet_legal {pn : Nat} {x : BitVec 64} {a : Loc} (hs : Legal s) : Legal (metaSet s pn x a) := by
  unfold metaSet
  dsimp only
  split
  · exact setMTile_legal hs ((mtileOf_legal hs).congr rfl)
  · exact hbmMetaSet_legal hs
  · exact hs

theorem locSet_legal {l : Loc} {x mask n : Nat} (hs : Legal s) : Legal (locSet s l x mask n) := by
  unfold locSet
  split
  · exact hs.withMem (memWf_bytesMask _ _ _ _ _ hs.memWf)
  · exact setMTile_legal hs (memWf_bytesMask _ _ _ _ _ (mtileOf_legal hs))
  · exact hs
  · exact setTile_legal hs ⟨memWf_bytesMask _ _ _ _ _ (tileOf_legal hs).1, (tileOf_legal hs).2⟩

theorem clearBad_legal {l : Loc} {mask n : Nat} (hs : Legal s) : Legal (clearBad s l mask n) := by
  unfold clearBad
  dsimp only
  split
  · exact hs.frame
  · exact setMTile_legal hs ((mtileOf_legal hs).congr rfl)
  · exact hs
  · exact setTile_legal hs ((tileOf_legal hs).congr rfl rfl)

theorem raceCheck_legal {a : Machine.Acc} (hs : Legal s) : Legal (raceCheck s a).1 := by
  unfold raceCheck
  dsimp only
  split
  · exact hs
  · split
    · split
      · exact hs
      · split
        · split
          · exact hs
          · exact raceRecord_legal hs
        · split
          · exact hs
          · exact raceRecord_legal hs
        · split
          · exact hs
          · exact raceRecord_legal hs
    · split
      · split
        · split
          · split
            · exact raceRecord_legal hs
            · exact hs
          · exact hs
        · exact hs
      · exact hs

theorem raceNote_legal {a : Machine.Acc} (hs : Legal s) : Legal (raceNote s a) := by
  unfold raceNote
  dsimp only
  split
  · exact hs
  · split
    · exact metaSet_legal hs
    · exact hs

theorem stackWake_legal {pn pa : Nat} (hs : Legal s) : Legal (stackWake s pn pa) := by
  unfold stackWake
  split
  · exact modDie_legal hs
  · exact hs

theorem homeAccess_legal {a0 : Acc} (hs : Legal s) : Legal (homeAccess s a0).1 := by
  unfold homeAccess
  extract_lets a pl s1
  have h1 : Legal s1 := by
    simp only [s1]
    split
    · exact clkAcquire_legal hs
    · exact hs
  split
  · exact (raceCheck_legal h1).ofPair ‹_›
  · have h2 := (raceCheck_legal h1).ofPair ‹_›
    extract_lets s3 m s4 s5 s6
    have h3 : Legal s3 := by
      simp only [s3]
      split
      · exact cacheTouch_legal (stackWake_legal h2)
      · exact h2
    split
    · exact errNote_legal (raceNote_legal h3)
    · have h5 : Legal s5 := raceNote_legal (by
        simp only [s4]
        split
        · exact clearBad_legal (locSet_legal h3)
        · exact h3)
      show Legal s6
      simp only [s6]
      split
      · exact clkRelease_legal h5
      · exact h5

theorem setLink_legal {l : Nat} {x : Link} (hs : Legal s) : Legal (setLink s l x) := modHost_legal hs

theorem powerTouch_legal {pn : Nat} {l : Loc} (hs : Legal s) : Legal (powerTouch s pn l).2 := by
  unfold powerTouch
  dsimp only
  split
  · exact stackWake_legal hs
  · exact setLink_legal hs
  · exact hs

theorem accDelay_legal {pn : Nat} {l : Loc} (hs : Legal s) : Legal (accDelay s pn l).2 := by
  unfold accDelay
  split
  · exact hs
  · split
    · exact hs
    · exact freeDelay_legal hs
  · exact freeDelay_legal hs

theorem accIssue_legal {a : Machine.Acc} {extra : Nat} (hs : Legal s) : Legal (accIssue s a extra).2 :=
  (accDelay_legal (powerTouch_legal (freshId_legal hs))).frame

theorem owedPerform_legal {o : Owed} (hs : Legal s) : Legal (owedPerform s o) := clkRelease_legal hs

theorem releaseLater_legal {o : Owed} (hs : Legal s) : Legal (releaseLater s o) := by
  unfold releaseLater
  split
  · exact owedPerform_legal hs
  · exact hs.frame

theorem owedTick_legal (hs : Legal s) : Legal (owedTick s) :=
  foldl_legal hs.frame fun _ _ hx => ite_legal (owedPerform_legal hx) hx.frame

theorem doorRing_legal {ring pi : Nat} {l : List (Nat × Nat × Nat)} (hs : Legal s) : Legal (doorRing s ring pi l) :=
  foldl_legal (modHost_legal hs) fun _ _ => releaseLater_legal

theorem doorsDone_legal {ring n : Nat} (hs : Legal s) : Legal (doorsDone s ring n) :=
  modHost_legal (foldl_legal hs (fun _ _ hx => foldl_legal hx (fun _ _ => clkForget_legal)))

theorem accPut_legal {a : Machine.Acc} (hs : Legal s) : Legal (accPut s a) := hs.frame

theorem accDel_legal {id : Nat} (hs : Legal s) : Legal (accDel s id) := hs.frame

theorem mtAdmit_legal (hs : Legal s) : Legal (mtAdmit s) :=
  foldl_legal hs fun _ _ hx => ite_legal (ite_legal (accPut_legal (setMTile_legal hx ((mtileOf_legal hx).congr rfl))) hx) hx

theorem walkAsk_legal {d pn vp : Nat} {write : Bool} {who : Walker} (hs : Legal s) : Legal (walkAsk s d pn vp write who) := by
  unfold walkAsk
  dsimp only
  split
  · exact hs.frame
  · split
    · exact hs
    · exact (freeDelay_legal (freshId_legal hs)).frame

theorem dieEnter_legal {d : Nat} {e : TlbEnt} (hs : Legal s) : Legal (dieEnter s d e) := modDie_legal hs

theorem walkNow_legal {d pn vp : Nat} {write : Bool} (hs : Legal s) : Legal (walkNow s d pn vp write).1 := by
  unfold walkNow
  dsimp only
  split
  · split
    · exact (walkServed_legal hs).ofPair' ‹_›
    · exact dieEnter_legal ((walkServed_legal hs).ofPair' ‹_›)
  · exact (walkServed_legal hs).ofPair' ‹_›

theorem xlateNow_legal {d pn vp : Nat} {write : Bool} (hs : Legal s) : Legal (xlateNow s d pn vp write).1 := by
  unfold xlateNow
  split
  · split
    · exact walkNow_legal hs
    · exact hs
  · exact walkNow_legal hs

theorem enginePieces_legal {a : Acc} {pa x k n : Nat} (hs : Legal s) : Legal (enginePieces s a pa x k n).1 := by
  induction k generalizing s a pa x n with
  | zero => exact hs
  | succ k ih =>
    cases n with
    | zero => exact hs
    | succ n =>
      refine ih ?_
      split
      · exact faultRecord_legal (homeAccess_legal hs)
      · exact homeAccess_legal hs

theorem readPieces_legal {a : Acc} {pa k n : Nat} (hs : Legal s) : Legal (readPieces s a pa k n) := by
  induction k generalizing s a pa n with
  | zero => exact hs
  | succ k ih =>
    cases n with
    | zero => exact hs
    | succ n => exact ih (homeAccess_legal hs)

theorem engineFail_legal {a : Machine.Acc} {va x r elem engine kind : Nat} (hs : Legal s) :
    Legal (engineWrite.engineFail s a va x r elem engine kind) :=
  faultRecord_legal hs

theorem engineWrite_legal {a : Acc} {d va x n elem engine kind : Nat} (hs : Legal s) :
    Legal (engineWrite s a d va x n elem engine kind).1 := by
  have h1 : Legal (xlateNow s d a.part (va / 4096) true).1 := xlateNow_legal hs
  have h2 : Legal (if va / 4096 = (va + n - 1) / 4096 then xlateNow s d a.part (va / 4096) true
      else xlateNow (xlateNow s d a.part (va / 4096) true).1 d a.part ((va + n - 1) / 4096) true).1 := by
    split
    · exact h1
    · exact xlateNow_legal h1
  unfold engineWrite
  dsimp only
  split
  · exact enginePieces_legal (enginePieces_legal h2)
  · exact engineFail_legal h2
  · exact engineFail_legal h2

end Sys2Proof
end

section
/-! The invariant `Legal`: copies, ports, channels and traps, and the results of a firing. -/
namespace Sys2Proof

open Machine

variable {s : State} {t : Tile} {b : Bank}

/-! ### Copies -/

theorem bteRead_legal {n ch : Nat} (hs : Legal s) : Legal (bteRead s n ch) := by
  unfold bteRead
  dsimp only
  split
  · split
    · exact foldl_legal (setBte_legal hs) fun _ _ => accIssue_legal
    · exact hs
  · exact hs

theorem bteWrite_legal {n ch : Nat} {r : BteRun} {u : BteUnit} (hs : Legal s) : Legal (bteWrite s n ch r u) :=
  foldl_legal hs fun _ _ hx => foldl_legal hx fun _ _ => accIssue_legal

theorem bteDrain_legal {n ch : Nat} (hs : Legal s) : Legal (bteDrain s n ch) := by
  unfold bteDrain
  dsimp only
  split
  · split
    · split
      · exact setBte_legal hs
      · exact bteWrite_legal (setBte_legal hs)
    · exact hs
  · exact hs

theorem bteMove_legal {n : Nat} {f : BteCh → Bool} {g : State → Nat → Nat → State} (hs : Legal s)
    (hg : ∀ x n ch, Legal x → Legal (g x n ch)) : Legal (bteMove s n f g) := by
  unfold bteMove
  split
  · exact hg _ _ _ (modDie_legal hs)
  · exact hs

theorem bteMoves_legal {n : Nat} (hs : Legal s) : Legal (bteMoves s n) :=
  foldl_legal (foldl_legal hs fun _ _ hx => bteMove_legal hx fun _ _ _ => bteDrain_legal)
    fun _ _ hx => bteMove_legal hx fun _ _ _ => bteRead_legal

theorem btesMove_legal (hs : Legal s) : Legal (btesMove s) := foldl_legal hs fun _ _ => bteMoves_legal

theorem bteDeliver_legal {n ch : Nat} {a : Machine.Acc} (hs : Legal s) : Legal (bteDeliver s n ch a) := by
  unfold bteDeliver
  dsimp only
  split
  · exact accDel_legal hs
  · split
    · exact faultRecord_legal (setBte_legal (accDel_legal hs))
    · split
      · exact setBte_legal (accDel_legal hs)
      · split
        · exact setBte_legal (accDel_legal hs)
        · exact accDel_legal hs

theorem launchRel_legal {a : Machine.Acc} (hs : Legal s) : Legal (launchRel s a) := by
  unfold launchRel
  split
  · split
    · exact clkRelease_legal hs
    · exact hs
  · exact hs

theorem performAcc_legal {a : Machine.Acc} (hs : Legal s) : Legal (performAcc s a) := by
  unfold performAcc
  dsimp only
  split
  · refine bteDeliver_legal (launchRel_legal ?_)
    split
    · exact setLink_legal (homeAccess_legal hs)
    · exact homeAccess_legal hs
  · split
    · refine accPut_legal (launchRel_legal ?_)
      split
      · exact setLink_legal (homeAccess_legal hs)
      · exact homeAccess_legal hs
    · refine accDel_legal (launchRel_legal ?_)
      split
      · exact setLink_legal (homeAccess_legal hs)
      · exact homeAccess_legal hs

/-! ### Ports, channels and traps -/

theorem takeRequest_legal {ep : Nat} (hs : Legal s) : Legal (takeRequest s ep) := by
  unfold takeRequest
  split
  · split
    · exact setChan_legal hs
    · exact hs
  · exact hs

theorem queueOut_legal {ep j : Nat} {t : Option Token} (hs : Legal s) : Legal (queueOut s ep j t) := setOutPort_legal hs

theorem fillOut_legal {ep j : Nat} {t : Token} (hs : Legal s) : Legal (fillOut s ep j t) := setOutPort_legal hs

theorem dropOut_legal {ep j : Nat} (hs : Legal s) : Legal (dropOut s ep j) := by
  unfold dropOut
  dsimp only
  split
  · split
    · split
      · exact setChan_legal (setOutPort_legal hs)
      · exact setOutPort_legal hs
    · exact setOutPort_legal hs
  · exact setOutPort_legal hs

theorem enterChan_legal {k ep ord : Nat} {t : Token} (hs : Legal s) : Legal (enterChan s k ep ord t) := by
  unfold enterChan
  dsimp only
  split
  · exact hs
  · split
    · exact modRgn_legal hs
    · split
      · split
        · exact setChan_legal hs
        · split
          · exact hs
          · exact setChan_legal hs
      · split
        · exact setChan_legal hs
        · exact setChan_legal hs

theorem enqueueTok_legal {ep blk : Nat} {t : Token} (hs : Legal s) : Legal (enqueueTok s ep blk t) := by
  unfold enqueueTok
  dsimp only
  split
  · split
    · exact setInPort_legal hs
    · exact setInPort_legal hs
  · exact setInPort_legal hs

theorem pathStart_legal {k : Nat} {r : Region} {ep : Nat} (hs : Legal s) : Legal (pathStart s k r ep) := by
  unfold pathStart
  dsimp only
  split
  · exact setPart_legal hs
  · exact hs

theorem deqHead_legal {ep : Nat} (hs : Legal s) : Legal (deqHead s ep) := by
  unfold deqHead
  dsimp only
  split
  · exact hs
  · split
    · exact setInPort_legal hs
    · split
      · exact setInPort_legal hs
      · exact pathStart_legal (setRgn_legal (setInPort_legal hs))

theorem watchPut_legal {tile : Nat} {id : W64} (hs : Legal s) : Legal (watchPut s tile id) := by
  unfold watchPut
  dsimp only
  split
  · exact hs
  · exact setTile_legal (freeDelay_legal hs) ((tileOf_legal hs).congr rfl rfl)

theorem postHeld_legal {f : Firing} {i : Instr} (hs : Legal s) : Legal (postHeld s f i) := by
  unfold postHeld
  split
  · exact watchPut_legal hs
  · split
    · exact walkAsk_legal hs
    · exact hs

theorem stopRegion_legal {rk : Nat} (hs : Legal s) : Legal (stopRegion s rk) := modRgn_legal (freeDelay_legal hs)

theorem takeTrap_legal {tile : Nat} {tr : Trap} (hs : Legal s) : Legal (takeTrap s tile tr) := by
  unfold takeTrap
  dsimp only
  split
  · exact stopRegion_legal (modTile_legal hs (fun _ ht => ht.congr rfl rfl))
  · exact modTile_legal hs fun _ ht => ht.congr rfl rfl

theorem trapPE_legal {f : Firing} {cause : Nat} {detail : W64} (hs : Legal s) : Legal (trapPE s f cause detail) := takeTrap_legal hs

theorem startHalt_legal {rk cause : Nat} {value : W64} {elem : Nat} (hs : Legal s) : Legal (startHalt s rk cause value elem) :=
  modRgn_legal hs

/-! ### The results of a firing -/

/-- Flags ORed in leave the reserved bits of the mode word at zero (R71, R73). -/
theorem modeRaise_reserved {m : W64} {r : Raise} (h : m &&& ~~~modeMask = 0) : modeRaise m r &&& ~~~modeMask = 0 := by
  have hr : (r.setWidth 64 <<< 8) &&& ~~~modeMask = 0 := by
    revert r
    decide
  rw [modeRaise, BitVec.and_comm, BitVec.and_or_distrib_left, BitVec.and_comm _ m, h, BitVec.and_comm, hr]
  rfl

/-- A write of the mode word leaves its reserved bits at zero (R71, R151). -/
theorem modeWrite_reserved {m : W64} : modeWrite m &&& ~~~modeMask = 0 := by
  rw [modeWrite, BitVec.and_assoc, BitVec.and_not_self]
  exact BitVec.and_zero

/-- A bank whose mode word alone is changed, its reserved bits zero. -/
theorem BankLegal.withMode {m : W64} (hb : BankLegal b) (hm : m &&& ~~~modeMask = 0) : BankLegal { b with mode := m } := ⟨hm, hb.2⟩

theorem raise_legal {r : Raise} (hb : BankLegal b) : BankLegal { b with mode := modeRaise b.mode r } :=
  hb.withMode (modeRaise_reserved hb.1)

theorem putDst_legal {tile b job : Nat} {d : Dst} {r : Kind × W512} (hs : Legal s) : Legal (putDst s tile b job d r) := by
  unfold putDst
  split
  · exact hs
  · exact modBank_legal hs fun _ => kSet_legal
  · exact modBank_legal hs fun _ => vSet_legal
  · exact modBank_legal hs fun _ => qSet_legal
  · exact fillOut_legal hs
  · exact modTile_legal hs fun _ => lmTake_legal

theorem finishJob_legal {tile : Nat} {j : Job} (hs : Legal s) : Legal (finishJob s tile j) := by
  refine modBank_legal (putDst_legal (putDst_legal (modTile_legal hs fun _ ht => ht.congr rfl rfl))) fun c hc => ?_
  dsimp only
  split
  · exact setPred_legal (raise_legal hc)
  · exact raise_legal hc

theorem dropDst_legal {tile job : Nat} {d : Dst} (hs : Legal s) : Legal (dropDst s tile job d) := by
  unfold dropDst
  split
  · exact dropOut_legal hs
  · exact hs

theorem dropJob_legal {tile : Nat} {j : Job} (hs : Legal s) : Legal (dropJob s tile j) :=
  dropDst_legal (dropDst_legal (modTile_legal hs (fun _ ht => ht.congr rfl rfl)))

theorem infAdd_legal {pn tab e r : Nat} {up : Bool} (hs : Legal s) : Legal (infAdd s pn tab e r up) := hs.frame

theorem takePacket_legal {tile : Nat} (hs : Legal s) : Legal (takePacket s tile) := by
  unfold takePacket
  dsimp only
  split
  · exact hs
  · split
    · refine infAdd_legal ?_
      split
      · exact clkAcquire_legal (modTile_legal hs (fun _ ht => ht.congr rfl rfl))
      · exact modTile_legal hs fun _ ht => ht.congr rfl rfl
    · split
      · exact clkAcquire_legal (modTile_legal hs (fun _ ht => ht.congr rfl rfl))
      · exact modTile_legal hs fun _ ht => ht.congr rfl rfl

theorem takeInputs_legal {i : Instr} {f : Firing} (hs : Legal s) : Legal (takeInputs s i f) := by
  unfold takeInputs
  extract_lets s0 s1 s2
  have h0 : Legal s0 := ite_legal (takePacket_legal hs) hs
  have h1 : Legal s1 := foldl_legal h0 fun _ _ => deqHead_legal
  have h2 : Legal s2 := foldl_legal h1 fun _ _ hx => ite_legal (modBank_legal hx fun _ => qSet_legal) hx
  exact ite_legal (modTile_legal h2 fun _ ht => ht.congr rfl rfl) h2

theorem reserveDst_legal {tile : Nat} {d : Dst} (hs : Legal s) : Legal (reserveDst s tile d).2 := by
  unfold reserveDst
  dsimp only
  split
  · exact setTile_legal hs ((tileOf_legal hs).congr rfl rfl)
  · exact hs

theorem countBrk_legal {f : Firing} (hs : Legal s) : Legal (countBrk s f) := by
  unfold countBrk
  dsimp only
  split
  · exact hs
  · split
    · exact setRgn_legal hs
    · exact hs

/-- The loop counter stays within the ring (R130, R155). -/
theorem afterBank_legal {f : Firing} {i : Instr} {pre : Bank} (hb : BankLegal b) : BankLegal (afterBank f i pre b) := by
  have step : ∀ c, BankLegal c → BankLegal (if pre.mlOn && !isMl i then { c with lc := (c.lc + 1) % c.rs } else c) := by
    intro c hc
    split
    · obtain ⟨hm, h0, h1, hr, _⟩ := hc
      exact ⟨hm, h0, h1, hr, Nat.mod_lt _ hr.1⟩
    · exact hc
  refine step _ ?_
  split
  · exact setPred_legal hb
  · exact setPred_legal hb
  · exact hb

theorem completePorts_legal {i : Instr} {f : Firing} {e : Eff} (he : Legal e.st) : Legal (completePorts s i f e) :=
  foldl_legal he fun _ _ hx => setOutPort_legal (queueOut_legal (takeRequest_legal hx))

theorem enterJob_legal {x : State} {i : Instr} {f : Firing} {j : Job} (hx : Legal x) : Legal (enterJob s x i f j) :=
  modTile_legal hx fun _ ht => (setBank_legal ht (afterBank_legal (bankOf_legal ht))).congr rfl rfl

theorem settleJob_legal {f : Firing} {e : Eff} {j : Job} (hs : Legal s) : Legal (settleJob s f e j) :=
  ite_legal (dropJob_legal hs) (ite_legal (finishJob_legal hs) hs)

theorem complete_legal {i : Instr} {f : Firing} {o : Opnd} {e : Eff} (he : Legal e.st) : Legal (complete s i f o e) := by
  unfold complete
  extract_lets d r1 r2 job s1
  have h2 : Legal r2.2 := reserveDst_legal (reserveDst_legal (completePorts_legal he))
  have h1 : Legal s1 := settleJob_legal (countBrk_legal (enterJob_legal h2))
  split
  · exact trapPE_legal h1
  · exact h1

/-- A firing keeps the invariant if the effect that its instruction's meaning gives does. -/
theorem peNext_legal {i : Instr} {eff : State → Firing → Opnd → Nat → Effect} (hs : Legal s)
    (he : ∀ x f o j, Legal x → EffLegal (eff x f o j)) : Legal (peNext s i eff) := by
  unfold peNext
  extract_lets f a o
  split
  · exact hs
  · split
    · exact trapPE_legal hs
    · split
      · exact trapPE_legal (errNote_legal hs)
      · split
        · exact trapPE_legal hs
        · exact complete_legal ((he _ _ _ _ (takeInputs_legal hs)).ofGo ‹_›)

theorem pe_legal {i : Instr} {eff : State → Firing → Opnd → Nat → Effect} (hs : Legal s)
    (he : ∀ x f o j, Legal x → EffLegal (eff x f o j)) : OutLegal (pe s i eff) := next_legal (peNext_legal hs he)

theorem skipEff_legal {t : Token} {lat : Nat} (hs : Legal s) : EffLegal (skipEff s t lat) := go_legal hs

theorem memEff_legal {i : Instr} {op : Opnd → AccOp} {f : Firing} {o : Opnd} {jid : Nat} (hs : Legal s) :
    EffLegal (memEff i op s f o jid) := by
  unfold memEff
  dsimp only
  split
  · exact skipEff_legal hs
  · exact go_legal hs
  · split
    · exact stop_legal
    · exact go_legal hs
    · split
      · exact go_legal (accIssue_legal hs)
      · exact go_legal (accIssue_legal hs)

theorem memEff0_legal {i : Instr} {f : Firing} {o : Opnd} {jid : Nat} (hs : Legal s) : EffLegal (memEff0 i s f o jid) :=
  memEff_legal hs

end Sys2Proof
end

section
/-! The invariant `Legal`: accesses performed and answered, and address generators. -/
namespace Sys2Proof

open Machine

variable {s : State} {t : Tile} {b : Bank}

/-! ### Accesses performed and answered -/

theorem answerJob_legal {tile : Nat} {j : Job} {r : W512} {flag : Bool} (hs : Legal s) : Legal (answerJob s tile j r flag) :=
  finishJob_legal hs

theorem returnAcc_legal {tile : Nat} {a : Machine.Acc} (hs : Legal s) : Legal (returnAcc s tile a) := by
  unfold returnAcc
  dsimp only
  split
  · split
    · exact answerJob_legal (accDel_legal hs)
    · exact accDel_legal hs
  · split
    · exact takeTrap_legal (accPut_legal hs)
    · refine takeTrap_legal ?_
      split
      · exact dropJob_legal (accDel_legal hs)
      · exact accDel_legal hs

theorem execAccessPerform_legal {id : Nat} (hs : Legal s) : OutLegal (execAccessPerform id s) := by
  unfold execAccessPerform
  split
  · split
    · exact next_legal (performAcc_legal hs)
    · exact next_legal hs
  · exact next_legal hs

theorem execReleasePerform_legal {id : Nat} (hs : Legal s) : OutLegal (execReleasePerform id s) := by
  unfold execReleasePerform
  split
  · split
    · exact next_legal (performAcc_legal hs)
    · exact next_legal hs
  · exact next_legal hs

theorem execMtRequest_legal {mt port : Nat} (hs : Legal s) : OutLegal (execMtRequest mt port s) := by
  unfold execMtRequest
  dsimp only
  split
  · exact next_legal hs
  · exact next_legal (performAcc_legal (setMTile_legal hs ((mtileOf_legal hs).congr rfl)))

theorem execLoadReturn_legal {id : Nat} (hs : Legal s) : OutLegal (execLoadReturn id s) := by
  unfold execLoadReturn
  split
  · exact next_legal hs
  · split
    · split
      · exact next_legal (returnAcc_legal hs)
      · exact next_legal hs
    · exact next_legal hs

/-! ### Address generators -/

theorem agtTok_legal {k : Kind} {ok : Bool} {pay : W64} {st : State} (hs : Legal st) : EffLegal (agtTok k ok pay st) := go_legal hs

theorem agtRecord_legal {n cause reason detail : Nat} (hs : Legal s) : Legal (agtRecord s n cause reason detail) :=
  faultRecord_legal hs

theorem agtFault_legal {n cause detail : Nat} (hs : Legal s) : Legal (agtFault s n cause detail) := by
  unfold agtFault
  dsimp only
  split
  · exact stopRegion_legal (setAgt_legal (agtRecord_legal hs))
  · exact setAgt_legal (agtRecord_legal hs)

theorem coSend_legal {n : Nat} {l : CoLine} (hs : Legal s) : Legal (coSend s n l) := by
  unfold coSend
  dsimp only
  split
  · split
    · exact hs
    · exact accIssue_legal hs
  · split
    · split
      · exact hs
      · exact accIssue_legal hs
    · exact accIssue_legal (ite_legal hs (accIssue_legal hs))

theorem coFlush_legal {n : Nat} (hs : Legal s) : Legal (coFlush s n) := foldl_legal (setAgt_legal hs) fun _ _ => coSend_legal

theorem coMerge_legal {n pa size x : Nat} (hs : Legal s) : Legal (coMerge s n pa size x) := by
  unfold coMerge
  dsimp only
  split
  · exact setAgt_legal hs
  · refine setAgt_legal ?_
    split
    · split
      · exact hs
      · exact coSend_legal (setAgt_legal hs)
    · exact hs

theorem agtHit_legal {n vp : Nat} {r : State} {o : Option Nat} (hs : Legal s) (e : agtHit s n vp = some (o, r)) : Legal r := by
  simp only [agtHit] at e
  repeat' split at e
  all_goals cases e
  all_goals exact hs.frame

theorem agtTakeLane_legal {n va : Nat} {x : W512} {bad : Bool} (hs : Legal s) : Legal (agtTakeLane s n va x bad) := by
  unfold agtTakeLane
  dsimp only
  split
  · exact setAgt_legal hs
  · exact setAgt_legal hs

theorem agtRead_legal {n va pa : Nat} (hs : Legal s) : Legal (agtRead s n va pa) := by
  unfold agtRead
  dsimp only
  split
  · split
    · exact agtTakeLane_legal hs
    · exact accIssue_legal (setAgt_legal hs)
  · exact accIssue_legal (setAgt_legal hs)

theorem agtReturn_legal {n : Nat} (hs : Legal s) : Legal (agtReturn s n) := by
  unfold agtReturn
  dsimp only
  split
  · exact agtTakeLane_legal hs
  · exact agtTakeLane_legal (setAgt_legal (accDel_legal hs))
  · exact hs

theorem agtPast_legal {n : Nat} (hs : Legal s) : Legal (agtPast s n) := by
  unfold agtPast
  dsimp only
  split
  · exact deqHead_legal (setAgt_legal hs)
  · exact setAgt_legal hs

theorem agtWrite_legal {n pa : Nat} {t : Token} (hs : Legal s) : Legal (agtWrite s n pa t) := agtPast_legal (coMerge_legal hs)

theorem agtElem_legal {n : Nat} {go : State → Nat → Nat → State} (hs : Legal s) (hgo : ∀ x va pa, Legal x → Legal (go x va pa)) :
    Legal (agtElem s n go) := by
  unfold agtElem
  dsimp only
  split
  · exact agtFault_legal hs
  · split
    · exact agtFault_legal hs
    · split
      · exact agtHit_legal hs ‹_›
      · split
        · exact agtFault_legal hs
        · exact hgo _ _ _ (agtHit_legal hs ‹_›)
      · split
        · exact setAgt_legal (walkAsk_legal hs)
        · exact walkAsk_legal hs

theorem agtStall_legal {n reason entry : Nat} (hs : Legal s) : Legal (agtStall s n reason entry) := by
  unfold agtStall
  dsimp only
  split
  · exact coFlush_legal hs
  · split
    · exact setAgt_legal (agtRecord_legal hs)
    · exact hs

/-- A race's record is written, if the access has one. -/
theorem agtRaced_legal {n : Nat} {x : Acc} (hs : Legal s) : Legal (agtRaced s n x) := by
  unfold agtRaced
  extract_lets s1 s2 a s2' a3 s3
  have h2 : Legal s2 := by
    simp only [s2]
    split
    · exact faultRecord_legal (accPut_legal hs)
    · exact accPut_legal hs
  have h3 : Legal s3 := setAgt_legal (foldl_legal (setAgt_legal h2) fun _ _ => coSend_legal)
  split
  · exact stopRegion_legal h3
  · exact h3

theorem agtStep_legal {n : Nat} (hs : Legal s) : Legal (agtStep s n) := by
  unfold agtStep
  dsimp only
  split
  · exact agtStall_legal hs
  · exact hs
  · split
    · split
      · exact hs
      · split
        · exact agtElem_legal hs fun _ _ _ => agtWrite_legal
        · exact agtPast_legal hs
        · exact setAgt_legal (ite_legal (coFlush_legal (deqHead_legal hs)) (deqHead_legal hs))
        · exact agtFault_legal hs
        · exact hs
    · split
      · exact agtReturn_legal hs
      · exact agtElem_legal hs fun _ _ _ => agtRead_legal

theorem execAgtElement_legal {agt : Nat} (hs : Legal s) : OutLegal (execAgtElement agt s) := by
  unfold execAgtElement
  split
  · split
    · exact next_legal (agtRaced_legal hs)
    · exact next_legal (agtStep_legal hs)
  · exact next_legal hs

theorem agtOut_legal {n port : Nat} {t : Token} (hs : Legal s) : Legal (agtOut s n port t) := queueOut_legal (takeRequest_legal hs)

theorem execAgtTokenOut_legal {agt : Nat} (hs : Legal s) : OutLegal (execAgtTokenOut agt s) := by
  unfold execAgtTokenOut
  dsimp only
  split
  · exact next_legal hs
  · split
    · split
      · exact next_legal (agtOut_legal (setAgt_legal hs))
      · split
        · split
          · exact next_legal (agtOut_legal (setAgt_legal hs))
          · exact next_legal hs
        · exact next_legal hs
    · split
      · exact next_legal (agtOut_legal (setAgt_legal hs))
      · exact next_legal hs
    · exact next_legal hs

theorem execAgtWalkReport_legal {agt : Nat} (hs : Legal s) : OutLegal (execAgtWalkReport agt s) := by
  unfold execAgtWalkReport
  dsimp only
  split
  · split
    · exact next_legal (coFlush_legal hs)
    · exact next_legal (setAgt_legal hs.frame)
  · exact next_legal hs

theorem agtTake_legal {n : Nat} {f : Agt → Agt} (hs : Legal s) : Legal (agtTake s n f) := setAgt_legal (deqHead_legal hs)

theorem execAgtTakeSet_legal {agt : Nat} (hs : Legal s) : OutLegal (execAgtTakeSet agt s) := by
  unfold execAgtTakeSet
  dsimp only
  split
  · exact next_legal (agtTake_legal (setAgt_legal hs))
  · exact next_legal hs

theorem execAgtTakeBase_legal {agt : Nat} (hs : Legal s) : OutLegal (execAgtTakeBase agt s) := by
  unfold execAgtTakeBase
  dsimp only
  split
  · exact next_legal (agtTake_legal (setAgt_legal hs))
  · exact next_legal hs

theorem execAgtTakeDim_legal {agt : Nat} (hs : Legal s) : OutLegal (execAgtTakeDim agt s) := by
  unfold execAgtTakeDim
  dsimp only
  split
  · exact next_legal (agtTake_legal (setAgt_legal hs))
  · exact next_legal hs

theorem execAgtTakeGo_legal {agt : Nat} (hs : Legal s) : OutLegal (execAgtTakeGo agt s) := by
  unfold execAgtTakeGo
  dsimp only
  split
  · exact next_legal (setAgt_legal hs)
  · split
    · exact next_legal (setAgt_legal (deqHead_legal hs))
    · exact next_legal hs

theorem execAgtTakeStop_legal {agt : Nat} (hs : Legal s) : OutLegal (execAgtTakeStop agt s) := by
  unfold execAgtTakeStop
  dsimp only
  split
  · exact next_legal (agtTake_legal hs).frame
  · exact next_legal hs

theorem execAgtTakeHand_legal {agt : Nat} (hs : Legal s) : OutLegal (execAgtTakeHand agt s) := by
  unfold execAgtTakeHand
  dsimp only
  split
  · exact next_legal (agtTake_legal (coFlush_legal hs))
  · exact next_legal hs

theorem execHandoverSend_legal {agt : Nat} (hs : Legal s) : OutLegal (execHandoverSend agt s) := by
  unfold execHandoverSend
  dsimp only
  split
  · split
    · exact next_legal (agtOut_legal (setAgt_legal (setAgt_legal hs)))
    · exact next_legal (setAgt_legal hs)
  · split
    · exact next_legal (agtOut_legal (setAgt_legal hs))
    · exact next_legal hs

theorem execHandoverReceive_legal {agt : Nat} (hs : Legal s) : OutLegal (execHandoverReceive agt s) := by
  unfold execHandoverReceive
  dsimp only
  split
  · exact next_legal (setAgt_legal (deqHead_legal hs))
  · exact next_legal hs

theorem agtResumeNow_legal {n : Nat} (hs : Legal s) : Legal (agtResumeNow s n) := by
  unfold agtResumeNow
  dsimp only
  split
  · exact hs
  · split
    · exact setAgt_legal hs.frame
    · split
      · exact setAgt_legal ((walkNow_legal hs).ofPair ‹_›).frame
      · exact agtRecord_legal ((walkNow_legal hs).ofPair ‹_›)

theorem execAgtTakeResume_legal {agt : Nat} (hs : Legal s) : OutLegal (execAgtTakeResume agt s) := by
  unfold execAgtTakeResume
  split
  · exact next_legal (agtResumeNow_legal (agtTake_legal hs))
  · exact next_legal hs

theorem execAgtTakeStat_legal {agt : Nat} (hs : Legal s) : OutLegal (execAgtTakeStat agt s) := by
  unfold execAgtTakeStat
  dsimp only
  split
  · exact next_legal (ite_legal (agtOut_legal (agtTake_legal hs)) (agtTake_legal hs))
  · exact next_legal hs

theorem execAgtTakeCfg_legal {agt : Nat} (hs : Legal s) : OutLegal (execAgtTakeCfg agt s) := by
  unfold execAgtTakeCfg
  dsimp only
  split
  · exact next_legal (agtTake_legal hs)
  · exact next_legal hs

theorem execAgtTakeDiscard_legal {agt : Nat} (hs : Legal s) : OutLegal (execAgtTakeDiscard agt s) := by
  unfold execAgtTakeDiscard
  split
  · exact next_legal (agtTake_legal hs)
  · exact next_legal hs

theorem execAgtTakeErr_legal {agt : Nat} (hs : Legal s) : OutLegal (execAgtTakeErr agt s) := by
  unfold execAgtTakeErr
  dsimp only
  split
  · exact next_legal (agtFault_legal (agtTake_legal hs))
  · exact next_legal hs

theorem execAgtTakeReserved_legal {agt : Nat} (hs : Legal s) : OutLegal (execAgtTakeReserved agt s) := by
  unfold execAgtTakeReserved
  dsimp only
  split
  · exact next_legal (agtFault_legal (agtTake_legal hs))
  · exact next_legal hs

theorem walkMiss_legal {n vp : Nat} {why : Nat × Nat} (hs : Legal s) : Legal (walkMiss s n vp why) := by
  unfold walkMiss
  dsimp only
  split
  · exact setAgt_legal hs
  · exact hs

theorem walkTell_legal {w : Walk} {x : Walker × Bool} (hs : Legal s) : Legal (walkTell s w x) := by
  unfold walkTell
  dsimp only
  split
  · exact dieEnter_legal ((walkServed_legal hs).ofPair' ‹_›)
  · exact modTile_legal ((walkServed_legal hs).ofPair' ‹_›) fun _ ht => ht.congr rfl rfl
  · split
    · exact walkMiss_legal ((walkServed_legal hs).ofPair' ‹_›)
    · split
      · exact setAgt_legal (dieEnter_legal ((walkServed_legal hs).ofPair' ‹_›).frame)
      · exact dieEnter_legal ((walkServed_legal hs).ofPair' ‹_›).frame
  · exact walkMiss_legal ((walkServed_legal hs).ofPair' ‹_›)

theorem execPageWalk_legal {id : Nat} (hs : Legal s) : OutLegal (execPageWalk id s) := by
  unfold execPageWalk
  split
  · exact next_legal hs
  · split
    · exact next_legal (foldl_legal hs.frame (fun _ _ => walkTell_legal))
    · exact next_legal hs

theorem issueRel_legal {st : State} {f : Firing} {n ch : Nat} (hs : Legal st) : Legal (issueRel st f n ch) := releaseLater_legal hs

theorem bteCopyEff_legal {mx : Bool} {st : State} {f : Firing} {o : Opnd} (hs : Legal st) : EffLegal (bteCopyEff mx st f o) :=
  go_legal (setBte_legal (issueRel_legal hs))

theorem bteAt_legal {n pn : Nat} {x : W64} {write : Bool} (hs : Legal s) : Legal (bteAt s n pn x write).1 := by
  unfold bteAt
  split
  · exact hs
  · split
    · exact hs
    · split
      · exact hs
      · split
        · exact hs
        · exact hs
  · split
    · exact hs
    · split
      · exact hs
      · split
        · exact hs
        · exact hs
  · split
    · split
      · exact (xlateNow_legal hs).ofPair ‹_›
      · exact (xlateNow_legal hs).ofPair ‹_›
    · exact (xlateNow_legal hs).ofPair ‹_›

theorem bteOwn_legal {n ch : Nat} {op : AccOp} {x : W64} {loc : Loc} {size data : Nat} (hs : Legal s) :
    Legal (bteOwn s n ch op x loc size data).1 :=
  homeAccess_legal hs

theorem ownRace_legal {p : State × Acc} (h : Legal p.1) : Legal (ownRace p) := by
  unfold ownRace
  split
  · exact faultRecord_legal h
  · exact h

theorem linkNext_legal {n ch : Nat} {a : W64} (hs : Legal s) : Legal (linkNext s n ch a) := by
  unfold linkNext
  dsimp only
  split
  · exact hs
  · split
    · split
      · exact ownRace_legal (bteOwn_legal ((bteAt_legal hs).ofPair ‹_›))
      · exact setBte_legal (ownRace_legal (bteOwn_legal ((bteAt_legal hs).ofPair ‹_›)))
    · exact (bteAt_legal hs).ofPair ‹_›

theorem chainNext_legal {n ch : Nat} (hs : Legal s) : Legal (chainNext s n ch).1 := by
  unfold chainNext
  dsimp only
  split
  · exact hs
  · exact hs
  · split
    · split
      · exact bteOwn_legal ((bteAt_legal hs).ofPair ‹_›)
      · exact ownRace_legal (bteOwn_legal ((bteAt_legal hs).ofPair ‹_›))
    · exact (bteAt_legal hs).ofPair ‹_›

theorem chainPut_legal {n ch at_ : Nat} {x : BteCmd} {next : Option W64} (hs : Legal s) : Legal (chainPut s n ch at_ x next) :=
  setBte_legal hs

theorem chainRead_legal {n ch : Nat} {c : BteCh} {x : W64} (hs : Legal s) : Legal (chainRead s n ch c x) := by
  unfold chainRead
  dsimp only
  split
  · split
    · exact chainPut_legal ((bteAt_legal hs).ofPair ‹_›)
    · split
      · exact chainPut_legal (bteOwn_legal ((bteAt_legal hs).ofPair ‹_›))
      · exact chainPut_legal (ownRace_legal (bteOwn_legal ((bteAt_legal hs).ofPair ‹_›)))
  · exact chainPut_legal hs

theorem execChainTake_legal {bte ch : Nat} (hs : Legal s) : OutLegal (execChainTake bte ch s) := by
  unfold execChainTake
  dsimp only
  split
  · split
    · split
      · exact next_legal (chainPut_legal (clkAcquire_legal hs))
      · exact next_legal (chainPut_legal ((chainNext_legal (clkAcquire_legal hs)).ofPair ‹_›))
      · exact next_legal (chainRead_legal ((chainNext_legal (clkAcquire_legal hs)).ofPair ‹_›))
    · exact next_legal (chainPut_legal hs)
  · exact next_legal hs

theorem xlPages_legal {d pn vp k : Nat} {write : Bool} {m : SMap Nat} (hs : Legal s) : Legal (xlPages s d pn vp write k m).1 := by
  induction k generalizing s vp m with
  | zero => exact hs
  | succ k ih =>
    unfold xlPages
    split
    · have h1 := (xlateNow_legal hs).ofPair ‹_›
      split
      · exact h1
      · exact ih h1
    · exact (xlateNow_legal hs).ofPair ‹_›

theorem bteRange_legal {n pn : Nat} {x : W64} {len : Nat} {write only : Bool} (hs : Legal s) :
    Legal (bteRange s n pn x len write only).1 := by
  unfold bteRange
  split
  · exact hs
  · split
    · exact hs
    · split
      · exact hs
      · split
        · exact hs
        · exact hs
  · split
    · exact hs
    · split
      · exact hs
      · split
        · exact hs
        · exact hs
  · split
    · exact hs
    · split
      · exact (xlPages_legal hs).ofPair ‹_›
      · exact (xlPages_legal hs).ofPair ‹_›

theorem bteCheck_legal {n pn : Nat} {c : BteCmd} (hs : Legal s) : Legal (bteCheck s n pn c).1 := by
  unfold bteCheck
  dsimp only
  split
  · exact hs
  · split
    · exact hs
    · split
      · exact (bteRange_legal hs).ofPair ‹_›
      · split
        · exact (bteRange_legal hs).ofPair ‹_›
        · split
          · exact (bteRange_legal hs).ofPair ‹_›
          · split
            · exact (bteRange_legal ((bteRange_legal hs).ofPair ‹_›)).ofPair ‹_›
            · exact (bteRange_legal ((bteRange_legal hs).ofPair ‹_›)).ofPair ‹_›

theorem execBteCommandBegin_legal {bte ch : Nat} (hs : Legal s) : OutLegal (execBteCommandBegin bte ch s) := by
  unfold execBteCommandBegin
  dsimp only
  split
  · split
    · exact next_legal (setBte_legal (bteCheck_legal (clkAcquire_legal hs)))
    · exact next_legal hs
  · exact next_legal hs

theorem fonHand_legal {n ch t : Nat} (hs : Legal s) : Legal (fonHand n ch s t) := by
  unfold fonHand
  dsimp only
  split
  · split
    · exact modTile_legal (setBte_legal hs) fun _ ht => ht.congr rfl rfl
    · exact errNote_legal (setBte_legal hs)
  · exact hs

theorem execFollowOnHandoff_legal {bte ch : Nat} (hs : Legal s) : OutLegal (execFollowOnHandoff bte ch s) :=
  next_legal (foldl_legal hs (fun _ _ => fonHand_legal))

theorem bteEngine_legal {n ch va x len kind : Nat} (hs : Legal s) : Legal (bteEngine s n ch va x len kind) := engineWrite_legal hs

theorem execBteCommandReport_legal {bte ch : Nat} (hs : Legal s) : OutLegal (execBteCommandReport bte ch s) := by
  unfold execBteCommandReport
  dsimp only
  split
  · exact next_legal hs
  · exact next_legal (setBte_legal (bteEngine_legal (bteEngine_legal hs)))

theorem execPromiseMissed_legal {bte ch seq : Nat} (hs : Legal s) : OutLegal (execPromiseMissed bte ch seq s) := by
  unfold execPromiseMissed
  dsimp only
  split
  · exact next_legal hs
  · split
    · exact next_legal hs
    · exact next_legal (takeTrap_legal (setBte_legal hs))

end Sys2Proof
end

section
/-! The invariant `Legal`: control-plane effects, task packets, futures and groups, collectives. -/
namespace Sys2Proof

open Machine

variable {s : State} {t : Tile} {b : Bank}

/-! ### Control-plane effects -/

theorem aluEff_legal {i : Instr} {r : Opnd → AluRes} {f : Firing} {o : Opnd} {j : Nat} (hs : Legal s) :
    EffLegal (aluEff i r s f o j) :=
  go_legal hs

theorem predEff_legal {r : BitVec 4 → W64 → Bool} {f : Firing} {o : Opnd} {j : Nat} (hs : Legal s) :
    EffLegal (predEff r s f o j) :=
  go_legal hs

theorem takeEff_legal {f : Firing} {o : Opnd} {j : Nat} (hs : Legal s) : EffLegal (takeEff s f o j) := go_legal hs

theorem fwdEff_legal {f : Firing} {o : Opnd} {j : Nat} (hs : Legal s) : EffLegal (fwdEff s f o j) := go_legal hs

theorem emitNullEff_legal {f : Firing} {o : Opnd} {j : Nat} (hs : Legal s) : EffLegal (emitNullEff s f o j) := go_legal hs

theorem emitMarkEff_legal {f : Firing} {o : Opnd} {j : Nat} (hs : Legal s) : EffLegal (emitMarkEff s f o j) := go_legal hs

theorem emitErrEff_legal {f : Firing} {o : Opnd} {j : Nat} (hs : Legal s) : EffLegal (emitErrEff s f o j) := go_legal hs

theorem retagEff_legal {a : BitVec 5} {ta : BitVec 4} {f : Firing} {o : Opnd} {j : Nat} (hs : Legal s) :
    EffLegal (retagEff a ta s f o j) :=
  go_legal (setInPort_legal hs)

theorem posResetEff_legal {a : BitVec 5} {f : Firing} {o : Opnd} {j : Nat} (hs : Legal s) : EffLegal (posResetEff a s f o j) :=
  go_legal (setInPort_legal hs)

theorem dlGetEff_legal {f : Firing} {o : Opnd} {j : Nat} (hs : Legal s) : EffLegal (dlGetEff s f o j) := go_legal hs

theorem dlPutEff_legal {f : Firing} {o : Opnd} {j : Nat} (hs : Legal s) : EffLegal (dlPutEff s f o j) := by
  unfold dlPutEff
  split
  · split
    · exact go_legal (setChan_legal hs)
    · exact go_legal hs
  · exact go_legal hs

/-- A queue depth that `q.depth` sets is 1 to 16 (R150). -/
theorem setDepth_legal {q n : Nat} (hb : BankLegal b) (hn : 1 ≤ n ∧ n ≤ 16) : BankLegal (setDepth b q n) := by
  obtain ⟨hm, h0, h1, hr⟩ := hb
  unfold setDepth
  split
  · exact ⟨hm, hn, h1, hr⟩
  · exact ⟨hm, h0, hn, hr⟩

theorem modeEff_legal {g : W64 → W64 → W64} {f : Firing} {o : Opnd} {j : Nat} (hs : Legal s) : EffLegal (modeEff g s f o j) :=
  go_legal (modBank_legal hs fun _ hc => hc.withMode modeWrite_reserved)

/-! ### Task packets -/

theorem sendPacket_legal {src cl dst : Nat} {p : Packet} (hs : Legal s) : Legal (sendPacket s src cl dst p) :=
  (freeDelay_legal (freshId_legal hs)).frame

theorem taskDrop_legal {pn reason region elem : Nat} {a b : W64} {label : Nat} (hs : Legal s) :
    Legal (taskDrop s pn reason region elem a b label) :=
  faultRecord_legal hs

theorem dropFrom_legal {pn rid tile reason : Nat} {p : Packet} (hs : Legal s) : Legal (dropFrom s pn rid tile reason p) := by
  unfold dropFrom
  dsimp only
  refine taskDrop_legal ?_
  split
  · exact infAdd_legal hs
  · exact hs

theorem dropPacket_legal {tile reason : Nat} {p : Packet} (hs : Legal s) : Legal (dropPacket s tile reason p) := dropFrom_legal hs

theorem dropAll_legal {pn rid : Nat} {tile : Nat × Tile} (hs : Legal s) : Legal (dropAll pn rid s tile) :=
  foldl_legal hs fun _ _ => dropFrom_legal

theorem packetIn_legal {n : NetPacket} (hs : Legal s) : OptLegal (packetIn s n) := by
  unfold packetIn
  dsimp only
  split
  · exact none_legal
  · split
    · exact some_legal (dropPacket_legal hs.frame)
    · exact some_legal (setTile_legal hs.frame ((tileOf_legal hs).congr rfl rfl))

theorem execTaskPacketArrival_legal {id : Nat} (hs : Legal s) : OutLegal (execTaskPacketArrival id s) := by
  unfold execTaskPacketArrival
  split
  · exact next_legal (ite_legal (getD_legal (packetIn_legal hs) hs) hs)
  · exact next_legal hs

theorem execPacketPresent_legal {tile : Nat} (hs : Legal s) : OutLegal (execPacketPresent tile s) := by
  unfold execPacketPresent
  dsimp only
  split
  · exact next_legal (setTile_legal hs ((tileOf_legal hs).congr rfl rfl))
  · exact next_legal hs

/-! ### Futures and groups -/

theorem setFut_legal {d ix : Nat} {f : Fut} (hs : Legal s) : Legal (setFut s d ix f) := modDie_legal hs

theorem futSend_legal {cl : Nat} {o : FutOp} (hs : Legal s) : Legal (futSend s cl o) := (freeDelay_legal (freshId_legal hs)).frame

theorem futAsk_legal {f : Firing} {op fut : Nat} {arg : W64} {jid : Nat} (hs : Legal s) : EffLegal (futAsk s f op fut arg jid) :=
  go_legal (futSend_legal hs)

theorem setGrp_legal {d ix : Nat} {g : Grp} (hs : Legal s) : Legal (setGrp s d ix g) := modDie_legal hs

theorem futAct_legal {pn d id : Nat} {f : Fut} {r : W64} (hs : Legal s) : Legal (futAct s pn d id f r) := by
  unfold futAct
  dsimp only
  split
  · exact futSend_legal hs
  · exact sendPacket_legal hs

theorem futActAll_legal {pn d ix id : Nat} {f : Fut} (hs : Legal s) : Legal (futActAll s pn d ix id f) :=
  foldl_legal (setFut_legal hs) fun _ _ => futAct_legal

theorem futRelease_legal {o : FutOp} (hs : Legal s) : Legal (futRelease s o) := by
  unfold futRelease
  split
  · exact clkJoin_legal hs
  · exact clkRelease_legal hs

theorem futSettle_legal {o : FutOp} {fault : Bool} (hs : Legal s) : Legal (futSettle s o fault).st := by
  unfold futSettle
  dsimp only
  split
  · dsimp only
    exact hs
  · split
    · split
      · dsimp only
        exact futActAll_legal (futRelease_legal hs)
      · split
        · dsimp only
          exact futActAll_legal (futRelease_legal hs)
        · dsimp only
          exact setFut_legal (futRelease_legal hs)
    · split
      · dsimp only
        exact taskDrop_legal hs
      · dsimp only
        exact hs
    · dsimp only
      exact hs

theorem grpPerform_legal {o : FutOp} (hs : Legal s) : Legal (grpPerform s o).st := by
  unfold grpPerform
  dsimp only
  split
  · split
    · dsimp only
      exact setGrp_legal hs
    · dsimp only
      exact hs
  · split
    · dsimp only
      exact hs
    · split
      · dsimp only
        exact hs
      · split
        · dsimp only
          exact hs
        · dsimp only
          exact setGrp_legal hs
    · split
      · dsimp only
        exact setGrp_legal hs
      · dsimp only
        exact hs
    · dsimp only
      exact hs
    · dsimp only
      exact hs

theorem futPerform_legal {o : FutOp} (hs : Legal s) : Legal (futPerform s o).st := by
  unfold futPerform
  dsimp only
  split
  · exact grpPerform_legal hs
  · split
    · dsimp only
      exact hs
    · split
      · split
        · dsimp only
          exact setFut_legal hs
        · dsimp only
          exact hs
      · split
        · dsimp only
          exact hs
        · split
          · dsimp only
            exact hs
          · split
            · dsimp only
              exact setFut_legal hs
            · dsimp only
              exact futAct_legal hs
      · exact futSettle_legal hs
      · exact futSettle_legal hs
      · split
        · dsimp only
          exact hs
        · dsimp only
          split
          · exact setFut_legal hs
          · exact hs

theorem execFutureOperation_legal {id : Nat} (hs : Legal s) : OutLegal (execFutureOperation id s) := by
  unfold execFutureOperation
  dsimp only
  split
  · exact next_legal hs
  · split
    · split
      · exact next_legal (futPerform_legal hs).frame
      · exact next_legal (futPerform_legal hs).frame
    · exact next_legal hs

theorem execFutureAnswer_legal {id : Nat} (hs : Legal s) : OutLegal (execFutureAnswer id s) := by
  unfold execFutureAnswer
  dsimp only
  split
  · exact next_legal hs
  · split
    · split
      · split
        · exact next_legal (answerJob_legal hs.frame)
        · exact next_legal hs.frame
      · refine next_legal (takeTrap_legal ?_)
        split
        · exact dropJob_legal hs.frame
        · exact hs.frame
    · exact next_legal hs

theorem execWatchReport_legal {tile fut : Nat} (hs : Legal s) : OutLegal (execWatchReport tile fut s) :=
  next_legal (setTile_legal hs ((tileOf_legal hs).congr rfl rfl))

theorem collEff_legal {i : Instr} {op : Nat} {f : Firing} {o : Opnd} {jid : Nat} (hs : Legal s) :
    EffLegal (collEff i op s f o jid) :=
  go_legal (freeDelay_legal (freshId_legal hs)).frame

/-! ### Collectives -/

/-- A tile that an answer reaches keeps its banks and its memory, in the state, in the shadow state and in the saves. -/
theorem collAnswer_legal {a : Arrival} {num status : Nat} (hs : Legal s) : Legal (collAnswer s a num status) := by
  unfold collAnswer
  extract_lets f put s1
  have put_legal : ∀ t, TileLegal t → TileLegal (put t) := fun t ht => ht.congr rfl rfl
  have at_legal : ∀ e : Nat × Tile, TileLegal e.2 → TileLegal (if e.1 = a.tile then (e.1, put e.2) else e).2 := by
    intro e he
    split
    · exact put_legal _ he
    · exact he
  have h1 : Legal s1 := ite_legal (modTile_legal hs put_legal) hs
  refine ⟨h1.memWf, h1.tiles, map_all h1.shadows at_legal, h1.mtiles, h1.shadowMts, map_all h1.saves fun x hx => ?_⟩
  dsimp only
  split
  · exact ⟨map_all hx.1 at_legal, hx.2⟩
  · exact hx

theorem collTake_legal {a : Arrival} (hs : Legal s) : OptLegal (collTake s a) := by
  unfold collTake
  dsimp only
  split
  · exact some_legal (collAnswer_legal hs.frame)
  · split
    · exact some_legal (collAnswer_legal hs.frame)
    · split
      · exact some_legal (setGrp_legal hs.frame)
      · split
        · split
          · exact some_legal (setGrp_legal hs.frame)
          · exact none_legal
        · exact some_legal (collAnswer_legal hs.frame)

theorem execCollectiveArrival_legal {id : Nat} (hs : Legal s) : OutLegal (execCollectiveArrival id s) := by
  unfold execCollectiveArrival
  split
  · exact next_legal hs
  · split
    · exact next_legal (getD_legal (collTake_legal hs) hs)
    · exact next_legal hs

theorem collPages_legal {d pn : Nat} {write : Bool} {l : List Nat} (hs : Legal s) : Legal (collPages s d pn write l).1 := by
  induction l generalizing s with
  | nil => exact hs
  | cons vp l ih =>
    unfold collPages
    split
    · have h1 := (xlateNow_legal hs).ofPair ‹_›
      split
      · exact h1
      · exact ih h1
    · exact (xlateNow_legal hs).ofPair ‹_›

theorem collCheck_legal {d pn : Nat} {x : W64} {n align : Nat} {write : Bool} (hs : Legal s) :
    Legal (collCheck s d pn x n align write).1 := by
  unfold collCheck
  split
  · exact hs
  · split
    · split
      · exact hs
      · split
        · exact hs
        · split
          · exact hs
          · exact hs
    · split
      · exact collPages_legal hs
      · exact hs
    · exact hs

theorem collDo_legal {a : Acc} (hs : Legal s) : Legal (collDo s a).1 := by
  unfold collDo
  dsimp only
  split
  · exact faultRecord_legal (homeAccess_legal hs)
  · exact homeAccess_legal hs

theorem collRead_legal {d off m : Nat} {p : Part_} (hs : Legal s) : Legal (collRead s d p off m).1 :=
  foldl_fst_legal hs fun _ _ => collDo_legal

theorem collWrite_legal {d : Nat} {p : Part_} {off m data : Nat} (hs : Legal s) : Legal (collWrite s d p off m data) :=
  foldl_legal hs fun _ _ => collDo_legal

theorem collGather_legal {d off n : Nat} {l : List Part_} (hs : Legal s) : Legal (collGather s d off n l).1 :=
  foldl_fst_legal hs fun _ _ => collRead_legal

theorem collReduce_legal {d op root off k : Nat} {spec : W64} {l : List Part_} (hs : Legal s) :
    Legal (collReduce s d op root spec l off k).1 := by
  induction k generalizing s off with
  | zero => exact hs
  | succ k ih =>
    unfold collReduce
    dsimp only
    split
    · exact ih (foldl_legal ((collGather_legal hs).ofPair ‹_›) fun _ _ => collWrite_legal)
    · exact (collGather_legal hs).ofPair ‹_›
    · exact (collGather_legal hs).ofPair ‹_›

theorem collBcast_legal {d off n k : Nat} {src : Part_} {dst : List Part_} (hs : Legal s) :
    Legal (collBcast s d src dst off n k).1 := by
  induction k generalizing s off n with
  | zero => exact hs
  | succ k ih =>
    unfold collBcast
    dsimp only
    split
    · exact ih (foldl_legal ((collRead_legal hs).ofPair ‹_›) fun _ _ => collWrite_legal)
    · exact (collRead_legal hs).ofPair ‹_›

theorem collChecks_legal {d op root n align : Nat} {l : List (Nat × Arrival)} (hs : Legal s) :
    Legal (collChecks s d op root n align l).1 := by
  induction l generalizing s with
  | nil => exact hs
  | cons x l ih =>
    obtain ⟨r, a⟩ := x
    have h1 : Legal (if a.hasBuf then collCheck s d a.part a.buf n align (collWrites op r root) else (s, .ok [])).1 := by
      split
      · exact collCheck_legal hs
      · exact hs
    unfold collChecks
    dsimp only
    split
    · exact h1
    · exact ih h1

theorem collRun_legal {d : Nat} {i : Inst} (hs : Legal s) : Legal (collRun s d i).1 := by
  unfold collRun
  dsimp only
  split
  · exact hs
  · split
    · exact hs
    · split
      · exact hs
      · split
        · exact (collChecks_legal hs).ofPair ‹_›
        · split
          · exact collReduce_legal ((collChecks_legal hs).ofPair ‹_›)
          · split
            · split
              · exact collBcast_legal ((collChecks_legal hs).ofPair ‹_›)
              · exact (collChecks_legal hs).ofPair ‹_›
            · exact (collChecks_legal hs).ofPair ‹_›

theorem collClocks_legal {grp num : Nat} {l : List Arrival} (hs : Legal s) : Legal (collClocks s grp num l) :=
  foldl_legal (foldl_legal hs (fun _ _ => clkRelease_legal)) fun _ _ => clkAcquire_legal

theorem collGen_legal {pn grp : Nat} {l : List Arrival} (hs : Legal s) : Legal (collGen s pn grp l) := by
  unfold collGen
  dsimp only
  split
  · exact hs
  · exact modPart_legal hs

theorem execCollectiveComplete_legal {grp : Nat} (hs : Legal s) : OutLegal (execCollectiveComplete grp s) := by
  unfold execCollectiveComplete
  dsimp only
  split
  · exact next_legal hs
  · split
    · exact next_legal (setGrp_legal (foldl_legal (ite_legal (collGen_legal (collClocks_legal (collRun_legal hs)))
        (collClocks_legal (collRun_legal hs))) (fun _ _ => collAnswer_legal)))
    · exact next_legal hs

end Sys2Proof
end

section
/-! The invariant `Legal`: the arbiter, regions, launches, streams, rings, FIFOs, and the steps of results and tokens. -/
namespace Sys2Proof

open Machine

variable {s : State} {t u : Tile} {b : Bank}

/-! ### Race modes and the arbiter -/

theorem dropSums_legal {pn : Nat} (hs : Legal s) : Legal (dropSums s pn) := hs.frame

theorem setRaceMode_legal {pn mode : Nat} (hs : Legal s) : Legal (setRaceMode s pn mode) := by
  unfold setRaceMode
  dsimp only
  split
  · exact setPart_legal (freeDelay_legal hs)
  · split
    · exact setPart_legal (dropSums_legal hs)
    · exact setPart_legal hs

theorem metaClear_legal {pn : Nat} (hs : Legal s) : Legal (metaClear s pn) := by
  refine ⟨memWf_filter _ _ hs.memWf, hs.tiles, hs.shadows, map_all hs.mtiles fun e he => ?_, hs.shadowMts, hs.saves⟩
  split
  · exact he
  · exact he

theorem sweepAt_legal {pn : Nat} {p : Machine.Part} {t : SMap Nat} {l : Nat × Nat} (hs : Legal s) : Legal (sweepAt s pn p t l) := by
  unfold sweepAt
  dsimp only
  split
  · exact hbmMetaSet_legal hs
  · exact setMTile_legal hs ((mtileOf_legal hs).congr rfl)

theorem execRaceSweep_legal {part : Nat} (hs : Legal s) : OutLegal (execRaceSweep part s) := by
  unfold execRaceSweep
  dsimp only
  split
  · exact next_legal (setPart_legal hs)
  · exact next_legal (modPart_legal (sweepAt_legal hs))
  · split
    · exact next_legal hs
    · exact next_legal (setPart_legal hs)

theorem execRaceModeClear_legal {part : Nat} (hs : Legal s) : OutLegal (execRaceModeClear part s) := by
  unfold execRaceModeClear
  dsimp only
  split
  · split
    · exact next_legal (modPart_legal (dropSums_legal (metaClear_legal hs)))
    · exact next_legal hs
  · exact next_legal hs

theorem postAll_legal {tile : Nat} (hs : Legal s) : Legal (postAll s tile) := by
  unfold postAll
  dsimp only
  refine foldl_legal hs fun _ _ hx => ?_
  split
  · exact foldl_legal hx fun _ _ hx1 => ite_legal (postHeld_legal hx1) hx1
  · exact hx

/-! ### Regions -/

theorem joinPorts_legal {id : Nat} {c : Chan} (hs : Legal s) : Legal (joinPorts s id c) :=
  foldl_legal (ite_legal hs (setOutPort_legal hs)) fun _ _ => setInPort_legal

theorem addChans_legal {k : Nat} {l : List ChRec} (hs : Legal s) : Legal (addChans s k l).1 :=
  foldl_fst_legal hs fun _ _ hx => joinPorts_legal (setChan_legal (freshId_legal hx))

theorem withFons_legal (hu : TileLegal u) : TileLegal (withFons t u) := hu.congr rfl rfl

/-- A tile that takes another's array takes its mode word in bank 0 as well. -/
theorem withArray_legal (ht : TileLegal t) (hu : TileLegal u) : TileLegal (withArray t u) :=
  withFons_legal (setBank_legal (hu.congr rfl rfl) ⟨(bankOf_legal ht).1, bank0_legal.2⟩)

theorem fonsCut_legal {tile : Nat} (hs : Legal s) : Legal (fonsCut s tile) := by
  unfold fonsCut
  dsimp only
  refine foldl_legal hs fun _ _ hx => ?_
  split
  · exact (fonReport_legal hx).frame
  · exact hx

theorem tileFresh_legal {b : SMap Binding} (ht : TileLegal t) : TileLegal (tileFresh t b) :=
  withFons_legal (tile0_legal.mix ht rfl rfl)

theorem tileReset_legal {b : SMap Binding} (ht : TileLegal t) : TileLegal (tileReset t b) :=
  TileLegal.congr (tileFresh_legal (b := b) ht) rfl rfl

theorem portsReset_legal {tile : Nat} (hs : Legal s) : Legal (portsReset s tile) :=
  foldl_legal (foldl_legal hs (fun _ _ hx => ite_legal (setInPort_legal hx) hx)) fun _ _ hx => ite_legal (setOutPort_legal hx) hx

theorem chanPortsReset_legal {c : Nat} (hs : Legal s) : Legal (chanPortsReset s c) := by
  unfold chanPortsReset
  dsimp only
  split
  · exact hs
  · exact foldl_legal (ite_legal (setChan_legal hs) (setOutPort_legal (setChan_legal hs))) fun _ _ => setInPort_legal

theorem identityRegs_legal {c : Clone} {tile : Nat} (hs : Legal s) : Legal (identityRegs s c tile) := by
  unfold identityRegs
  split
  · refine foldl_legal hs fun _ _ hx => foldl_legal hx fun _ _ hy => modBank_legal hy fun b hb => ?_
    split
    · exact kSet_legal hb
    · exact vSet_legal hb
  · exact hs

theorem resetInstance_legal {k : Nat} (hs : Legal s) : Legal (resetInstance s k) := by
  unfold resetInstance
  dsimp only
  split
  · exact hs
  · exact modRgn_legal (foldl_legal (foldl_legal (foldl_legal
      (foldl_legal (foldl_legal hs (fun _ _ hx => portsReset_legal
      (setTile_legal (fonsCut_legal hx) (tileReset_legal (tileOf_legal hx))))) (fun _ _ => chanPortsReset_legal))
      (fun _ _ hx => foldl_legal hx (fun _ _ hx1 => ite_legal hx1 (identityRegs_legal hx1))))
      (fun _ _ hx => setMTile_legal hx ((mtileOf_legal hx).congr rfl))) (fun _ _ => setAgt_legal))

theorem descIssue_legal {f : Firing} {x : W64} {jid : Nat} {try_ : Bool} {first second : Loc × Nat} (hs : Legal s) :
    Legal (descIssue s f x jid try_ first second) := by
  unfold descIssue
  dsimp only
  split
  · exact accIssue_legal hs
  · exact accIssue_legal (accIssue_legal hs)

/-! ### Launches -/

theorem launchEff_legal {i : Instr} {try_ : Bool} {f : Firing} {o : Opnd} {jid : Nat} (hs : Legal s) :
    EffLegal (launchEff i try_ s f o jid) := by
  unfold launchEff
  dsimp only
  split
  · exact skipEff_legal hs
  · split
    · exact stop_legal
    · exact go_legal hs
    · exact go_legal (descIssue_legal hs)

theorem launchTake_legal {pn : Nat} {desc : BitVec 512} {holder : Nat} {ag : Agent} {inQueue : Bool} (hs : Legal s) :
    Legal (launchTake s pn desc holder ag inQueue).2 :=
  setPart_legal hs

theorem launchReturn_legal {l : List Machine.Acc} {a : Machine.Acc} {tile jid : Nat} (hs : Legal s) :
    Legal (launchReturn s l a tile jid) := by
  unfold launchReturn
  dsimp only
  split
  · split
    · exact takeTrap_legal (accPut_legal hs)
    · refine takeTrap_legal ?_
      split
      · exact dropJob_legal (foldl_legal hs (fun _ _ => accDel_legal))
      · exact foldl_legal hs fun _ _ => accDel_legal
  · split
    · split
      · exact answerJob_legal (clkRename_legal (launchTake_legal (foldl_legal hs (fun _ _ => accDel_legal))))
      · exact clkRename_legal (launchTake_legal (foldl_legal hs (fun _ _ => accDel_legal)))
    · split
      · split
        · exact answerJob_legal (foldl_legal hs (fun _ _ => accDel_legal))
        · exact foldl_legal hs fun _ _ => accDel_legal
      · exact takeTrap_legal (foldl_legal hs (fun _ _ => accDel_legal))

theorem execLaunchAccept_legal {id : Nat} (hs : Legal s) : OutLegal (execLaunchAccept id s) := by
  unfold execLaunchAccept
  dsimp only
  split
  · exact next_legal hs
  · split
    · split
      · split
        · exact next_legal (launchReturn_legal hs)
        · exact next_legal hs
      · split
        · exact next_legal (launchReturn_legal hs)
        · exact next_legal hs
    · exact next_legal hs

theorem execSpillMove_legal {part : Nat} (hs : Legal s) : OutLegal (execSpillMove part s) := by
  unfold execSpillMove
  dsimp only
  split
  · exact next_legal hs
  · split
    · exact next_legal (setPart_legal hs)
    · exact next_legal hs

theorem launchErr_legal {pn reason seq idx conf : Nat} (hs : Legal s) : Legal (launchErr s pn reason seq idx conf) :=
  faultRecord_legal hs

theorem writeDone_legal {pn d holder rk done word : Nat} (hs : Legal s) : Legal (writeDone s pn d holder rk done word) :=
  engineWrite_legal hs

theorem launchFail_legal {l : Launch} {reason : Nat} (hs : Legal s) : Legal (launchFail s l reason) :=
  modPart_legal (ite_legal (writeDone_legal (launchErr_legal hs)) (launchErr_legal hs))

theorem setLaunch_legal {l : Launch} (hs : Legal s) : Legal (setLaunch s l) := modPart_legal hs

theorem execLaunchDistribution_legal {part : Nat} (hs : Legal s) : OutLegal (execLaunchDistribution part s) := by
  unfold execLaunchDistribution
  dsimp only
  split
  · exact next_legal hs
  · split
    · exact next_legal (launchFail_legal hs)
    · exact next_legal (setLaunch_legal hs)
  · exact next_legal (setLaunch_legal hs)

theorem recordRead_legal {l : Launch} {b d : Nat} (hs : Legal s) : Legal (recordRead s l b d).1 := by
  unfold recordRead
  dsimp only
  split
  · exact hs
  · split
    · split
      · exact (xlateNow_legal hs).ofPair ‹_›
      · split
        · exact (xlateNow_legal hs).ofPair ‹_›
        · exact collDo_legal ((xlateNow_legal hs).ofPair ‹_›)
    · exact (xlateNow_legal hs).ofPair ‹_›

theorem execTileRecordRead_legal {part seq : Nat} (hs : Legal s) : OutLegal (execTileRecordRead part seq s) := by
  unfold execTileRecordRead
  dsimp only
  split
  · exact next_legal hs
  · split
    · exact next_legal hs
    · split
      · exact next_legal (launchErr_legal (setLaunch_legal (recordRead_legal hs)))
      · split
        · exact next_legal (launchErr_legal (setLaunch_legal (recordRead_legal hs)))
        · split
          · exact next_legal (setLaunch_legal (recordRead_legal hs))
          · exact next_legal (setLaunch_legal (recordRead_legal hs))

theorem taskTaken_legal {k d : Nat} {r : Region} {t : Machine.Task} (hs : Legal s) : Legal (taskTaken s k d r t) := by
  unfold taskTaken
  dsimp only
  split
  · exact modPart_legal hs
  · exact setLaunch_legal (modPart_legal hs)

theorem bindInstance_legal {k : Nat} {r : Region} {t : Machine.Task} (hs : Legal s) : Legal (bindInstance s k r t) := by
  unfold bindInstance
  dsimp only
  split
  · exact hs
  · exact modRgn_legal (clkAcquire_legal (foldl_legal (ite_legal (resetInstance_legal hs) hs) (fun _ _ => setAgt_legal)))

theorem execTaskBind_legal {part die : Nat} (hs : Legal s) : OutLegal (execTaskBind part die s) := by
  unfold execTaskBind
  dsimp only
  split
  · exact next_legal hs
  · split
    · exact next_legal (bindInstance_legal (taskTaken_legal hs))
    · exact next_legal (modRgn_legal (taskTaken_legal hs))

theorem sourceSend_legal {c : Option Nat} {prod : Nat} {t : Token} (hs : Legal s) : Legal (sourceSend s c prod t) := by
  unfold sourceSend
  split
  · exact hs
  · split
    · exact enterChan_legal (setChan_legal hs)
    · exact hs

theorem execIndexDelivery_legal {rgn : Nat} (hs : Legal s) : OutLegal (execIndexDelivery rgn s) := by
  unfold execIndexDelivery
  split
  · exact next_legal hs
  · split
    · split
      · exact next_legal (sourceSend_legal (setRgn_legal hs))
      · exact next_legal hs
    · exact next_legal hs

theorem execRegionCompletion_legal {rgn : Nat} (hs : Legal s) : OutLegal (execRegionCompletion rgn s) := by
  unfold execRegionCompletion
  dsimp only
  split
  · exact next_legal hs
  · split
    · split
      · exact next_legal (setLaunch_legal (setRgn_legal hs))
      · exact next_legal (setRgn_legal hs)
    · exact next_legal hs

theorem execLaunchCompletion_legal {part seq : Nat} (hs : Legal s) : OutLegal (execLaunchCompletion part seq s) := by
  unfold execLaunchCompletion
  dsimp only
  split
  · exact next_legal hs
  · split
    · exact next_legal (modPart_legal (writeDone_legal hs))
    · exact next_legal hs

/-! ### Streams, rings and FIFOs -/

theorem execStreamFetch_legal {tile : Nat} (hs : Legal s) : OutLegal (execStreamFetch tile s) := by
  unfold execStreamFetch
  dsimp only
  split
  · exact next_legal (setTile_legal hs (fetchNext_legal (tileOf_legal hs)))
  · exact next_legal hs

theorem setHandle_legal {t : Tile} {h : Nat} {x : Handle} (ht : TileLegal t) : TileLegal (setHandle t h x) := ht.congr rfl rfl

theorem ringWait_legal {full : Bool} {st : State} {f : Firing} {o : Opnd} (hs : Legal st) : EffLegal (ringWait full st f o) := by
  unfold ringWait
  dsimp only
  split
  · split
    · exact stop_legal
    · exact go_legal (clkAcquire_legal hs)
  · exact stop_legal

theorem ringAcc_legal {st : State} {f : Firing} {lit : W64} {m n : Nat} {op : AccOp} {off : W64} {size data : Nat} {toward : AccTo}
    {rel : Option Nat} (hs : Legal st) : Legal (ringAcc st f lit m n op off size data toward rel) :=
  accIssue_legal hs

theorem ringAdvEff_legal {prod : Bool} {st : State} {f : Firing} {o : Opnd} (hs : Legal st) :
    EffLegal (ringAdvEff prod st f o) := by
  unfold ringAdvEff
  dsimp only
  split
  · exact stop_legal
  · exact go_legal (ringAcc_legal (modTile_legal hs (fun _ => setHandle_legal)))

theorem ringRdEff_legal {size : Nat} {st : State} {f : Firing} {o : Opnd} {jid : Nat} (hs : Legal st) :
    EffLegal (ringRdEff size st f o jid) := by
  unfold ringRdEff
  split
  · exact stop_legal
  · exact go_legal (ringAcc_legal hs)

theorem ringWrEff_legal {size : Nat} {st : State} {f : Firing} {o : Opnd} (hs : Legal st) : EffLegal (ringWrEff size st f o) := by
  unfold ringWrEff
  split
  · exact stop_legal
  · exact go_legal (ringAcc_legal hs)

theorem sendViews_legal {m n p c : Nat} (hs : Legal s) : Legal (sendViews s m n p c) :=
  ⟨hs.memWf, map_all hs.tiles fun _ ht => ht.congr rfl rfl, hs.2.2⟩

theorem ringAdvance_legal {a : Machine.Acc} (hs : Legal s) : Legal (ringAdvance s a) := by
  unfold ringAdvance
  dsimp only
  split
  · split
    · split
      · exact accPut_legal hs
      · exact sendViews_legal (accPut_legal (clkRelease_legal (setMTile_legal hs ((mtileOf_legal hs).congr rfl))))
    · split
      · exact accPut_legal hs
      · exact sendViews_legal (accPut_legal (clkRelease_legal (setMTile_legal hs ((mtileOf_legal hs).congr rfl))))
  · exact hs

theorem execRingAdvance_legal {id : Nat} (hs : Legal s) : OutLegal (execRingAdvance id s) := by
  unfold execRingAdvance
  split
  · split
    · exact next_legal (ringAdvance_legal hs)
    · exact next_legal hs
  · exact next_legal hs

theorem execAdvanceAnswer_legal {id : Nat} (hs : Legal s) : OutLegal (execAdvanceAnswer id s) := by
  unfold execAdvanceAnswer
  dsimp only
  split
  · exact next_legal hs
  · split
    · split
      · split
        · exact next_legal (modTile_legal (accDel_legal hs) (fun _ => setHandle_legal))
        · exact next_legal (takeTrap_legal (modTile_legal (accDel_legal hs) (fun _ => setHandle_legal)))
      · exact next_legal hs
    · exact next_legal hs

theorem execHandleViewUpdate_legal {tile hdl : Nat} (hs : Legal s) : OutLegal (execHandleViewUpdate tile hdl s) := by
  unfold execHandleViewUpdate
  dsimp only
  split
  · split
    · exact next_legal (modTile_legal hs (fun _ => setHandle_legal))
    · exact next_legal hs
  · exact next_legal hs

theorem gwRelease_legal {mt port : Nat} (hs : Legal s) : Legal (gwRelease s mt port) := by
  unfold gwRelease
  split
  · split
    · exact clkRelease_legal hs
    · exact hs
  · exact hs

theorem gwAcquire_legal {mt : Nat} (hs : Legal s) : Legal (gwAcquire s mt) := by
  unfold gwAcquire
  dsimp only
  split
  · split
    · exact hs
    · split
      · split
        · exact modPart_legal hs
        · exact hs
      · exact hs
  · exact hs

theorem execFifoEnqueue_legal {mt port : Nat} (hs : Legal s) : OutLegal (execFifoEnqueue mt port s) := by
  unfold execFifoEnqueue
  dsimp only
  split
  · split
    · split
      · exact next_legal (setMTile_legal hs ((mtileOf_legal hs).congr rfl))
      · exact next_legal (setMTile_legal (gwRelease_legal (deqHead_legal hs))
          ((mtileOf_legal (gwRelease_legal (deqHead_legal hs))).congr rfl))
    · exact next_legal hs
  · exact next_legal hs

theorem fifoNote_legal {mt : Nat} (hs : Legal s) : Legal (fifoNote s mt) := by
  unfold fifoNote
  split
  · exact errNote_legal hs
  · exact hs

theorem fifoMark_legal {m : MTile} {addr : Nat} (hm : MTileLegal m) : MTileLegal (fifoMark m addr) := by
  unfold fifoMark
  dsimp only
  split
  · split
    · exact hm.congr rfl
    · exact hm
  · split
    · exact hm.congr rfl
    · exact hm

theorem fifoPop_legal {m : MTile} (hm : MTileLegal m) : MTileLegal (fifoPop m) := hm.congr rfl

theorem gatePass_legal {mt : Nat} (hs : Legal s) : Legal (gatePass s mt) := by
  unfold gatePass
  split
  · exact modRgn_legal hs
  · exact hs

theorem execFifoDequeue_legal {mt port : Nat} (hs : Legal s) : OutLegal (execFifoDequeue mt port s) := by
  unfold execFifoDequeue
  dsimp only
  split
  · split
    · exact next_legal (queueOut_legal (takeRequest_legal (gwAcquire_legal
        (gatePass_legal (setMTile_legal (fifoNote_legal hs) (fifoPop_legal (mtileOf_legal (fifoNote_legal hs))))))))
    · exact next_legal hs
  · exact next_legal hs

/-! ### Results, tokens and switches -/

theorem execResultWrite_legal {tile job : Nat} (hs : Legal s) : OutLegal (execResultWrite tile job s) := by
  unfold execResultWrite
  split
  · exact next_legal (ite_legal (finishJob_legal hs) hs)
  · exact next_legal hs

theorem execBankSwitch_legal {tile : Nat} (hs : Legal s) : OutLegal (execBankSwitch tile s) := by
  unfold execBankSwitch
  split
  · exact next_legal (modTile_legal hs (fun _ ht => ht.congr rfl rfl))
  · exact next_legal hs

theorem freshen_legal {k ep : Nat} {c : Clone} (hs : Legal s) : Legal (freshen s k ep c) := by
  unfold freshen
  dsimp only
  split
  · exact hs
  · split
    · exact identityRegs_legal (setInPort_legal (modRgn_legal hs))
    · exact setInPort_legal (modRgn_legal hs)

theorem freshenAt_legal {c : Chan} {x : Cons} (hs : Legal s) : Legal (freshenAt s c x) := by
  unfold freshenAt
  split
  · exact freshen_legal hs
  · exact hs

theorem execTokenArrival_legal {chan cons : Nat} (hs : Legal s) : OutLegal (execTokenArrival chan cons s) := by
  unfold execTokenArrival
  dsimp only
  split
  · exact next_legal hs
  · split
    · exact next_legal hs
    · split
      · exact next_legal hs
      · exact next_legal (setInPort_legal (enqueueTok_legal (freshenAt_legal (setChan_legal hs))))

theorem execPortRequest_legal {chan cons : Nat} (hs : Legal s) : OutLegal (execPortRequest chan cons s) := by
  unfold execPortRequest
  dsimp only
  split
  · exact next_legal hs
  · split
    · exact next_legal hs
    · split
      · exact next_legal (setChan_legal (setInPort_legal hs))
      · exact next_legal hs

theorem execRequestArrival_legal {chan cons : Nat} (hs : Legal s) : OutLegal (execRequestArrival chan cons s) := by
  unfold execRequestArrival
  split
  · exact next_legal hs
  · split
    · exact next_legal hs
    · split
      · exact next_legal (setChan_legal hs)
      · exact next_legal hs

theorem execMulticastDetach_legal {chan cons : Nat} (hs : Legal s) : OutLegal (execMulticastDetach chan cons s) := by
  unfold execMulticastDetach
  dsimp only
  split
  · exact next_legal hs
  · split
    · exact next_legal hs
    · split
      · split
        · exact next_legal (setChan_legal (setInPort_legal hs))
        · exact next_legal (setChan_legal (foldl_legal hs (fun _ _ hx => ite_legal (setInPort_legal hx) hx)))
      · exact next_legal hs

theorem execDetached_legal {chan cons : Nat} (hs : Legal s) : OutLegal (execDetached chan cons s) := by
  unfold execDetached
  dsimp only
  split
  · exact next_legal hs
  · split
    · split
      · exact next_legal (setInPort_legal hs)
      · exact next_legal hs
    · exact next_legal hs

theorem lagRecord_legal {c : Chan} {x : Cons} {final : Nat} (hs : Legal s) : Legal (lagRecord s c x final) := by
  unfold lagRecord
  split
  · exact hs
  · exact faultRecord_legal hs

theorem execLaggard_legal {chan cons : Nat} (hs : Legal s) : OutLegal (execLaggard chan cons s) := by
  unfold execLaggard
  split
  · exact next_legal hs
  · split
    · exact next_legal hs
    · split
      · exact next_legal (lagRecord_legal (setChan_legal hs))
      · exact next_legal hs

theorem execLaggardEnd_legal {chan cons : Nat} (hs : Legal s) : OutLegal (execLaggardEnd chan cons s) := by
  unfold execLaggardEnd
  split
  · exact next_legal hs
  · split
    · exact next_legal hs
    · split
      · exact next_legal (lagRecord_legal (setChan_legal hs))
      · exact next_legal hs

theorem elemOut_legal {ep : Nat} {t : Token} (hs : Legal s) : Legal (elemOut s ep t) := queueOut_legal (takeRequest_legal hs)

theorem gatherNext_legal {tile : Nat} (hs : Legal s) : OptLegal (gatherNext s tile) := by
  unfold gatherNext
  split
  · exact none_legal
  · split
    · exact none_legal
    · dsimp only
      split
      · exact some_legal (elemOut_legal (deqHead_legal hs))
      · split
        · exact some_legal (elemOut_legal (deqHead_legal hs))
        · intro r hr
          obtain ⟨_, -, rfl⟩ := Option.map_eq_some_iff.mp hr
          exact elemOut_legal (deqHead_legal (deqHead_legal hs))

theorem execSwitchGather_legal {tile : Nat} (hs : Legal s) : OutLegal (execSwitchGather tile s) :=
  next_legal (getD_legal (gatherNext_legal hs) hs)

theorem scatterNext_legal {tile : Nat} (hs : Legal s) : OptLegal (scatterNext s tile) := by
  unfold scatterNext
  dsimp only
  split
  · exact none_legal
  · split
    · exact none_legal
    · split
      · split
        · exact some_legal (foldl_legal (deqHead_legal hs) (fun _ _ => elemOut_legal))
        · exact none_legal
      · split
        · exact none_legal
        · split
          · split
            · exact some_legal (elemOut_legal (deqHead_legal (deqHead_legal hs)))
            · exact none_legal
          · split
            · exact some_legal (elemOut_legal (deqHead_legal (deqHead_legal hs)))
            · exact none_legal

theorem execSwitchScatter_legal {tile : Nat} (hs : Legal s) : OutLegal (execSwitchScatter tile s) :=
  next_legal (getD_legal (scatterNext_legal hs) hs)

/-! ### Trap records and stops -/

theorem execTrapRecord_legal {tile : Nat} (hs : Legal s) : OutLegal (execTrapRecord tile s) := by
  unfold execTrapRecord
  dsimp only
  split
  · exact next_legal hs
  · exact next_legal (faultRecord_legal (modTile_legal hs (fun _ ht => ht.congr rfl rfl)))

theorem execRegionStop_legal {rgn : Nat} (hs : Legal s) : OutLegal (execRegionStop rgn s) := by
  unfold execRegionStop
  dsimp only
  split
  · exact next_legal hs
  · split
    · exact next_legal (modRgn_legal (foldl_legal hs (fun _ _ hx => modTile_legal hx (fun _ ht1 => ht1.congr rfl rfl))))
    · exact next_legal hs

end Sys2Proof
end

section
/-! The invariant `Legal`: barometers, plans, gates, rewiring, drains and stops. -/
namespace Sys2Proof

open Machine

variable {s : State} {t u : Tile} {b : Bank}

/-! ### Barometers and plans -/

theorem descWrite_legal {k : Nat} {rel : Bool} {off x n : Nat} (hs : Legal s) : Legal (descWrite s k rel off x n) := by
  unfold descWrite
  dsimp only
  split
  · exact hs
  · exact engineWrite_legal hs

theorem writeBaros_legal {k : Nat} (hs : Legal s) : Legal (writeBaros s k) := by
  unfold writeBaros
  dsimp only
  split
  · exact hs
  · exact descWrite_legal (foldl_legal hs (fun _ _ => descWrite_legal))

theorem writeDesc_legal {k : Nat} (hs : Legal s) : Legal (writeDesc s k) := by
  unfold writeDesc
  dsimp only
  split
  · exact hs
  · exact descWrite_legal (writeBaros_legal (foldl_legal (descWrite_legal (descWrite_legal hs)) (fun _ _ => descWrite_legal)))

theorem execBarometerWindow_legal {rgn : Nat} (hs : Legal s) : OutLegal (execBarometerWindow rgn s) := by
  unfold execBarometerWindow
  dsimp only
  split
  · exact next_legal hs
  · split
    · split
      · split
        · exact next_legal (writeBaros_legal (setRgn_legal hs))
        · split
          · exact next_legal (mgmtRecord_legal (setRgn_legal (writeBaros_legal (setRgn_legal hs))))
          · exact next_legal (setRgn_legal (writeBaros_legal (setRgn_legal hs)))
      · exact next_legal (writeBaros_legal (setRgn_legal hs))
    · exact next_legal hs

theorem execProposalLapse_legal {rgn : Nat} (hs : Legal s) : OutLegal (execProposalLapse rgn s) := next_legal (modRgn_legal hs)

theorem holdGate_legal {k : Nat} (hs : Legal s) : Legal (holdGate s k) := by
  unfold holdGate
  split
  · exact hs
  · split
    · exact setChan_legal (setRgn_legal hs)
    · exact hs

theorem armPlans_legal {n k : Nat} (hs : Legal s) : Legal (armPlans n s k) := by
  induction n generalizing s with
  | zero => exact hs
  | succ n ih =>
    unfold armPlans
    split
    · exact hs
    · split
      · exact hs
      · split
        · exact ih (mgmtRecord_legal (setRgn_legal hs))
        · exact setRgn_legal hs

theorem planArm_legal {rgn : Nat} (hs : Legal s) : Legal (planArm s rgn) := holdGate_legal (armPlans_legal hs)

theorem execPlanArm_legal {rgn : Nat} (hs : Legal s) : OutLegal (execPlanArm rgn s) := next_legal (planArm_legal hs)

/-! ### Gates and preemption -/

theorem gateOpens_legal {k id : Nat} (hs : Legal s) : Legal (gateOpens s k id) := by
  unfold gateOpens
  split
  · exact setChan_legal hs
  · exact hs

theorem gating_legal {rgn : Nat} (hs : Legal s) : Legal (gating s rgn) := by
  unfold gating
  dsimp only
  split
  · exact hs
  · split
    · exact hs
    · split
      · exact hs
      · exact setChan_legal (setRgn_legal hs)

theorem execGating_legal {rgn : Nat} (hs : Legal s) : OutLegal (execGating rgn s) := next_legal (gating_legal hs)

theorem rewireFails_legal {k reason status : Nat} (hs : Legal s) : Legal (rewireFails s k reason status) := by
  unfold rewireFails
  dsimp only
  split
  · exact hs
  · split
    · exact hs
    · exact gating_legal (planArm_legal (gateOpens_legal (mgmtRecord_legal (setRgn_legal hs))))

theorem preempt_legal {k : Nat} (hs : Legal s) : Legal (preempt s k) := by
  unfold preempt
  split
  · split
    · exact hs
    · exact rewireFails_legal hs.frame
  · exact hs

theorem rewireTick_legal {k : Nat} (hs : Legal s) : Legal (rewireTick s k) := by
  unfold rewireTick
  dsimp only
  split
  · exact hs
  · split
    · exact hs
    · split
      · exact setRgn_legal (freeDelay_legal hs)
      · exact hs

theorem execRewireFail_legal {rgn : Nat} (hs : Legal s) : OutLegal (execRewireFail rgn s) := by
  unfold execRewireFail
  split
  · exact next_legal (rewireFails_legal hs.frame)
  · exact next_legal hs

/-! ### Clones placed and retired -/

theorem setRegs_legal {regs : List Nat} {v : W512} (hb : BankLegal b) : BankLegal (setRegs b regs v) := by
  unfold setRegs
  induction regs generalizing b with
  | nil => exact hb
  | cons n l ih =>
    refine ih ?_
    dsimp only
    split
    · exact kSet_legal hb
    · exact vSet_legal hb

theorem collapse_legal {c : Clone} (hs : Legal s) : Legal (collapse s c) := by
  unfold collapse
  dsimp only
  refine setInPort_legal ?_
  split
  · exact modBank_legal hs fun _ => setRegs_legal
  · exact hs

theorem placeClone_legal {k op target : Nat} {r : Region} (hs : Legal s) : Legal (placeClone s k r op target) := by
  unfold placeClone
  extract_lets s0 o n old cls regs slots t0 s1 in0 out0 copies
  have h0 : Legal s0 := by
    simp only [s0]
    split
    · exact collapse_legal hs
    · exact hs
  split
  · extract_lets s2 s3 ip c0 c1 s4 s5 c2
    have h1 : Legal s1 := setTile_legal (fonsCut_legal h0)
      (withFons_legal ((tileOf_legal h0).mix (u := old) (tileOf_legal h0) rfl rfl))
    have h3 : Legal s3 := setOutPort_legal (setInPort_legal h1)
    have h4 : Legal s4 := by
      simp only [s4]
      split
      · exact setChan_legal h3
      · exact h3
    refine modRgn_legal (identityRegs_legal ?_)
    simp only [s5]
    split
    · exact setChan_legal h4
    · exact h4
  · exact h0

theorem tileVacant_legal {n : Nat} {keep : Bool} (hs : Legal s) : Legal (tileVacant s n keep) :=
  have ht := tileOf_legal hs
  setTile_legal hs (withArray_legal ht (tile0_legal.mix ht rfl rfl))
/-- Sticky flags of several banks ORed into a mode word leave its reserved bits at zero. -/
theorem foldl_modeRaise_reserved {α : Type} {l : List α} {f : α → Raise} {m : W64} (h : m &&& ~~~modeMask = 0) :
    l.foldl (fun m n => modeRaise m (f n)) m &&& ~~~modeMask = 0 := by
  induction l generalizing m with
  | nil => exact h
  | cons a l ih => exact ih (modeRaise_reserved h)

theorem retireClones_legal {k : Nat} {c : Clone} (hs : Legal s) : Legal (retireClones s k c) := by
  unfold retireClones
  extract_lets t cl s1 s2 s3 s4 s5
  have h1 : Legal s1 := collapse_legal hs
  have h2 : Legal s2 := foldl_legal h1 fun _ _ hx => modBank_legal hx fun _ hb => hb.withMode (foldl_modeRaise_reserved hb.1)
  have h3 : Legal s3 := foldl_legal h2 fun _ _ hx => (tileVacant_legal hx).frame
  have h4 : Legal s4 := by
    simp only [s4]
    split
    · exact setChan_legal h3
    · exact h3
  refine modRgn_legal ?_
  simp only [s5]
  split
  · exact setChan_legal h4
  · exact h4

/-! ### Folds, steers and merges -/

theorem movePort_legal {k a b : Nat} {out : Bool} (hs : Legal s) : Legal (movePort s k a b out) := by
  unfold movePort
  dsimp only
  split
  · split
    · split
      · exact setChan_legal (setOutPort_legal hs.frame)
      · exact setOutPort_legal hs.frame
    · exact setOutPort_legal hs.frame
  · refine modRgn_legal ?_
    split
    · split
      · exact setChan_legal (setInPort_legal hs.frame)
      · exact setInPort_legal hs.frame
    · exact setInPort_legal hs.frame

theorem applyFold_legal {k n : Nat} {v : FoldEnt} (hs : Legal s) : Legal (applyFold s k n v) :=
  modRgn_legal (tileVacant_legal (foldl_legal (modTile_legal hs
    (fun _ ht => (setBank_legal ht (bankOf_legal (tileOf_legal hs))).congr rfl rfl)) (fun _ _ => movePort_legal)))

theorem undoFold_legal {k : Nat} {f : FoldOn} {v : FoldEnt} (hs : Legal s) : Legal (undoFold s k f v) :=
  modRgn_legal (foldl_legal (modTile_legal (modTile_legal hs
    (fun _ ht => (setBank_legal ht (bankOf_legal (tileOf_legal hs))).congr rfl rfl))
    (fun _ ht => (setBank_legal ht bank0_legal).congr rfl rfl)) (fun _ _ => movePort_legal))

theorem steerSend_legal {id : Nat} {c : Chan} {k : Clone} {t : Token} (hs : Legal s) : Legal (steerSend s id c k t) := by
  unfold steerSend
  dsimp only
  split
  · exact setChan_legal hs
  · exact modRgn_legal (setChan_legal hs)

theorem execSteerToken_legal {chan : Nat} (hs : Legal s) : OutLegal (execSteerToken chan s) := by
  unfold execSteerToken
  split
  · exact next_legal hs
  · split
    · exact next_legal (steerSend_legal hs)
    · exact next_legal hs

theorem execDelayLineDepart_legal {chan : Nat} (hs : Legal s) : OutLegal (execDelayLineDepart chan s) := by
  unfold execDelayLineDepart
  split
  · exact next_legal hs
  · split
    · split
      · exact next_legal (setChan_legal hs)
      · exact next_legal hs
    · exact next_legal hs

theorem copyTick_legal {k op n : Nat} (hs : Legal s) : Legal (copyTick s k op n) := by
  unfold copyTick
  dsimp only
  split
  · exact hs
  · split
    · exact hs
    · split
      · exact modRgn_legal hs
      · exact hs

theorem cloneTick_legal {k : Nat} (hs : Legal s) : Legal (cloneTick s k) := by
  unfold cloneTick
  dsimp only
  split
  · exact hs
  · exact foldl_legal hs fun _ _ hx => modRgn_legal (foldl_legal hx (fun _ _ => copyTick_legal))

theorem mergeRaise_legal {c : Clone} {f : Raise} (hs : Legal s) : Legal (mergeRaise s c f) :=
  modBank_legal hs fun _ hb => hb.withMode (modeRaise_reserved hb.1)

theorem execMergeOutput_legal {chan : Nat} (hs : Legal s) : OutLegal (execMergeOutput chan s) := by
  unfold execMergeOutput
  dsimp only
  split
  · exact next_legal hs
  · split
    · exact next_legal hs
    · split
      · exact next_legal (mergeRaise_legal (modRgn_legal hs))
      · exact next_legal (setChan_legal (mergeRaise_legal (modRgn_legal hs)))

theorem mergeEmptied_legal {k : Nat} {c : Clone} (hs : Legal s) : Legal (mergeEmptied s k c).1 := by
  unfold mergeEmptied
  dsimp only
  split
  · exact hs
  · dsimp only
    split
    · exact setChan_legal (modRgn_legal (mergeRaise_legal (foldl_legal hs fun _ _ => setOutPort_legal)))
    · exact modRgn_legal (mergeRaise_legal (foldl_legal hs fun _ _ => setOutPort_legal))

theorem reattach_legal {id : Nat} (hs : Legal s) : Legal (reattach s id) := by
  unfold reattach
  dsimp only
  split
  · exact hs
  · exact foldl_legal (setChan_legal hs) fun _ _ hx => ite_legal hx (setInPort_legal hx)

/-! ### Gates opened, a rewiring retired -/

theorem openGate_legal {s0 : State} {k chan : Nat} (hs : Legal s0) : Legal (openGate s0 k chan) := by
  unfold openGate
  dsimp only
  refine gating_legal (planArm_legal (gateOpens_legal (writeDesc_legal (modRgn_legal ?_))))
  split
  · split
    · exact foldl_legal hs fun _ _ => reattach_legal
    · exact hs
  · exact hs

theorem execUngate_legal {rgn : Nat} (hs : Legal s) : OutLegal (execUngate rgn s) := by
  unfold execUngate
  dsimp only
  split
  · exact next_legal hs
  · split
    · exact next_legal hs
    · refine next_legal (openGate_legal ?_)
      split
      · refine placeClone_legal ?_
        split
        · exact mergeEmptied_legal hs
        · exact hs
      · split
        · exact applyFold_legal hs
        · exact hs
      · split
        · exact undoFold_legal hs
        · exact hs

theorem execRetirement_legal {rgn : Nat} (hs : Legal s) : OutLegal (execRetirement rgn s) := by
  unfold execRetirement
  dsimp only
  split
  · exact next_legal hs
  · split
    · exact next_legal hs
    · split
      · exact next_legal (openGate_legal (retireClones_legal (mergeEmptied_legal hs)))
      · exact next_legal hs

/-! ### Drains and stops -/

theorem drainBegin_legal {k : Nat} {d : Drain} (hs : Legal s) : Legal (drainBegin s k d) :=
  modRgn_legal (foldl_legal hs (fun _ _ hx => ite_legal hx (setAgt_legal hx)))

theorem drainTick_legal {k : Nat} (hs : Legal s) : Legal (drainTick s k) := by
  unfold drainTick
  split
  · split
    · exact drainBegin_legal hs
    · exact hs
  · exact hs

theorem drainOuts_legal {e : Nat} (hs : Legal s) : Legal (drainOuts s e) := foldl_legal hs fun _ _ => setOutPort_legal

theorem elemStop_legal {e : Nat} (hs : Legal s) : Legal (elemStop s e) := by
  unfold elemStop
  dsimp only
  split
  · exact modTile_legal hs fun _ ht => ht.congr rfl rfl
  · split
    · exact setInPort_legal hs
    · exact hs
  · exact setAgt_legal hs
  · exact hs

theorem execElementDrained_legal {elem : Nat} (hs : Legal s) : OutLegal (execElementDrained elem s) := by
  unfold execElementDrained
  dsimp only
  split
  · exact next_legal hs
  · split
    · split
      · exact next_legal (enterChan_legal (modRgn_legal hs))
      · exact next_legal (modRgn_legal hs)
    · exact next_legal (elemStop_legal (drainOuts_legal (modRgn_legal hs)))

theorem undrain_legal {k : Nat} {fresh : Bool} (hs : Legal s) : Legal (undrain s k fresh) := by
  unfold undrain
  dsimp only
  split
  · exact hs
  · refine modRgn_legal (foldl_legal (foldl_legal (Legal.frame (foldl_legal hs (fun _ _ hx => ?_)))
      (fun _ _ hx => modTile_legal hx (fun _ ht1 => ht1.congr rfl rfl))) (fun _ _ => setAgt_legal))
    split
    · exact foldl_legal (setChan_legal hx) fun _ _ => setInPort_legal
    · exact hx

theorem stopNow_legal {k : Nat} (hs : Legal s) : Legal (stopNow s k) :=
  modRgn_legal (foldl_legal hs (fun _ _ hx => modTile_legal hx (fun _ ht1 => ht1.congr rfl rfl)))

theorem reportStop_legal {k : Nat} {r : Region} {d : Drain} {status : Nat} (hs : Legal s) : Legal (reportStop s k r d status) :=
  modHost_legal (mgmtRecord_legal hs)

theorem execStop_legal {rgn : Nat} (hs : Legal s) : OutLegal (execStop rgn s) := by
  unfold execStop
  split
  · exact next_legal hs
  · split
    · exact next_legal hs
    · split
      · exact next_legal (reportStop_legal (stopNow_legal (undrain_legal hs)))
      · exact next_legal (reportStop_legal (undrain_legal hs))

theorem execStepTimeout_legal {rgn : Nat} (hs : Legal s) : OutLegal (execStepTimeout rgn s) := by
  unfold execStepTimeout
  split
  · exact next_legal hs
  · split
    · exact next_legal hs
    · exact next_legal (reportStop_legal (stopNow_legal (undrain_legal hs)))

theorem execSlotBreakpoint_legal {rgn brk : Nat} (hs : Legal s) : OutLegal (execSlotBreakpoint rgn brk s) := by
  unfold execSlotBreakpoint
  split
  · exact next_legal hs
  · exact next_legal (startHalt_legal (modRgn_legal hs))

end Sys2Proof
end

section
/-! The invariant `Legal`: images, saves, swaps, and the host's requests about partitions and regions. -/
namespace Sys2Proof

open Machine

variable {s : State} {t u : Tile} {b : Bank}

/-! ### The records of a tile, and the shadow exchange -/

theorem cfgRecords_legal {pn rgn : Nat} {l : List CfgErr} (hs : Legal s) : Legal (cfgRecords s pn rgn l) :=
  foldl_legal hs fun _ _ => faultRecord_legal
/-- A tile's record with the local memory of the physical tile. -/
theorem tileBody_legal (ht : TileLegal t) (hu : TileLegal u) : TileLegal (tileBody t u) := ht.mix hu rfl rfl

theorem mtBody_legal {m n : MTile} (hn : MTileLegal n) : MTileLegal (mtBody m n) := hn.congr rfl

theorem foldl_mapPut_all {α : Type} {P : α → Prop} {g : Nat × α → α} {m l : SMap α} (hm : ∀ e ∈ m, P e.2)
    (hl : ∀ e ∈ l, P (g e)) : ∀ e ∈ l.foldl (fun m x => mapPut m x.1 (g x)) m, P e.2 := by
  induction l generalizing m with
  | nil => exact hm
  | cons a l ih => exact ih (mapPut_all hm (hl a (List.mem_cons_self ..))) fun e he => hl e (List.mem_cons_of_mem _ he)

theorem swapPick_all {α : Type} {P : α → Prop} {f : Nat → Bool} {m n : SMap α} (hm : ∀ e ∈ m, P e.2) (hn : ∀ e ∈ n, P e.2) :
    ∀ e ∈ swapPick f m n, P e.2 :=
  foldl_mapPut_all (g := fun x => x.2) (filter_all hm) (filter_all hn)

theorem exchange_legal {pn : Nat} (hs : Legal s) : Legal (exchange s pn) := by
  unfold exchange
  extract_lets p tf mf pf tl ml
  have htl : ∀ e ∈ tl, TileLegal e.2 := swapPick_all hs.tiles (foldl_mapPut_all
    (map_all hs.shadows fun _ ht => tileBody_legal ht (tileOf_legal hs))
    fun e he => tileBody_legal (mapGet_all hs.shadows tile0_legal) (filter_all hs.tiles e he))
  have hml : ∀ e ∈ ml, MTileLegal e.2 := swapPick_all hs.mtiles (foldl_mapPut_all
    (map_all hs.shadowMts fun _ _ => mtBody_legal (mtileOf_legal hs)) fun e he => mtBody_legal (filter_all hs.mtiles e he))
  exact ⟨hs.memWf, htl, swapPick_all hs.shadows hs.tiles, hml, swapPick_all hs.shadowMts hs.mtiles, hs.saves⟩

theorem inShadow_legal {pn : Nat} {f : State → State} (hs : Legal s) (hf : ∀ x, Legal x → Legal (f x)) : Legal (inShadow s pn f) :=
  exchange_legal (hf _ (exchange_legal hs))

theorem flushBanks_legal {pn : Nat} {l : List Nat} (hs : Legal s) : Legal (flushBanks s pn l) :=
  foldl_legal hs fun _ _ hx => foldl_legal (setMTile_legal hx ((mtileOf_legal hx).congr rfl)) fun _ _ => noteEvict_legal

theorem banksChanged_legal {x : State} {pn : Nat} (hs : Legal s) : Legal (banksChanged x s pn) :=
  foldl_legal hs fun _ _ hy => ite_legal hy (flushBanks_legal hy)

/-! ### An image installed -/

theorem putTiles_legal {k : Nat} {armed : Bool} {img : Image} (hs : Legal s) : Legal (putTiles s k armed img) :=
  foldl_legal hs fun _ _ hx => setTile_legal (fonsCut_legal hx) (tileFresh_legal ((tileOf_legal hx).congr rfl rfl))

theorem putMts_legal {k : Nat} {armed shadow : Bool} {img : Image} (hs : Legal s) : Legal (putMts s k armed shadow img) :=
  foldl_legal hs fun _ _ hx => ite_legal hx (setMTile_legal hx ((mtileOf_legal hx).congr rfl))

theorem putAgts_legal {k : Nat} {img : Image} (hs : Legal s) : Legal (putAgts s k img) := foldl_legal hs fun _ _ => setAgt_legal

theorem putBtes_legal {k holder : Nat} {img : Image} (hs : Legal s) : Legal (putBtes s k holder img) :=
  foldl_legal hs fun _ _ => setBte_legal

theorem putRegion_legal {k : Nat} {r : Region} (hs : Legal s) : Legal (putRegion s k r) :=
  setRgn_legal (putBtes_legal (putAgts_legal (addChans_legal (putMts_legal (putTiles_legal hs)))))

theorem installRegion_legal {pn : Nat} {e : BitVec 512} {img : Image} (hs : Legal s) : Legal (installRegion s pn e img) := by
  unfold installRegion
  dsimp only
  refine writeDesc_legal (banksChanged_legal ?_)
  split
  · refine inShadow_legal hs fun _ hx => ?_
    split
    · exact setRgn_legal (putRegion_legal hx)
    · exact putRegion_legal hx
  · split
    · exact setRgn_legal (putRegion_legal hs)
    · exact putRegion_legal hs

theorem installDo_legal {e : BitVec 512} (hs : Legal s) : Legal (installDo s e).1 := by
  unfold installDo
  dsimp only
  split
  · exact hs
  · split
    · exact cfgRecords_legal hs
    · split
      · exact installRegion_legal hs
      · exact cfgRecords_legal hs

theorem reqBegin_legal {e : BitVec 512} {todo : List Nat} (hs : Legal s) : Legal (reqBegin s e todo) :=
  modHost_legal (modPart_legal hs)

theorem reqEnd_legal {e : BitVec 512} {status val : Nat} (hs : Legal s) : Legal (reqEnd s e status val) :=
  respond_legal (modHost_legal (modPart_legal hs))

theorem tagEnd_legal {pn tag status val : Nat} (hs : Legal s) : Legal (tagEnd s pn tag status val) :=
  respond_legal (modHost_legal (modPart_legal hs))

/-! ### Fabric freed -/

theorem mtVacant_legal {m : MTile} (hm : MTileLegal m) : MTileLegal (mtVacant m) := by
  unfold mtVacant
  dsimp only
  split
  · exact hm.congr rfl
  · exact hm.congr rfl

theorem tileFree_legal (ht : TileLegal t) : TileLegal (tileFree t) := withArray_legal ht (tile0_legal.mix ht rfl rfl)

theorem freeFabric_legal {k : Nat} {r : Region} (hs : Legal s) : Legal (freeFabric s k r) :=
  (foldl_legal (foldl_legal hs.frame (fun _ _ hx => setTile_legal hx (tileFree_legal (tileOf_legal hx))))
    (fun _ _ hx => setMTile_legal hx (mtVacant_legal (mtileOf_legal hx)))).frame

theorem freeRegion_legal {k : Nat} {r : Region} (hs : Legal s) : Legal (freeRegion s k r) :=
  banksChanged_legal (ite_legal (inShadow_legal hs (fun _ => freeFabric_legal)) (freeFabric_legal hs))

/-! ### Save images made -/

theorem takeSnap_legal {k : Nat} {r : Region} {full drained keep frozen : Bool} {body : List Byte} (hs : Legal s) :
    SnapLegal (takeSnap s k r full drained keep frozen body) :=
  ⟨map_all (filter_all hs.tiles) fun _ ht => ht.congr rfl rfl, filter_all hs.mtiles⟩

theorem savePut_legal {k : Nat} {r : Region} {va : Nat} {x : Byte} (hs : Legal s) : Legal (savePut s k r va x).1 := by
  unfold savePut
  dsimp only
  split
  · exact hs
  · split
    · split
      · exact (xlateNow_legal hs).ofPair ‹_›
      · exact enginePieces_legal ((xlateNow_legal hs).ofPair ‹_›)
    · exact (xlateNow_legal hs).ofPair ‹_›

theorem saveRun_legal {k va : Nat} {r : Region} {l : List Byte} (hs : Legal s) : Legal (saveRun s k r va l).1 := by
  induction l generalizing s va with
  | nil => exact hs
  | cons x l ih =>
    unfold saveRun
    split
    · exact ih ((savePut_legal hs).ofPair ‹_›)
    · exact (savePut_legal hs).ofPair ‹_›

theorem saveStore_legal {k va : Nat} {r : Region} {l : List (Nat × List Byte)} (hs : Legal s) : Legal (saveStore s k r va l).1 := by
  induction l generalizing s va with
  | nil => exact hs
  | cons x l ih =>
    obtain ⟨e, b⟩ := x
    unfold saveStore
    split
    · exact ih ((saveRun_legal hs).ofPair ‹_›)
    · exact (saveRun_legal hs).ofPair ‹_›

theorem saveStop_legal {k : Nat} {r : Region} (hs : Legal s) : Legal (saveStop s k r) :=
  modRgn_legal (ite_legal (stopNow_legal hs) hs)
/-- A save image put among those kept. -/
theorem Legal.withSave {n : Nat} {x : Snap} {accs : List Acc} (hs : Legal s) (hx : SnapLegal x) :
    Legal { s with saves := mapPut s.saves n x, accs := accs } :=
  ⟨hs.memWf, hs.tiles, hs.shadows, hs.mtiles, hs.shadowMts, mapPut_all hs.saves hx⟩

theorem saveMake_legal {k va : Nat} {full drained keep : Bool} (hs : Legal s) : Legal (saveMake s k va full drained keep).1 := by
  unfold saveMake
  split
  · exact hs
  · dsimp only
    split
    · have h1 := (saveStore_legal hs.frame).ofPair ‹_›
      exact setRgn_legal (freeRegion_legal (h1.withSave (takeSnap_legal h1)))
    · exact stopNow_legal (mgmtRecord_legal ((saveStore_legal hs.frame).ofPair ‹_›))

theorem saveAnswer_legal {pn tag st : Nat} (hs : Legal s) : Legal (saveAnswer s pn tag st) := tagEnd_legal hs.frame

theorem execSaveDone_legal {rgn : Nat} (hs : Legal s) : OutLegal (execSaveDone rgn s) := by
  unfold execSaveDone
  dsimp only
  split
  · exact next_legal hs
  · exact next_legal (saveAnswer_legal (saveMake_legal (undrain_legal hs)))

theorem execDrainTimeout_legal {rgn : Nat} (hs : Legal s) : OutLegal (execDrainTimeout rgn s) := by
  unfold execDrainTimeout
  dsimp only
  split
  · exact next_legal hs
  · split
    · exact next_legal hs
    · exact next_legal (reqBegin_legal (saveStop_legal (undrain_legal hs)))

/-! ### Save images put back -/

theorem tileMoved_legal {f g m : Nat → Nat} {keep armed : Bool} {k : Nat} (ht : TileLegal t) (hu : TileLegal u) :
    TileLegal (tileMoved f g m keep armed k t u) := by
  unfold tileMoved
  cases keep
  · exact withFons_legal (hu.mix ht rfl rfl)
  · exact withFons_legal (hu.congr rfl rfl)

theorem mtMoved_legal {keep armed : Bool} {k : Nat} {m n : MTile} (hm : MTileLegal m) (hn : MTileLegal n) :
    MTileLegal (mtMoved keep armed k m n) := by
  unfold MTileLegal mtMoved
  dsimp only
  split
  · exact hn
  · exact hm

theorem moveGroups_legal {pn : Nat} {t : Nat → Nat} {ts : List Nat} (hs : Legal s) : Legal (moveGroups s pn t ts) := hs.frame

theorem foldl_mem_legal {α : Type} {f : State → α → State} {l : List α} (h : Legal s) (hf : ∀ x, ∀ a ∈ l, Legal x → Legal (f x a)) :
    Legal (l.foldl f s) := by
  induction l generalizing s with
  | nil => exact h
  | cons a l ih => exact ih (hf s a (List.mem_cons_self ..) h) fun x b hb => hf x b (List.mem_cons_of_mem _ hb)

theorem putSnap_legal {k : Nat} {x : Snap} {r1 c1 : Nat} (hs : Legal s) (hx : SnapLegal x) : Legal (putSnap s k x r1 c1) := by
  unfold putSnap
  extract_lets r f t m armed s1 s2 s3 s4 s5 s6 s7 s8 s9
  have h1 : Legal s1 := foldl_mem_legal hs fun y e he hy =>
    setTile_legal (fonsCut_legal hy) (tileMoved_legal (tileOf_legal hy) (hx.1 e he))
  have h2 : Legal s2 := foldl_mem_legal h1 fun y e he hy => setMTile_legal hy (mtMoved_legal (mtileOf_legal hy) (hx.2 e he))
  have h3 : Legal s3 := foldl_legal h2 fun _ _ => setInPort_legal
  have h4 : Legal s4 := foldl_legal h3 fun _ _ => setOutPort_legal
  have h5 : Legal s5 := foldl_legal h4 fun _ _ => setChan_legal
  have h6 : Legal s6 := foldl_legal h5 fun _ _ => setAgt_legal
  have h7 : Legal s7 := foldl_legal h6 fun _ _ => setBte_legal
  exact setRgn_legal (moveGroups_legal (Legal.frame h7))

theorem snapAt_legal {pn id va : Nat} {x : Snap} (hs : Legal s) (e : snapAt s pn id va = some x) : SnapLegal x := by
  simp only [snapAt, Option.orElse_eq_or, Option.or_eq_some_iff, Option.filter_eq_some_iff, Option.map_eq_some_iff] at e
  rcases e with ⟨h, -⟩ | ⟨-, e, h, rfl⟩
  · exact mapFind_all hs.saves h
  · exact hs.saves e (List.mem_of_find?_eq_some h)

theorem againAt_legal {tile : Nat} {x : W64} (hs : Legal s) : Legal (againAt s tile x).1 := by
  unfold againAt
  split
  · exact hs
  · split
    · exact (xlateNow_legal hs).ofPair ‹_›
    · exact (xlateNow_legal hs).ofPair ‹_›
  · exact hs

/-! ### Regions resumed and released -/

theorem launchAgain_legal {tile : Nat} {t : Trap} (hs : Legal s) : Legal (launchAgain s tile t) := by
  have again {x r : State} {n : Nat} {c : Prop} {_ : Decidable c} {l : Loc} {w : W64} {v : Except W64 Loc} (hx : Legal x)
      (e : (if c then (x, .ok l) else againAt x n w) = (r, v)) : Legal r := by
    split at e
    · cases e
      exact hx
    · exact (againAt_legal hx).ofPair e
  unfold launchAgain
  dsimp only
  split
  · exact hs
  · split
    · exact takeTrap_legal ((againAt_legal hs).ofPair ‹_›)
    · have h1 := (againAt_legal hs).ofPair ‹_›
      split
      · exact takeTrap_legal (again h1 ‹_›)
      · exact descIssue_legal (again h1 ‹_›)

theorem resumeTile_legal {n : Nat} (hs : Legal s) : Legal (resumeTile s n) :=
  have h1 {f : Tile → Tile} (hf : ∀ t, TileLegal t → TileLegal (f t)) : Legal (modTile s n f) := modTile_legal hs hf
  foldl_legal (Legal.frame (h1 fun _ ht => ht.congr rfl rfl)) fun _ _ => launchAgain_legal

theorem resumeRegion_legal {k : Nat} (hs : Legal s) : Legal (resumeRegion s k) :=
  foldl_legal (foldl_legal (modRgn_legal hs) (fun _ _ => resumeTile_legal)) fun _ _ hx => ite_legal (agtResumeNow_legal hx) hx

theorem releaseStart_legal {s0 : State} {k : Nat} (hs : Legal s0) : Legal (releaseStart s0 k) :=
  modRgn_legal (undrain_legal (ite_legal (stopNow_legal (foldl_legal
    (foldl_legal (preempt_legal hs) (fun _ _ hx => ite_legal hx (setAgt_legal hx.frame))) (fun _ _ => setBte_legal)))
    (foldl_legal (foldl_legal (preempt_legal hs) (fun _ _ hx => ite_legal hx (setAgt_legal hx.frame))) (fun _ _ => setBte_legal))))

theorem releaseEnd_legal {k : Nat} {r : Region} (hs : Legal s) : Legal (releaseEnd s k r) :=
  modPart_legal (freeRegion_legal (ite_legal (inShadow_legal hs.frame (fun _ hx => foldl_legal hx (fun _ _ => dropAll_legal)))
    (foldl_legal hs.frame (fun _ _ => dropAll_legal)))).frame

theorem flipHalves_legal {pn : Nat} (hs : Legal s) : Legal (flipHalves s pn) := by
  refine ⟨hs.memWf, map_all hs.tiles fun e he => ?_, hs.shadows, map_all hs.mtiles fun e he => ?_, hs.shadowMts, hs.saves⟩
  · split
    · exact he.congr rfl rfl
    · exact he
  · split
    · exact he
    · exact he

theorem execShadowExchange_legal {part : Nat} (hs : Legal s) : OutLegal (execShadowExchange part s) := by
  unfold execShadowExchange
  dsimp only
  split
  · exact next_legal hs
  · exact next_legal (tagEnd_legal (modPart_legal (foldl_legal (flipHalves_legal (exchange_legal hs)).frame
      (fun _ _ hx => ite_legal (foldl_legal hx (fun _ _ hx1 => modTile_legal hx1 (fun _ ht2 => ht2.congr rfl rfl))) hx))))

theorem useFree_legal (hs : Legal s) : Legal (useFree s) := hs.frame

/-! ### Requests -/

theorem reqOnce_legal {e : BitVec 512} {bad : Bool} {act : State → State × Nat × Nat} (hs : Legal s)
    (ha : ∀ x, Legal x → Legal (act x).1) : OutLegal (reqOnce s e bad act) := by
  unfold reqOnce
  split
  · exact next_legal hs
  · split
    · exact next_legal (respond_legal hs)
    · exact next_legal (respond_legal (ha s hs))

theorem reqSet_legal {e : BitVec 512} {l : List Nat} (hs : Legal s) : Legal (reqSet s e l) := modHost_legal hs

theorem reqLong_legal {e : BitVec 512} {bad : Bool} {first : State → State × (Nat ⊕ List Nat)} {more : State → List Nat → State}
    (hs : Legal s) (hf : ∀ x, Legal x → Legal (first x).1) (hm : ∀ x l, Legal x → Legal (more x l)) :
    OutLegal (reqLong s e bad first more) := by
  unfold reqLong
  split
  · exact next_legal (hm s _ hs)
  · split
    · exact next_legal hs
    · split
      · exact next_legal (respond_legal hs)
      · split
        · exact next_legal (respond_legal ((hf s hs).ofPair ‹_›))
        · exact next_legal (reqBegin_legal ((hf s hs).ofPair ‹_›))

theorem partWrite_legal {pn : Nat} {d : BitVec 2048} (hs : Legal s) : Legal (partWrite s pn d) := by
  unfold partWrite
  dsimp only
  split
  · exact (setPart_legal hs).frame
  · exact setRaceMode_legal (setPart_legal hs).frame

theorem execPartSet_legal {e : BitVec 512} (hs : Legal s) : OutLegal (execPartSet e s) := by
  unfold execPartSet
  dsimp only
  refine reqOnce_legal hs fun _ hx => ?_
  split
  · exact hx
  · split
    · exact hx
    · split
      · exact hx
      · split
        · exact useFree_legal hx
        · exact partWrite_legal hx

theorem execInstall_legal {e : BitVec 512} (hs : Legal s) : OutLegal (execInstall e s) := reqOnce_legal hs fun _ => installDo_legal

theorem stopOvertaken_legal {k : Nat} {r : Region} (hs : Legal s) : Legal (stopOvertaken s k r) := by
  unfold stopOvertaken
  split
  · split
    · exact hs
    · exact reportStop_legal (useFree_legal hs)
  · exact hs

theorem reqDrop_legal {e : BitVec 512} (hs : Legal s) : Legal (reqDrop s e) := modHost_legal hs
/-- A save image taken from those kept. -/
theorem Legal.withoutSave {n : Nat} {rgns : SMap Region} (hs : Legal s) :
    Legal { s with rgns := rgns, saves := mapDel s.saves n } :=
  ⟨hs.memWf, hs.tiles, hs.shadows, hs.mtiles, hs.shadowMts, mapDel_all hs.saves⟩

theorem savedEnd_legal {k : Nat} {r : Region} (hs : Legal s) : Legal (savedEnd s k r) := by
  unfold savedEnd
  split
  · exact Legal.withoutSave (s := List.foldl (dropAll r.part r.id) s _) (foldl_legal hs fun _ _ => dropAll_legal)
  · exact hs.frame

/-! ### Release, shrink, saves and swaps -/

theorem execRelease_legal {e : BitVec 512} (hs : Legal s) : OutLegal (execRelease e s) := by
  unfold execRelease
  dsimp only
  refine reqLong_legal hs (fun _ hx => ?_) fun _ _ hx => ?_
  · split
    · exact hx
    · split
      · exact savedEnd_legal hx
      · exact releaseStart_legal (stopOvertaken_legal hx)
  · split
    · split
      · exact reqDrop_legal hx
      · exact reqEnd_legal hx
    · split
      · split
        · exact reqDrop_legal (releaseEnd_legal hx)
        · exact reqEnd_legal (releaseEnd_legal hx)
      · exact hx

theorem execShrink_legal {e : BitVec 512} (hs : Legal s) : OutLegal (execShrink e s) := by
  unfold execShrink
  dsimp only
  refine reqLong_legal hs (fun _ hx => ?_) fun _ _ hx => ?_
  · split
    · exact hx
    · split
      · exact hx
      · split
        · exact preempt_legal hx
        · exact hx
  · split
    · exact reqEnd_legal (useFree_legal hx)
    · split
      · exact reqEnd_legal (useFree_legal hx)
      · split
        · exact hx
        · split
          · exact reqEnd_legal hx
          · split
            · exact reqEnd_legal (useFree_legal hx)
            · exact reqSet_legal (setRgn_legal hx)

theorem saveBegin_legal {k : Nat} {r : Region} (hs : Legal s) : Legal (saveBegin s k r).1 := by
  unfold saveBegin
  dsimp only
  split
  · exact hs
  · dsimp only
    split
    · exact saveStop_legal (preempt_legal hs)
    · exact preempt_legal hs

theorem fullMore_legal {e : BitVec 512} (hs : Legal s) : Legal (fullMore s e) := by
  unfold fullMore
  dsimp only
  split
  · exact reqEnd_legal (useFree_legal hs)
  · split
    · split
      · exact hs
      · exact reqSet_legal (saveBegin_legal hs)
    · split
      · exact saveAnswer_legal (saveMake_legal hs)
      · exact hs

theorem execDrainSave_legal {e : BitVec 512} (hs : Legal s) : OutLegal (execDrainSave e s) := by
  unfold execDrainSave
  dsimp only
  refine reqLong_legal hs (fun _ hx => ?_) fun _ _ hx => ?_
  · split
    · exact hx
    · split
      · exact hx
      · split
        · exact saveBegin_legal hx
        · exact hx
  · split
    · split
      · exact reqEnd_legal (useFree_legal hx)
      · split
        · exact reqSet_legal (saveBegin_legal hx)
        · split
          · exact hx
          · exact reqSet_legal (setRgn_legal hx)
    · exact hx
    · exact fullMore_legal hx

theorem execFullSave_legal {e : BitVec 512} (hs : Legal s) : OutLegal (execFullSave e s) := by
  unfold execFullSave
  refine reqLong_legal hs (fun _ hx => ?_) fun _ _ => fullMore_legal
  split
  · exact hx
  · split
    · exact hx
    · exact saveBegin_legal hx

theorem swapStops_legal {pn : Nat} (hs : Legal s) : Legal (swapStops s pn) :=
  foldl_legal hs fun _ _ hx => ite_legal (stopRegion_legal hx) hx

theorem execSwap_legal {e : BitVec 512} (hs : Legal s) : OutLegal (execSwap e s) := by
  unfold execSwap
  dsimp only
  refine reqLong_legal hs (fun _ hx => ?_) fun _ _ hx => ?_
  · split
    · exact hx
    · split
      · exact hx
      · exact useFree_legal hx
  · split
    · split
      · exact hx
      · exact reqSet_legal (swapStops_legal (modPart_legal hx))
    · exact hx

theorem execResume_legal {e : BitVec 512} (hs : Legal s) : OutLegal (execResume e s) := by
  unfold execResume
  dsimp only
  refine reqLong_legal hs (fun _ hx => ?_) fun _ _ hx => ?_
  · split
    · exact hx
    · split
      · exact hx
      · exact hx
  · split
    · exact reqEnd_legal (useFree_legal hx)
    · split
      · exact hx
      · split
        · exact reqEnd_legal (resumeRegion_legal hx)
        · exact reqEnd_legal hx

theorem execRestore_legal {e : BitVec 512} (hs : Legal s) : OutLegal (execRestore e s) := by
  unfold execRestore
  refine reqOnce_legal hs fun x hx => ?_
  dsimp only
  split
  · exact hx
  · split
    · exact useFree_legal hx
    · have hn := snapAt_legal hx ‹_›
      split
      · exact cfgRecords_legal hx
      · exact writeDesc_legal (banksChanged_legal (putSnap_legal hx hn))

/-! ### Approvals, plans and arming -/

theorem execApprove_legal {e : BitVec 512} (hs : Legal s) : OutLegal (execApprove e s) := by
  unfold execApprove
  refine reqOnce_legal hs fun _ hx => ?_
  split
  · exact hx
  · split
    · exact useFree_legal hx
    · split
      · exact useFree_legal hx
      · exact setRgn_legal hx

theorem execPlan_legal {e : BitVec 512} (hs : Legal s) : OutLegal (execPlan e s) := by
  unfold execPlan
  dsimp only
  refine reqOnce_legal hs fun _ hx => ?_
  split
  · exact hx
  · split
    · exact hx
    · exact planArm_legal (setRgn_legal hx)

theorem armPages_legal {d pn vp n : Nat} (hs : Legal s) : Legal (armPages s d pn vp n).1 := by
  induction n generalizing s vp with
  | zero => exact hs
  | succ n ih =>
    unfold armPages
    split
    · exact hs
    · split
      · exact ih ((xlateNow_legal hs).ofPair ‹_›)
      · exact (xlateNow_legal hs).ofPair ‹_›

theorem armTiles_legal {pn : Nat} (hs : Legal s) : Legal (armTiles s pn) :=
  foldl_legal (foldl_legal hs (fun _ _ hx => ite_legal (modTile_legal hx (fun _ ht1 => ht1.congr rfl rfl)) hx)) fun _ _ hx =>
    ite_legal (setMTile_legal hx ((mtileOf_legal hx).congr rfl)) hx

theorem execArm_legal {e : BitVec 512} (hs : Legal s) : OutLegal (execArm e s) := by
  unfold execArm
  refine reqOnce_legal hs fun x hx => ?_
  dsimp only
  split
  · have h1 := (armPages_legal hx).ofPair ‹_›
    dsimp only
    exact armTiles_legal (modPart_legal h1)
  · exact (armPages_legal hx).ofPair ‹_›

theorem execAgtResumeRequest_legal {e : BitVec 512} (hs : Legal s) : OutLegal (execAgtResumeRequest e s) := by
  unfold execAgtResumeRequest
  dsimp only
  refine reqOnce_legal hs fun _ hx => ?_
  split
  · exact hx
  · split
    · exact agtResumeNow_legal hx
    · exact hx

end Sys2Proof
end

section
/-! The invariant `Legal`: expert placement. -/
namespace Sys2Proof

open Machine

variable {s : State} {t u : Tile} {b : Bank}

/-! ### Translations and links of queues -/

theorem dropTlbs_legal {pn vp n : Nat} (hs : Legal s) : Legal (dropTlbs s pn vp n) := hs.frame

theorem execInval_legal {e : BitVec 512} (hs : Legal s) : OutLegal (execInval e s) := by
  unfold execInval
  dsimp only
  exact reqLong_legal hs (fun _ => dropTlbs_legal) fun _ _ hx => ite_legal hx (reqEnd_legal (dropTlbs_legal hx))

theorem execQlink_legal {e : BitVec 512} (hs : Legal s) : OutLegal (execQlink e s) := by
  unfold execQlink
  refine reqOnce_legal hs fun x hx => ?_
  dsimp only
  split
  · exact hx
  · split
    · exact useFree_legal hx
    · have h1 {n : Nat} {l : Option Nat} : MTileLegal { mtileOf x n with link := l, unlinking := false } := (mtileOf_legal hx).congr
        rfl
      exact setMTile_legal (setMTile_legal hx h1) ((mtileOf_legal (setMTile_legal hx h1)).congr rfl)

theorem execQlinkUnlink_legal {e : BitVec 512} (hs : Legal s) : OutLegal (execQlinkUnlink e s) := by
  unfold execQlinkUnlink
  dsimp only
  refine reqLong_legal hs (fun _ hx => ?_) fun _ _ hx => ite_legal (reqEnd_legal (setMTile_legal hx ((mtileOf_legal hx).congr rfl)))
    hx
  split
  · exact hx
  · split
    · exact hx
    · split
      · exact setMTile_legal hx ((mtileOf_legal hx).congr rfl)
      · exact useFree_legal hx

/-! ### The placement tables -/

theorem setTab_legal {x : XTab} (hs : Legal s) : Legal (setTab s x) := hs.frame

theorem toDies_legal (hs : Legal s) : Legal (toDies s).1 := foldl_fst_legal hs fun _ _ => freeDelay_legal

theorem dieAdopt_legal {d : Nat} {a : Adopted} (hs : Legal s) : Legal (dieAdopt s d a) := modDie_legal hs

theorem placeAt_legal {pn va : Nat} {write : Bool} (hs : Legal s) : Legal (placeAt s pn va write).1 := by
  unfold placeAt
  split
  · exact hs
  · split
    · split
      · exact (xlateNow_legal hs).ofPair ‹_›
      · split
        · exact (xlateNow_legal hs).ofPair ‹_›
        · exact (xlateNow_legal hs).ofPair ‹_›
    · exact (xlateNow_legal hs).ofPair ‹_›

theorem placeDo_legal {pn va pa : Nat} {op : AccOp} {n x : Nat} (hs : Legal s) : Legal (placeDo s pn va pa op n x).1 := by
  unfold placeDo
  dsimp only
  split
  · exact faultRecord_legal (homeAccess_legal hs)
  · exact homeAccess_legal hs

theorem placeRead_legal {pn va k n : Nat} (hs : Legal s) : Legal (placeRead s pn va k n).1 := by
  induction k generalizing s va n with
  | zero => exact hs
  | succ k ih =>
    cases n with
    | zero => exact hs
    | succ n =>
      have h1 {w : Bool} : Legal (placeAt s pn va w).1 := placeAt_legal hs
      simp only [placeRead]
      split
      · exact h1.ofPair ‹_›
      · split
        · split
          · exact (ih (placeDo_legal (h1.ofPair ‹_›))).ofPair ‹_›
          · exact (ih (placeDo_legal (h1.ofPair ‹_›))).ofPair ‹_›
        · exact placeDo_legal (h1.ofPair ‹_›)

theorem placeWrite_legal {pn va x k n : Nat} (hs : Legal s) : Legal (placeWrite s pn va x k n).1 := by
  induction k generalizing s va x n with
  | zero => exact hs
  | succ k ih =>
    cases n with
    | zero => exact hs
    | succ n =>
      have h1 {w : Bool} : Legal (placeAt s pn va w).1 := placeAt_legal hs
      simp only [placeWrite]
      split
      · exact h1.ofPair ‹_›
      · split
        · exact ih (placeDo_legal (h1.ofPair ‹_›))
        · exact placeDo_legal (h1.ofPair ‹_›)

theorem placePut_legal {pn va x n kind : Nat} {rel : Bool} (hs : Legal s) : Legal (placePut s pn va x n kind rel).1 :=
  engineWrite_legal hs

theorem putHdr_legal {x : XTab} {i : Nat} {w : W64} {kind : Nat} {rel : Bool} (hs : Legal s) :
    Legal (putHdr s x i w kind rel).1 := by
  unfold putHdr
  dsimp only
  split
  · exact placePut_legal hs
  · exact setTab_legal (placePut_legal hs)

theorem putSlot_legal {x : XTab} {e r : Nat} {w : W64} (hs : Legal s) : Legal (putSlot s x e r w).1 := by
  unfold putSlot
  dsimp only
  split
  · exact placePut_legal hs
  · exact setTab_legal (placePut_legal hs)

theorem putSst_legal {k sp st : Nat} (hs : Legal s) : Legal (putSst s k sp st).1 := by
  unfold putSst
  split
  · exact putHdr_legal hs
  · exact hs

/-! ### Publishing and adopting -/

theorem opRaced_legal {k va : Nat} (hs : Legal s) : Legal (opRaced s k va) := by
  unfold opRaced
  split
  · exact setTab_legal hs
  · exact hs

theorem publishRaced_legal {k : Nat} {x : XTab} (hs : Legal s) : Legal (publishRaced s k x) := by
  unfold publishRaced
  dsimp only
  split
  · exact tagEnd_legal (setTab_legal hs)
  · split
    · exact opRaced_legal (putSlot_legal hs)
    · split
      · exact setTab_legal (putSlot_legal hs)
      · exact putSlot_legal hs
  · exact hs

theorem publish_legal {k : Nat} (hs : Legal s) : Legal (publish s k) := by
  unfold publish
  dsimp only
  split
  · exact hs
  · split
    · exact setTab_legal (toDies_legal (clkRelease_legal (placePut_legal hs)))
    · exact setTab_legal (toDies_legal (placePut_legal hs))
    · exact publishRaced_legal (placePut_legal hs)

theorem adoptDone_legal {k : Nat} (hs : Legal s) : Legal (adoptDone s k) := by
  unfold adoptDone
  dsimp only
  split
  · exact hs
  · split
    · exact hs
    · split
      · exact tagEnd_legal (setTab_legal hs)
      · exact tagEnd_legal (setTab_legal hs)
      · exact setTab_legal hs

theorem adoptAt_legal {k d : Nat} {x : XTab} (hs : Legal s) : Legal (adoptAt s k d x) :=
  adoptDone_legal (dieAdopt_legal (setTab_legal hs))

theorem execTableAdopt_legal {tab die : Nat} (hs : Legal s) : OutLegal (execTableAdopt tab die s) := by
  unfold execTableAdopt
  split
  · exact next_legal (adoptAt_legal hs)
  · exact next_legal hs

theorem execVersionAdopt_legal {tab die : Nat} (hs : Legal s) : OutLegal (execVersionAdopt tab die s) := by
  unfold execVersionAdopt
  split
  · exact next_legal (adoptAt_legal hs)
  · exact next_legal hs

theorem stepEnd_legal {x : XTab} {ctx after : Nat} (hs : Legal s) : Legal (stepEnd s x ctx after) := setTab_legal hs

theorem placePages_legal {pn va n : Nat} {write : Bool} (hs : Legal s) : Legal (placePages s pn va n write).1 := by
  unfold placePages
  dsimp only
  refine foldl_fst_legal hs fun _ _ hx => ?_
  split
  · exact hx
  · split
    · exact (placeAt_legal hx).ofPair ‹_›
    · exact (placeAt_legal hx).ofPair ‹_›

theorem replicate_legal {k e r sp : Nat} (hs : Legal s) : Legal (replicate s k e r sp) := by
  unfold replicate
  dsimp only
  split
  · exact putSst_legal hs
  · exact setTab_legal (placePages_legal (placePages_legal (placePages_legal (putSst_legal hs))))

theorem retire_legal {k e r : Nat} (hs : Legal s) : Legal (retire s k e r) := by
  unfold retire
  dsimp only
  split
  · exact hs
  · split
    · exact putSlot_legal hs
    · exact publish_legal (putSlot_legal hs)

/-! ### Intervals, copies and rollback -/

theorem intervalWrite_legal {x : XTab} (hs : Legal s) : Legal (intervalWrite s x) := by
  rw [intervalWrite]
  exact placePut_legal (foldl_legal hs fun _ _ => placePut_legal)

theorem intervalEnd_legal {k : Nat} (hs : Legal s) : Legal (intervalEnd s k) := by
  unfold intervalEnd
  dsimp only
  split
  · exact hs
  · split
    · exact setTab_legal (intervalWrite_legal hs)
    · split
      · exact mgmtRecord_legal (setTab_legal (intervalWrite_legal hs))
      · split
        · exact setTab_legal (intervalWrite_legal hs)
        · split
          · exact replicate_legal (setTab_legal (intervalWrite_legal hs))
          · exact retire_legal (setTab_legal (intervalWrite_legal hs))

theorem execLoadSend_legal {die : Nat} (hs : Legal s) : OutLegal (execLoadSend die s) := by
  unfold execLoadSend
  dsimp only
  split
  · exact next_legal (foldl_legal (modDie_legal hs).frame (fun _ _ => intervalEnd_legal))
  · exact next_legal hs

theorem copyUnit_legal {x : XTab} {e sp : Nat} (hs : Legal s) : Legal (copyUnit s x e sp) := by
  unfold copyUnit
  dsimp only
  split
  · exact setTab_legal hs
  · split
    · split
      · exact setTab_legal ((placeRead_legal hs).ofPair ‹_›)
      · have h1 := (placeRead_legal hs).ofPair ‹_›
        split
        · exact setTab_legal ((placeWrite_legal h1).ofPair ‹_›)
        · exact setTab_legal ((placeWrite_legal h1).ofPair ‹_›)
    · split
      · exact setTab_legal ((placeWrite_legal hs).ofPair ‹_›)
      · exact setTab_legal ((placeWrite_legal hs).ofPair ‹_›)

theorem placeTick_legal (hs : Legal s) : Legal (placeTick s) := by
  unfold placeTick
  split
  · exact hs
  · refine foldl_legal hs fun _ _ hx => ?_
    split
    · split
      · exact copyUnit_legal hx
      · exact hx
    · exact hx

theorem execReplicationCopyDone_legal {tab : Nat} (hs : Legal s) : OutLegal (execReplicationCopyDone tab s) := by
  unfold execReplicationCopyDone
  dsimp only
  split
  · exact next_legal hs
  · exact next_legal (ite_legal (opRaced_legal (putSlot_legal hs)) (publish_legal (putSlot_legal hs)))

theorem releaseOwn_legal {pn id : Nat} (hs : Legal s) : Legal (releaseOwn s pn id) := by
  unfold releaseOwn
  dsimp only
  split
  · exact hs
  · split
    · exact hs
    · split
      · exact savedEnd_legal hs
      · exact modHost_legal (releaseStart_legal (stopOvertaken_legal hs))

theorem execRollback_legal {tab : Nat} (hs : Legal s) : OutLegal (execRollback tab s) := by
  unfold execRollback
  dsimp only
  split
  · exact next_legal hs
  · exact next_legal (mgmtRecord_legal (modPart_legal (releaseOwn_legal (putSst_legal (setTab_legal hs)))))

theorem redirect_legal {tile : Nat} {p : Packet} {a : Adopted} {e : Nat} (hs : Legal s) : Legal (redirect s tile p a e) := by
  unfold redirect
  dsimp only
  refine sendPacket_legal ?_
  split
  · exact infAdd_legal (infAdd_legal hs)
  · exact hs

theorem execPacketRedirect_legal {tile : Nat} (hs : Legal s) : OutLegal (execPacketRedirect tile s) :=
  next_legal (foldl_legal (modTile_legal hs (fun _ ht => ht.congr rfl rfl)) (fun _ _ => redirect_legal))

/-! ### The merge of gradients -/

theorem mergeSum_legal {pn e i acc : Nat} {x : XTab} {l : List Nat} {m : MergeSt} (hm : Legal m.1) :
    Legal (mergeSum pn x e i l m acc).1.1 := by
  induction l generalizing m acc with
  | nil => exact hm
  | cons r l ih =>
    obtain ⟨s, f⟩ := m
    unfold mergeSum
    split
    · exact hm
    · split
      · exact ih ((placeRead_legal hm).ofPair ‹_›)
      · exact (placeRead_legal hm).ofPair ‹_›

/-- A gradient written where no fault has come before. -/
def mergePut (pn : Nat) (x : XTab) (e i : Nat) (m : MergeSt) (r v : Nat) : MergeSt :=
  match m.2 with
  | some _ => m
  | none => match placeWrite m.1 pn (gradAddr x e r + 4 * i) v 5 4 with
    | (z, some g) => (z, some (e, r, g))
    | (z, none) => (z, none)

theorem mergePut_legal {pn e i r v : Nat} {x : XTab} {m : MergeSt} (hm : Legal m.1) : Legal (mergePut pn x e i m r v).1 := by
  unfold mergePut
  split
  · exact hm
  · split
    · exact (placeWrite_legal hm).ofPair ‹_›
    · exact (placeWrite_legal hm).ofPair ‹_›

theorem mergeElem_eq {pn e i : Nat} {x : XTab} {l : List Nat} {m : MergeSt} : mergeElem pn x e i l m = match m.2 with
    | some _ => m
    | none => match placeRead m.1 pn (gradAddr x e 0 + 4 * i) 5 4 with
      | (s1, .error g) => (s1, some (e, 0, g))
      | (s1, .ok g0) => l.foldl (fun y r => mergePut pn x e i y r 0) (mergePut pn x e i
        (mergeSum pn x e i l (s1, none) (mergeFin g0)).1 0 (mergeSum pn x e i l (s1, none) (mergeFin g0)).2) := rfl

theorem mergeElem_legal {pn e i : Nat} {x : XTab} {l : List Nat} {m : MergeSt} (hm : Legal m.1) :
    Legal (mergeElem pn x e i l m).1 := by
  rw [mergeElem_eq]
  split
  · exact hm
  · split
    · exact (placeRead_legal hm).ofPair ‹_›
    · have h1 := (placeRead_legal hm).ofPair ‹_›
      exact foldl_fst_legal (mergePut_legal (mergeSum_legal h1)) fun _ _ => mergePut_legal

theorem mergeAll_legal {x : XTab} (hs : Legal s) : Legal (mergeAll s x).1 :=
  foldl_fst_legal hs fun _ _ hm => foldl_fst_legal hm fun _ _ => mergeElem_legal

/-! ### Slots freed after a merge -/

theorem slotFree_legal {k e r sp : Nat} {m : MergeSt} (hm : Legal m.1) : Legal (slotFree k e r sp m).1 := by
  unfold slotFree
  split
  · dsimp only
    split
    · exact putSlot_legal hm
    · split
      · exact putSst_legal (putSlot_legal hm)
      · exact Legal.frame (putSst_legal (putSlot_legal hm))
  · exact hm

theorem freeRetired_legal {k : Nat} {x : XTab} (hs : Legal s) : Legal (freeRetired s k x).1 := by
  refine foldl_fst_legal hs fun m i hm => ?_
  dsimp only
  split
  · exact slotFree_legal hm
  · exact hm

theorem mergedPut_legal {k n : Nat} (hs : Legal s) : Legal (mergedPut s k n).1 := by
  unfold mergedPut
  split
  · exact hs
  · dsimp only
    split
    · exact setTab_legal (placePut_legal hs)
    · exact placePut_legal hs
    · exact placePut_legal hs

theorem mergeRun_legal {k n : Nat} {x : XTab} (hs : Legal s) : Legal (mergeRun s k x n).1 := by
  unfold mergeRun
  split
  · exact (mergeAll_legal hs).ofPair ‹_›
  · have h1 := (mergeAll_legal hs).ofPair ‹_›
    split
    · exact (freeRetired_legal h1).ofPair ‹_›
    · exact mergedPut_legal ((freeRetired_legal h1).ofPair ‹_›)

theorem execGradientMerge_legal {tab : Nat} (hs : Legal s) : OutLegal (execGradientMerge tab s) := by
  unfold execGradientMerge
  dsimp only
  split
  · exact next_legal hs
  · split
    · refine next_legal (mgmtRecord_legal ?_)
      split
      · exact setTab_legal ((mergeRun_legal (clkAcquire_legal hs)).ofPair ‹_›)
      · exact (mergeRun_legal (clkAcquire_legal hs)).ofPair ‹_›
    · refine next_legal ?_
      split
      · exact setTab_legal ((mergeRun_legal (clkAcquire_legal hs)).ofPair ‹_›)
      · exact (mergeRun_legal (clkAcquire_legal hs)).ofPair ‹_›

/-! ### Requests about tables -/

theorem execXdTable_legal {e : BitVec 512} (hs : Legal s) : OutLegal (execXdTable e s) := by
  unfold execXdTable
  dsimp only
  refine reqLong_legal hs (fun _ hx => ?_) fun _ _ hx => hx
  split
  · exact hx
  · split
    · exact hx
    · split
      · exact hx
      · exact (toDies_legal hx).frame

theorem execXdTableRemove_legal {e : BitVec 512} (hs : Legal s) : OutLegal (execXdTableRemove e s) := by
  unfold execXdTableRemove
  dsimp only
  refine reqLong_legal hs (fun _ hx => ?_) fun _ _ hx => ?_
  · split
    · exact hx
    · exact useFree_legal hx
  · split
    · split
      · exact reqSet_legal (freeDelay_legal hx)
      · exact hx
    · split
      · exact reqEnd_legal hx.frame
      · exact hx
    · exact hx

theorem publishSpares_legal {k : Nat} {l : List Nat} (hs : Legal s) : Legal (publishSpares s k l) :=
  foldl_legal hs fun _ _ => putSst_legal

theorem publishRecs_legal {y : XTab} {l : List Nat} (hs : Legal s) : Legal (publishRecs s y l).1 := by
  unfold publishRecs
  dsimp only
  refine foldl_fst_legal hs fun _ _ hx => ?_
  split
  · exact placePut_legal hx
  · exact hx

theorem publishBack_legal {k : Nat} {r : SMap W64} (hs : Legal s) : Legal (publishBack s k r) := by
  unfold publishBack
  split
  · split
    · exact setTab_legal hs
    · exact hs
  · exact hs

theorem execXdPublish_legal {e : BitVec 512} (hs : Legal s) : OutLegal (execXdPublish e s) := by
  unfold execXdPublish
  dsimp only
  refine reqLong_legal hs (fun _ hx => ?_) fun _ _ hx => ?_
  · split
    · split
      · exact hx
      · exact hx
    · exact hx
  · split
    · split
      · exact hx
      · split
        · exact reqEnd_legal hx
        · split
          · split
            · exact publishBack_legal (reqSet_legal (publish_legal (publishSpares_legal (setTab_legal (publishRecs_legal hx)))))
            · exact reqEnd_legal (publishRecs_legal hx)
          · exact reqEnd_legal hx
    · exact hx
    · exact reqEnd_legal (useFree_legal hx)

theorem execXdStep_legal {e : BitVec 512} (hs : Legal s) : OutLegal (execXdStep e s) := by
  unfold execXdStep
  dsimp only
  refine reqOnce_legal hs fun _ hx => ?_
  split
  · refine stepEnd_legal ?_
    split
    · exact clkJoin_legal hx
    · exact hx
  · exact useFree_legal hx

end Sys2Proof
end

section
/-! The invariant `Legal`: fencing, links, registers, boot, debug commands and power. -/
namespace Sys2Proof

open Machine

variable {s : State} {t u : Tile} {b : Bank}

/-! ### A unit fenced -/

theorem addFence_legal {u : Unit0} (hs : Legal s) : Legal (addFence s u) := by
  unfold addFence
  split
  · exact hs
  · exact modHost_legal hs

theorem fenceUnit_legal {u : Unit0} (hs : Legal s) : Legal (fenceUnit s u) :=
  foldl_legal (addFence_legal hs) fun _ _ hx => ite_legal hx (addFence_legal hx)

theorem deadTile_legal {n : Nat} (hs : Legal s) : Legal (deadTile s n) :=
  modTile_legal (foldl_legal (foldl_legal hs (fun _ _ => dropJob_legal)) (fun _ _ => dropPacket_legal)) fun _ ht => ht.congr rfl rfl

theorem cutTiles_legal {c : Cut} (hs : Legal s) : Legal (cutTiles c s) := foldl_legal hs fun _ _ => deadTile_legal

theorem cutBte_legal {n ch : Nat} (hs : Legal s) : Legal (cutBte s n ch) := by
  unfold cutBte
  dsimp only
  split
  · split
    · exact (setBte_legal hs).frame
    · exact setBte_legal hs
  · exact setBte_legal hs

theorem cutBtes_legal (hs : Legal s) : Legal (cutBtes s) := foldl_legal hs fun _ _ => cutBte_legal

theorem cutAccs_legal (hs : Legal s) : Legal (cutAccs s) := by
  refine ⟨hs.memWf, hs.tiles, hs.shadows, map_all hs.mtiles fun e he => ?_, hs.shadowMts, hs.saves⟩
  split
  · exact he
  · exact he

theorem cutAgt_legal {n : Nat} (hs : Legal s) : Legal (cutAgt s n) := by
  unfold cutAgt
  dsimp only
  split
  · split
    · exact agtFault_legal (setAgt_legal hs.frame)
    · exact hs
  · exact hs

theorem cutAgts_legal (hs : Legal s) : Legal (cutAgts s) := foldl_legal hs fun _ _ => cutAgt_legal

theorem cutGroups_legal {d : Nat} (hs : Legal s) : Legal (cutGroups s d) :=
  modDie_legal (foldl_legal hs (fun _ _ => collAnswer_legal))

theorem cutLaunches_legal {c : Cut} {rs : List Nat} (hs : Legal s) : Legal (cutLaunches c rs s) :=
  foldl_legal hs fun _ _ => modPart_legal

theorem cutTables_legal (hs : Legal s) : Legal (cutTables s) := foldl_legal hs.frame fun _ _ => adoptDone_legal

theorem cutLinks_legal (hs : Legal s) : Legal (cutLinks s) := by
  unfold cutLinks
  dsimp only
  refine foldl_legal hs.frame fun _ _ hx => ?_
  split
  · exact takeTrap_legal hx
  · exact hx

theorem fenceRgn_legal {c : Cut} {u : Unit0} {k : Nat} (hs : Legal s) : Legal (fenceRgn c u s k) := by
  unfold fenceRgn
  dsimp only
  split
  · split
    · refine modRgn_legal ?_
      have h1 {p : Nat} {a : Agent} {x : BitVec 512} : Legal (faultRecord s p a x) := faultRecord_legal hs
      refine ⟨h1.memWf, h1.tiles, map_all h1.shadows fun e he => ?_, h1.mtiles, h1.shadowMts, h1.saves⟩
      split
      · exact he.congr rfl rfl
      · exact he
    · split
      · exact takeTrap_legal hs
      · exact stopRegion_legal (modRgn_legal (faultRecord_legal hs))
  · exact hs

theorem fenceService_legal {u : Unit0} (hs : Legal s) : Legal (fenceService s u) :=
  foldl_legal (cutTables_legal (cutLaunches_legal (foldl_legal
    (cutAgts_legal (cutLinks_legal (cutAccs_legal (cutBtes_legal (cutTiles_legal (fenceUnit_legal hs))))))
    (fun _ _ => cutGroups_legal)))) fun _ _ => fenceRgn_legal

theorem execUnitFence_legal {u : Unit0} (hs : Legal s) : OutLegal (execUnitFence u s) :=
  next_legal (ite_legal hs (fenceService_legal hs))

/-! ### Links and gateways -/

theorem execFlitRetry_legal {link : Nat} (hs : Legal s) : OutLegal (execFlitRetry link s) := by
  unfold execFlitRetry
  dsimp only
  split
  · exact next_legal (setLink_legal hs)
  · exact next_legal hs

theorem execLinkRetryExhausted_legal {link : Nat} (hs : Legal s) : OutLegal (execLinkRetryExhausted link s) := by
  unfold execLinkRetryExhausted
  split
  · exact next_legal (fenceService_legal hs)
  · exact next_legal hs

theorem gateArrive_legal {mt b : Nat} (hs : Legal s) : Legal (gateArrive s mt b) := by
  unfold gateArrive
  extract_lets m s1
  have h1 : Legal s1 := setMTile_legal hs ((mtileOf_legal hs).congr rfl)
  exact setMTile_legal h1 ((mtileOf_legal h1).congr rfl)

theorem gateDepart_legal {mt b : Nat} (hs : Legal s) : Legal (gateDepart s mt b) := by
  unfold gateDepart
  dsimp only
  split
  · split
    · exact hs
    · exact setMTile_legal (freeDelay_legal (fifoNote_legal hs)) ((fifoPop_legal (mtileOf_legal hs)).congr rfl)
  · exact hs

theorem execGatewayCrossing_legal {mt : Nat} (hs : Legal s) : OutLegal (execGatewayCrossing mt s) := by
  unfold execGatewayCrossing
  split
  · exact next_legal (gateDepart_legal (gateArrive_legal hs))
  · exact next_legal hs

/-! ### Rings and registers of the host port -/

theorem execConsumerIndexAdvance_legal {ring : Nat} (hs : Legal s) : OutLegal (execConsumerIndexAdvance ring s) := by
  unfold execConsumerIndexAdvance
  dsimp only
  split
  · split
    · split
      · exact next_legal hs
      · exact next_legal (setPart_legal (physSet_legal hs))
    · exact next_legal hs
  · split
    · split
      · exact next_legal hs
      · exact next_legal (physSet_legal hs).frame
    · exact next_legal hs

theorem execHostLaunchPacket_legal {queue : Nat} (hs : Legal s) : OutLegal (execHostLaunchPacket queue s) := by
  unfold execHostLaunchPacket
  dsimp only
  split
  · split
    · refine next_legal (doorsDone_legal ?_)
      split
      · exact clkCopy_legal (launchTake_legal (enginePieces_legal (modPart_legal (modHost_legal (homeAccess_legal hs)))))
      · exact launchTake_legal (enginePieces_legal (modPart_legal (modHost_legal (homeAccess_legal hs))))
    · exact next_legal (launchErr_legal (doorsDone_legal (enginePieces_legal
        (modPart_legal (modHost_legal (homeAccess_legal hs))))))
  · exact next_legal hs

theorem traceWrite_legal {p k : Nat} {x : W64} (hs : Legal s) : Legal (traceWrite s p k x) := by
  unfold traceWrite
  dsimp only
  split
  · exact modHost_legal hs
  · exact modHost_legal hs
  · exact modPart_legal hs
  · exact hs

theorem wqWrite_legal {q k : Nat} {x : W64} (hs : Legal s) : Legal (wqWrite s q k x) := by
  unfold wqWrite
  dsimp only
  split
  · exact modHost_legal hs
  · exact doorRing_legal (modHost_legal hs)
  · exact modHost_legal hs
  · exact modHost_legal hs

theorem dbgWrite_legal {k : Nat} {x : W64} (hs : Legal s) : Legal (dbgWrite s k x) := by
  unfold dbgWrite
  split
  · exact modHost_legal hs
  · split
    · split
      · exact hs
      · exact modHost_legal hs
    · exact hs

theorem regWrite_legal {off : Nat} {x : W64} (hs : Legal s) : Legal (regWrite s off x) :=
  ite_legal hs <| ite_legal (modHost_legal hs) <| ite_legal (doorRing_legal (modHost_legal hs)) <| ite_legal (modHost_legal hs) <|
    ite_legal (modHost_legal hs) <| ite_legal (modHost_legal hs) <| ite_legal (traceWrite_legal hs) <|
    ite_legal (dbgWrite_legal hs) <| ite_legal (wqWrite_legal hs) hs

theorem execRegisterWrite_legal {off : Nat} {val : BitVec 64} (hs : Legal s) : OutLegal (execRegisterWrite off val s) :=
  next_legal (regWrite_legal hs)
/-! ### Boot and attestation -/

/-- Of a part in reset only the bytes of host memory are left. -/
theorem resetPart_legal (hs : Legal s) : Legal (resetPart s) :=
  ⟨memWf_filter _ _ hs.memWf, resetLegal.1.2⟩

theorem bootPart_legal (hs : Legal s) : Legal (bootPart s) := by
  unfold bootPart
  split
  · exact resetPart_legal hs
  · split
    · exact modHost_legal hs
    · exact modHost_legal (foldl_legal hs (fun _ _ => fenceUnit_legal))
    · exact modHost_legal hs

theorem execReset_legal (hs : Legal s) : OutLegal (execReset s) := next_legal (bootPart_legal hs)

theorem memWf_foldl_byteSet {α : Type} {m : SMap Byte} {l : List α} {f : α → Nat} {g : α → Byte} (hm : memWf m = true) :
    memWf (l.foldl (fun m x => byteSet m (f x) (g x)) m) = true := by
  induction l generalizing m with
  | nil => exact hm
  | cons a l ih => exact ih (memWf_byteSet _ _ _ hm)

theorem execAttest_legal {e : BitVec 512} (hs : Legal s) : OutLegal (execAttest e s) := by
  unfold execAttest
  refine reqOnce_legal hs fun x hx => ?_
  dsimp only
  split
  · exact hx
  · exact hx.withMem (memWf_foldl_byteSet hx.memWf)

/-! ### Debug commands -/

theorem dbgEnd_legal {status : Nat} {val : Option (BitVec 512)} (hs : Legal s) : Legal (dbgEnd s status val) := modHost_legal hs

theorem dbgRun_legal {c : BitVec 512} {bad : Bool} {act : State} (hs : Legal s) (hs1 : Legal act) :
    OutLegal (dbgRun s c bad act) := by
  unfold dbgRun
  split
  · exact next_legal hs
  · split
    · exact next_legal (dbgEnd_legal hs)
    · exact next_legal hs1

theorem dbgRgn_legal {c : BitVec 512} {act : Nat → Region → State} (hs : Legal s) (ha : ∀ k r, Legal (act k r)) :
    Legal (dbgRgn s c act) := by
  unfold dbgRgn
  split
  · exact dbgEnd_legal hs
  · exact ha _ _

theorem dbgStop_legal {c : BitVec 512} {kind k cause : Nat} (hs : Legal s) : Legal (dbgStop s c kind k cause) := by
  unfold dbgStop
  dsimp only
  refine dbgRgn_legal hs fun _ _ => ?_
  split
  · exact dbgEnd_legal hs
  · split
    · split
      · exact hs
      · exact modHost_legal hs
    · exact modHost_legal (setRgn_legal hs)

theorem execHalt_legal {cmd : BitVec 512} (hs : Legal s) : OutLegal (execHalt cmd s) := dbgRun_legal hs (dbgStop_legal hs)

theorem execStep_legal {cmd : BitVec 512} (hs : Legal s) : OutLegal (execStep cmd s) := dbgRun_legal hs (dbgStop_legal hs)

theorem execBrkSet_legal {cmd : BitVec 512} (hs : Legal s) : OutLegal (execBrkSet cmd s) :=
  dbgRun_legal hs (dbgRgn_legal hs (fun _ _ => ite_legal (dbgEnd_legal hs) (dbgEnd_legal (setRgn_legal hs))))

theorem execBrkClr_legal {cmd : BitVec 512} (hs : Legal s) : OutLegal (execBrkClr cmd s) :=
  dbgRun_legal hs (dbgRgn_legal hs (fun _ _ => dbgEnd_legal (setRgn_legal hs)))
/-- A register command writes a queue within its depth, a mode word without reserved bits and a maintenance loop within its ring. -/
theorem dbgPut_legal {sel : Nat} {c : BitVec 512} {d : Bank} (hb : BankLegal b) (e : dbgPut s b sel c = some d) : BankLegal d := by
  have push {q k : Nat} {l : List W64} (e : (if (qGet b q).length < k then some (qSet b q l) else none) = some d) :
      BankLegal d := by
    split at e
    · cases e
      exact qSet_legal hb
    · cases e
  unfold dbgPut at e
  dsimp only at e
  split at e
  · cases e
    exact kSet_legal hb
  · split at e
    · cases e
      exact vSet_legal hb
    · split at e
      · cases e
        exact hb.congr rfl rfl rfl rfl rfl
      · cases e
        exact hb.withMode modeWrite_reserved
      · exact push e
      · exact push e
      · split at e
        · rename_i h
          simp only [Bool.and_eq_true, decide_eq_true_eq] at h
          obtain ⟨⟨⟨-, h1⟩, h8⟩, hl⟩ := h
          cases e
          exact ⟨hb.1, hb.2.1, hb.2.2.1, ⟨h1, h8⟩, hl⟩
        · cases e

theorem dbgTile_legal {c : BitVec 512} {act : Nat → Region → Nat → State} (hs : Legal s) (ha : ∀ k r n, Legal (act k r n)) :
    Legal (dbgTile s c act) := by
  refine dbgRgn_legal hs fun k r => ?_
  dsimp only
  exact ite_legal (dbgEnd_legal hs) (ite_legal (dbgEnd_legal hs) (ite_legal (dbgEnd_legal hs) (ha _ _ _)))

theorem execRegRd_legal {cmd : BitVec 512} (hs : Legal s) : OutLegal (execRegRd cmd s) :=
  dbgRun_legal hs (dbgTile_legal hs (fun _ _ _ => dbgEnd_legal hs))

theorem execRegWr_legal {cmd : BitVec 512} (hs : Legal s) : OutLegal (execRegWr cmd s) := by
  refine dbgRun_legal hs (dbgTile_legal hs fun k r n => ?_)
  split
  · exact dbgEnd_legal hs
  · split
    · have hd := dbgPut_legal (bankOf_legal (tileOf_legal hs)) ‹_›
      exact dbgEnd_legal (useFree_legal (modTile_legal hs fun _ ht => setBank_legal ht hd))
    · exact dbgEnd_legal hs

theorem dbgAt_legal {pn : Nat} {x : W64} {write : Bool} (hs : Legal s) : Legal (dbgAt s pn x write).1 := by
  unfold dbgAt
  split
  · split
    · split
      · split
        · exact (xlateNow_legal hs).ofPair ‹_›
        · exact (xlateNow_legal hs).ofPair ‹_›
      · exact (xlateNow_legal hs).ofPair ‹_›
    · exact (xlateNow_legal hs).ofPair ‹_›
  · split
    · exact hs
    · split
      · exact hs
      · split
        · exact hs
        · exact hs
  · exact hs

theorem dbgPieces_legal {pn off n k : Nat} {x : W64} {write : Bool} (hs : Legal s) : Legal (dbgPieces s pn x write k off n).1 := by
  induction k generalizing s off n with
  | zero => exact hs
  | succ k ih =>
    cases n with
    | zero => exact hs
    | succ n =>
      have h1 {y : W64} : Legal (dbgAt s pn y write).1 := dbgAt_legal hs
      simp only [dbgPieces]
      split
      · exact h1.ofPair ‹_›
      · have h2 := h1.ofPair ‹_›
        split
        · exact (ih h2).ofPair ‹_›
        · exact (ih h2).ofPair ‹_›

theorem execMemRd_legal {cmd : BitVec 512} (hs : Legal s) : OutLegal (execMemRd cmd s) := by
  unfold execMemRd
  dsimp only
  refine dbgRun_legal hs (dbgRgn_legal hs (fun _ _ => ?_))
  split
  · exact dbgEnd_legal hs
  · split
    · exact dbgEnd_legal (foldl_fst_legal ((dbgPieces_legal hs).ofPair ‹_›) (fun _ _ => homeAccess_legal))
    · exact dbgEnd_legal (useFree_legal (foldl_fst_legal ((dbgPieces_legal hs).ofPair ‹_›) (fun _ _ => homeAccess_legal)))

theorem execMemWr_legal {cmd : BitVec 512} (hs : Legal s) : OutLegal (execMemWr cmd s) := by
  unfold execMemWr
  dsimp only
  refine dbgRun_legal hs (dbgRgn_legal hs (fun _ _ => ?_))
  split
  · exact dbgEnd_legal hs
  · exact dbgEnd_legal (foldl_legal ((dbgPieces_legal hs).ofPair ‹_›) (fun _ _ => homeAccess_legal))

theorem execDbgResume_legal {cmd : BitVec 512} (hs : Legal s) : OutLegal (execDbgResume cmd s) :=
  dbgRun_legal hs (dbgRgn_legal hs (fun _ _ => ite_legal (dbgEnd_legal hs)
    (ite_legal (dbgEnd_legal hs) (ite_legal hs (ite_legal (dbgEnd_legal
    (clkAcquire_legal (clkRelease_legal (resumeRegion_legal hs)))) (dbgEnd_legal hs))))))

/-! ### Power -/

theorem execCurrentSample_legal {die : Nat} (hs : Legal s) : OutLegal (execCurrentSample die s) := by
  unfold execCurrentSample
  split
  · exact next_legal (foldl_legal hs (fun _ _ hx => ite_legal (traceRecord_legal hx) hx))
  · exact next_legal hs

theorem execPathWalk_legal {part : Nat} (hs : Legal s) : OutLegal (execPathWalk part s) := by
  unfold execPathWalk
  dsimp only
  split
  · exact next_legal hs
  · split
    · exact next_legal (setPart_legal hs)
    · exact next_legal (foldl_legal (setPart_legal hs) (fun _ _ => traceRecord_legal))

theorem execThrottle_legal {die : Nat} (hs : Legal s) : OutLegal (execThrottle die s) := next_legal (modDie_legal hs)

theorem execThrottleEnd_legal {die : Nat} (hs : Legal s) : OutLegal (execThrottleEnd die s) := next_legal (modDie_legal hs)

theorem execClockGate_legal {tile : Nat} (hs : Legal s) : OutLegal (execClockGate tile s) := by
  unfold execClockGate
  split
  · exact next_legal (modTile_legal hs (fun _ ht => ht.congr rfl rfl))
  · exact next_legal hs

theorem execMtileClockGate_legal {mt : Nat} (hs : Legal s) : OutLegal (execMtileClockGate mt s) := by
  unfold execMtileClockGate
  dsimp only
  split
  · exact next_legal (setMTile_legal hs ((mtileOf_legal hs).congr rfl))
  · exact next_legal hs

theorem execSelfRefresh_legal {stack : Nat} (hs : Legal s) : OutLegal (execSelfRefresh stack s) := by
  unfold execSelfRefresh
  split
  · exact next_legal (modDie_legal hs)
  · exact next_legal hs

theorem execLanesIdle_legal {link : Nat} (hs : Legal s) : OutLegal (execLanesIdle link s) := by
  unfold execLanesIdle
  dsimp only
  split
  · exact next_legal (setLink_legal hs)
  · exact next_legal hs

end Sys2Proof
end

section
/-! The invariant `Legal`: the matrix array and vector effects. -/
namespace Sys2Proof

open Machine

variable {s : State} {t u : Tile} {b : Bank}

/-! ### Accumulators and panels -/

theorem accSet_legal {t : Tile} {r : Nat} {x : Row} (ht : TileLegal t) : TileLegal (accSet t r x) := ht.congr rfl rfl

theorem panelSet_legal {t : Tile} {p c : Nat} {x : W512} (ht : TileLegal t) : TileLegal (panelSet t p c x) := ht.congr rfl rfl

theorem mmaStep_legal {t : Tile} {op : Nat} {x : W64} {row : Nat} {ftzi ftzo : Bool} {a b : W512} (ht : TileLegal t) :
    TileLegal (mmaStep t op x row ftzi ftzo a b).1 := by
  unfold mmaStep
  dsimp only
  split
  · split
    · exact ht
    · exact accSet_legal (accSet_legal ht)
  · split
    · split
      · exact ht
      · exact accSet_legal ht
    · exact accSet_legal ht

theorem mcbStep_legal {t : Tile} {ftzi : Bool} {a b : W512} (ht : TileLegal t) : TileLegal (mcbStep t ftzi a b).1 :=
  ht.congr rfl rfl

theorem accZeroRows_legal {row n : Nat} (ht : TileLegal t) : TileLegal (accZeroRows t row n) := by
  induction n generalizing t row with
  | zero => exact ht
  | succ n ih =>
    unfold accZeroRows
    exact ih (accSet_legal ht)

theorem TileLegal.ofFst {α : Type} {p : Tile × α} {a : α} (ht : TileLegal p.1) (e : p = (t, a)) : TileLegal t := by
  rw [e] at ht
  exact ht

/-! ### Matrix commands -/

theorem matEffect_legal {c : MatCmd} (ht : TileLegal t) : TileLegal (matEffect t c).t := by
  unfold matEffect
  dsimp only
  split
  · exact ht
  · split
    · split
      · exact ht
      · exact (mmaStep_legal ht).ofFst ‹_›
    · split
      · exact panelSet_legal ht
      · split
        · exact mcbStep_legal ht
        · split
          · dsimp only
            exact accZeroRows_legal ht
          · split
            · exact accSet_legal ht
            · split
              · dsimp only
                split
                · exact accSet_legal (accSet_legal ht)
                · exact accSet_legal ht
              · split
                · exact accSet_legal (accSet_legal ht)
                · have cleared_legal {p : Prop} {_ : Decidable p} {k : Nat} {r : Row} :
                      TileLegal (if p then accSet t k r else t) := by
                    split
                    · exact accSet_legal ht
                    · exact ht
                  split
                  · exact cleared_legal
                  · exact cleared_legal

/-! ### Follow-on work -/

theorem fonTable_legal {t : Tile} {d : BitVec 256} {ftzi : Bool} (ht : TileLegal t) : TileLegal (fonTable t d ftzi).1 := by
  unfold fonTable
  dsimp only
  split
  · exact ht
  · split
    · exact mcbStep_legal ht
    · exact ht
    · exact ht

theorem fonPanel_legal {p a j n : Nat} {bad : Option FonFail} (ht : TileLegal t) : TileLegal (fonPanel t p a j bad n).1 := by
  induction n generalizing t j bad with
  | zero => exact ht
  | succ n ih =>
    unfold fonPanel
    split
    · exact ih (panelSet_legal ht)
    · exact ih ht

theorem fonRow_legal {t : Tile} {d : BitVec 256} {ftzi ftzo : Bool} {i : Nat} (ht : TileLegal t) :
    TileLegal (fonRow t d ftzi ftzo i).1 := by
  unfold fonRow
  dsimp only
  split
  · exact mmaStep_legal ht
  · exact ht
  · exact ht

theorem fonRowsRun_legal {d : BitVec 256} {ftzi ftzo : Bool} {i n : Nat} {f : Raise} {bad : Option FonFail} (ht : TileLegal t) :
    TileLegal (fonRowsRun t d ftzi ftzo i f bad n).1 := by
  induction n generalizing t i f bad with
  | zero => exact ht
  | succ n ih => exact ih (fonRow_legal ht)

theorem fonEffect_legal {t : Tile} {d : BitVec 256} {ftzi ftzo : Bool} (ht : TileLegal t) : TileLegal (fonEffect t d ftzi ftzo).1 :=
  fonRowsRun_legal (fonPanel_legal (fonTable_legal ht))

/-! ### Steps of the array -/

theorem flipTile_legal {n : Nat} (hs : Legal s) : Legal (flipTile s n) :=
  have ht := tileOf_legal hs
  have hu : TileLegal (mapGet s.shadows n tile0) := mapGet_all hs.shadows tile0_legal
  ⟨hs.memWf, mapPut_all hs.tiles (hu.mix ht rfl rfl), mapPut_all hs.shadows ht, hs.2.2.2⟩
/-- A step of a tile's array keeps the invariant, on the live state or on the shadow state, if its effect does. -/
theorem arrayStep_legal {n : Nat} {f : State → Option State} (hs : Legal s) (hf : ∀ x, Legal x → OptLegal (f x)) :
    Legal (arrayStep s n f) := by
  unfold arrayStep
  split
  · exact hf s hs _ ‹_›
  · split
    · exact hs
    · split
      · exact flipTile_legal (hf _ (flipTile_legal hs) _ ‹_›)
      · exact hs

theorem matStart_legal {tile : Nat} (hs : Legal s) : OptLegal (matStart tile s) := by
  unfold matStart
  dsimp only
  split
  · split
    · exact some_legal (setTile_legal hs ((tileOf_legal hs).congr rfl rfl))
    · exact none_legal
  · exact none_legal

theorem execMatrixEntryStart_legal {tile : Nat} (hs : Legal s) : OutLegal (execMatrixEntryStart tile s) :=
  next_legal (arrayStep_legal hs fun _ => matStart_legal)

theorem matDone_legal {tile : Nat} (hs : Legal s) : OptLegal (matDone tile s) := by
  unfold matDone
  extract_lets t
  split
  · exact none_legal
  · extract_lets t0
    have h0 : TileLegal t0 := (tileOf_legal hs).congr rfl rfl
    split
    · split
      · exact some_legal (fonReport_legal (setTile_legal hs h0))
      · dsimp only
        have h1 {d : BitVec 256} {x y : Bool} : TileLegal (fonEffect t0 d x y).1 := fonEffect_legal h0
        refine some_legal (fonReport_legal ?_)
        have h2 {d : BitVec 256} {x y : Bool} : Legal (setTile s tile (setBank (fonEffect t0 d x y).1 0
            { bankOf (fonEffect t0 d x y).1 0 with mode := modeRaise (bankOf (fonEffect t0 d x y).1 0).mode (fonEffect t0 d x y).2.1
              })) :=
          setTile_legal hs (setBank_legal h1 ((bankOf_legal h1).withMode (modeRaise_reserved (bankOf_legal h1).1)))
        exact ite_legal (errNote_legal h2) h2
    · have h1 {c : MatCmd} : Legal (setTile s tile (matEffect t0 c).t) := setTile_legal hs (matEffect_legal h0)
      split
      · exact some_legal (finishJob_legal h1)
      · exact some_legal h1

theorem execMatrixEntryDone_legal {tile : Nat} (hs : Legal s) : OutLegal (execMatrixEntryDone tile s) :=
  next_legal (arrayStep_legal hs fun _ => matDone_legal)

theorem fonEnter_legal {tile : Nat} (hs : Legal s) : OptLegal (fonEnter tile s) := by
  unfold fonEnter
  dsimp only
  split
  · split
    · exact some_legal (setTile_legal hs ((tileOf_legal hs).congr rfl rfl))
    · exact none_legal
  · exact none_legal

theorem execFollowOnEnter_legal {tile : Nat} (hs : Legal s) : OutLegal (execFollowOnEnter tile s) :=
  next_legal (arrayStep_legal hs fun _ => fonEnter_legal)

/-! ### Vector instructions -/

theorem vecEff_legal {i : Instr} {r : Opnd → VecRes} {f : Firing} {o : Opnd} {j : Nat} (hs : Legal s) :
    EffLegal (vecEff i r s f o j) := by
  unfold vecEff
  dsimp only
  split
  · exact skipEff_legal hs
  · exact go_legal hs

end Sys2Proof
end

section
/-! Every instruction of the opcode map is a firing whose effect keeps the invariant. -/
namespace Sys2Proof

open Machine

variable {s : State} {t u : Tile} {b : Bank} {i : Instr}

/-- An instruction's meaning is a firing (R56 to R63), and the firing's effect keeps the invariant. -/
def FiresLegal (i : Instr) : Prop :=
  ∀ s, ∃ eff, exec i s = pe s i eff ∧ ∀ x f o j, Legal x → EffLegal (eff x f o j)

/-! ### Instructions whose effect has cases of its own -/

theorem qDepth_fires {a b : BitVec 5} {t : BitVec 4} : FiresLegal (.qDepth a b t) := by
  refine fun _ => ⟨_, rfl, fun x f o j hx => ?_⟩
  dsimp only
  split
  · rename_i h
    have hn : 1 ≤ o.kb.toNat ∧ o.kb.toNat ≤ 16 := by simpa using h
    exact go_legal (modBank_legal hx fun _ hb => setDepth_legal hb hn)
  · exact go_legal hx

/-- `ml.on` sets a ring of 1 to 8 registers, and a counter within it (R130). -/
theorem mlOn_fires {a b : BitVec 5} {t : BitVec 4} : FiresLegal (.mlOn a b t) := by
  refine fun _ => ⟨_, rfl, fun x f o j hx => ?_⟩
  dsimp only
  split
  · split
    · rename_i h
      have hn : 1 ≤ o.ka.toNat ∧ o.ka.toNat ≤ 8 := by simpa using h
      exact go_legal (modBank_legal hx fun _ hb => ⟨hb.1, hb.2.1, hb.2.2.1, hn, Nat.mod_lt _ hn.1⟩)
    · exact go_legal hx
  · exact stop_legal

theorem compressN32_fires {a b : BitVec 5} {d e t : BitVec 4} : FiresLegal (.compressN32 a b d e t) := by
  refine fun _ => ⟨_, rfl, fun x f o j hx => ?_⟩
  dsimp only
  split
  · exact skipEff_legal hx
  · split
    · exact go_legal hx
    · exact go_legal hx

theorem ssSet_fires {a b : BitVec 5} {t : BitVec 4} : FiresLegal (.ssSet a b t) := by
  refine fun _ => ⟨_, rfl, fun x f o j hx => ?_⟩
  dsimp only
  split
  · exact stop_legal
  · refine go_legal (modTile_legal hx (fun _ ht1 => ?_))
    split
    · exact ht1.congr rfl rfl
    · exact ht1.congr rfl rfl

theorem ssGo_fires {a : BitVec 5} {t : BitVec 4} : FiresLegal (.ssGo a t) := by
  refine fun _ => ⟨_, rfl, fun x f o j hx => ?_⟩
  dsimp only
  refine go_legal (modTile_legal hx (fun _ ht1 => ?_))
  split
  · exact ht1.congr rfl rfl
  · exact ht1.congr rfl rfl

theorem ssStop_fires {a : BitVec 5} {t : BitVec 4} : FiresLegal (.ssStop a t) := by
  refine fun _ => ⟨_, rfl, fun x f o j hx => ?_⟩
  refine go_legal (modTile_legal hx (fun _ ht1 => ?_))
  split
  · exact ht1.congr rfl rfl
  · exact ht1.congr rfl rfl

theorem lmLd_fires {a : BitVec 5} {d e t : BitVec 4} : FiresLegal (.lmLd a d e t) := by
  refine fun _ => ⟨_, rfl, fun x f o j hx => ?_⟩
  dsimp only
  split
  · exact go_legal (errNote_legal hx)
  · exact go_legal hx

theorem bteAppend_fires {a : BitVec 5} {d e t : BitVec 4} : FiresLegal (.bteAppend a d e t) := by
  refine fun _ => ⟨_, rfl, fun x f o j hx => ?_⟩
  dsimp only
  split
  · exact go_legal (setBte_legal (linkNext_legal hx))
  · exact go_legal hx

theorem bteProm_fires {a : BitVec 5} {d e t : BitVec 4} : FiresLegal (.bteProm a d e t) := by
  refine fun _ => ⟨_, rfl, fun x f o j hx => ?_⟩
  dsimp only
  split
  · exact go_legal hx
  · exact go_legal hx

theorem bteSeq_fires {a : BitVec 5} {d e t : BitVec 4} : FiresLegal (.bteSeq a d e t) := by
  refine fun _ => ⟨_, rfl, fun x f o j hx => ?_⟩
  dsimp only
  refine go_legal ?_
  dsimp only
  split
  · exact clkAcquire_legal hx
  · exact hx

theorem tsend_fires {a b : BitVec 5} {t : BitVec 4} : FiresLegal (.tsend a b t) := by
  refine fun _ => ⟨_, rfl, fun x f o j hx => ?_⟩
  dsimp only
  split
  · exact go_legal (sendPacket_legal hx)
  · exact stop_legal

theorem hbind_fires {t : BitVec 4} : FiresLegal (.hbind t) := by
  refine fun _ => ⟨_, rfl, fun x f o j hx => ?_⟩
  dsimp only
  split
  · exact go_legal (setTile_legal hx ((tileOf_legal hx).congr rfl rfl))
  · exact go_legal hx

theorem futWait_fires {a : BitVec 5} {d e t : BitVec 4} : FiresLegal (.futWait a d e t) := by
  refine fun _ => ⟨_, rfl, fun x f o j hx => ?_⟩
  dsimp only
  split
  · exact go_legal hx
  · split
    · exact stop_legal
    · exact go_legal (clkAcquire_legal (modTile_legal hx (fun _ ht1 => ht1.congr rfl rfl)))

theorem xdDispatch_fires {a b : BitVec 5} {d e t : BitVec 4} : FiresLegal (.xdDispatch a b d e t) := by
  refine fun _ => ⟨_, rfl, fun x f o j hx => ?_⟩
  dsimp only
  split
  · exact skipEff_legal hx
  · split
    · exact go_legal hx
    · split
      · exact go_legal (clkAcquire_legal hx)
      · exact go_legal (modDie_legal (infAdd_legal (sendPacket_legal (clkAcquire_legal hx))))

theorem xdLoad_fires {a : BitVec 5} {d e t : BitVec 4} : FiresLegal (.xdLoad a d e t) := by
  refine fun _ => ⟨_, rfl, fun x f o j hx => ?_⟩
  dsimp only
  split
  · exact go_legal hx
  · split
    · exact go_legal hx
    · split
      · exact go_legal hx
      · exact go_legal hx

theorem xdTab_fires {a : BitVec 5} {d e t : BitVec 4} : FiresLegal (.xdTab a d e t) := by
  refine fun _ => ⟨_, rfl, fun x f o j hx => ?_⟩
  dsimp only
  split
  · exact go_legal hx
  · split
    · exact go_legal hx
    · split
      · exact go_legal hx
      · exact go_legal hx

theorem xdVer_fires {a : BitVec 5} {d e t : BitVec 4} : FiresLegal (.xdVer a d e t) := by
  refine fun _ => ⟨_, rfl, fun x f o j hx => ?_⟩
  dsimp only
  split
  · split
    · exact go_legal hx
    · exact go_legal hx
  · exact go_legal (releaseLater_legal (stepEnd_legal hx))
  · refine go_legal ?_
    dsimp only
    split
    · exact clkAcquire_legal hx
    · exact hx
  · exact go_legal hx

theorem xdStat_fires {d e t : BitVec 4} : FiresLegal (.xdStat d e t) := by
  refine fun _ => ⟨_, rfl, fun x f o j hx => ?_⟩
  dsimp only
  split
  · exact go_legal hx
  · exact go_legal hx

theorem dbgBrk_fires {a : BitVec 5} {t : BitVec 4} : FiresLegal (.dbgBrk a t) := by
  refine fun _ => ⟨_, rfl, fun x f o j hx => ?_⟩
  split
  · split
    · exact go_legal (startHalt_legal hx)
    · exact go_legal hx
  · exact go_legal hx

theorem raceMode_fires {a : BitVec 5} {d e t : BitVec 4} : FiresLegal (.raceMode a d e t) := by
  refine fun _ => ⟨_, rfl, fun x f o j hx => ?_⟩
  dsimp only
  split
  · exact go_legal hx
  · exact go_legal (ite_legal (setRaceMode_legal hx) hx)

theorem raceGen_fires {a : BitVec 5} {d e t : BitVec 4} : FiresLegal (.raceGen a d e t) := by
  refine fun _ => ⟨_, rfl, fun x f o j hx => ?_⟩
  dsimp only
  split
  · split
    · exact go_legal (modPart_legal hx)
    · exact go_legal hx
  · exact go_legal hx

/-! ### Every instruction of the opcode map -/

/-- Every instruction of the opcode map is a firing whose effect keeps the invariant; events and requests have no encoding. -/
theorem encode_fires {w : BitVec 32} (h : encode i = some w) : FiresLegal i := by
  cases i with
  | add | sub | mulLo | mulHi | div | rem | min | max | cmpEq | cmpNe | cmpLt | cmpLe | abs | neg | sel | and | or | xor
  | andn | not | shl | shr | sar | rol | ror | extr | extrS | ins | popc | clz | ctz | bswap | pget =>
    exact fun _ => ⟨_, rfl, fun _ _ _ _ => aluEff_legal⟩
  | pset | mlOff => exact fun _ => ⟨_, rfl, fun _ _ _ _ hx => go_legal (modBank_legal hx fun _ hb => hb.congr rfl rfl rfl rfl rfl)⟩
  | pand | por | pxor | pnot => exact fun _ => ⟨_, rfl, fun _ _ _ _ => predEff_legal⟩
  | deq | peek | deqD | peekD => exact fun _ => ⟨_, rfl, fun _ _ _ _ => takeEff_legal⟩
  | fwd | fwdD => exact fun _ => ⟨_, rfl, fun _ _ _ _ => fwdEff_legal⟩
  | emitNull | emitNullD => exact fun _ => ⟨_, rfl, fun _ _ _ _ => emitNullEff_legal⟩
  | emitMark | emitMarkD => exact fun _ => ⟨_, rfl, fun _ _ _ _ => emitMarkEff_legal⟩
  | emitErr | emitErrD => exact fun _ => ⟨_, rfl, fun _ _ _ _ => emitErrEff_legal⟩
  | retag | retagD => exact fun _ => ⟨_, rfl, fun _ _ _ _ => retagEff_legal⟩
  | posReset | posResetD => exact fun _ => ⟨_, rfl, fun _ _ _ _ => posResetEff_legal⟩
  | dlGet | dlGetD => exact fun _ => ⟨_, rfl, fun _ _ _ _ => dlGetEff_legal⟩
  | dlPut | dlPutD => exact fun _ => ⟨_, rfl, fun _ _ _ _ => dlPutEff_legal⟩
  | qCnt | modeRd | swIdx | mlRd | rep | ext | ssStat | sleepUntil | bteStat | trap | rgnStat | nop | clkRd | raceLog =>
    exact fun _ => ⟨_, rfl, fun _ _ _ _ hx => go_legal hx⟩
  | qClr => exact fun _ => ⟨_, rfl, fun _ _ _ _ hx => go_legal (modBank_legal hx fun _ => qSet_legal)⟩
  | qDepth => exact qDepth_fires
  | modeWr | modeSet | modeClr => exact fun _ => ⟨_, rfl, fun _ _ _ _ => modeEff_legal⟩
  | mlOn => exact mlOn_fires
  | fadd | fsub | fmul | fma | fms | fnma | fmin | fmax | fabs | fneg | fcmpEq | fcmpLt | fcmpLe | fcmpUn | fclass | fsqrt
  | frcpe | fdiv | vadd | vsub | vmul | vmulh | vmin | vmax | vshr | vcmpLt | vshl | vcmpEq | vabs | vand | vor | vxor | vnot
  | cvtF32F64 | cvtF64F32 | cvtBf16F32 | cvtF32Bf16 | cvtI32F32 | cvtF32I32 | cvtN32F32 | cvtF32N32 | cvtI64F64 | cvtF64I64
  | vperm | vshuf | vrot | vbcast | vredFaddF64 | vredFaddF32 | vredFaddBf16 | vredFmaxF32 | vredFminF32 | vredAddI32
  | vredAddI64 | vredMaxI32 => exact fun _ => ⟨_, rfl, fun _ _ _ _ => vecEff_legal⟩
  | compressN32 => exact compressN32_fires
  | mmaBf16 | mmaF32 | mmaF64 | mmaCb4 | mmaSpBf16 | mmaSpCb4 | mpl | mcb | accZero | accRd | accWr | accCp | sacc =>
    exact fun _ => ⟨_, rfl, fun _ _ _ _ hx => go_legal (modTile_legal hx fun _ ht => ht.congr rfl rfl)⟩
  | ssSet => exact ssSet_fires
  | ssGo => exact ssGo_fires
  | ssStop => exact ssStop_fires
  | lmLd => exact lmLd_fires
  | lmSt | yield | cfgSel => exact fun _ => ⟨_, rfl, fun _ _ _ _ hx => go_legal (modTile_legal hx fun _ ht => ht.congr rfl rfl)⟩
  | ringBind => exact fun _ => ⟨_, rfl, fun _ _ _ _ hx => go_legal (modTile_legal hx fun _ => setHandle_legal)⟩
  | ringWaitf | ringWaite => exact fun _ => ⟨_, rfl, fun _ _ _ _ => ringWait_legal⟩
  | ringAdvp | ringAdvc => exact fun _ => ⟨_, rfl, fun _ _ _ _ => ringAdvEff_legal⟩
  | ringRd | ringRdv => exact fun _ => ⟨_, rfl, fun _ _ _ _ => ringRdEff_legal⟩
  | ringWr | ringWrv => exact fun _ => ⟨_, rfl, fun _ _ _ _ => ringWrEff_legal⟩
  | agtSet | agtBase | agtDim | agtGo | agtStop | agtCfg | agtHand | agtResume | agtStat =>
    exact fun _ => ⟨_, rfl, fun _ _ _ _ => agtTok_legal⟩
  | amoAdd | amoFadd | amoMin | amoMax | amoAnd | amoOr | amoXor | amoExch | stRel | ldAcq | ld | st =>
    exact fun _ => ⟨_, rfl, fun _ _ _ _ => memEff0_legal⟩
  | amoCas => exact fun _ => ⟨_, rfl, fun _ _ _ _ => memEff_legal⟩
  | fence => exact fun _ => ⟨_, rfl, fun _ _ _ _ hx => go_legal (clkAcquire_legal (clkRelease_legal hx))⟩
  | bteCopy | bteCopyMx => exact fun _ => ⟨_, rfl, fun _ _ _ _ => bteCopyEff_legal⟩
  | bteAppend => exact bteAppend_fires
  | bteTail => exact fun _ => ⟨_, rfl, fun _ _ _ _ hx => go_legal (issueRel_legal (setBte_legal hx))⟩
  | bteProm => exact bteProm_fires
  | bteSeq => exact bteSeq_fires
  | tsend => exact tsend_fires
  | hbind => exact hbind_fires
  | hunbind =>
    exact fun _ => ⟨_, rfl, fun _ _ _ _ hx => go_legal (foldl_legal (setTile_legal hx ((tileOf_legal hx).congr rfl rfl)) fun _ _ =>
      dropPacket_legal)⟩
  | futNew | futReg | futRd | join | leave | grpNew | grpSize => exact fun _ => ⟨_, rfl, fun _ _ _ _ => futAsk_legal⟩
  | futRes | futFault => exact fun _ => ⟨_, rfl, fun _ _ _ _ hx => go_legal (futSend_legal hx)⟩
  | futWait => exact futWait_fires
  | launch | launchTry => exact fun _ => ⟨_, rfl, fun _ _ _ _ => launchEff_legal⟩
  | barrier | reduce | allreduce | bcast => exact fun _ => ⟨_, rfl, fun _ _ _ _ => collEff_legal⟩
  | xdDispatch => exact xdDispatch_fires
  | xdLoad => exact xdLoad_fires
  | xdTab => exact xdTab_fires
  | xdVer => exact xdVer_fires
  | xdStat => exact xdStat_fires
  | dbgBrk => exact dbgBrk_fires
  | raceMode => exact raceMode_fires
  | raceGen => exact raceGen_fires
  | _ => cases h

end Sys2Proof
end

section
/-! Every step of the machine keeps the invariant. -/
namespace Sys2Proof

open Machine

variable {s : State} {i : Instr} {w : BitVec 32} {r : Except DecodeErr Instr}

/-! ### Instructions -/

/-- An instruction of the opcode map keeps the invariant. -/
theorem exec_legal (h : encode i = some w) (hs : Legal s) : OutLegal (exec i s) := by
  obtain ⟨eff, he, hk⟩ := encode_fires h s
  rw [he]
  exact pe_legal hs hk

/-! ### What a word decodes to -/

/-- Whether it is an instruction with an encoding, or none. -/
def encodes : Except DecodeErr Instr → Bool
  | .ok i => (fields i).isSome
  | .error _ => true

theorem decGroup0_encodes : encodes (decGroup0 w) = true := by
  unfold decGroup0
  repeat' split
  all_goals rfl

theorem decGroup1_encodes : encodes (decGroup1 w) = true := by
  unfold decGroup1 need
  repeat' split
  all_goals rfl

theorem decGroup2_encodes : encodes (decGroup2 w) = true := by
  unfold decGroup2 need
  repeat' split
  all_goals rfl

theorem decGroup3_encodes : encodes (decGroup3 w) = true := by
  unfold decGroup3 need
  repeat' split
  all_goals rfl

theorem decGroupF_encodes : encodes (decGroupF w) = true := by
  unfold decGroupF need
  repeat' split
  all_goals rfl

theorem decGroup7_encodes : encodes (decGroup7 w) = true := by
  unfold decGroup7
  repeat' split
  all_goals rfl

theorem decGroup8_encodes : encodes (decGroup8 w) = true := by
  unfold decGroup8 need
  repeat' split
  all_goals rfl

theorem decGroup9_encodes : encodes (decGroup9 w) = true := by
  unfold decGroup9 need
  repeat' split
  all_goals rfl

theorem decGroup10_encodes : encodes (decGroup10 w) = true := by
  unfold decGroup10 need
  repeat' split
  all_goals rfl

theorem decGroup11_encodes : encodes (decGroup11 w) = true := by
  unfold decGroup11 need
  repeat' split
  all_goals rfl

theorem decGroup12_encodes : encodes (decGroup12 w) = true := by
  unfold decGroup12 need
  repeat' split
  all_goals rfl

theorem decGroup13_encodes : encodes (decGroup13 w) = true := by
  unfold decGroup13 need
  repeat' split
  all_goals rfl

theorem decGroup14_encodes : encodes (decGroup14 w) = true := by
  unfold decGroup14 need
  repeat' split
  all_goals rfl

theorem decGroup15_encodes : encodes (decGroup15 w) = true := by
  unfold decGroup15 need
  repeat' split
  all_goals rfl

/-- What a word decodes to has an encoding. -/
theorem decodeWord_encodes : encodes (decodeWord w) = true := by
  unfold decodeWord
  split
  · exact decGroup0_encodes
  · exact decGroup1_encodes
  · exact decGroup2_encodes
  · exact decGroup3_encodes
  · exact decGroupF_encodes
  · exact decGroupF_encodes
  · exact decGroupF_encodes
  · exact decGroup7_encodes
  · exact decGroup8_encodes
  · exact decGroup9_encodes
  · exact decGroup10_encodes
  · exact decGroup11_encodes
  · exact decGroup12_encodes
  · exact decGroup13_encodes
  · exact decGroup14_encodes
  · exact decGroup15_encodes
  · rfl

theorem slotInstr_encodes {x : Slot} (h : slotInstr x = some i) : ∃ w, encode i = some w := by
  have hd := decodeWord_encodes (w := x.word)
  unfold slotInstr at h
  cases e : decodeWord x.word with
  | ok j =>
    rw [e] at h hd
    cases h
    obtain ⟨f, hf⟩ := Option.isSome_iff_exists.mp hd
    exact ⟨wordOf f, by rw [encode, hf, Option.map_some]⟩
  | error _ =>
    rw [e] at h
    cases h

/-! ### The turn of a PE -/

/-- The instruction of a ready slot has an encoding: it is what the slot's word decodes to. -/
theorem readySlot_encodes {tile bank : Nat} {f : Firing} (h : readySlot s tile bank = some (i, f)) : ∃ w, encode i = some w := by
  obtain ⟨⟨n, x⟩, -, hx⟩ := List.exists_of_findSome?_eq_some h
  dsimp only at hx
  split at hx
  · rename_i j hj
    split at hx
    · cases hx
      exact slotInstr_encodes hj
    · cases hx
  · cases hx

/-- What a turn of a PE proposes goes on from a legal state, with an instruction of the opcode map. -/
def PickLegal : Pick → Prop
  | .fire i s => (∃ w, encode i = some w) ∧ Legal s
  | .switch s => Legal s
  | .done s => Legal s
  | .bad _ => True

theorem pickPE_legal {tile : Nat} (hs : Legal s) : PickLegal (pickPE s tile) := by
  have hp : Legal (postAll s tile) := postAll_legal hs
  unfold pickPE
  dsimp only
  split
  · exact trivial
  · split
    · rename_i h
      exact ⟨readySlot_encodes h, hp⟩
    · split
      · exact hp
      · exact hp

/-! ### The turn of an engine -/

theorem runEvent_legal {e : Event} (hs : Legal s) : OutLegal (runEvent e s) := by
  cases e with
  | resultWrite => exact execResultWrite_legal hs
  | bankSwitch => exact execBankSwitch_legal hs
  | tokenArrival => exact execTokenArrival_legal hs
  | portRequest => exact execPortRequest_legal hs
  | requestArrival => exact execRequestArrival_legal hs
  | delayLineDepart => exact execDelayLineDepart_legal hs
  | indexDelivery => exact execIndexDelivery_legal hs
  | switchGather => exact execSwitchGather_legal hs
  | switchScatter => exact execSwitchScatter_legal hs
  | multicastDetach => exact execMulticastDetach_legal hs
  | detached => exact execDetached_legal hs
  | laggard => exact execLaggard_legal hs
  | laggardEnd => exact execLaggardEnd_legal hs
  | regionCompletion => exact execRegionCompletion_legal hs
  | trapRecord => exact execTrapRecord_legal hs
  | regionStop => exact execRegionStop_legal hs
  | unitFence => exact execUnitFence_legal hs
  | matrixEntryStart => exact execMatrixEntryStart_legal hs
  | matrixEntryDone => exact execMatrixEntryDone_legal hs
  | followOnEnter => exact execFollowOnEnter_legal hs
  | streamFetch => exact execStreamFetch_legal hs
  | mtRequest => exact execMtRequest_legal hs
  | fifoEnqueue => exact execFifoEnqueue_legal hs
  | fifoDequeue => exact execFifoDequeue_legal hs
  | ringAdvance => exact execRingAdvance_legal hs
  | advanceAnswer => exact execAdvanceAnswer_legal hs
  | handleViewUpdate => exact execHandleViewUpdate_legal hs
  | agtTakeSet => exact execAgtTakeSet_legal hs
  | agtTakeBase => exact execAgtTakeBase_legal hs
  | agtTakeDim => exact execAgtTakeDim_legal hs
  | agtTakeGo => exact execAgtTakeGo_legal hs
  | agtTakeStop => exact execAgtTakeStop_legal hs
  | agtTakeHand => exact execAgtTakeHand_legal hs
  | handoverSend => exact execHandoverSend_legal hs
  | handoverReceive => exact execHandoverReceive_legal hs
  | agtTakeResume => exact execAgtTakeResume_legal hs
  | agtTakeStat => exact execAgtTakeStat_legal hs
  | agtTakeCfg => exact execAgtTakeCfg_legal hs
  | agtTakeDiscard => exact execAgtTakeDiscard_legal hs
  | agtTakeErr => exact execAgtTakeErr_legal hs
  | agtTakeReserved => exact execAgtTakeReserved_legal hs
  | agtElement => exact execAgtElement_legal hs
  | agtTokenOut => exact execAgtTokenOut_legal hs
  | agtWalkReport => exact execAgtWalkReport_legal hs
  | pageWalk => exact execPageWalk_legal hs
  | bteCommandBegin => exact execBteCommandBegin_legal hs
  | chainTake => exact execChainTake_legal hs
  | followOnHandoff => exact execFollowOnHandoff_legal hs
  | bteCommandReport => exact execBteCommandReport_legal hs
  | promiseMissed => exact execPromiseMissed_legal hs
  | accessPerform => exact execAccessPerform_legal hs
  | releasePerform => exact execReleasePerform_legal hs
  | loadReturn => exact execLoadReturn_legal hs
  | raceSweep => exact execRaceSweep_legal hs
  | raceModeClear => exact execRaceModeClear_legal hs
  | taskPacketArrival => exact execTaskPacketArrival_legal hs
  | packetPresent => exact execPacketPresent_legal hs
  | launchAccept => exact execLaunchAccept_legal hs
  | spillMove => exact execSpillMove_legal hs
  | launchDistribution => exact execLaunchDistribution_legal hs
  | tileRecordRead => exact execTileRecordRead_legal hs
  | taskBind => exact execTaskBind_legal hs
  | launchCompletion => exact execLaunchCompletion_legal hs
  | futureOperation => exact execFutureOperation_legal hs
  | futureAnswer => exact execFutureAnswer_legal hs
  | watchReport => exact execWatchReport_legal hs
  | collectiveArrival => exact execCollectiveArrival_legal hs
  | collectiveComplete => exact execCollectiveComplete_legal hs
  | barometerWindow => exact execBarometerWindow_legal hs
  | proposalLapse => exact execProposalLapse_legal hs
  | planArm => exact execPlanArm_legal hs
  | gating => exact execGating_legal hs
  | ungate => exact execUngate_legal hs
  | rewireFail => exact execRewireFail_legal hs
  | steerToken => exact execSteerToken_legal hs
  | mergeOutput => exact execMergeOutput_legal hs
  | retirement => exact execRetirement_legal hs
  | elementDrained => exact execElementDrained_legal hs
  | saveDone => exact execSaveDone_legal hs
  | drainTimeout => exact execDrainTimeout_legal hs
  | shadowExchange => exact execShadowExchange_legal hs
  | loadSend => exact execLoadSend_legal hs
  | replicationCopyDone => exact execReplicationCopyDone_legal hs
  | rollback => exact execRollback_legal hs
  | versionAdopt => exact execVersionAdopt_legal hs
  | tableAdopt => exact execTableAdopt_legal hs
  | packetRedirect => exact execPacketRedirect_legal hs
  | gradientMerge => exact execGradientMerge_legal hs
  | partSet => exact execPartSet_legal hs
  | install => exact execInstall_legal hs
  | release => exact execRelease_legal hs
  | shrink => exact execShrink_legal hs
  | drainSave => exact execDrainSave_legal hs
  | fullSave => exact execFullSave_legal hs
  | swap => exact execSwap_legal hs
  | resume => exact execResume_legal hs
  | restore => exact execRestore_legal hs
  | approve => exact execApprove_legal hs
  | plan => exact execPlan_legal hs
  | arm => exact execArm_legal hs
  | agtResumeRequest => exact execAgtResumeRequest_legal hs
  | inval => exact execInval_legal hs
  | qlink => exact execQlink_legal hs
  | qlinkUnlink => exact execQlinkUnlink_legal hs
  | xdTable => exact execXdTable_legal hs
  | xdTableRemove => exact execXdTableRemove_legal hs
  | xdPublish => exact execXdPublish_legal hs
  | xdStep => exact execXdStep_legal hs
  | attest => exact execAttest_legal hs
  | hostLaunchPacket => exact execHostLaunchPacket_legal hs
  | registerWrite => exact execRegisterWrite_legal hs
  | gatewayCrossing => exact execGatewayCrossing_legal hs
  | flitRetry => exact execFlitRetry_legal hs
  | linkRetryExhausted => exact execLinkRetryExhausted_legal hs
  | reset => exact execReset_legal hs
  | currentSample => exact execCurrentSample_legal hs
  | pathWalk => exact execPathWalk_legal hs
  | halt => exact execHalt_legal hs
  | step => exact execStep_legal hs
  | stop => exact execStop_legal hs
  | stepTimeout => exact execStepTimeout_legal hs
  | slotBreakpoint => exact execSlotBreakpoint_legal hs
  | brkSet => exact execBrkSet_legal hs
  | brkClr => exact execBrkClr_legal hs
  | regRd => exact execRegRd_legal hs
  | regWr => exact execRegWr_legal hs
  | memRd => exact execMemRd_legal hs
  | memWr => exact execMemWr_legal hs
  | dbgResume => exact execDbgResume_legal hs
  | throttle => exact execThrottle_legal hs
  | throttleEnd => exact execThrottleEnd_legal hs
  | clockGate => exact execClockGate_legal hs
  | mtileClockGate => exact execMtileClockGate_legal hs
  | selfRefresh => exact execSelfRefresh_legal hs
  | lanesIdle => exact execLanesIdle_legal hs
  | consumerIndexAdvance => exact execConsumerIndexAdvance_legal hs

/-! ### Inputs from outside -/

theorem markBad_legal {space unit addr : Nat} (hs : Legal s) : Legal (markBad s space unit addr) := by
  unfold markBad
  dsimp only
  split
  · exact hs.frame
  · exact modTile_legal hs fun _ ht => ht.congr rfl rfl
  · exact setMTile_legal hs (fifoMark_legal ((mtileOf_legal hs).congr rfl))

theorem hostBytes_legal {q pa : Nat} {l : List Byte} (hs : Legal s) : Legal (hostBytes s q pa l) := enginePieces_legal hs

theorem inputEffect_legal {x : Input} (hs : Legal s) : Legal (inputEffect s x) := by
  cases x with
  | event => exact hs
  | hostWrite => exact hostBytes_legal hs
  | hostRead => exact readPieces_legal hs
  | memErr => exact markBad_legal hs

/-! ### The stages of a cycle -/

theorem reqStage_legal (hs : Legal s) : Legal (reqStage s).2 := by
  unfold reqStage
  dsimp only
  split
  · exact hs
  · split
    · exact modHost_legal (doorsDone_legal hs)
    · exact respond_legal (modHost_legal (doorsDone_legal hs))

theorem dbgStage_legal (hs : Legal s) : Legal (dbgStage s).2 := by
  unfold dbgStage
  split
  · split
    · exact hs
    · exact dbgEnd_legal hs
  · exact hs

/-- Only the requests and the debug port change the state before their steps' turns come. -/
theorem expand_legal {n : Nat} (hs : Legal s) : Legal (expand n s).2 := by
  unfold expand
  dsimp only
  split
  · exact reqStage_legal hs
  · exact dbgStage_legal hs
  all_goals exact hs

/-! ### The passage to the next cycle -/

theorem passOut_legal {ep : Nat} (hs : Legal s) : Legal (passOut s ep) := by
  unfold passOut
  dsimp only
  split
  · exact enterChan_legal (setOutPort_legal hs)
  · exact hs

theorem passGate_legal {id : Nat} (hs : Legal s) : Legal (passGate s id) := by
  unfold passGate
  dsimp only
  split
  · exact hs
  · split
    · exact hs
    · split
      · exact hs
      · split
        · exact setChan_legal hs
        · split
          · exact setChan_legal hs
          · exact hs

theorem passAll_legal (hs : Legal s) : Legal (passAll s) :=
  foldl_legal (foldl_legal hs fun _ _ => passOut_legal) fun _ _ => passGate_legal

theorem rgnsTick_legal (hs : Legal s) : Legal (rgnsTick s) :=
  foldl_legal (l := List.map _ _) (s := { s with rgns := _ }) hs fun _ _ hx => rewireTick_legal
    (drainTick_legal (cloneTick_legal (holdGate_legal hx)))

/-- The clocked units: a compute tile performs the stores to its local memory, a memory tile keeps its memory. -/
theorem unitsTick_legal (hs : Legal s) : Legal (unitsTick s) :=
  ⟨hs.1, map_all hs.tiles fun _ ht => (lmStores_legal ht).congr rfl rfl, hs.shadows,
    map_all hs.mtiles fun _ hm => MTileLegal.congr hm rfl, hs.shadowMts, hs.saves⟩

theorem watchAll_legal (hs : Legal s) : Legal (watchAll s) := hs

theorem nextCycle_legal (hs : Legal s) : Legal (nextCycle s) := hs

theorem tick_legal (hs : Legal s) : Legal (tick s) :=
  nextCycle_legal (owedTick_legal (mtAdmit_legal (placeTick_legal (btesMove_legal (unitsTick_legal (rgnsTick_legal
    (watchAll_legal (passAll_legal hs))))))))

/-! ### The obligations -/

/-- Settles O9: an instruction of the opcode map is a firing, and the firing of a slot that is not ready answers the same state. -/
theorem heldSlotUnchanged : Obligations.HeldSlotUnchanged := by
  unfold Obligations.HeldSlotUnchanged
  intro i w s h hr
  obtain ⟨eff, he, -⟩ := encode_fires h s
  rw [he]
  exact pe_held s i eff hr

theorem fault_legal {x : Fault} : OutLegal (.fault x) := by
  intro t e
  exact absurd e (by simp)

/-- A step that goes on from a legal state goes to one, whatever its turn is. -/
theorem step_legal (hs : Legal s) : OutLegal (step s) := by
  unfold step
  split
  · exact next_legal (tick_legal hs)
  · rename_i tile ts _
    have hp := pickPE_legal (s := { s with turns := ts }) (tile := tile) hs
    split
    · rename_i e
      rw [e] at hp
      exact exec_legal hp.1.choose_spec hp.2
    · rename_i e
      rw [e] at hp
      exact execBankSwitch_legal hp
    · rename_i e
      rw [e] at hp
      exact next_legal hp
    · exact fault_legal
  · split
    · exact next_legal hs
    · exact runEvent_legal hs
  · exact next_legal (resetPart_legal hs)
  · split
    · exact runEvent_legal hs
    · exact next_legal hs
  · exact next_legal (inputEffect_legal hs)
  · exact next_legal (expand_legal (s := { s with turns := _ }) hs)

/-- Settles O27: every step of a turn, an input, a stage and the passage keeps the invariant (`step_legal`). -/
theorem stepKeepsLegal : Obligations.StepKeepsLegal := by
  unfold Obligations.StepKeepsLegal
  exact fun _ t hs => step_legal hs t

end Sys2Proof
end

section
/-! A PE's turn: the slot that fires, the bank switch (R58), and the trap of an ERR head (R57). -/
namespace Sys2Proof

open Machine

variable {s : State} {tile bank : Nat} {i : Instr} {f : Firing}

/-! ### The slot that fires -/

/-- What `readySlot` finds: the first slot of the list that is ready, and none before it is. -/
theorem readySlot_eq_some (h : readySlot s tile bank = some (i, f)) : ∃ l r n x, ctxSlots (tileOf s tile) = l ++ (n, x) :: r ∧
    slotInstr x = some i ∧ f = firingOf tile bank (tileOf s tile).ctx n x ∧ peReady s i f false = true ∧
    ∀ m y j, (m, y) ∈ l → slotInstr y = some j → peReady s j (firingOf tile bank (tileOf s tile).ctx m y) false = false := by
  obtain ⟨l, ⟨n, x⟩, r, hl, hx, hn⟩ := List.findSome?_eq_some_iff.mp h
  dsimp only at hx
  split at hx
  · rename_i j hj
    split at hx
    · rename_i hr
      cases hx
      refine ⟨l, r, n, x, hl, hj, rfl, hr, fun m y k hm hy => ?_⟩
      simpa [hy] using hn _ hm
    · cases hx
  · cases hx

/-- A slot has an instruction where its word decodes. -/
theorem slotInstr_eq_some {x : Slot} : slotInstr x = some i ↔ decodeWord x.word = .ok i := by
  unfold slotInstr
  cases decodeWord x.word <;> simp [Except.toOption]

/-- Settles O7: `readySlot` is the first of the listed slots that is ready (`readySlot_eq_some`). -/
theorem lowestReadySlot : Obligations.LowestReadySlot := by
  unfold Obligations.LowestReadySlot
  intro s tile bank i f h
  obtain ⟨l, r, n, x, hl, hi, rfl, hr, hn⟩ := readySlot_eq_some h
  exact ⟨hr, rfl, rfl, rfl, slotInstr_eq_some.mp hi, l, r, x, hl, rfl, rfl, rfl, hn⟩

/-! ### The turn of a PE (R58) -/

/-! The turn of a PE does what `pickPE` proposes: it fires a slot, switches the bank or does nothing. -/

theorem step_fire {ts : List Turn} {s1 : State} (ht : s.turns = .pe tile :: ts) (hp : pickPE { s with turns := ts } tile = .fire i s1) :
    step s = exec i s1 := by
  simp only [step, ht, hp]

theorem step_switch {ts : List Turn} {s1 : State} (ht : s.turns = .pe tile :: ts) (hp : pickPE { s with turns := ts } tile = .switch s1) :
    step s = execBankSwitch tile s1 := by
  simp only [step, ht, hp]

theorem step_done {ts : List Turn} {s1 : State} (ht : s.turns = .pe tile :: ts) (hp : pickPE { s with turns := ts } tile = .done s1) :
    step s = .next s1 := by
  simp only [step, ht, hp]

/-- Settles O5: the turn fires the slot that `readySlot` finds (R58), and the slot's word decodes to its instruction. -/
theorem stepRunsDecoded : Obligations.StepRunsDecoded := by
  unfold Obligations.StepRunsDecoded
  intro s tile ts i f ht hb hr
  obtain ⟨-, -, n, x, -, hi, rfl, -⟩ := readySlot_eq_some hr
  refine ⟨slotInstr_eq_some.mp hi, ?_⟩
  exact step_fire ht (by simp only [pickPE, hb, hr])

/-- The arbiter's search finds the first bank with a ready slot in the order b + 1, b + 2, b + 3 (R58). -/
theorem nextBank_eq_some {k : Nat} (h1 : 1 ≤ k) (h4 : k < 4)
    (hk : (readySlot s tile (((tileOf s tile).bank + k) % 4)).isSome = true)
    (hm : ∀ m, 1 ≤ m → m < k → readySlot s tile (((tileOf s tile).bank + m) % 4) = none) :
    nextBank s tile = some (((tileOf s tile).bank + k) % 4) := by
  unfold nextBank
  obtain rfl | rfl | rfl : k = 1 ∨ k = 2 ∨ k = 3 := by omega
  · simp [hk]
  · simp [hk, hm 1]
  · simp [hk, hm 1, hm 2]

theorem nextBank_eq_none (h : ∀ k, k < 4 → readySlot s tile k = none) : nextBank s tile = none := by
  unfold nextBank
  simp [h _ (Nat.mod_lt _ (by decide : 0 < 4))]

/-- Settles O6: where the current bank has no ready slot, the turn is the bank switch to the bank that `nextBank` finds. -/
theorem bankArbiter : Obligations.BankArbiter := by
  unfold Obligations.BankArbiter
  intro s s1 tile b ts hs1 ht hbad hb _ hnone
  subst hs1 hb
  refine ⟨fun k h1 h4 hk hm => ?_, fun hall => ?_⟩
  · have hn := nextBank_eq_some h1 h4 hk hm
    refine ⟨step_switch ht (by simp [pickPE, hbad, hnone, hn]), ?_⟩
    show execBankSwitch tile _ = _
    simp [execBankSwitch, switchTo, hnone, hn]
  · exact step_done ht (by simp [pickPE, hbad, hnone, nextBank_eq_none hall])

/-! ### ERR heads (R57) -/

/-- The ports that A and B name stand lowest first. -/
theorem namedPorts_sorted (i : Instr) : (namedPorts i).Pairwise (· < ·) :=
  List.Pairwise.filter _ (List.pairwise_lt_range)

/-- The ERR head that traps a firing is that of the lowest-numbered port it names with one. -/
theorem errHead_eq_some {p : Nat} {h : Token} (ht : trTch f.trig = 7 ∨ trKind f.trig ≠ 3) (hp : p ∈ namedPorts i)
    (hh : tileHead s f.tile p = some h) (he : h.kind = .err)
    (hl : ∀ q g, q ∈ namedPorts i → q < p → tileHead s f.tile q = some g → g.kind ≠ .err) :
    errHead s i f = some (h.pay.setWidth 64) := by
  obtain ⟨l, r, hlr⟩ := List.append_of_mem hp
  have hs := namedPorts_sorted i
  rw [hlr] at hs
  have hlt : ∀ q ∈ l, q < p := fun q hq => (List.pairwise_append.mp hs).2.2 q hq p List.mem_cons_self
  unfold errHead
  rw [if_neg (by rcases ht with ht | ht <;> simp [ht]), hlr, List.filterMap_append, List.find?_append, List.filterMap_cons_some hh]
  have hnone : (l.filterMap fun p => tileHead s f.tile p).find? (fun h => h.kind == .err) = none := by
    simp only [List.find?_eq_none, List.mem_filterMap]
    rintro g ⟨q, hq, hg⟩
    simpa using hl q g (hlr ▸ List.mem_append_left _ hq) (hlt q hq) hg
  simp [hnone, he]

/-- Settles O10: where the KIND test is not 11, an ERR head ends the firing in the trap of `pe_err` (R57). -/
theorem errHeadTraps : Obligations.ErrHeadTraps := by
  unfold Obligations.ErrHeadTraps
  intro i w s hw hr
  refine ⟨fun ht p h hp hh he hl => ?_, fun ht hk => ?_⟩
  · obtain ⟨eff, hx, -⟩ := encode_fires hw s
    rw [hx]
    exact pe_err s i eff _ hr (errHead_eq_some ht hp hh he hl)
  · simp [errHead, ht, hk]

end Sys2Proof
end

section
/-! The frame of control-plane computation (O19): what every part of a firing keeps of its tile and of its bank. -/
namespace Sys2Proof

open Machine

variable {s x y z : State} {t u w : Tile} {b c d : Bank} {i : Instr}

/-! ### What a firing keeps of its bank -/

/-- The places that the results of the firing in `s` go to. -/
def firingDsts (i : Instr) (s : State) : Dst × Dst := dsts (curBank s) i (operands i s).tag

/-- The bank `c` is `b` but for what the firing of a control-plane computation in `s` writes: its destinations, the queue registers
that it pops or pushes, flags ORed in, the predicate of its trigger word and the loop counter. -/
structure BankKept (i : Instr) (s : State) (b c : Bank) : Prop where
  k : ∀ n, (firingDsts i s).1 ≠ .k n → (firingDsts i s).2 ≠ .k n → kGet c n = kGet b n
  v : ∀ n, vGet c n = vGet b n
  q : ∀ q, q < 2 → popsQ i q = false → pushesQ i q = false → qGet c q = qGet b q
  qd0 : c.qd0 = b.qd0
  qd1 : c.qd1 = b.qd1
  rs : c.rs = b.rs
  mlOn : c.mlOn = b.mlOn
  lc : (curBank s).mlOn = false → c.lc = b.lc
  mode : ∃ r, c.mode = modeRaise b.mode r
  p : ∀ n, (n ≠ trPsel s.cur.trig ∨ trPop s.cur.trig = 0) → c.p.getLsbD n = b.p.getLsbD n

theorem modeRaise_zero (m : W64) : modeRaise m 0 = m := by simp [modeRaise]

theorem modeRaise_modeRaise (m : W64) (r q : Raise) : modeRaise (modeRaise m r) q = modeRaise m (r ||| q) := by
  simp [modeRaise, BitVec.or_assoc, BitVec.setWidth_or, BitVec.shiftLeft_or_distrib]

theorem BankKept.refl : BankKept i s b b :=
  ⟨fun _ _ _ => rfl, fun _ => rfl, fun _ _ _ _ => rfl, rfl, rfl, rfl, rfl, fun _ => rfl, ⟨0, (modeRaise_zero _).symm⟩, fun _ _ => rfl⟩

theorem BankKept.trans (h : BankKept i s b c) (g : BankKept i s c d) : BankKept i s b d where
  k n h1 h2 := (g.k n h1 h2).trans (h.k n h1 h2)
  v n := (g.v n).trans (h.v n)
  q q hq h1 h2 := (g.q q hq h1 h2).trans (h.q q hq h1 h2)
  qd0 := g.qd0.trans h.qd0
  qd1 := g.qd1.trans h.qd1
  rs := g.rs.trans h.rs
  mlOn := g.mlOn.trans h.mlOn
  lc hm := (g.lc hm).trans (h.lc hm)
  mode := by
    obtain ⟨r, hr⟩ := h.mode
    obtain ⟨q, hq⟩ := g.mode
    exact ⟨r ||| q, by rw [hq, hr, modeRaise_modeRaise]⟩
  p n hn := (g.p n hn).trans (h.p n hn)

theorem kSet_kept {n : Nat} {a : W64} (hn : (firingDsts i s).1 = .k n ∨ (firingDsts i s).2 = .k n) : BankKept i s b (kSet b n a) :=
  { BankKept.refl (b := b) with
    k := fun m h1 h2 => by
      have hm : m ≠ n := by
        rintro rfl
        exact hn.elim h1 h2
      exact vecGetD_set_other _ _ _ _ _ hm }

theorem qSet_kept {n : Nat} {l : List W64} (hn : n < 2) (h : popsQ i n = true ∨ pushesQ i n = true) :
    BankKept i s b (qSet b n l) := by
  have hq : ∀ m, m < 2 → popsQ i m = false → pushesQ i m = false → qGet (qSet b n l) m = qGet b m := by
    intro m hm h1 h2
    have hmn : m ≠ n := by
      rintro rfl
      simp [h1, h2] at h
    obtain ⟨rfl, rfl⟩ | ⟨rfl, rfl⟩ : m = 0 ∧ n = 1 ∨ m = 1 ∧ n = 0 := by omega
    · rfl
    · rfl
  obtain rfl | rfl : n = 0 ∨ n = 1 := by omega
  · exact { BankKept.refl (b := b) with q := hq }
  · exact { BankKept.refl (b := b) with q := hq }

theorem modeRaise_kept {r : Raise} : BankKept i s b { b with mode := modeRaise b.mode r } :=
  { BankKept.refl (b := b) with mode := ⟨r, rfl⟩ }

theorem setPred_p_other {n m : Nat} {v : Bool} (h : m ≠ n) : (setPred b n v).p.getLsbD m = b.p.getLsbD m := by
  have hb : ((1 : BitVec 4) <<< n).getLsbD m = false := by
    rw [BitVec.getLsbD_shiftLeft]
    by_cases hlt : m < n
    · simp [hlt]
    · have : m - n ≠ 0 := by omega
      simp [this]
  by_cases hm : m < 4
  · cases v
    · simp only [setPred, Bool.false_eq_true, if_false, BitVec.getLsbD_and, BitVec.getLsbD_not, hb, hm]
      simp
    · simp only [setPred, if_true, BitVec.getLsbD_or, hb, Bool.or_false]
  · rw [BitVec.getLsbD_of_ge _ _ (by omega), BitVec.getLsbD_of_ge _ _ (by omega)]

/-- The predicate of the trigger word is the one that a firing with an update sets (R86). -/
theorem setPred_kept {v : Bool} (h : trPop s.cur.trig ≠ 0) : BankKept i s b (setPred b (trPsel s.cur.trig) v) :=
  { BankKept.refl (b := b) with
    p := fun _ hn => setPred_p_other (hn.resolve_right h) }

/-- The bank's update at the end of a firing: its predicate (R86), and the loop counter under the maintenance loop (R155). -/
theorem afterBank_kept : BankKept i s b (afterBank s.cur i (curBank s) b) := by
  have hp : BankKept i s b (match trPop s.cur.trig with
      | 1 => setPred b (trPsel s.cur.trig) true
      | 2 => setPred b (trPsel s.cur.trig) false
      | _ => b) := by
    split
    · rename_i h
      exact setPred_kept (by rw [h]; decide)
    · rename_i h
      exact setPred_kept (by rw [h]; decide)
    · exact .refl
  unfold afterBank
  dsimp only
  split
  · rename_i h
    have hml : (curBank s).mlOn = true := (Bool.and_eq_true _ _ ▸ h).1
    exact { hp with lc := fun hf => by rw [hf] at hml; cases hml }
  · exact hp

/-! ### What a firing keeps of its tile -/

/-- The tile `u` is `t` but for what `BankKept` leaves open in the bank of the firing in `s`, and for its PE's own state (jobs, traps, the
presented packet). -/
structure TileKept (i : Instr) (s : State) (t u : Tile) : Prop where
  stores : SameTileStores t u
  other : ∀ n, n ≠ s.cur.bank → bankOf u n = bankOf t n
  own : BankKept i s (bankOf t s.cur.bank) (bankOf u s.cur.bank)

theorem sameTileStores_refl : SameTileStores t t := by simp [SameTileStores]

theorem sameTileStores_trans (h : SameTileStores t u) (g : SameTileStores u w) : SameTileStores t w := by
  unfold SameTileStores at *
  simp_all only [and_self]

theorem TileKept.trans (h : TileKept i s t u) (g : TileKept i s u w) : TileKept i s t w :=
  ⟨sameTileStores_trans h.stores g.stores, fun n hn => (g.other n hn).trans (h.other n hn), h.own.trans g.own⟩

/-- A tile whose banks are as before. -/
theorem TileKept.ofBanks (hs : SameTileStores t u) (hb : u.banks = t.banks) : TileKept i s t u := by
  have hn : ∀ n, bankOf u n = bankOf t n := fun n => by rw [bankOf, bankOf, hb]
  exact ⟨hs, fun n _ => hn n, hn _ ▸ .refl⟩

theorem TileKept.refl : TileKept i s t t := .ofBanks sameTileStores_refl rfl

theorem setBank_kept (h : BankKept i s (bankOf t s.cur.bank) b) : TileKept i s t (setBank t s.cur.bank b) := by
  refine ⟨sameTileStores_refl (t := t), fun n hn => bankOf_setBank_other _ _ _ _ hn, ?_⟩
  by_cases h4 : s.cur.bank < 4
  · rwa [bankOf_setBank_same _ _ _ h4]
  · rw [bankOf_outside _ _ h4, bankOf_outside _ _ h4]
    exact .refl

/-! ### What the parts of a firing keep -/

/-- The tile of the firing in `s` is kept from `x` to `y`. -/
def FiringKept (i : Instr) (s x y : State) : Prop := TileKept i s (tileOf x s.cur.tile) (tileOf y s.cur.tile)

theorem FiringKept.refl : FiringKept i s x x := TileKept.refl

theorem FiringKept.trans (h : FiringKept i s x y) (g : FiringKept i s y z) : FiringKept i s x z := TileKept.trans h g

/-- An operation on ports, channels, regions and partitions alone. -/
theorem SameTiles.kept (h : SameTiles x y) : FiringKept i s x y := by
  unfold FiringKept tileOf
  rw [h.2]
  exact .refl

theorem foldl_kept {α : Type} {g : State → α → State} {l : List α} (h : ∀ x, ∀ a ∈ l, FiringKept i s x (g x a)) :
    FiringKept i s x (l.foldl g x) := by
  induction l generalizing x with
  | nil => exact .refl
  | cons a l ih => exact (h x a List.mem_cons_self).trans (ih fun x b hb => h x b (List.mem_cons_of_mem _ hb))

theorem modTile_kept {g : Tile → Tile} (h : ∀ t, TileKept i s t (g t)) : FiringKept i s x (modTile x s.cur.tile g) := by
  unfold FiringKept
  rw [tileOf_modTile_same]
  exact h _

theorem modBank_kept {g : Bank → Bank} (h : ∀ b, BankKept i s b (g b)) : FiringKept i s x (modBank x s.cur.tile s.cur.bank g) :=
  modTile_kept fun _ => setBank_kept (h _)

theorem takePacket_kept : FiringKept i s x (takePacket x s.cur.tile) := by
  have hm : FiringKept i s x (modTile x s.cur.tile fun t => { t with present := none }) :=
    modTile_kept fun t => .ofBanks (sameTileStores_refl (t := t)) rfl
  unfold takePacket
  split
  · exact .refl
  · dsimp only
    split
    · refine .trans ?_ (sameTiles_infAdd _ _ _ _ _ _).kept
      split
      · exact hm.trans (sameTiles_clkAcquire _ _ _ _ _ _ _).kept
      · exact hm
    · split
      · exact hm.trans (sameTiles_clkAcquire _ _ _ _ _ _ _).kept
      · exact hm

/-- What a firing takes as it starts is a packet, heads and queue values, where it takes no element of the read stream. -/
theorem takeInputs_kept (h : readsLm i = false) : FiringKept i s s (takeInputs s i s.cur) := by
  unfold takeInputs
  dsimp only
  rw [if_neg (by simp [h])]
  refine .trans (.trans ?_ (foldl_kept fun x a _ => (sameTiles_deqHead x _).kept)) (foldl_kept fun x q hq => ?_)
  · split
    · exact takePacket_kept
    · exact .refl
  · split
    · exact modBank_kept fun _ => qSet_kept (List.mem_range.mp hq) (.inl ‹_›)
    · exact .refl

/-- A place that a firing writes to: one that it names, or none, and no place of the data plane. -/
def ControlDst (i : Instr) (s : State) : Dst → Prop
  | .none => True
  | .k n => (firingDsts i s).1 = .k n ∨ (firingDsts i s).2 = .k n
  | .q n => n < 2 ∧ pushesQ i n = true
  | .out _ _ => True
  | .v _ => False
  | .lm _ _ _ => False

theorem putDst_kept {j : Nat} {d : Dst} {r : Kind × W512} (h : ControlDst i s d) :
    FiringKept i s x (putDst x s.cur.tile s.cur.bank j d r) := by
  cases d with
  | none => exact .refl
  | k n => exact modBank_kept fun _ => kSet_kept h
  | q n => exact modBank_kept fun _ => qSet_kept h.1 (.inr h.2)
  | out n g => exact (sameTiles_fillOut _ _ _ _).kept
  | v n => exact h.elim
  | lm n g a => exact h.elim

theorem reserveDst_control {n : Nat} {d : Dst} (h : ControlDst i s d) : reserveDst x n d = (d, x) := by
  cases d with
  | none | k | q | out | v => rfl
  | lm n g a => exact h.elim

theorem endJob_kept {n : Nat} : FiringKept i s x (modTile x s.cur.tile fun t => { t with jobs := t.jobs.filter fun y => y.id != n }) :=
  modTile_kept fun t => .ofBanks (sameTileStores_refl (t := t)) rfl

theorem dropDst_kept {n j : Nat} {d : Dst} : FiringKept i s x (dropDst x n j d) := by
  unfold dropDst
  split
  · exact (sameTiles_dropOut _ _ _).kept
  · exact .refl

theorem dropJob_kept {j : Job} : FiringKept i s x (dropJob x s.cur.tile j) :=
  (endJob_kept.trans dropDst_kept).trans dropDst_kept

/-- A job of the firing's bank, whose destinations and predicate are those of the firing. -/
structure ControlJob (i : Instr) (s : State) (j : Job) : Prop where
  bank : j.bank = s.cur.bank
  da : ControlDst i s j.da
  db : ControlDst i s j.db
  pred : ∀ n v, j.pred = some (n, v) → n = trPsel s.cur.trig ∧ trPop s.cur.trig ≠ 0

theorem finishJob_kept {j : Job} (h : ControlJob i s j) : FiringKept i s x (finishJob x s.cur.tile j) := by
  unfold finishJob
  dsimp only
  rw [h.bank]
  refine ((endJob_kept.trans (putDst_kept h.da)).trans (putDst_kept h.db)).trans (modBank_kept fun b => ?_)
  split
  · rename_i n v hp
    obtain ⟨rfl, h0⟩ := h.pred n v hp
    exact modeRaise_kept.trans (setPred_kept h0)
  · exact modeRaise_kept

theorem settleJob_kept {e : Eff} {j : Job} (h : ControlJob i s j) : FiringKept i s x (settleJob x s.cur e j) := by
  unfold settleJob
  split
  · exact dropJob_kept
  · split
    · exact finishJob_kept h
    · exact .refl

theorem enterJob_kept {j : Job} : FiringKept i s x (enterJob s x i s.cur j) :=
  modTile_kept fun t => (setBank_kept afterBank_kept).trans
    (.ofBanks (sameTileStores_refl (t := setBank t s.cur.bank (afterBank s.cur i (curBank s) (bankOf t s.cur.bank)))) rfl)

theorem takeTrap_kept {r : Trap} : FiringKept i s x (takeTrap x s.cur.tile r) := by
  have hm : FiringKept i s x (modTile x s.cur.tile fun t => { t with stopped := true, traps := t.traps ++ [r] }) :=
    modTile_kept fun t => .ofBanks (sameTileStores_refl (t := t)) rfl
  unfold takeTrap
  dsimp only
  split
  · exact hm.trans (sameTiles_stopRegion _ _).kept
  · exact hm

theorem trapPE_kept {n : Nat} {a : W64} : FiringKept i s x (trapPE x s.cur n a) := takeTrap_kept

/-! ### The destinations of a control-plane computation -/

/-- A destination select of the control plane names an output port, a k register, a queue register or nothing (R89). -/
theorem dstOf_control {n : Nat} {g : BitVec 4} : (∃ m, dstOf b false n g = .out m g) ∨ (∃ m, dstOf b false n g = .k m) ∨
    (∃ m, m < 2 ∧ n = 14 + m ∧ dstOf b false n g = .q m) ∨ dstOf b false n g = .none := by
  unfold dstOf
  split
  · exact .inl ⟨_, rfl⟩
  · split
    · exact .inr (.inr (.inr rfl))
    · split
      · exact .inr (.inl ⟨_, rfl⟩)
      · split
        · rename_i h
          exact .inr (.inr (.inl ⟨0, by decide, h, rfl⟩))
        · split
          · rename_i h
            exact .inr (.inr (.inl ⟨1, by decide, h, rfl⟩))
          · exact .inr (.inr (.inr rfl))

/-- What DA or DB names on the control plane is a place that the firing writes to. -/
theorem controlDst_of_dstOf {n : Nat} {g : BitVec 4} {d : Dst} (hd : d = dstOf b false n g)
    (hk : ∀ m, d = .k m → (firingDsts i s).1 = d ∨ (firingDsts i s).2 = d) (hq : ∀ m, n = 14 + m → pushesQ i m = true) :
    ControlDst i s d := by
  rcases dstOf_control (b := b) (n := n) (g := g) with ⟨m, h⟩ | ⟨m, h⟩ | ⟨m, hm, hn, h⟩ | h
  · rw [hd, h]
    trivial
  · have := hk m (hd.trans h)
    rw [hd, h] at *
    exact this
  · rw [hd, h]
    exact ⟨hm, hq m hn⟩
  · rw [hd, h]
    trivial

theorem firingDsts_control (hpd : (info i).pd = false) : ControlDst i s (firingDsts i s).1 ∧ ControlDst i s (firingDsts i s).2 := by
  by_cases hn : (info i).dst = .none
  · have h : firingDsts i s = (.none, .none) := by simp [firingDsts, dsts, hn]
    rw [h]
    exact ⟨trivial, trivial⟩
  · have h : firingDsts i s = (dstOf (curBank s) false (opnds i).d.toNat (operands i s).tag,
        if (opnds i).e = (opnds i).d then .none else dstOf (curBank s) false (opnds i).e.toNat (operands i s).tag) := by
      simp [firingDsts, dsts, hn, hpd]
    constructor
    · exact controlDst_of_dstOf (congrArg Prod.fst h) (fun _ _ => .inl rfl) fun m hm => by simp [pushesQ, hn, hpd, hm]
    · by_cases he : (opnds i).e = (opnds i).d
      · rw [h, if_pos he]
        trivial
      · exact controlDst_of_dstOf ((congrArg Prod.snd h).trans (if_neg he)) (fun _ _ => .inr rfl) fun m hm => by
          simp [pushesQ, hn, hpd, hm]

theorem completeDsts_control {e : Eff} (hpd : (info i).pd = false) : ControlDst i s (completeDsts s i s.cur (operands i s) e).1 ∧
    ControlDst i s (completeDsts s i s.cur (operands i s) e).2 := by
  unfold completeDsts
  split
  · exact ⟨trivial, trivial⟩
  · exact firingDsts_control hpd

theorem completeJob_control {e : Eff} {da db : Dst} (ha : ControlDst i s da) (hb : ControlDst i s db) :
    ControlJob i s (completeJob s i s.cur e da db) := by
  have keep : ∀ d, ControlDst i s d → ControlDst i s (if !e.regs && dstReg d then Dst.none else d) := fun d hd => by
    split
    · trivial
    · exact hd
  refine ⟨rfl, keep da ha, keep db hb, fun n v hp => ?_⟩
  by_cases h3 : trPop s.cur.trig = 3
  · simp only [completeJob, h3, if_true, Option.some.injEq, Prod.mk.injEq] at hp
    exact ⟨hp.1.symm, by rw [h3]; decide⟩
  · simp [completeJob, h3] at hp

/-- The end of a firing on the control plane. -/
theorem complete_kept {e : Eff} (hpd : (info i).pd = false) : FiringKept i s e.st (complete s i s.cur (operands i s) e) := by
  obtain ⟨ha, hb⟩ := completeDsts_control (s := s) (e := e) hpd
  have hj := fun j (h : ControlJob i s j) =>
    (((sameTiles_completePorts s i s.cur e).kept.trans (enterJob_kept (j := j))).trans (sameTiles_countBrk _ s.cur).kept).trans
      (settleJob_kept (e := e) h)
  unfold complete
  dsimp only
  rw [reserveDst_control ha]
  dsimp only
  rw [reserveDst_control hb]
  dsimp only
  split
  · exact (hj _ (completeJob_control ha hb)).trans trapPE_kept
  · exact hj _ (completeJob_control ha hb)

/-- A firing on the control plane whose effect is on nothing but its results keeps its tile, whatever its outcome. -/
theorem pe_kept {eff : State → Firing → Opnd → Nat → Effect} (hpd : (info i).pd = false) (hlm : readsLm i = false)
    (he : ∀ e, eff (started i s) s.cur (operands i s) (jobNo s) = .go e → e.st = started i s) (h : pe s i eff = .next x) :
    FiringKept i s s x := by
  rcases pe_cases s i eff with h0 | ⟨c, d, h0⟩ | ⟨l, c, d, h0⟩ | ⟨e, -, h1, h0⟩ <;> (rw [h0] at h; cases h)
  · exact .refl
  · exact trapPE_kept
  · exact (sameTiles_errNote s l).kept.trans trapPE_kept
  · have hk : FiringKept i s s e.st := he e h1 ▸ takeInputs_kept hlm
    exact hk.trans (complete_kept hpd)

/-! ### The family -/

/-- An instruction of the family computes on the control plane, and its effect is on nothing but its results. -/
theorem onlyControl_fires (h : onlyControl i = true) (s : State) : ((info i).pa = false ∧ (info i).pb = false ∧ (info i).pd = false) ∧
    ∃ eff, exec i s = pe s i eff ∧ ∀ x f o j e, eff x f o j = .go e → e.st = x := by
  cases i with
  | add | sub | mulLo | mulHi | div | rem | min | max | cmpEq | cmpNe | cmpLt | cmpLe | abs | neg | sel | and | or | xor
  | andn | not | shl | shr | sar | rol | ror | extr | extrS | ins | popc | clz | ctz | bswap | pget | pand | por | pxor | pnot
  | deq | peek | fwd | emitNull | emitMark | emitErr | qCnt | modeRd | swIdx | mlRd | rgnStat | nop =>
    refine ⟨⟨rfl, rfl, rfl⟩, _, rfl, fun x f o j e he => ?_⟩
    cases he
    rfl
  | _ => cases h

/-- Settles O19: the machine beyond the tile by `pe_beyond`, the tile and its bank by `pe_kept`; the memories then read as before. -/
theorem controlFrame : Obligations.ControlFrame := by
  unfold Obligations.ControlFrame
  intro i s t hi ht
  obtain ⟨⟨hpa, hpb, hpd⟩, eff, hx, he⟩ := onlyControl_fires hi s
  rw [hx] at ht
  have hb : SameBeyond s.cur.tile s t := pe_beyond s t i eff (fun e h => he _ _ _ _ e h ▸ sameBeyond_refl _ _) ht
  obtain ⟨stores, other, own⟩ := pe_kept hpd (by simp [readsLm, hpa, hpb]) (fun e => he _ _ _ _ e) ht
  have hmem : t.mem = s.mem := congrArg Rest.mem hb.1
  have hmt : t.mtiles = s.mtiles := congrArg Rest.mtiles hb.1
  have hlm : ∀ n, (tileOf t n).lm = (tileOf s n).lm := fun n => by
    by_cases hn : n = s.cur.tile
    · exact hn ▸ stores.1
    · rw [hb.2 n hn]
  refine ⟨hb, ⟨fun a => by rw [hmem], fun n a => by rw [hlm n], fun n a => by rw [mtileOf, mtileOf, hmt]⟩, stores, other,
    own.k, own.v, own.q, own.qd0, own.qd1, own.rs, own.mlOn, own.lc, own.mode, own.p⟩

end Sys2Proof
end

section
/-! Tokens between ports, watchdogs, switch elements, the record of a trap and the stop of its region (O54). -/
namespace Sys2Proof

open Machine

variable {s : State} {n i : Nat} {c : Chan} {x : Cons}

/-! ### A consumer of a channel changed -/

theorem modCons_cons_getElem? {f : Cons → Cons} (hx : c.cons[i]? = some x) : (modCons c i f).cons[i]? = some (f x) := by
  simp [modCons, hx]

/-! ### Arrivals (R45, R47, R48) -/

theorem exec_tokenArrival {t : Token} (hc : chanOf s n = some c) (hx : c.cons[i]? = some x) (ht : tokDue s c x = some t) :
    let s1 := enqueueTok (freshenAt (setChan s n (modCons c i fun x => { x with toks := x.toks.drop 1 })) c x) x.ep c.blk t
    let q := inPortOf s1 x.ep
    exec (.tokenArrival n i) s = .next (setInPort s1 x.ep { q with o := if t.kind = .drain then q.o else q.o - 1 }) := by
  intro s1 q
  show execTokenArrival n i s = _
  simp only [execTokenArrival, consAt, hc, hx, ht]
  rfl

theorem exec_portRequest (hc : chanOf s n = some c) (hx : c.cons[i]? = some x) (ha : portAsks s c x = true) :
    exec (.portRequest n i) s = .next (setChan (setInPort s x.ep { inPortOf s x.ep with o := (inPortOf s x.ep).o + 1 }) n
      (modCons c i fun x => { x with reqs := x.reqs ++ [s.cyc + chanRoute s c x.ep c.prod] })) := by
  show execPortRequest n i s = _
  simp only [execPortRequest, consAt, hc, hx, ha, if_true]

theorem chanRoute_plain {src ep : Nat} (h : c.merge = none) : chanRoute s c src ep = route s src ep := by
  simp [chanRoute, h]

theorem exec_requestArrival (hc : chanOf s n = some c) (hx : c.cons[i]? = some x) (hd : reqDue s x = true) :
    exec (.requestArrival n i) s =
      .next (setChan s n (modCons c i fun x => { x with reqs := x.reqs.drop 1, pend := min 4 (x.pend + 1) })) := by
  show execRequestArrival n i s = _
  simp only [execRequestArrival, consAt, hc, hx, hd, if_true]

/-! ### Watchdogs and detachment (R49 to R51) -/

theorem exec_multicastDetach_plain (hc : chanOf s n = some c) (hx : c.cons[i]? = some x) (hd : detachDue c i = true)
    (hh : chanHere s c = true) (hp : x.copy = none) : exec (.multicastDetach n i) s = .next (setChan (setInPort s x.ep
      { inPortOf s x.ep with errs := (inPortOf s x.ep).errs ++ [detachTok x.ep] }) n (modCons c i consOff)) := by
  show execMulticastDetach n i s = _
  simp only [execMulticastDetach, consAt, hc, hx, hd, hh, hp, Bool.and_self, if_true]

/-- A cloned operator is one consumer as written (R35): it is detached with all its copies. -/
theorem exec_multicastDetach_clone {op : Nat} (hc : chanOf s n = some c) (hx : c.cons[i]? = some x) (hd : detachDue c i = true)
    (hh : chanHere s c = true) (hp : x.copy = some op) : ∃ y, exec (.multicastDetach n i) s = .next (setChan y n
      { c with cons := c.cons.map fun n => if n.copy == some op then consOff n else n,
               steer := c.steer.map fun u => if u.1 = op then (u.1, u.2 ++ [detachTok x.ep]) else u }) := by
  show ∃ y, execMulticastDetach n i s = _
  simp only [execMulticastDetach, consAt, hc, hx, hd, hh, hp, Bool.and_self, if_true]
  exact ⟨_, rfl⟩

theorem exec_detached {t : Token} {l : List Token} (hc : chanOf s n = some c) (hx : c.cons[i]? = some x)
    (hl : (inPortOf s x.ep).errs = t :: l) (hd : detachedDue s c x = true) :
    let p := inPortOf s x.ep
    exec (.detached n i) s =
      .next (setInPort s x.ep { p with errs := l, queue := p.queue ++ [(s.cyc, (arriving s x.ep c.blk p.run t).1)] }) := by
  intro p
  show execDetached n i s = _
  simp only [execDetached, consAt, hc, hx, Option.bind_some, Option.map_some, hl, hd, if_true]
  rfl

theorem exec_laggard (hc : chanOf s n = some c) (hx : c.cons[i]? = some x) (hd : lagDue c i = true) :
    exec (.laggard n i) s = .next (lagRecord (setChan s n (modCons c i fun x => { x with lag := true })) c x 0) := by
  show execLaggard n i s = _
  simp only [execLaggard, consAt, hc, hx, hd, if_true]

theorem exec_laggardEnd (hc : chanOf s n = some c) (hx : c.cons[i]? = some x) (hd : lagEnds c i = true) :
    exec (.laggardEnd n i) s = .next (lagRecord (setChan s n (modCons c i fun x => { x with lag := false, stall := 0 })) c x 1) := by
  show execLaggardEnd n i s = _
  simp only [execLaggardEnd, consAt, hc, hx, hd, if_true]

/-! ### Switch elements (R52), trap records and region stops (R162, R163) -/

theorem exec_switchGather {t : State} (h : gatherNext s n = some t) : exec (.switchGather n) s = .next t := by
  show execSwitchGather n s = _
  rw [execSwitchGather, h, Option.getD_some]

theorem exec_switchScatter {t : State} (h : scatterNext s n = some t) : exec (.switchScatter n) s = .next t := by
  show execSwitchScatter n s = _
  rw [execSwitchScatter, h, Option.getD_some]

theorem exec_trapRecord {r : Trap} (h : trapDue s n = some r) : exec (.trapRecord n) s = .next (faultRecord
    (modTile s n fun t => { t with traps := markTrap t.traps }) (tilePart s n) (.bank n r.bank)
    (trapRec s n (((tileRgn s n).map fun x => x.2.id).getD 0) r)) := by
  show execTrapRecord n s = _
  simp only [execTrapRecord, h]

/-- Every tile of a list stopped. -/
def stopTiles (l : List Nat) (s : State) : State := l.foldl (fun x n => modTile x n fun t => { t with stopped := true }) s

theorem exec_regionStop {r : Region} (hr : rgnOf s n = some r) (hd : stopDue s n r = true) : exec (.regionStop n) s =
    .next (modRgn (stopTiles (rgnTiles s n) s) n fun r => { r with st := if r.st = .live then .frozen else r.st }) := by
  show execRegionStop n s = _
  simp only [execRegionStop, hr, hd, if_true]
  rfl

theorem rgnOf_stopTiles {l : List Nat} {k : Nat} : rgnOf (stopTiles l s) k = rgnOf s k := by
  induction l generalizing s with
  | nil => rfl
  | cons a l ih => exact ih

theorem tileOf_stopTiles_other {l : List Nat} {m : Nat} (h : m ∉ l) : tileOf (stopTiles l s) m = tileOf s m := by
  induction l generalizing s with
  | nil => rfl
  | cons a l ih =>
    obtain ⟨ha, hl⟩ := not_or.mp (mt List.mem_cons.mpr h)
    exact (ih hl).trans (tileOf_modTile_other _ _ _ _ ha)

theorem stopTiles_keeps_stopped {l : List Nat} {m : Nat} (h : (tileOf s m).stopped = true) : (tileOf (stopTiles l s) m).stopped = true := by
  induction l generalizing s with
  | nil => exact h
  | cons a l ih =>
    refine ih ?_
    by_cases ha : m = a
    · rw [ha, tileOf_modTile_same]
    · rwa [tileOf_modTile_other _ _ _ _ ha]

theorem stopTiles_stopped {l : List Nat} {m : Nat} (h : m ∈ l) : (tileOf (stopTiles l s) m).stopped = true := by
  induction l generalizing s with
  | nil => exact absurd h List.not_mem_nil
  | cons a l ih =>
    rcases List.mem_cons.mp h with rfl | hl
    · exact stopTiles_keeps_stopped (l := l) (by rw [tileOf_modTile_same])
    · exact ih hl

/-- Settles O54, clause by clause. -/
theorem tokenSteps : Obligations.TokenSteps := by
  unfold Obligations.TokenSteps
  refine ⟨fun s n i c x hc hx => ⟨fun _ => exec_tokenArrival hc hx, exec_portRequest hc hx, chanRoute_plain, exec_requestArrival hc hx,
    fun hd hh hp => ?_, fun op hd hh hp => ?_, fun _ _ => exec_detached hc hx, exec_laggard hc hx, exec_laggardEnd hc hx⟩,
    fun s n => ⟨fun _ => exec_switchGather, fun _ => exec_switchScatter, fun _ => exec_trapRecord, fun r hr hd => ?_⟩⟩
  · refine ⟨_, consOff x, exec_multicastDetach_plain hc hx hd hh hp, ?_, rfl, rfl, rfl, rfl, rfl, ?_, ?_⟩
    · rw [chanOf_setChan_same, Option.bind_some, modCons_cons_getElem? hx]
    · rw [inPortOf_setChan, inPortOf_setInPort_same]
      rfl
    · rw [inPortOf_setChan, inPortOf_setInPort_same]
  · obtain ⟨y, hy⟩ := exec_multicastDetach_clone hc hx hd hh hp
    refine ⟨_, _, hy, chanOf_setChan_same .., ?_, rfl⟩
    simp only [beq_iff_eq]
    rfl
  · refine ⟨_, exec_regionStop hr hd, ?_, fun m hm => ?_, fun m hm => ?_⟩
    · simp only [modRgn, rgnOf_stopTiles, hr, rgnOf_setRgn_same]
      exact ⟨_, rfl, rfl⟩
    · rw [tileOf_modRgn, stopTiles_stopped hm]
    · rw [tileOf_modRgn, tileOf_stopTiles_other hm]

end Sys2Proof
end

section
/-! Draining and saving a region, the shadow exchange, the steps of a live rewire, plans, delay lines and merge units (O58). -/
namespace Sys2Proof

open Machine

variable {s : State} {n : Nat} {r : Region} {d : Drain} {c : Chan} {w : Rewire} {p : Plan}

/-! ### Drains, the exchange, saves (R376, R381) -/

/-- The state once a draining region counts an element as drained. -/
def markGone (s : State) (k : Nat) (d : Drain) (e : Nat) : State :=
  modRgn s k fun r => { r with drain := some { d with gone := d.gone ++ [e] } }

theorem exec_elementDrained {k : Nat} (h : drainNow s n = some (k, r, d)) (hs : isSource (n % 2 ^ 20) = false) :
    exec (.elementDrained n) s = .next (elemStop (drainOuts (markGone s k d (n % 2 ^ 20)) (n % 2 ^ 20)) (n % 2 ^ 20)) := by
  show execElementDrained n s = _
  simp only [execElementDrained, h, hs, Bool.false_eq_true, if_false]
  rfl

theorem exec_elementDrained_source {k id : Nat} (h : drainNow s n = some (k, r, d)) (hs : isSource (n % 2 ^ 20) = true)
    (hc : (if n % 2 ^ 20 = argProd then r.arg else r.idx) = some id) :
    exec (.elementDrained n) s = .next (enterChan (markGone s k d (n % 2 ^ 20)) id (n % 2 ^ 20) 0 drainTok) := by
  show execElementDrained n s = _
  simp only [execElementDrained, h, hs, if_true, hc]
  rfl

theorem exec_elementDrained_unused {k : Nat} (h : drainNow s n = some (k, r, d)) (hs : isSource (n % 2 ^ 20) = true)
    (hc : (if n % 2 ^ 20 = argProd then r.arg else r.idx) = none) :
    exec (.elementDrained n) s = .next (markGone s k d (n % 2 ^ 20)) := by
  show execElementDrained n s = _
  simp only [execElementDrained, h, hs, if_true, hc]
  rfl

theorem exec_shadowExchange {tag : Nat} (h : exchangeDue s n = some tag) :
    let s1 := flipHalves (exchange s n) n
    let s2 := { s1 with rgns := s1.rgns.map fun x => if x.2.part = n then (x.1, exchangeSt x.2) else x }
    let s3 := (partRgns s2 n).foldl (fun x e => if e.2.st = .live then
      (rgnTiles x e.1).foldl (fun y m => modTile y m fun t => { t with stopped := !t.traps.isEmpty }) x else x) s2
    exec (.shadowExchange n) s = .next (tagEnd (modPart s3 n fun p => { p with swap := none }) n tag 0 0) := by
  show execShadowExchange n s = _
  simp only [execShadowExchange, h]

theorem exec_saveDone (h : saveDue s n = some (r, d)) : exec (.saveDone n) s =
    .next (saveAnswer (saveMake (undrain s n true) n d.area false true d.keep).1 r.part d.tag
      (saveMake (undrain s n true) n d.area false true d.keep).2) := by
  show execSaveDone n s = _
  simp only [execSaveDone, h]

theorem exec_rewireFail {a b : Nat} (h : (rgnOf s n).bind (failNow s n) = some (a, b)) :
    exec (.rewireFail n) s = .next (rewireFails { s with free := s.free + 1 } n a b) := by
  show execRewireFail n s = _
  simp only [execRewireFail, h]

/-- A proposal lapses once a window has ended since the one that made it (R377). -/
theorem exec_proposalLapse : ∃ t, exec (.proposalLapse n) s = .next t ∧ ∀ r, rgnOf s n = some r →
    rgnOf t n = some { r with proposals := r.proposals.filter fun p => decide (r.win ≤ p.window) } := by
  refine ⟨_, rfl, fun r hr => ?_⟩
  rw [rgnOf_modRgn_same, hr]
  rfl

theorem exec_stop {st : Nat} (hr : rgnOf s n = some r) (h : stopEnds s n r = some (d, st)) (h0 : st ≠ 0) :
    exec (.stop n) s = .next (reportStop (undrain s n false) n r d st) := by
  show execStop n s = _
  simp only [execStop, hr, h, if_neg h0]

theorem exec_stop_lull (hr : rgnOf s n = some r) (h : stopEnds s n r = some (d, 0)) :
    exec (.stop n) s = .next (reportStop (stopNow (undrain s n true) n) n r d 0) := by
  show execStop n s = _
  simp only [execStop, hr, h, if_true]

theorem exec_stepTimeout (hr : rgnOf s n = some r) (h : drainLate s r false = some d) :
    exec (.stepTimeout n) s = .next (reportStop (stopNow (undrain s n false) n) n r d 0x132) := by
  show execStepTimeout n s = _
  simp only [execStepTimeout, hr, h]

theorem exec_drainTimeout (hr : rgnOf s n = some r) (h : drainLate s r true = some d) :
    exec (.drainTimeout n) s = .next (reqBegin (saveStop (undrain s n false) n r)
      (recOf [(0, 2, 6), (2, 1, r.part), (4, 4, d.tag), (8, 4, r.id), (16, 8, d.area), (24, 1, d.keep.toNat)]) [1]) := by
  show execDrainTimeout n s = _
  simp only [execDrainTimeout, hr, h]

theorem exec_slotBreakpoint {i e : Nat} (hr : rgnOf s n = some r) (h : brkHit r i = some e) : exec (.slotBreakpoint n i) s =
    .next (startHalt (modRgn s n fun r => { r with brks := mapDel r.brks i }) n 2 (BitVec.ofNat 64 i) e) := by
  show execSlotBreakpoint n i s = _
  simp only [execSlotBreakpoint, hr, Option.bind_some, h]

/-! ### Plans (R383) -/

theorem exec_planArm : exec (.planArm n) s = .next (holdGate (armPlans 9 s n) n) := rfl

/-- A plan whose cut has passed fails as LATE, and the plans after it are armed. -/
theorem armPlans_late {m : Nat} (hr : rgnOf s n = some r) (hp : planToArm r = some p) (hc : p.cut.getD 0 < opPassed s r p.op) :
    armPlans (m + 1) s n = armPlans m (mgmtRecord (setRgn s n { r with plans := r.plans.drop 1 }) (.ctl (rgnDie r))
      (rewireRec s r 0x71 p.op 4 0 (p.cut.getD 0))) n := by
  simp only [armPlans, hr, hp, if_pos hc]

theorem armPlans_armed {m : Nat} (hr : rgnOf s n = some r) (hp : planToArm r = some p) (hc : opPassed s r p.op ≤ p.cut.getD 0) :
    armPlans (m + 1) s n = setRgn s n { r with plans := { p with armed := true } :: r.plans.drop 1 } := by
  simp only [armPlans, hr, hp, if_neg (Nat.not_lt.mpr hc)]

theorem holdGate_atCut {id : Nat} (hr : rgnOf s n = some r) (h : planAtCut s r = some (id, c)) : holdGate s n =
    setChan (setRgn s n { r with plans := (r.plans.take 1).map (fun p => { p with held := true }) ++ r.plans.drop 1 }) id
      (closeGate s c) := by
  simp only [holdGate, hr, h]

/-! ### The live rewire (R371) -/

theorem exec_gating {id : Nat} (hr : rgnOf s n = some r) (h : gateNow s n r = some p) (ho : opChan s r p.op = some id)
    (hc : chanOf s id = some c) : exec (.gating n) s = .next (setChan
      (setRgn s n { r with rewire := some { rewireNew s r p with step := 2, chan := id, cut := c.passed } }) id (closeGate s c)) := by
  show execGating n s = _
  simp only [execGating, gating, hr, h, ho, Option.bind_some, hc, Option.map_some]

/-- An empty merge unit is left as it is. -/
theorem mergeEmptied_empty {k : Clone} (h : mergeEmpty s k = true) : mergeEmptied s n k = (s, k) := by
  rw [mergeEmptied, if_pos h]

theorem exec_ungate_firstClone (hr : rgnOf s n = some r) (h : rewireReady s n r (· != 2) = some w) (ha : w.plan.action = 1)
    (ho : opClone r w.plan.op = none) :
    exec (.ungate n) s = .next (openGate (placeClone s n r w.plan.op w.plan.target) n w.chan) := by
  show execUngate n s = _
  simp only [execUngate, hr, h, ha, ho, Option.getD_some]

theorem exec_ungate_clone {k : Clone} (hr : rgnOf s n = some r) (h : rewireReady s n r (· != 2) = some w) (ha : w.plan.action = 1)
    (ho : opClone r w.plan.op = some k) (hk : mergeEmpty s k = true) :
    exec (.ungate n) s = .next (openGate (placeClone s n r w.plan.op w.plan.target) n w.chan) := by
  show execUngate n s = _
  simp only [execUngate, hr, h, ha, ho, mergeEmptied_empty hk, Option.getD_some]

theorem exec_ungate_fold {k : Nat} {v : FoldEnt} (hr : rgnOf s n = some r) (h : rewireReady s n r (· != 2) = some w)
    (ha : w.plan.action = 3) (hk : foldIdx r w.plan = some k) (hv : r.img.folds[k]? = some v) :
    exec (.ungate n) s = .next (openGate (applyFold s n k v) n w.chan) := by
  show execUngate n s = _
  simp only [execUngate, hr, h, ha, hk, Option.bind_some, hv, Option.map_some]

theorem exec_ungate_unfold {f : FoldOn} {v : FoldEnt} (hr : rgnOf s n = some r) (h : rewireReady s n r (· != 2) = some w)
    (h1 : w.plan.action ≠ 1) (h3 : w.plan.action ≠ 3) (hf : foldOf r w.plan.op = some (f, v)) :
    exec (.ungate n) s = .next (openGate (undoFold s n f v) n w.chan) := by
  show execUngate n s = _
  simp only [execUngate, hr, h, hf]

theorem exec_retirement {k : Clone} (hr : rgnOf s n = some r) (h : rewireReady s n r (· == 2) = some w)
    (ho : opClone r w.plan.op = some k) (hk : mergeEmpty s k = true) :
    exec (.retirement n) s = .next (openGate (retireClones s n k) n w.chan) := by
  show execRetirement n s = _
  simp only [execRetirement, hr, h, ho, mergeEmptied_empty hk]

/-! ### Barometer windows (R357, R359, R377) -/

/-- A region that a window's end can choose a rewire for: live, without a rewire, a plan, a stop or a drain. -/
def WindowFree (r : Region) : Prop := r.st = .live ∧ r.rewire = none ∧ r.plans = [] ∧ r.stopAt = none ∧ r.drain = none

/-- The state once the counters of a window are written. -/
def windowWritten (s : State) (n : Nat) (r : Region) : State := writeBaros (setRgn s n { r with winDue := false }) n

theorem windowFree_iff : (r.st = .live && r.rewire.isNone && r.plans.isEmpty && r.stopAt.isNone && r.drain.isNone) = true ↔
    WindowFree r := by
  simp [WindowFree, and_assoc]

theorem exec_barometerWindow_none (hr : rgnOf s n = some r) (hw : windowDue s r = true) (hf : WindowFree r)
    (hp : chooseRewire (windowWritten s n r) n { r with winDue := false } = none) :
    exec (.barometerWindow n) s = .next (windowWritten s n r) := by
  show execBarometerWindow n s = _
  unfold windowWritten at *
  simp only [execBarometerWindow, hr, hw, if_true, if_pos (windowFree_iff.mpr hf), hp]

theorem exec_barometerWindow_held (hr : rgnOf s n = some r) (hw : windowDue s r = true) (hf : ¬WindowFree r) :
    exec (.barometerWindow n) s = .next (windowWritten s n r) := by
  show execBarometerWindow n s = _
  simp only [execBarometerWindow, hr, hw, if_true, if_neg (mt windowFree_iff.mp hf)]
  rfl

theorem exec_barometerWindow_rewire (hr : rgnOf s n = some r) (hw : windowDue s r = true) (hf : WindowFree r)
    (hp : chooseRewire (windowWritten s n r) n { r with winDue := false } = some p) (h28 : r.policy.getLsbD 28 = false) :
    exec (.barometerWindow n) s =
      .next (setRgn (windowWritten s n r) n { r with winDue := false, rewire := some (rewireNew s r p) }) := by
  show execBarometerWindow n s = _
  unfold windowWritten at *
  simp only [execBarometerWindow, hr, hw, if_true, if_pos (windowFree_iff.mpr hf), hp, h28, Bool.false_eq_true, if_false]

theorem exec_barometerWindow_propose (hr : rgnOf s n = some r) (hw : windowDue s r = true) (hf : WindowFree r)
    (hp : chooseRewire (windowWritten s n r) n { r with winDue := false } = some p) (h28 : r.policy.getLsbD 28 = true) :
    exec (.barometerWindow n) s = .next (mgmtRecord (setRgn (windowWritten s n r) n { r with
        winDue := false, nprop := (r.nprop + 1) % 65536,
        proposals := r.proposals ++ [{ p with num := (r.nprop + 1) % 65536, window := r.win }] }) (.ctl (rgnDie r))
      (rewireRec s r 0x70 p.op p.action ((r.nprop + 1) % 65536) (if p.action = 3 then foldNumber r p.op p.target else p.target))) := by
  show execBarometerWindow n s = _
  unfold windowWritten at *
  simp only [execBarometerWindow, hr, hw, if_true, if_pos (windowFree_iff.mpr hf), hp, h28]

/-! ### Delay lines, steering and merge units (R46, R364 to R367, R385) -/

theorem exec_delayLineDepart {t : Token} (hc : chanOf s n = some c) (ht : lineTok c = some t) (hd : delayDue s n c = true) :
    exec (.delayLineDepart n) s =
      .next (setChan s n (sendAll s (fanConsume { c with line := c.line.drop 1, lpend := c.lpend + 1 }) c.prod t)) := by
  show execDelayLineDepart n s = _
  simp only [execDelayLineDepart, hc, ht, hd, if_true]

theorem exec_steerToken {k : Clone} {t : Token} (hc : chanOf s n = some c) (h : steerNext s c = some (k, t)) :
    exec (.steerToken n) s = .next (steerSend s n c k t) := by
  show execSteerToken n s = _
  simp only [execSteerToken, hc, h]

theorem exec_mergeOutput_none {k : Clone} {f : Raise} (hc : chanOf s n = some c) (h : mergeNext s c = some (k, none, f)) :
    exec (.mergeOutput n) s = .next (mergeRaise (modRgn s c.rgn fun r => putClone r k) k f) := by
  show execMergeOutput n s = _
  simp only [execMergeOutput, hc, h]

theorem exec_mergeOutput_some {k : Clone} {t : Token} {f : Raise} (hc : chanOf s n = some c)
    (h : mergeNext s c = some (k, some t, f)) : exec (.mergeOutput n) s =
      .next (setChan (mergeRaise (modRgn s c.rgn fun r => putClone r k) k f) n (mergeSend s c t)) := by
  show execMergeOutput n s = _
  simp only [execMergeOutput, hc, h]

/-- Settles O58, clause by clause. -/
theorem drainAndRewireSteps : Obligations.DrainAndRewireSteps := by
  unfold Obligations.DrainAndRewireSteps
  refine ⟨fun s n => ⟨fun k r d h => ⟨exec_elementDrained h, fun _ => exec_elementDrained_source h, exec_elementDrained_unused h⟩,
      fun _ => exec_shadowExchange, fun _ _ => exec_saveDone, fun _ _ => exec_rewireFail, exec_proposalLapse⟩,
    fun s n r hr => ⟨fun _ => exec_stop_lull hr, fun _ _ => exec_stop hr, fun _ => exec_stepTimeout hr, fun _ => exec_drainTimeout hr,
      fun _ _ => exec_slotBreakpoint hr, fun p hp hc => ?_, fun p hp hc => ?_, fun _ _ => holdGate_atCut hr,
      fun _ _ _ => exec_gating hr, fun _ => exec_ungate_firstClone hr, fun _ _ => exec_ungate_clone hr,
      fun _ _ _ => exec_ungate_fold hr, fun _ _ _ => exec_ungate_unfold hr, fun _ _ => exec_retirement hr,
      fun hw => ⟨exec_barometerWindow_none hr hw, exec_barometerWindow_held hr hw, fun _ => exec_barometerWindow_rewire hr hw,
        fun _ => exec_barometerWindow_propose hr hw⟩⟩,
    fun s n c hc => ⟨fun _ => exec_delayLineDepart hc, fun _ _ => exec_steerToken hc, fun k t f h => ⟨?_, ?_⟩⟩⟩
  · rw [exec_planArm, armPlans_late hr hp hc]
  · rw [exec_planArm, armPlans_armed hr hp hc]
  · rintro rfl
    exact exec_mergeOutput_none hc h
  · rintro x rfl
    exact exec_mergeOutput_some hc h

end Sys2Proof
end

section
/-! The invariant `Legal` over the instructions of the opcode map and the turn of a PE (O26). -/
namespace Sys2Proof

/-- Settles O26: `exec_legal` for an instruction, `step_legal` for a turn. -/
theorem instructionsKeepLegal : Obligations.InstructionsKeepLegal := by
  unfold Obligations.InstructionsKeepLegal
  exact ⟨fun _ _ _ t h hs => exec_legal h hs t, fun _ t _ _ _ hs => step_legal hs t⟩

end Sys2Proof
end

section
/-! Integers of a type: their range, wrapping, saturation and division (R70, R78), and the instructions of group 0 (R136). -/
namespace Sys2Proof

open Machine

variable {sat sg : Bool} {a b w : Nat} {t x z : Int} {i : Instr} {s : State}

/-! ### The range of a type (R70) -/

/-- A value lies in the range of the type with this sign and width. -/
def InRange (sg : Bool) (w : Nat) (t : Int) : Prop := intLo sg w ≤ t ∧ t ≤ intHi sg w

theorem outOfRange_eq_false : outOfRange sg w t = false ↔ InRange sg w t := by
  simp [outOfRange, InRange]

/-- The bounds of a type of `n + 1` bits: a signed one reaches from `-2 ^ n` to `2 ^ n - 1`, an unsigned one from 0 to `2 ^ (n + 1) - 1`. -/
theorem inRange_signed {n : Nat} : InRange true (n + 1) t ↔ -(2 ^ n : Nat) ≤ t ∧ t < (2 ^ n : Nat) := by
  simp only [InRange, intLo, intHi, if_true, Nat.add_sub_cancel]
  omega

theorem inRange_unsigned : InRange false w t ↔ 0 ≤ t ∧ t < (2 ^ w : Nat) := by
  simp only [InRange, intLo, intHi, Bool.false_eq_true, if_false]
  omega

theorem inRange_zero : InRange sg w 0 := by
  have := Nat.two_pow_pos w
  have := Nat.two_pow_pos (w - 1)
  cases sg
  · rw [inRange_unsigned]
    omega
  · simp only [InRange, intLo, intHi, if_true]
    omega

/-- A value between 0 and one of the type is of the type. -/
theorem InRange.between (h : InRange sg w x) (hx : 0 ≤ x → 0 ≤ t ∧ t ≤ x) (hn : x ≤ 0 → x ≤ t ∧ t ≤ 0) : InRange sg w t := by
  obtain ⟨h1, h2⟩ := inRange_zero (sg := sg) (w := w)
  obtain ⟨h3, h4⟩ := h
  rcases le_total 0 x with h0 | h0
  · obtain ⟨h5, h6⟩ := hx h0
    exact ⟨h1.trans h5, h6.trans h4⟩
  · obtain ⟨h5, h6⟩ := hn h0
    exact ⟨h3.trans h5, h6.trans h2⟩

theorem two_pow_width {w : Nat} (hw : w ≠ 0) : 2 ^ w = 2 * 2 ^ (w - 1) := by
  rw [← Nat.pow_succ', Nat.succ_eq_add_one, Nat.sub_add_cancel (by omega)]

/-- What an operand reads as is of its type. -/
theorem intOf_inRange (hw : w ≠ 0) : InRange sg w (intOf sg a w) := by
  have hlt : a % 2 ^ w < 2 ^ w := Nat.mod_lt _ (Nat.two_pow_pos w)
  obtain ⟨n, rfl⟩ := Nat.exists_eq_succ_of_ne_zero hw
  have hp : 2 ^ (n + 1) = 2 * 2 ^ n := Nat.pow_succ'
  cases sg
  · simp only [inRange_unsigned, intOf, zxN, Bool.false_eq_true, if_false]
    omega
  · simp only [Nat.succ_eq_add_one, inRange_signed, intOf, sxN, if_true] at *
    split <;> omega

/-! ### Wrapping and saturation (R78) -/

theorem wrapN_lt : wrapN t w < 2 ^ w := by
  have hp : (0 : Int) < (2 ^ w : Nat) := by exact_mod_cast Nat.two_pow_pos w
  have := Int.emod_lt_of_pos t hp
  unfold wrapN
  omega

theorem wrapN_cast : (wrapN t w : Int) = t % (2 ^ w : Nat) := by
  have hp : ((2 ^ w : Nat) : Int) ≠ 0 := by exact_mod_cast (Nat.two_pow_pos w).ne'
  exact Int.toNat_of_nonneg (Int.emod_nonneg t hp)

/-- Reading looks at the low bits alone. -/
theorem intOf_mod : intOf sg (a % 2 ^ w) w = intOf sg a w := by
  simp [intOf, sxN, zxN]

/-- A value of the type reads back as itself from its wrapped bits. -/
theorem intOf_wrapN (hw : w ≠ 0) (h : InRange sg w t) : intOf sg (wrapN t w) w = t := by
  have hlt := wrapN_lt (t := t) (w := w)
  have hc := wrapN_cast (t := t) (w := w)
  obtain ⟨n, rfl⟩ := Nat.exists_eq_succ_of_ne_zero hw
  cases sg
  · rw [inRange_unsigned] at h
    rw [Int.emod_eq_of_lt h.1 h.2] at hc
    simpa [intOf, zxN, Nat.mod_eq_of_lt hlt] using hc
  · rw [Nat.succ_eq_add_one, inRange_signed] at h
    have hp : 2 ^ (n + 1) = 2 * 2 ^ n := Nat.pow_succ'
    simp only [Nat.succ_eq_add_one, intOf, sxN, if_true] at *
    rw [Nat.mod_eq_of_lt hlt]
    rcases le_or_gt 0 t with h0 | h0
    · rw [Int.emod_eq_of_lt h0 (by omega)] at hc
      split <;> omega
    · have hm : t % (2 ^ (n + 1) : Nat) = t + (2 ^ (n + 1) : Nat) := by
        rw [← Int.add_emod_right, Int.emod_eq_of_lt (by omega) (by omega)]
      split <;> omega

theorem intLo_inRange : InRange sg w (intLo sg w) := ⟨le_rfl, inRange_zero.1.trans inRange_zero.2⟩

theorem intHi_inRange : InRange sg w (intHi sg w) := ⟨inRange_zero.1.trans inRange_zero.2, le_rfl⟩

theorem ires_of_inRange (h : InRange sg w t) : ires sat t w sg = (wrapN t w, raiseNone) := by
  cases sat
  · rfl
  · simp [ires, satN, not_lt.mpr h.1, not_lt.mpr h.2]

theorem ires_of_above (h : intHi sg w < t) : ires true t w sg = (wrapN (intHi sg w) w, raiseSV) := by
  simp [ires, satN, h]

theorem ires_of_below (h : t < intLo sg w) : ires true t w sg = (wrapN (intLo sg w) w, raiseSV) := by
  have hn : ¬ intHi sg w < t := not_lt.mpr (h.le.trans (inRange_zero.1.trans inRange_zero.2))
  simp [ires, satN, h, hn]

theorem ires_lt : (ires sat t w sg).1 < 2 ^ w := by
  unfold ires satN
  repeat' split
  all_goals exact wrapN_lt

theorem dvd_sub_wrapN : ((2 ^ w : Nat) : Int) ∣ t - wrapN t w := by
  rw [wrapN_cast]
  exact Int.dvd_self_sub_emod

/-- Under SAT = 1 the result, read in its type, is the exact value clamped to the type. -/
theorem intOf_ires_sat (hw : w ≠ 0) : intOf sg (ires true t w sg).1 w = max (intLo sg w) (min (intHi sg w) t) := by
  rcases lt_or_ge (intHi sg w) t with hh | hh
  · rw [ires_of_above hh, intOf_wrapN hw intHi_inRange, min_eq_left hh.le, max_eq_right intHi_inRange.1]
  · rcases lt_or_ge t (intLo sg w) with hl | hl
    · rw [ires_of_below hl, intOf_wrapN hw intLo_inRange, min_eq_right hh, max_eq_left hl.le]
    · rw [ires_of_inRange ⟨hl, hh⟩, intOf_wrapN hw ⟨hl, hh⟩, min_eq_right hh, max_eq_right hl]

/-- Under SAT = 1 the only flag is SV, raised where the exact value is outside the type. -/
theorem raise_ires_sat : (ires true t w sg).2 = if outOfRange sg w t then raiseSV else raiseNone := by
  rcases lt_or_ge (intHi sg w) t with hh | hh
  · rw [ires_of_above hh, if_pos (by simp [outOfRange, hh])]
  · rcases lt_or_ge t (intLo sg w) with hl | hl
    · rw [ires_of_below hl, if_pos (by simp [outOfRange, hl])]
    · rw [ires_of_inRange ⟨hl, hh⟩, if_neg (by rw [outOfRange_eq_false.mpr ⟨hl, hh⟩]; decide)]

theorem raiseSV_ne_raiseNone : raiseSV ≠ raiseNone := by decide

/-- Settles O41: the wrapped value is congruent to the exact one; the saturated one is it, clamped. -/
theorem wrapOrSaturate : Obligations.WrapOrSaturate := by
  unfold Obligations.WrapOrSaturate
  intro sat sg t w hw
  refine ⟨ires_lt, ?_, ?_⟩
  · rintro rfl
    exact ⟨dvd_sub_wrapN, rfl⟩
  · rintro rfl
    refine ⟨intOf_ires_sat (by omega), ?_⟩
    rw [raise_ires_sat]
    cases outOfRange sg w t
    · simp [raiseSV_ne_raiseNone.symm]
    · simp [raiseSV_ne_raiseNone]

/-! ### Division (R78) -/

/-- The one quotient that its type does not hold: the least value by -1. -/
def DivOverflow (sg : Bool) (w : Nat) (x z : Int) : Prop := sg = true ∧ x = intLo true w ∧ z = -1

theorem divOverflow_iff : (sg && x == intLo true w && z == -1) = true ↔ DivOverflow sg w x z := by
  simp [DivOverflow, and_assoc]

theorem idiv_of_zero (hz : intOf sg b w = 0) : idiv sat sg a b w = ((2 ^ w - 1, a % 2 ^ w), raiseDZ) := by
  simp only [idiv, hz, if_true]

theorem idiv_of_overflow (hz : intOf sg b w ≠ 0) (ho : DivOverflow sg w (intOf sg a w) (intOf sg b w)) :
    idiv sat sg a b w = (((ires sat (2 ^ (w - 1) : Nat) w true).1, 0), (ires sat (2 ^ (w - 1) : Nat) w true).2) := by
  rw [← divOverflow_iff] at ho
  simp only [idiv, if_neg hz, if_pos ho]

theorem idiv_of_exact (hz : intOf sg b w ≠ 0) (ho : ¬ DivOverflow sg w (intOf sg a w) (intOf sg b w)) : idiv sat sg a b w =
    ((wrapN ((intOf sg a w).tdiv (intOf sg b w)) w, wrapN ((intOf sg a w).tmod (intOf sg b w)) w), raiseNone) := by
  rw [← divOverflow_iff] at ho
  simp only [idiv, if_neg hz, if_neg ho]

theorem tmod_nonpos (h : x ≤ 0) : x.tmod z ≤ 0 := by
  have := Int.tmod_nonneg z (a := -x) (by omega)
  rw [Int.neg_tmod] at this
  omega

theorem abs_tmod_lt (hz : z ≠ 0) : |x.tmod z| < |z| := by
  have := Nat.mod_lt x.natAbs (Int.natAbs_pos.mpr hz)
  rw [← Int.natAbs_tmod] at this
  rw [Int.abs_eq_natAbs, Int.abs_eq_natAbs]
  exact_mod_cast this

/-- The remainder lies between 0 and the dividend. -/
theorem tmod_inRange (hx : InRange sg w x) : InRange sg w (x.tmod z) := by
  have hle : (x.tmod z).natAbs ≤ x.natAbs := Int.natAbs_tmod x z ▸ Nat.mod_le _ _
  refine hx.between (fun h => ?_) (fun h => ?_)
  · have := Int.tmod_nonneg z h
    omega
  · have := tmod_nonpos (z := z) h
    omega

/-- A divisor beyond 1 and -1 halves the dividend at least. -/
theorem natAbs_tdiv_le_half (hz : 2 ≤ z.natAbs) : 2 * (x.tdiv z).natAbs ≤ x.natAbs := by
  have : x.natAbs.div z.natAbs ≤ x.natAbs / 2 := Nat.div_le_div_left hz (by decide)
  rw [Int.natAbs_tdiv]
  omega

/-- Every quotient but the overflowing one is of the operands' type. -/
theorem tdiv_inRange (hw : w ≠ 0) (hx : InRange sg w x) (hz : InRange sg w z) (h0 : z ≠ 0) (ho : ¬ DivOverflow sg w x z) :
    InRange sg w (x.tdiv z) := by
  cases sg
  · rw [inRange_unsigned] at *
    have h1 := Int.tdiv_nonneg hx.1 hz.1
    have h2 := Int.tdiv_le_self z hx.1
    omega
  · obtain ⟨n, rfl⟩ := Nat.exists_eq_succ_of_ne_zero hw
    obtain h | rfl | rfl : 2 ≤ z.natAbs ∨ z = 1 ∨ z = -1 := by omega
    · have := natAbs_tdiv_le_half (x := x) h
      rw [Nat.succ_eq_add_one, inRange_signed] at *
      omega
    · rwa [Int.tdiv_one]
    · have hne : x ≠ intLo true (n + 1) := fun h => ho ⟨rfl, h, rfl⟩
      rw [Int.tdiv_neg, Int.tdiv_one]
      simp only [Nat.succ_eq_add_one, inRange_signed, intLo, if_true, Nat.add_sub_cancel] at *
      omega

/-- The overflowing quotient is one above the greatest value of its type. -/
theorem intHi_signed_lt : intHi true w < (2 ^ (w - 1) : Nat) := by
  simp only [intHi, if_true]
  omega

theorem wrapN_overflow (hw : w ≠ 0) : intOf true (wrapN (2 ^ (w - 1) : Nat) w) w = intLo true w := by
  have hlt : 2 ^ (w - 1) < 2 ^ w := Nat.pow_lt_pow_right (by decide) (by omega)
  have hc : wrapN (2 ^ (w - 1) : Nat) w = 2 ^ (w - 1) := by
    rw [wrapN, ← Int.natCast_mod, Int.toNat_natCast, Nat.mod_eq_of_lt hlt]
  have hp := two_pow_width hw
  rw [hc, intOf, if_pos rfl, sxN, Nat.mod_eq_of_lt hlt, if_neg (by omega), intLo, if_pos rfl]
  omega

/-- Settles O40, by the three cases of `idiv`. -/
theorem divisionIdentity : Obligations.DivisionIdentity := by
  unfold Obligations.DivisionIdentity
  intro sat sg a b w hw
  have hw0 : w ≠ 0 := by omega
  have hx : InRange sg w (intOf sg a w) := intOf_inRange hw0
  have hlo : intLo true w = -(2 ^ (w - 1)) := by simp [intLo]
  dsimp only
  refine ⟨fun hz => ?_, fun hz ho => ?_, ?_⟩
  · rw [idiv_of_zero hz]
    exact ⟨rfl, rfl, rfl⟩
  · have hov : ¬ DivOverflow sg w (intOf sg a w) (intOf sg b w) := by
      rintro ⟨hs, h1, h2⟩
      exact (ho hs).elim (· (h1.trans hlo)) (· h2)
    rw [idiv_of_exact hz hov]
    dsimp only
    rw [intOf_wrapN hw0 (tdiv_inRange hw0 hx (intOf_inRange hw0) hz hov), intOf_wrapN hw0 (tmod_inRange hx)]
    exact ⟨(Int.tdiv_mul_add_tmod _ _).symm, abs_tmod_lt hz, Int.tmod_nonneg _, tmod_nonpos, rfl⟩
  · rintro hz rfl h1 h2
    rw [idiv_of_overflow hz ⟨rfl, h1.trans hlo.symm, h2⟩]
    refine ⟨rfl, ?_, ?_⟩
    · rintro rfl
      exact ⟨(wrapN_overflow hw0).trans hlo, rfl⟩
    · rintro rfl
      rw [ires_of_above intHi_signed_lt]
      exact ⟨by rw [intOf_wrapN hw0 intHi_inRange]; simp [intHi], rfl⟩

/-! ### The instructions of group 0 (R136) -/

/-- An instruction whose effect is a control-plane result gives it. -/
theorem aluGives_of {r q : Opnd → AluRes} (hx : exec i s = pe s i (aluEff i r)) (hr : ∀ o, r o = q o) : AluGives i s q := by
  obtain rfl : r = q := funext hr
  exact fun hf => hx.trans (pe_go s i _ _ hf rfl)

theorem ext64_zero : ext64 sg 0 w = 0 := by
  have hp := Nat.two_pow_pos w
  cases sg <;> simp [ext64, intOf, sxN, zxN, hp]

theorem ext64_mod : ext64 sg (a % 2 ^ w) w = ext64 sg a w := by
  rw [ext64, ext64, intOf_mod]

/-- An operand read in the type of its instruction. -/
abbrev t8Int (y : BitVec 3) (p : W64) : Int := intOf (t8Signed y) p.toNat (t8Width y)

variable {y : BitVec 3} {m p q : W64}

theorem aluMulHi_eq : aluMulHi y p q = ⟨ext64 (t8Signed y) (wrapN (t8Int y p * t8Int y q / 2 ^ t8Width y) (t8Width y)) (t8Width y),
    outOfRange (t8Signed y) (t8Width y) (t8Int y p * t8Int y q), raiseNone⟩ := by
  simp only [aluMulHi, Nat.cast_pow, Nat.cast_ofNat]

theorem aluDiv_of_zero (hz : t8Int y q = 0) :
    aluDiv y m p q = ⟨ext64 (t8Signed y) (2 ^ t8Width y - 1) (t8Width y), true, raiseDZ⟩ := by
  simp [aluDiv, idiv_of_zero hz, hz]

theorem aluDiv_of_overflow (hz : t8Int y q ≠ 0) (ho : DivOverflow (t8Signed y) (t8Width y) (t8Int y p) (t8Int y q)) : aluDiv y m p q =
    ⟨ext64 (t8Signed y) (ires (modeSat m) (2 ^ (t8Width y - 1)) (t8Width y) true).1 (t8Width y), true,
      (ires (modeSat m) (2 ^ (t8Width y - 1)) (t8Width y) true).2⟩ := by
  simp [aluDiv, idiv_of_overflow hz ho, divOverflow_iff.mpr ho]

theorem aluDiv_of_exact (hz : t8Int y q ≠ 0) (ho : ¬ DivOverflow (t8Signed y) (t8Width y) (t8Int y p) (t8Int y q)) : aluDiv y m p q =
    ⟨ext64 (t8Signed y) (wrapN ((t8Int y p).tdiv (t8Int y q)) (t8Width y)) (t8Width y), false, raiseNone⟩ := by
  simp [aluDiv, idiv_of_exact hz ho, hz, Bool.not_eq_true _ ▸ mt divOverflow_iff.mp ho]

theorem aluRem_of_zero (hz : t8Int y q = 0) : aluRem y m p q = ⟨ext64 (t8Signed y) p.toNat (t8Width y), true, raiseDZ⟩ := by
  simp [aluRem, idiv_of_zero hz, hz, ext64_mod]

theorem aluRem_of_overflow (hz : t8Int y q ≠ 0) (ho : DivOverflow (t8Signed y) (t8Width y) (t8Int y p) (t8Int y q)) :
    aluRem y m p q = ⟨0, false, (ires (modeSat m) (2 ^ (t8Width y - 1)) (t8Width y) true).2⟩ := by
  simp [aluRem, idiv_of_overflow hz ho, hz, ext64_zero]

theorem aluRem_of_exact (hz : t8Int y q ≠ 0) (ho : ¬ DivOverflow (t8Signed y) (t8Width y) (t8Int y p) (t8Int y q)) : aluRem y m p q =
    ⟨ext64 (t8Signed y) (wrapN ((t8Int y p).tmod (t8Int y q)) (t8Width y)) (t8Width y), false, raiseNone⟩ := by
  simp [aluRem, idiv_of_exact hz ho, hz]

/-- Settles O28: each instruction is `aluEff` of its value; `div` and `rem` by the three cases of `idiv`. -/
theorem integerArithmetic : Obligations.IntegerArithmetic := by
  unfold Obligations.IntegerArithmetic
  intro s y a b d e g
  dsimp only
  refine ⟨aluGives_of rfl fun o => rfl, aluGives_of rfl fun o => rfl, aluGives_of rfl fun o => rfl, aluGives_of rfl fun o => aluMulHi_eq,
    aluGives_of rfl fun o => ?_, aluGives_of rfl fun o => ?_, aluGives_of rfl fun o => ?_, aluGives_of rfl fun o => ?_⟩
  · split
    · exact aluDiv_of_zero ‹_›
    · split
      · exact aluDiv_of_overflow ‹_› (divOverflow_iff.mp ‹_›)
      · exact aluDiv_of_exact ‹_› (mt divOverflow_iff.mpr ‹_›)
  · split
    · exact aluRem_of_zero ‹_›
    · split
      · exact aluRem_of_overflow ‹_› (divOverflow_iff.mp ‹_›)
      · exact aluRem_of_exact ‹_› (mt divOverflow_iff.mpr ‹_›)
  · simp only [aluMin, decide_eq_true_eq]
  · simp only [aluMax, decide_eq_true_eq]

end Sys2Proof
end

section
/-! The results of a job written (O15), and what the end of a firing does to the mode word of its bank (O16). -/
namespace Sys2Proof

open Machine

variable {s x : State} {t : Tile} {b c : Bank} {n k job ep : Nat} {d : Dst} {r : Kind × W512} {j : Job} {i : Instr} {f : Firing} {o : Opnd}
  {e : Eff} {m : W64} {q : Raise}

/-! ### The flags of a mode word (R71, R73) -/

/-- The flags are ORed into bits 13 to 8 alone. -/
theorem getLsbD_modeRaise {l : Nat} : (modeRaise m q).getLsbD l = (m.getLsbD l || (decide (8 ≤ l) && q.getLsbD (l - 8))) := by
  rcases Nat.lt_or_ge l 64 with hl | hl
  · simp [modeRaise, hl, ← decide_not]
  · simp [BitVec.getLsbD_of_ge _ l hl, BitVec.getLsbD_of_ge q (l - 8) (by omega)]

theorem modeSticky_modeRaise : modeSticky (modeRaise m q) = modeSticky m ||| q := by
  refine BitVec.eq_of_getLsbD_eq fun l hl => ?_
  simp only [modeSticky, BitVec.getLsbD_extractLsb', BitVec.getLsbD_or, getLsbD_modeRaise, Nat.add_sub_cancel_left, hl]
  simp

theorem getLsbD_modeRaise_low {l : Nat} (h : l < 8) : (modeRaise m q).getLsbD l = m.getLsbD l := by
  simp [getLsbD_modeRaise, Nat.not_le.mpr h]

theorem modeRM_modeRaise : modeRM (modeRaise m q) = modeRM m := by
  refine BitVec.eq_of_getLsbD_eq fun l hl => ?_
  simp only [modeRM, BitVec.getLsbD_extractLsb', getLsbD_modeRaise_low (show 0 + l < 8 by omega)]

theorem modeFtzi_modeRaise : modeFtzi (modeRaise m q) = modeFtzi m := getLsbD_modeRaise_low (by decide)

theorem modeFtzo_modeRaise : modeFtzo (modeRaise m q) = modeFtzo m := getLsbD_modeRaise_low (by decide)

theorem modeSat_modeRaise : modeSat (modeRaise m q) = modeSat m := getLsbD_modeRaise_low (by decide)

/-! ### Registers, predicates and mode word after a write of a bank -/

theorem kGet_kSet_same {a : W64} (h : n < 8) : kGet (kSet b n a) n = a := vecGetD_set_same _ _ _ _ h
theorem kGet_kSet_other {a : W64} (h : k ≠ n) : kGet (kSet b n a) k = kGet b k := vecGetD_set_other _ _ _ _ _ h
theorem vGet_vSet_same {a : W512} (h : n < 8) : vGet (vSet b n a) n = a := vecGetD_set_same _ _ _ _ h
theorem vGet_vSet_other {a : W512} (h : k ≠ n) : vGet (vSet b n a) k = vGet b k := vecGetD_set_other _ _ _ _ _ h

theorem setPred_p_same {v : Bool} (h : n < 4) : (setPred b n v).p.getLsbD n = v := by
  cases v <;> simp [setPred, h]

/-- The bank once a result is stored at a place: a register of it, or elsewhere. -/
def putBank (b : Bank) (d : Dst) (r : Kind × W512) : Bank :=
  match d with
  | .k n => kSet b n (r.2.setWidth 64)
  | .v n => vSet b n r.2
  | .q n => qSet b n (qGet b n ++ [r.2.setWidth 64])
  | _ => b

/-- The bank of a job once its results are written: its registers, its flags ORed in, its predicate updated (R131, R73, R86). -/
def jobBank (j : Job) (b : Bank) : Bank :=
  let b1 := putBank (putBank b j.da j.r1) j.db j.r2
  let b2 := { b1 with mode := modeRaise b1.mode j.raise }
  match j.pred with
  | some (n, v) => setPred b2 n v
  | none => b2

theorem kGet_qSet {l : List W64} : kGet (qSet b n l) k = kGet b k := by
  unfold qSet
  split <;> rfl
theorem vGet_qSet {l : List W64} : vGet (qSet b n l) k = vGet b k := by
  unfold qSet
  split <;> rfl
theorem qSet_mode {l : List W64} : (qSet b n l).mode = b.mode := by
  unfold qSet
  split <;> rfl
theorem qSet_p {l : List W64} : (qSet b n l).p = b.p := by
  unfold qSet
  split <;> rfl

theorem putBank_mode : (putBank b d r).mode = b.mode := by
  cases d with
  | q => exact qSet_mode
  | _ => rfl
theorem putBank_p : (putBank b d r).p = b.p := by
  cases d with
  | q => exact qSet_p
  | _ => rfl
theorem kGet_putBank_same (h : n < 8) (hd : d = .k n) : kGet (putBank b d r) n = r.2.setWidth 64 := by
  subst hd
  exact kGet_kSet_same h
theorem kGet_putBank_other (hd : d ≠ .k n) : kGet (putBank b d r) n = kGet b n := by
  cases d with
  | k m => exact kGet_kSet_other fun h => hd (by rw [h])
  | q => exact kGet_qSet
  | _ => rfl
theorem vGet_putBank_same (h : n < 8) (hd : d = .v n) : vGet (putBank b d r) n = r.2 := by
  subst hd
  exact vGet_vSet_same h
theorem vGet_putBank_other (hd : d ≠ .v n) : vGet (putBank b d r) n = vGet b n := by
  cases d with
  | v m => exact vGet_vSet_other fun h => hd (by rw [h])
  | q => exact vGet_qSet
  | _ => rfl

theorem kGet_jobBank : kGet (jobBank j b) n = kGet (putBank (putBank b j.da j.r1) j.db j.r2) n := by
  unfold jobBank
  dsimp only
  split <;> rfl
theorem vGet_jobBank : vGet (jobBank j b) n = vGet (putBank (putBank b j.da j.r1) j.db j.r2) n := by
  unfold jobBank
  dsimp only
  split <;> rfl
theorem jobBank_mode : (jobBank j b).mode = modeRaise b.mode j.raise := by
  unfold jobBank
  dsimp only
  split
  · exact congrArg (modeRaise · _) (putBank_mode.trans putBank_mode)
  · exact congrArg (modeRaise · _) (putBank_mode.trans putBank_mode)
theorem jobBank_p_some {v : Bool} (hn : n < 4) (h : j.pred = some (n, v)) : (jobBank j b).p.getLsbD n = v := by
  simp only [jobBank, h]
  exact setPred_p_same hn
theorem jobBank_p_other (h : ∀ v, j.pred ≠ some (n, v)) : (jobBank j b).p.getLsbD n = b.p.getLsbD n := by
  unfold jobBank
  dsimp only
  split
  · rename_i m v hp
    have hne : n ≠ m := by
      rintro rfl
      exact h v hp
    rw [setPred_p_other hne, putBank_p, putBank_p]
  · rw [putBank_p, putBank_p]

/-! ### A result stored at its place -/

theorem lmTake_frame {g a : Nat} : (lmTake t n g a r.1 r.2).banks = t.banks ∧ (lmTake t n g a r.1 r.2).jobs = t.jobs := by
  unfold lmTake
  dsimp only
  repeat' split
  all_goals exact ⟨rfl, rfl⟩

theorem bankOf_putDst (h : k < 4) : bankOf (tileOf (putDst s n k job d r) n) k = putBank (bankOf (tileOf s n) k) d r := by
  cases d with
  | none | out => rfl
  | k | v | q => exact bankOf_modBank_same _ _ _ _ h
  | lm =>
    rw [putDst, tileOf_modTile_same, bankOf, lmTake_frame.1]
    rfl

theorem jobs_modBank {g : Bank → Bank} : (tileOf (modBank s n k g) n).jobs = (tileOf s n).jobs := by
  rw [modBank, tileOf_modTile_same]
  rfl

theorem jobs_putDst : (tileOf (putDst s n k job d r) n).jobs = (tileOf s n).jobs := by
  cases d with
  | none | out => rfl
  | k | v | q => exact jobs_modBank
  | lm => rw [putDst, tileOf_modTile_same, lmTake_frame.2]

/-- The token of a job in line at an output port, once it is known (R133). -/
def fillTok (job : Nat) (x : Token) (o : OutTok) : OutTok := if o.job = job && o.tok.isNone then { o with tok := some x } else o

/-- A token that is known stays. -/
theorem fillTok_fillTok {u v : Token} {o : OutTok} : fillTok job u (fillTok job v o) = fillTok job v o := by
  unfold fillTok
  split
  · simp
  · rfl

theorem outq_putDst_same {p : Nat} {g : BitVec 4} (h : d = .out p g) : (outPortOf (putDst s n k job d r) (tileEp n p)).outq =
    (outPortOf s (tileEp n p)).outq.map (fillTok job ⟨r.1, g, r.2⟩) := by
  subst h
  rw [putDst, fillOut, outPortOf_setOutPort_same]
  rfl

theorem outq_putDst_other (h : ∀ p g, d = .out p g → tileEp n p ≠ ep) : outPortOf (putDst s n k job d r) ep = outPortOf s ep := by
  cases d with
  | out p g => exact outPortOf_setOutPort_other _ _ _ _ (h p g rfl).symm
  | _ => rfl

/-! ### A job finished -/

theorem bankOf_finishJob (h : j.bank < 4) : bankOf (tileOf (finishJob s n j) n) j.bank = jobBank j (bankOf (tileOf s n) j.bank) := by
  unfold finishJob
  dsimp only
  rw [bankOf_modBank_same _ _ _ _ h, bankOf_putDst h, bankOf_putDst h, tileOf_modTile_same]
  rfl

theorem jobs_finishJob : (tileOf (finishJob s n j) n).jobs = (tileOf s n).jobs.filter fun x => x.id != j.id := by
  unfold finishJob
  dsimp only
  rw [jobs_modBank, jobs_putDst, jobs_putDst, tileOf_modTile_same]

/-- A job that is finished has ended. -/
theorem jobOf_finishJob : jobOf (tileOf (finishJob s n j) n) j.id = none := by
  rw [jobOf, jobs_finishJob, List.find?_eq_none]
  intro x hx
  simpa using (List.mem_filter.mp hx).2

/-- The job leaves its tile's list. -/
def jobGone (s : State) (n : Nat) (j : Job) : State :=
  modTile s n fun t => { t with jobs := t.jobs.filter fun x => x.id != j.id }

theorem outPortOf_finishJob : outPortOf (finishJob s n j) ep =
    outPortOf (putDst (putDst (jobGone s n j) n j.bank j.id j.da j.r1) n j.bank j.id j.db j.r2) ep := rfl

/-- The token that DA names at an output port becomes known; where DB names the same port, its own finds it known. -/
theorem outq_finishJob_da {p : Nat} {g : BitVec 4} (h : j.da = .out p g) : (outPortOf (finishJob s n j) (tileEp n p)).outq =
    (outPortOf s (tileEp n p)).outq.map (fillTok j.id ⟨j.r1.1, g, j.r1.2⟩) := by
  rw [outPortOf_finishJob]
  by_cases hb : ∃ l u, j.db = .out l u ∧ tileEp n l = tileEp n p
  · obtain ⟨l, u, hd, he⟩ := hb
    rw [← he, outq_putDst_same hd, he, outq_putDst_same h, List.map_map]
    exact List.map_congr_left fun _ _ => fillTok_fillTok
  · rw [outq_putDst_other fun l u hd he => hb ⟨l, u, hd, he⟩, outq_putDst_same h]
    rfl

theorem outq_finishJob_db {p : Nat} {g : BitVec 4} (h : j.db = .out p g) (ho : ∀ q x, j.da = .out q x → tileEp n q ≠ tileEp n p) :
    (outPortOf (finishJob s n j) (tileEp n p)).outq = (outPortOf s (tileEp n p)).outq.map (fillTok j.id ⟨j.r2.1, g, j.r2.2⟩) := by
  rw [outPortOf_finishJob, outq_putDst_same h, outq_putDst_other ho]
  rfl

theorem exec_resultWrite (h : jobOf (tileOf s n) job = some j) :
    exec (.resultWrite n job) s = .next (if resultDue s j then finishJob s n j else s) := by
  show execResultWrite n job s = _
  simp only [execResultWrite, h]

/-- Settles O15: the bank of a due job ends as `jobBank`, and its tokens in line become known (`outq_finishJob_da`, `outq_finishJob_db`). -/
theorem resultWriteStep : Obligations.ResultWriteStep := by
  unfold Obligations.ResultWriteStep
  rintro s tile _ j hj hb rfl
  rw [exec_resultWrite hj]
  refine ⟨fun hd => by rw [hd]; rfl, fun hd => ⟨finishJob s tile j, by rw [if_pos hd], ?_⟩⟩
  dsimp only
  rw [bankOf_finishJob hb]
  simp only [kGet_jobBank, vGet_jobBank]
  refine ⟨jobOf_finishJob, fun n hn ha hd => ?_, fun n hn ha hd => ?_, fun n hn => kGet_putBank_same hn,
    fun n hn => vGet_putBank_same hn, fun n ha hd => ?_, fun n ha hd => ?_,
    fun p g => outq_finishJob_da, fun p g => outq_finishJob_db, jobBank_mode, fun n v => jobBank_p_some, fun n => jobBank_p_other⟩
  · rw [kGet_putBank_other hd, kGet_putBank_same hn ha]
  · rw [vGet_putBank_other hd, vGet_putBank_same hn ha]
  · rw [kGet_putBank_other hd, kGet_putBank_other ha]
  · rw [vGet_putBank_other hd, vGet_putBank_other ha]

/-! ### The bank of a firing at its end -/

theorem tileOf_sameTiles (h : SameTiles s x) : tileOf x n = tileOf s n := by
  rw [tileOf, tileOf, h.2]

theorem bankOf_banks {u : Tile} (h : u.banks = t.banks) : bankOf u n = bankOf t n := by
  rw [bankOf, bankOf, h]

theorem banks_reserveDst : (tileOf (reserveDst s n d).2 n).banks = (tileOf s n).banks := by
  cases d with
  | lm =>
    simp only [reserveDst]
    rw [tileOf_setTile_same]
  | _ => rfl

theorem bankOf_enterJob (h : f.bank < 4) : bankOf (tileOf (enterJob s x i f j) f.tile) f.bank =
    afterBank f i (bankOf (tileOf s f.tile) f.bank) (bankOf (tileOf x f.tile) f.bank) := by
  rw [enterJob, tileOf_modTile_same]
  exact bankOf_setBank_same _ _ _ h

theorem banks_trapPE {a : W64} : (tileOf (trapPE s f n a) f.tile).banks = (tileOf s f.tile).banks := by
  rw [trapPE, tileOf_takeTrap_same]

theorem settleJob_now (hw : e.wait = .none) (hl : e.lat ≤ 1) (hd : e.drop = false) : settleJob x f e j = finishJob x f.tile j := by
  simp [settleJob, hw, hl, hd]

/-- A firing's destinations with their positions of the write stream reserved, and the state that has reserved them (R223). -/
def placedDsts (s : State) (i : Instr) (f : Firing) (o : Opnd) (e : Eff) : (Dst × Dst) × State :=
  let d := completeDsts s i f o e
  let r1 := reserveDst (completePorts s i f e) f.tile d.1
  let r2 := reserveDst r1.2 f.tile d.2
  ((r1.1, r2.1), r2.2)

/-- The job of a firing at its end. -/
def doneJob (s : State) (i : Instr) (f : Firing) (o : Opnd) (e : Eff) : Job :=
  completeJob s i f e (placedDsts s i f o e).1.1 (placedDsts s i f o e).1.2

/-- A firing's end before the trap that may follow it. -/
def settled (s : State) (i : Instr) (f : Firing) (o : Opnd) (e : Eff) : State :=
  settleJob (countBrk (enterJob s (placedDsts s i f o e).2 i f (doneJob s i f o e)) f) f e (doneJob s i f o e)

theorem complete_eq : complete s i f o e = match e.after with
    | some (c, a) => trapPE (settled s i f o e) f c a
    | none => settled s i f o e := rfl

theorem banks_complete : (tileOf (complete s i f o e) f.tile).banks = (tileOf (settled s i f o e) f.tile).banks := by
  rw [complete_eq]
  split
  · exact banks_trapPE
  · rfl

theorem banks_placedDsts : (tileOf (placedDsts s i f o e).2 f.tile).banks = (tileOf e.st f.tile).banks := by
  rw [placedDsts, banks_reserveDst, banks_reserveDst, tileOf_sameTiles (sameTiles_completePorts s i f e)]

/-- Where a firing's results are written at once, its bank ends with the trigger word's update and then its results (R86, R131). -/
theorem bankOf_complete (hw : e.wait = .none) (hl : e.lat ≤ 1) (hd : e.drop = false) (h : f.bank < 4) :
    bankOf (tileOf (complete s i f o e) f.tile) f.bank =
      jobBank (doneJob s i f o e) (afterBank f i (bankOf (tileOf s f.tile) f.bank) (bankOf (tileOf e.st f.tile) f.bank)) := by
  have hj : (doneJob s i f o e).bank = f.bank := rfl
  rw [bankOf_banks banks_complete, settled, settleJob_now hw hl hd, ← hj, bankOf_finishJob h, hj,
    tileOf_sameTiles (sameTiles_countBrk _ f), bankOf_enterJob h, bankOf_banks banks_placedDsts]

theorem afterBank_mode : (afterBank f i c b).mode = b.mode := by
  unfold afterBank
  dsimp only
  repeat' split
  all_goals rfl

/-- Settles O16: the mode word of the firing's bank ends as `modeRaise` of what the effect leaves (`bankOf_complete`). -/
theorem stickyFlags : Obligations.StickyFlags := by
  unfold Obligations.StickyFlags
  intro i s e hw hl hd hb
  have hm : (bankOf (tileOf (finished i s e) s.cur.tile) s.cur.bank).mode =
      modeRaise (bankOf (tileOf e.st s.cur.tile) s.cur.bank).mode e.raise := by
    rw [finished, bankOf_complete hw hl hd hb, jobBank_mode, afterBank_mode]
    rfl
  dsimp only
  rw [hm]
  exact ⟨modeSticky_modeRaise, modeRM_modeRaise, modeFtzi_modeRaise, modeFtzo_modeRaise, modeSat_modeRaise, modeRaise_reserved⟩

end Sys2Proof
end

section
/-! What the decoder's answer says of the word (R87, R90, R101, R102), group by group; encoding what a word decodes to (O2), and the
opcodes that the map leaves unassigned (O4). -/
namespace Sys2Proof

variable {w : BitVec 32} {i : Instr} {f : Fields} {c : Bool} {g o : Nat}

/-! ### Opcode, group, offset and type codes -/

theorem fOp_toNat : (fOp w).toNat = (fGroup w).toNat * 64 + (fOff w).toNat := by
  simp only [fOp, fGroup, fOff, toNat_field]
  omega

theorem fOff_toNat : (fOff w).toNat = (w.extractLsb' 25 3).toNat * 8 + (fY3 w).toNat := by
  simp only [fOff, fY3, toNat_field]
  omega

theorem fY2_toNat : (fY2 w).toNat = (fOff w).toNat % 4 := by
  simp only [fY2, fOff, toNat_field]
  omega

theorem fG_toNat : (fG w).toNat = (fGroup w).toNat % 4 := by
  simp only [fG, fGroup, toNat_field]
  omega

theorem toNat_opcode2 (n : BitVec 8) (y : BitVec 2) : (n ++ y : BitVec 10).toNat = n.toNat * 4 + y.toNat := toNat_append_add n y

theorem toNat_opcode3 (n : BitVec 7) (y : BitVec 3) : (n ++ y : BitVec 10).toNat = n.toNat * 8 + y.toNat := toNat_append_add n y

theorem toNat_opcodeF (n y : BitVec 2) (k : BitVec 6) : (n ++ y ++ k : BitVec 10).toNat = (n.toNat * 4 + y.toNat) * 64 + k.toNat := by
  rw [show (n ++ y ++ k : BitVec 10).toNat = (n ++ y).toNat * 2 ^ 6 + k.toNat from toNat_append_add (n ++ y) k, toNat_append_add n y]
  rfl

/-! ### The answer of the decoder -/

/-- The operand fields of a word. -/
def fieldsOf (w : BitVec 32) : Fields := ⟨fOp w, fA w, fB w, fD w, fE w, fT w⟩

/-- What an answer says of the word: an instruction has the word's fields; a word is unassigned where the map does not assign its
opcode (R102), and refused for a field only where one that may be unused does not hold what R90 requires of it then. -/
def Answers (w : BitVec 32) : Except DecodeErr Instr → Prop
  | .ok i => assigned (fOp w).toNat = true ∧ fields i = some (fieldsOf w)
  | .error .unassigned => assigned (fOp w).toNat = false
  | .error .unusedField => assigned (fOp w).toNat = true ∧ (noA w && noB w && noD w) = false
  | .error .tooShort => False

/-- An instruction that uses every field needs nothing of them. -/
theorem ok_eq_need : (.ok i : Except DecodeErr Instr) = need true i := rfl

/-- An arm of the decoder: the instruction's fields `f` are the word's, where the unused ones hold what R90 requires. -/
theorem answers_need (ha : assigned (fOp w).toNat = true) (hi : fields i = some f) (hop : f.op.toNat = (fOp w).toNat)
    (hc : c = true → f.a = fA w ∧ f.b = fB w ∧ f.d = fD w ∧ f.e = fE w ∧ f.t = fT w)
    (hn : (noA w && noB w && noD w) = true → c = true) : Answers w (need c i) := by
  cases c with
  | true =>
    obtain ⟨hA, hB, hD, hE, hT⟩ := hc rfl
    refine ⟨ha, hi.trans (congrArg some ?_)⟩
    rw [fieldsOf, ← hA, ← hB, ← hD, ← hE, ← hT, ← BitVec.eq_of_toNat_eq hop]
  | false => exact ⟨ha, by simpa using hn⟩

/-- An opcode by group and offset. -/
theorem fOp_at (hg : (fGroup w).toNat = g) (ho : (fOff w).toNat = o) : (fOp w).toNat = g * 64 + o := by
  rw [fOp_toNat, hg, ho]

/-- An arm of a group's decoder, at one offset. -/
theorem answers_at (hg : (fGroup w).toNat = g) (ho : (fOff w).toNat = o) (ha : assigned (g * 64 + o) = true) (hi : fields i = some f)
    (hop : f.op.toNat = g * 64 + o) (hc : c = true → f.a = fA w ∧ f.b = fB w ∧ f.d = fD w ∧ f.e = fE w ∧ f.t = fT w)
    (hn : (noA w && noB w && noD w) = true → c = true) : Answers w (need c i) :=
  answers_need (fOp_at hg ho ▸ ha) hi (hop.trans (fOp_at hg ho).symm) hc hn

theorem answers_unassigned {p : Nat → Prop} {_ : DecidablePred p} (hg : (fGroup w).toNat = g)
    (ha : ∀ o < 64, assigned (g * 64 + o) = decide (p o)) (hp : ¬ p (fOff w).toNat) : Answers w (.error .unassigned) := by
  show assigned _ = false
  rw [fOp_toNat, hg, ha _ (fOff w).isLt, decide_eq_false hp]

/-! ### The groups of the opcode map -/

theorem decGroup0_answers (hg : (fGroup w).toNat = 0) : Answers w (decGroup0 w) := by
  have ha : ∀ o < 64, assigned (0 * 64 + o) = true := by decide
  have ho : (w.extractLsb' 25 3).toNat < 8 := (w.extractLsb' 25 3).isLt
  unfold decGroup0
  simp only [ok_eq_need]
  split
  case h_9 => simp only [imp_false] at *; omega
  all_goals
    rename_i hk
    refine answers_at hg rfl (ha _ (fOff w).isLt) rfl ?_ (fun _ => ⟨rfl, rfl, rfl, rfl, rfl⟩) fun _ => rfl
    simp [fOff_toNat, hk, toNat_opcode3]

theorem decGroup1_answers (hg : (fGroup w).toNat = 1) : Answers w (decGroup1 w) := by
  have ha : ∀ o < 64, assigned (1 * 64 + o) = decide (o < 48) := by decide
  unfold decGroup1
  simp only [ok_eq_need]
  split
  case h_49 => exact answers_unassigned hg ha (by simp only [imp_false] at *; omega)
  all_goals
    rename_i ho
    exact answers_at hg ho rfl rfl (by simp [toNat_opcode2, fY2_toNat, ho])
      (by simp +contextual [noA, noB, noD]) (by simp +contextual [noA, noB, noD])

theorem decGroup2_answers (hg : (fGroup w).toNat = 2) : Answers w (decGroup2 w) := by
  have ha : ∀ o < 64, assigned (2 * 64 + o) = decide (o < 8 ∨ 32 ≤ o ∧ o < 40) := by decide
  unfold decGroup2
  split
  case h_17 => exact answers_unassigned hg ha (by simp only [imp_false] at *; omega)
  all_goals
    rename_i ho
    exact answers_at hg ho rfl rfl (by simp) (by simp +contextual [noA, noB, noD]) (by simp +contextual [noA, noB, noD])

theorem decGroup3_answers (hg : (fGroup w).toNat = 3) : Answers w (decGroup3 w) := by
  have ha : ∀ o < 64, assigned (3 * 64 + o) = decide (o < 4 ∨ 8 ≤ o ∧ o < 11 ∨ 16 ≤ o ∧ o < 20 ∨ o = 24 ∨ 32 ≤ o ∧ o < 35) := by
    decide
  unfold decGroup3
  simp only [ok_eq_need]
  split
  case h_16 => exact answers_unassigned hg ha (by simp only [imp_false] at *; omega)
  all_goals
    rename_i ho
    exact answers_at hg ho rfl rfl (by simp) (by simp +contextual [noA, noB, noD]) (by simp +contextual [noA, noB, noD])

theorem decGroupF_answers (hg : (fGroup w).toNat = g) (hF : g = 4 ∨ g = 5 ∨ g = 6) : Answers w (decGroupF w) := by
  have ha : ∀ o < 64, assigned (g * 64 + o) = decide (o < 18) := by
    rcases hF with rfl | rfl | rfl <;> decide
  have hm : (4 + g % 4) * 64 = g * 64 := by omega
  unfold decGroupF
  simp only [ok_eq_need]
  split
  case h_19 => exact answers_unassigned hg ha (by simp only [imp_false] at *; omega)
  all_goals
    rename_i ho
    exact answers_at hg ho (ha _ (by decide)) rfl (by simp [toNat_opcodeF, fG_toNat, hg, hm]) (by simp +contextual [noB])
      (by simp +contextual [noB])

theorem decGroup7_answers (hg : (fGroup w).toNat = 7) : Answers w (decGroup7 w) := by
  have ha : ∀ o < 64, assigned (7 * 64 + o) = true := by decide
  have ho : (w.extractLsb' 25 3).toNat < 8 := (w.extractLsb' 25 3).isLt
  unfold decGroup7
  simp only [ok_eq_need]
  split
  case h_9 => simp only [imp_false] at *; omega
  all_goals
    rename_i hk
    refine answers_at hg rfl (ha _ (fOff w).isLt) rfl ?_ (fun _ => ⟨rfl, rfl, rfl, rfl, rfl⟩) fun _ => rfl
    simp [fOff_toNat, hk, toNat_opcode3, ← Nat.add_assoc]

theorem decGroup8_answers (hg : (fGroup w).toNat = 8) : Answers w (decGroup8 w) := by
  have ha : ∀ o < 64, assigned (8 * 64 + o) = decide (o < 30 ∨ 32 ≤ o ∧ o < 41 ∨ 48 ≤ o ∧ o < 50) := by decide
  unfold decGroup8
  simp only [ok_eq_need]
  split
  case h_42 => exact answers_unassigned hg ha (by simp only [imp_false] at *; omega)
  all_goals
    rename_i ho
    exact answers_at hg ho rfl rfl (by simp [toNat_opcode2, fY2_toNat, ho]) (by simp +contextual [noB])
      (by simp +contextual [noB])

theorem decGroup9_answers (hg : (fGroup w).toNat = 9) : Answers w (decGroup9 w) := by
  have ha : ∀ o < 64, assigned (9 * 64 + o) = decide (o < 6 ∨ 8 ≤ o ∧ o < 10 ∨ 16 ≤ o ∧ o < 21) := by decide
  unfold decGroup9
  simp only [ok_eq_need]
  split
  case h_14 => exact answers_unassigned hg ha (by simp only [imp_false] at *; omega)
  all_goals
    rename_i ho
    exact answers_at hg ho rfl rfl (by simp) (by simp +contextual [noA, noB]) (by simp +contextual [noA, noB])

theorem decGroup10_answers (hg : (fGroup w).toNat = 10) : Answers w (decGroup10 w) := by
  have ha : ∀ o < 64, assigned (10 * 64 + o) = decide (o < 4 ∨ 8 ≤ o ∧ o < 10 ∨ 16 ≤ o ∧ o < 25) := by decide
  unfold decGroup10
  split
  case h_16 => exact answers_unassigned hg ha (by simp only [imp_false] at *; omega)
  all_goals
    rename_i ho
    exact answers_at hg ho rfl rfl (by simp) (by simp +contextual [noA, noB, noD]) (by simp +contextual [noA, noB, noD])

theorem decGroup11_answers (hg : (fGroup w).toNat = 11) : Answers w (decGroup11 w) := by
  have ha : ∀ o < 64, assigned (11 * 64 + o) = decide (o < 9) := by decide
  unfold decGroup11
  simp only [ok_eq_need]
  split
  case h_10 => exact answers_unassigned hg ha (by simp only [imp_false] at *; omega)
  all_goals
    rename_i ho
    exact answers_at hg ho rfl rfl (by simp) (by simp +contextual [noA, noB]) (by simp +contextual [noA, noB])

theorem decGroup12_answers (hg : (fGroup w).toNat = 12) : Answers w (decGroup12 w) := by
  have ha : ∀ o < 64, assigned (12 * 64 + o) = decide (o < 50) := by decide
  unfold decGroup12
  simp only [ok_eq_need]
  split
  case h_51 => exact answers_unassigned hg ha (by simp only [imp_false] at *; omega)
  all_goals
    rename_i ho
    exact answers_at hg ho rfl rfl (by simp [toNat_opcode2, fY2_toNat, ho])
      (by simp +contextual [noA, noB, noD]) (by simp +contextual [noA, noB, noD])

theorem decGroup13_answers (hg : (fGroup w).toNat = 13) : Answers w (decGroup13 w) := by
  have ha : ∀ o < 64, assigned (13 * 64 + o) = decide (o < 8) := by decide
  unfold decGroup13
  simp only [ok_eq_need]
  split
  case h_9 => exact answers_unassigned hg ha (by simp only [imp_false] at *; omega)
  all_goals
    rename_i ho
    exact answers_at hg ho rfl rfl (by simp) (by simp +contextual [noA, noB, noD]) (by simp +contextual [noA, noB, noD])

theorem decGroup14_answers (hg : (fGroup w).toNat = 14) : Answers w (decGroup14 w) := by
  have ha : ∀ o < 64, assigned (14 * 64 + o) = decide (o < 3 ∨ 8 ≤ o ∧ o < 14 ∨ 16 ≤ o ∧ o < 18 ∨ 24 ≤ o ∧ o < 37) := by decide
  unfold decGroup14
  simp only [ok_eq_need]
  split
  case h_25 => exact answers_unassigned hg ha (by simp only [imp_false] at *; omega)
  all_goals
    rename_i ho
    exact answers_at hg ho rfl rfl (by simp) (by simp +contextual [noA, noB, noD]) (by simp +contextual [noA, noB, noD])

theorem decGroup15_answers (hg : (fGroup w).toNat = 15) : Answers w (decGroup15 w) := by
  have ha : ∀ o < 64, assigned (15 * 64 + o) = decide (o < 6 ∨ 16 ≤ o ∧ o < 20) := by decide
  unfold decGroup15
  split
  case h_11 => exact answers_unassigned hg ha (by simp only [imp_false] at *; omega)
  all_goals
    rename_i ho
    exact answers_at hg ho rfl rfl (by simp) (by simp +contextual [noA, noB, noD]) (by simp +contextual [noA, noB, noD])

/-- What the decoder answers, of every word. -/
theorem decodeWord_answers : Answers w (decodeWord w) := by
  unfold decodeWord
  split
  case h_17 =>
    have := (fGroup w).isLt
    simp only [imp_false] at *
    omega
  all_goals rename_i hg
  · exact decGroup0_answers hg
  · exact decGroup1_answers hg
  · exact decGroup2_answers hg
  · exact decGroup3_answers hg
  · exact decGroupF_answers hg (.inl rfl)
  · exact decGroupF_answers hg (.inr (.inl rfl))
  · exact decGroupF_answers hg (.inr (.inr rfl))
  · exact decGroup7_answers hg
  · exact decGroup8_answers hg
  · exact decGroup9_answers hg
  · exact decGroup10_answers hg
  · exact decGroup11_answers hg
  · exact decGroup12_answers hg
  · exact decGroup13_answers hg
  · exact decGroup14_answers hg
  · exact decGroup15_answers hg

theorem decodeWord_ok (h : decodeWord w = .ok i) : assigned (fOp w).toNat = true ∧ fields i = some (fieldsOf w) := by
  have ha := decodeWord_answers (w := w)
  rwa [h] at ha

theorem decodeWord_error {e : DecodeErr} (h : decodeWord w = .error e) : e = .unassigned ∧ assigned (fOp w).toNat = false ∨
    assigned (fOp w).toNat = true ∧ (noA w && noB w && noD w) = false := by
  have ha := decodeWord_answers (w := w)
  rw [h] at ha
  cases e with
  | unassigned => exact .inl ⟨rfl, ha⟩
  | unusedField => exact .inr ha
  | tooShort => exact ha.elim

/-- Settles O2: the instruction has the word's own fields (`decodeWord_ok`), and a word is made of its fields. -/
theorem encodeOfDecode : Obligations.EncodeOfDecode := by
  unfold Obligations.EncodeOfDecode
  intro w i h
  rw [encode, (decodeWord_ok h).2, Option.map_some, fieldsOf, wordOf_fields]

/-! ### Assigned opcodes (R102) -/

theorem decodeWord_of_unassigned (ha : assigned (fOp w).toNat = false) : decodeWord w = .error .unassigned := by
  cases h : decodeWord w with
  | ok i => simp [(decodeWord_ok h).1] at ha
  | error e =>
    rcases decodeWord_error h with ⟨rfl, -⟩ | ⟨ht, -⟩
    · rfl
    · simp [ht] at ha

/-- A word of an assigned opcode whose every other field is as R90 requires of an unused one decodes. -/
theorem decodeWord_of_unused (ha : assigned (fOp w).toNat = true) (hu : (noA w && noB w && noD w) = true) :
    ∃ i, decodeWord w = .ok i := by
  cases h : decodeWord w with
  | ok i => exact ⟨i, rfl⟩
  | error e => rcases decodeWord_error h with ⟨-, hf⟩ | ⟨-, hf⟩ <;> simp_all

/-- Settles O4: the decoder's answers say of the opcode whether the map assigns it; the word that decodes has each other field unused. -/
theorem unassignedOpcodes : Obligations.UnassignedOpcodes := by
  unfold Obligations.UnassignedOpcodes
  refine ⟨fun w => decodeWord_of_unassigned, fun n hn => ?_⟩
  let w := wordOf ⟨n, 17, 17, 5, 5, 0⟩
  have hw : fOp w = n := fOp_wordOf _
  obtain ⟨i, hi⟩ := decodeWord_of_unused (w := w) (by rwa [hw]) (by simp [w, noA, noB, noD])
  exact ⟨w, i, hw, hi⟩

end Sys2Proof
end

section
/-! What the word of an instruction decodes to (R87, R101, R102): the instruction (O3), but where the format code is 3 (O1). -/
namespace Sys2Proof

variable {w : BitVec 32} {i : Instr} {f : Fields}

/-! ### Group, offset and type codes of the word of an instruction -/

theorem fGroup_wordOf (f : Fields) : (fGroup (wordOf f)).toNat = f.op.toNat / 64 := by
  rw [fGroup, toNat_field, wordOf_toNat]
  omega

theorem fOff_wordOf (f : Fields) : (fOff (wordOf f)).toNat = f.op.toNat % 64 := by
  rw [fOff, toNat_field, wordOf_toNat]
  omega

theorem code2_cases (y : BitVec 2) : y = 0 ∨ y = 1 ∨ y = 2 ∨ y = 3 := by
  revert y
  decide

/-- An opcode that ends in a type code of three bits: its group, its operation and the code. -/
theorem opcode3_parts (n : BitVec 7) (y : BitVec 3) : (n ++ y : BitVec 10).toNat / 64 = n.toNat / 8 ∧
    (n ++ y : BitVec 10).toNat / 8 % 8 = n.toNat % 8 ∧ (n ++ y : BitVec 10).extractLsb' 0 3 = y := by
  have h := toNat_opcode3 n y
  refine ⟨by omega, by omega, BitVec.eq_of_toNat_eq ?_⟩
  rw [BitVec.extractLsb'_toNat, h, Nat.shiftRight_zero]
  omega

/-- An opcode of groups 4 to 6: its group, its offset and the format code. -/
theorem opcodeF_parts (y : BitVec 2) (k : BitVec 6) : ((1 : BitVec 2) ++ y ++ k : BitVec 10).toNat / 64 = 4 + y.toNat ∧
    ((1 : BitVec 2) ++ y ++ k : BitVec 10).toNat % 64 = k.toNat ∧ ((1 : BitVec 2) ++ y ++ k : BitVec 10).extractLsb' 6 2 = y := by
  have h := toNat_opcodeF 1 y k
  have h1 : (1 : BitVec 2).toNat = 1 := rfl
  have hy := y.isLt
  have hk := k.isLt
  refine ⟨by omega, by omega, BitVec.eq_of_toNat_eq ?_⟩
  rw [BitVec.extractLsb'_toNat, h, Nat.shiftRight_eq_div_pow]
  simp
  omega

theorem fG_wordOf {y : BitVec 2} {k : BitVec 6} {a b : BitVec 5} {d e t : BitVec 4} :
    fG (wordOf ⟨1#2 ++ y ++ k, a, b, d, e, t⟩) = y := by
  rw [fG_eq, fOp_wordOf]
  exact (opcodeF_parts y k).2.2

/-- A format that the map has selects one of the groups 4 to 6. -/
theorem decodeWord_groupF {y : BitVec 2} (hy : y ≠ 3) (hg : (fGroup w).toNat = 4 + y.toNat) : decodeWord w = decGroupF w := by
  rcases code2_cases y with rfl | rfl | rfl | rfl
  · exact decodeWord_group4 w hg
  · exact decodeWord_group5 w hg
  · exact decodeWord_group6 w hg
  · exact absurd rfl hy

theorem fOp3_wordOf (f : Fields) : ((wordOf f).extractLsb' 25 3).toNat = f.op.toNat / 8 % 8 := by
  rw [toNat_field, wordOf_toNat]
  omega

/-- The format code of a floating-point instruction: the map has 0 to 2, for f64, f32 and bf16, and no 3 (R102). -/
def formatCode : Instr → Option (BitVec 2)
  | .fadd g _ _ _ _ _ => some g
  | .fsub g _ _ _ _ _ => some g
  | .fmul g _ _ _ _ _ => some g
  | .fma g _ _ _ _ _ => some g
  | .fms g _ _ _ _ _ => some g
  | .fnma g _ _ _ _ _ => some g
  | .fmin g _ _ _ _ _ => some g
  | .fmax g _ _ _ _ _ => some g
  | .fabs g _ _ _ _ => some g
  | .fneg g _ _ _ _ => some g
  | .fcmpEq g _ _ _ _ _ => some g
  | .fcmpLt g _ _ _ _ _ => some g
  | .fcmpLe g _ _ _ _ _ => some g
  | .fcmpUn g _ _ _ _ _ => some g
  | .fclass g _ _ _ _ => some g
  | .fsqrt g _ _ _ _ => some g
  | .frcpe g _ _ _ _ => some g
  | .fdiv g _ _ _ _ _ => some g
  | _ => none

/-! ### What the word of an instruction decodes to -/

theorem decodeWord_of_control (h : fields i = some f) (hc : onlyControl i = true) : decodeWord (wordOf f) = .ok i := by
  cases i with
  | add y | sub y | mulLo y | mulHi y | div y | rem y | min y | max y =>
    cases h
    rw [decodeWord_group0 _ (by rw [fGroup_wordOf, (opcode3_parts _ y).1]; rfl),
      decGroup0, fOp3_wordOf, (opcode3_parts _ y).2.1]
    simp [fY3_eq, opcode3_parts]
  | cmpEq y | cmpNe y | cmpLt y | cmpLe y | abs y | neg y =>
    cases h
    rcases code2_cases y with rfl | rfl | rfl | rfl <;>
      simp [decodeWord, fGroup_wordOf, decGroup1, fOff_wordOf, fY2_eq, need, noB]
  | sel | and | or | xor | andn | not | shl | shr | sar | rol | ror | extr | extrS | ins | popc | clz | ctz | bswap | pget | pand
  | por | pxor | pnot =>
    cases h
    simp [decodeWord, fGroup_wordOf, decGroup1, fOff_wordOf, need, noA, noB, noD]
  | deq | peek | fwd | emitNull | emitMark | emitErr =>
    cases h
    simp [decodeWord, fGroup_wordOf, decGroup2, fOff_wordOf, need, noA, noB]
  | qCnt | modeRd | swIdx | mlRd =>
    cases h
    simp [decodeWord, fGroup_wordOf, decGroup3, fOff_wordOf, need, noA, noB]
  | rgnStat | nop =>
    cases h
    simp [decodeWord, fGroup_wordOf, decGroup15, fOff_wordOf, need, noA, noB, noD]
  | _ => cases hc

theorem decodeWord_of_vector (h : fields i = some f) (hv : onlyVector i = true) (hg : formatCode i ≠ some 3) :
    decodeWord (wordOf f) = .ok i := by
  cases i with
  | fadd y | fsub y | fmul y | fma y | fms y | fnma y | fmin y | fmax y | fabs y | fneg y | fcmpEq y | fcmpLt y | fcmpLe y
  | fcmpUn y | fclass y | fsqrt y | frcpe y | fdiv y =>
    cases h
    have hy : y ≠ 3 := fun e => hg (congrArg some e)
    rw [decodeWord_groupF hy (by rw [fGroup_wordOf, (opcodeF_parts y _).1]),
      decGroupF, fOff_wordOf, (opcodeF_parts y _).2.1]
    simp [fG_wordOf, need, noB]
  | vadd y | vsub y | vmul y | vmulh y | vmin y | vmax y | vshr y | vcmpLt y =>
    cases h
    rw [decodeWord_group7 _ (by rw [fGroup_wordOf, (opcode3_parts _ y).1]; rfl),
      decGroup7, fOp3_wordOf, (opcode3_parts _ y).2.1]
    simp [fY3_eq, opcode3_parts]
  | vshl y | vcmpEq y | vabs y =>
    cases h
    rcases code2_cases y with rfl | rfl | rfl | rfl <;>
      simp [decodeWord, fGroup_wordOf, decGroup8, fOff_wordOf, fY2_eq, need, noB]
  | vand | vor | vxor | vnot | cvtF32F64 | cvtF64F32 | cvtBf16F32 | cvtF32Bf16 | cvtI32F32 | cvtF32I32 | cvtN32F32 | cvtF32N32
  | cvtI64F64 | cvtF64I64 | vperm | vshuf | vrot | vbcast | vredFaddF64 | vredFaddF32 | vredFaddBf16 | vredFmaxF32 | vredFminF32
  | vredAddI32 | vredAddI64 | vredMaxI32 =>
    cases h
    simp [decodeWord, fGroup_wordOf, decGroup8, fOff_wordOf, need, noB]
  | _ => cases hv

theorem decodeWord_of_memory (h : fields i = some f) (hm : (Machine.info i).mem = true) : decodeWord (wordOf f) = .ok i := by
  cases i with
  | ringBind | ringWaitf | ringWaite | ringAdvp | ringAdvc | ringRd | ringWr | ringRdv | ringWrv =>
    cases h
    simp [decodeWord, fGroup_wordOf, decGroup10, fOff_wordOf, need, noA, noB, noD]
  | agtSet | agtBase | agtDim | agtGo | agtStop | agtCfg | agtHand | agtResume | agtStat =>
    cases h
    simp [decodeWord, fGroup_wordOf, decGroup11, fOff_wordOf, need, noA, noB]
  | amoAdd y | amoFadd y | amoMin y | amoMax y | amoAnd y | amoOr y | amoXor y | amoExch y | amoCas y | fence y | stRel y | ldAcq y =>
    cases h
    rcases code2_cases y with rfl | rfl | rfl | rfl <;>
      simp [decodeWord, fGroup_wordOf, decGroup12, fOff_wordOf, fY2_eq, need, noA, noB, noD]
  | ld | st =>
    cases h
    simp [decodeWord, fGroup_wordOf, decGroup12, fOff_wordOf, need, noB, noD]
  | bteCopy | bteCopyMx | bteAppend | bteTail | bteProm | sleepUntil | bteSeq | bteStat =>
    cases h
    simp [decodeWord, fGroup_wordOf, decGroup13, fOff_wordOf, need, noA, noB, noD]
  | launch | launchTry | barrier | reduce | allreduce | bcast =>
    cases h
    simp [decodeWord, fGroup_wordOf, decGroup14, fOff_wordOf, need, noB]
  | _ => cases hm

theorem decodeWord_of_other (h : fields i = some f) (hc : onlyControl i = false) (hv : onlyVector i = false)
    (hm : (Machine.info i).mem = false) : decodeWord (wordOf f) = .ok i := by
  cases i with
  | pset =>
    cases h
    simp [decodeWord, fGroup_wordOf, decGroup1, fOff_wordOf, need, noD]
  | retag | posReset | deqD | peekD | fwdD | emitNullD | emitMarkD | emitErrD | retagD | posResetD =>
    cases h
    simp [decodeWord, fGroup_wordOf, decGroup2, fOff_wordOf, need, noA, noB, noD]
  | dlGet | dlPut | dlGetD | dlPutD | qClr | qDepth | modeWr | modeSet | modeClr | mlOn | mlOff =>
    cases h
    simp [decodeWord, fGroup_wordOf, decGroup3, fOff_wordOf, need, noA, noB, noD]
  | compressN32 | rep | ext =>
    cases h
    simp [decodeWord, fGroup_wordOf, decGroup8, fOff_wordOf, need, noB]
  | mmaBf16 | mmaF32 | mmaF64 | mmaCb4 | mmaSpBf16 | mmaSpCb4 | mpl | mcb | accZero | accRd | accWr | accCp | sacc =>
    cases h
    simp [decodeWord, fGroup_wordOf, decGroup9, fOff_wordOf, need, noA, noB]
  | ssSet | ssGo | ssStop | ssStat | lmLd | lmSt =>
    cases h
    simp [decodeWord, fGroup_wordOf, decGroup10, fOff_wordOf, need, noB, noD]
  | tsend | hbind | hunbind | futNew | futReg | futRes | futFault | futWait | futRd | join | leave | grpNew | grpSize | xdDispatch
  | xdLoad | xdTab | xdVer | xdStat =>
    cases h
    simp [decodeWord, fGroup_wordOf, decGroup14, fOff_wordOf, need, noA, noB, noD]
  | trap | yield | cfgSel | dbgBrk | clkRd | raceMode | raceLog | raceGen =>
    cases h
    simp [decodeWord, fGroup_wordOf, decGroup15, fOff_wordOf, need, noA, noB, noD]
  | _ => contradiction

/-- The word of an instruction decodes to it, but where its format code is 3, which the map does not have. -/
theorem decodeWord_wordOf (h : fields i = some f) (hg : formatCode i ≠ some 3) : decodeWord (wordOf f) = .ok i := by
  cases hc : onlyControl i with
  | true => exact decodeWord_of_control h hc
  | false =>
    cases hv : onlyVector i with
    | true => exact decodeWord_of_vector h hv hg
    | false =>
      cases hm : (Machine.info i).mem with
      | true => exact decodeWord_of_memory h hm
      | false => exact decodeWord_of_other h hc hv hm

theorem decodeWord_encode (h : encode i = some w) (hg : formatCode i ≠ some 3) : decodeWord w = .ok i := by
  obtain ⟨f, hf, rfl⟩ := Option.map_eq_some_iff.mp h
  exact decodeWord_wordOf hf hg

/-- Refutes O1: format code 3 has no group of its own (R102 gives groups 4 to 6 to codes 0 to 2), so `fadd` with it has the opcode of
group 7's `vadd`, which its word decodes to. Every other instruction keeps the round trip (`decodeWord_encode`). -/
theorem not_decodeOfEncode : ¬ Obligations.DecodeOfEncode := by
  unfold Obligations.DecodeOfEncode
  intro h
  have hf : decodeWord 0x70000000 = .ok (.fadd 3 0 0 0 0 0) := h (.fadd 3 0 0 0 0 0) _ rfl
  have hv : decodeWord 0x70000000 = .ok (.vadd 0 0 0 0 0 0) := decodeWord_encode rfl (by decide)
  rw [hv] at hf
  cases hf

/-- Settles O3: each word is the encoder's of its instruction. -/
theorem decodedWords : Obligations.DecodedWords := by
  unfold Obligations.DecodedWords
  refine ⟨?_, ?_, ?_, ?_, ?_, ?_, ?_, ?_, ?_, ?_, ?_, ?_⟩ <;> exact decodeWord_encode rfl (by decide)

end Sys2Proof
end

section
/-! What a firing takes of its input ports at its start (O12). -/
namespace Sys2Proof

open Machine

variable {s x : State} {i : Instr} {n p ep eq : Nat} {l : List Nat}

/-- A tile's ports have endpoints of their own. -/
theorem tileEp_ne {q : Nat} (h : p ≠ q) : tileEp n p ≠ tileEp n q := by
  unfold tileEp epOf
  omega

/-! ### The ports that a firing dequeues (R91) -/

theorem mem_srcPort {u : Bool} {c : BitVec 5} : p ∈ srcPort u c ↔ p < 6 ∧ u = true ∧ c.toNat = p := by
  have hi : p < 6 ∧ c.toNat = p ↔ c.toNat < 6 ∧ p = c.toNat := by omega
  simp only [srcPort, Bool.and_eq_true, decide_eq_true_eq, List.mem_ite_nil_right, List.mem_singleton]
  tauto

theorem mem_namedPorts : p ∈ namedPorts i ↔
    p < 6 ∧ ((info i).ua = true ∧ (opnds i).a.toNat = p ∨ (info i).ub = true ∧ (opnds i).b.toNat = p) := by
  simp only [namedPorts, List.mem_filter, List.mem_range, List.contains_iff_mem, List.mem_append, mem_srcPort]
  tauto

theorem mem_deqPorts_dequeuing (h : (info i).noDeq = false) : p ∈ deqPorts i ↔ p ∈ namedPorts i := by
  simp [deqPorts, h]

/-- An instruction that looks at A's head alone dequeues another port that B names (R147). -/
theorem mem_deqPorts_looking (h : (info i).noDeq = true) :
    p ∈ deqPorts i ↔ p < 6 ∧ (info i).ub = true ∧ (opnds i).b.toNat = p ∧ (opnds i).a.toNat ≠ p := by
  simp only [deqPorts, h, if_true, List.mem_filter, mem_srcPort, bne_iff_ne, ne_comm (a := p)]
  tauto

theorem srcPort_nodup {u : Bool} {c : BitVec 5} : (srcPort u c).Nodup := by
  unfold srcPort
  split
  · exact List.nodup_singleton _
  · exact List.nodup_nil

/-- Each port is dequeued once. -/
theorem deqPorts_nodup (i : Instr) : (deqPorts i).Nodup := by
  unfold deqPorts
  split
  · exact srcPort_nodup.filter _
  · exact List.nodup_range.filter _

/-! ### A head dequeued -/

theorem inPortOf_congr (h : x.inPorts = s.inPorts) : inPortOf x ep = inPortOf s ep := by
  rw [inPortOf, inPortOf, h]

theorem inPorts_pathStart {k : Nat} {r : Region} : (pathStart s k r ep).inPorts = s.inPorts := by
  unfold pathStart
  dsimp only
  split <;> rfl

/-- Of the input ports, a dequeue replaces the one it names, which loses its head. -/
theorem inPorts_deqHead : (deqHead s ep).inPorts = s.inPorts ∧ (inPortOf s ep).queue = [] ∨
    ∃ t, (deqHead s ep).inPorts = (setInPort s ep t).inPorts ∧ t.queue = (inPortOf s ep).queue.drop 1 := by
  unfold deqHead
  dsimp only
  split
  · rename_i h
    exact .inl ⟨rfl, h⟩
  · rename_i h
    refine .inr ?_
    rw [h]
    split
    · exact ⟨_, rfl, rfl⟩
    · split
      · exact ⟨_, rfl, rfl⟩
      · exact ⟨_, inPorts_pathStart, rfl⟩

theorem queue_deqHead : (inPortOf (deqHead s ep) ep).queue = (inPortOf s ep).queue.drop 1 := by
  rcases inPorts_deqHead (s := s) (ep := ep) with ⟨h, hq⟩ | ⟨t, h, hq⟩
  · rw [inPortOf_congr h, hq, List.drop_nil]
  · rw [inPortOf_congr h, inPortOf_setInPort_same, hq]

theorem inPortOf_deqHead_other (hne : eq ≠ ep) : inPortOf (deqHead s ep) eq = inPortOf s eq := by
  rcases inPorts_deqHead (s := s) (ep := ep) with ⟨h, -⟩ | ⟨t, h, -⟩
  · rw [inPortOf_congr h]
  · rw [inPortOf_congr h, inPortOf_setInPort_other _ _ _ _ hne]

/-- The heads of a list of ports of a tile dequeued. -/
def deqHeads (n : Nat) (l : List Nat) (s : State) : State := l.foldl (fun x p => deqHead x (tileEp n p)) s

theorem inPortOf_deqHeads_other (hp : p ∉ l) : inPortOf (deqHeads n l s) (tileEp n p) = inPortOf s (tileEp n p) := by
  induction l generalizing s with
  | nil => rfl
  | cons q l ih =>
    rw [List.mem_cons, not_or] at hp
    exact (ih hp.2).trans (inPortOf_deqHead_other (tileEp_ne hp.1))

theorem queue_deqHeads (hn : l.Nodup) (hp : p ∈ l) :
    (inPortOf (deqHeads n l s) (tileEp n p)).queue = (inPortOf s (tileEp n p)).queue.drop 1 := by
  induction l generalizing s with
  | nil => cases hp
  | cons q l ih =>
    obtain ⟨hq, hl⟩ := List.nodup_cons.mp hn
    rcases List.mem_cons.mp hp with rfl | hp
    · exact (congrArg InPort.queue (inPortOf_deqHeads_other hq)).trans queue_deqHead
    · have hne : p ≠ q := fun h => hq (h ▸ hp)
      exact (ih hl hp).trans (by rw [inPortOf_deqHead_other (tileEp_ne hne)])

/-! ### The inputs of a firing -/

theorem inPorts_clkAcquire {pn h sc : Nat} {o : ObjId} {b : Place} {y : Option Place} :
    (clkAcquire s pn h o sc b y).inPorts = s.inPorts := by
  unfold clkAcquire
  dsimp only
  repeat' split
  all_goals rfl

theorem inPorts_takePacket : (takePacket s n).inPorts = s.inPorts := by
  unfold takePacket
  split
  · rfl
  · dsimp only
    split <;> split
    · exact inPorts_clkAcquire
    · rfl
    · exact inPorts_clkAcquire
    · rfl

/-- Of the input ports, a firing changes those it dequeues: packets, queue registers and the read stream are elsewhere. -/
theorem inPortOf_started : ∃ x, x.inPorts = s.inPorts ∧
    inPortOf (started i s) ep = inPortOf (deqHeads s.cur.tile (deqPorts i) x) ep := by
  refine ⟨if trTch s.cur.trig = 6 then takePacket s s.cur.tile else s, ?_, inPortOf_congr ?_⟩
  · split
    · exact inPorts_takePacket
    · rfl
  · unfold started takeInputs
    dsimp only [List.range, List.range.loop, List.foldl]
    repeat' split
    all_goals rfl

/-- Settles O12: the ports dequeued are read from the operands, and the start of a firing dequeues each once. -/
theorem headsDequeued : Obligations.HeadsDequeued := by
  unfold Obligations.HeadsDequeued
  intro i s p hp
  obtain ⟨x, hx, hs⟩ := inPortOf_started (s := s) (i := i) (ep := tileEp s.cur.tile p)
  rw [hs]
  refine ⟨fun h => ?_, fun h => ?_, fun h => ?_, fun h => ?_, ?_⟩
  · rw [queue_deqHeads (deqPorts_nodup i) h, inPortOf_congr hx]
  · rw [inPortOf_deqHeads_other h, inPortOf_congr hx]
  · rw [mem_deqPorts_dequeuing h, mem_namedPorts, and_iff_right hp]
  · rw [mem_deqPorts_looking h, and_iff_right hp]
  · rintro a b g (rfl | rfl)
    · rw [mem_deqPorts_looking rfl, and_iff_right hp]
      exact and_iff_right rfl
    · rw [mem_deqPorts_looking rfl, and_iff_right hp]
      exact and_iff_right rfl

end Sys2Proof
end

section
/-! What a firing of latency 1 leaves in its bank: its results in the registers that DA and DB name (O13), and its predicates (O17). -/
namespace Sys2Proof

open Machine

variable {s x : State} {b c : Bank} {i : Instr} {f : Firing} {o : Opnd} {e : Eff} {d u : Dst} {r : Kind × W512} {g : BitVec 4} {k m n : Nat}
  {j : Job} {pd : Bool}

/-! ### The places that DA and DB name (R89, R155) -/

/-- The maintenance loop permutes the k registers. -/
theorem kIdx_inj (h : kIdx b m = kIdx b n) : m = n := by
  by_cases hl : b.mlOn = true
  · simp only [kIdx, hl, Bool.true_and, decide_eq_true_eq] at h
    have hlt : ∀ z, z < b.rs → (z + b.lc) % b.rs < b.rs := fun z hz => Nat.mod_lt _ (by omega)
    split at h
    · rename_i hm
      split at h
      · rename_i hn
        have hc : m % b.rs = n % b.rs := Nat.ModEq.add_right_cancel' b.lc h
        rwa [Nat.mod_eq_of_lt hm, Nat.mod_eq_of_lt hn] at hc
      · have := hlt m hm
        omega
    · split at h
      · rename_i hn
        have := hlt n hn
        omega
      · exact h
  · simpa [kIdx, hl] using h

theorem dstOf_eq_out {t : BitVec 4} : dstOf b pd n g = .out m t ↔ n < 5 ∧ n = m ∧ g = t := by
  unfold dstOf
  split_ifs <;> simp_all

theorem dstOf_eq_k (h : dstOf b pd n g = .k m) : ∃ z, n = z + 6 ∧ kIdx b z = m := by
  unfold dstOf at h
  split_ifs at h
  exact ⟨n - 6, by omega, Dst.k.inj h⟩

theorem dstOf_eq_v (h : dstOf b pd n g = .v m) : n = m + 6 := by
  unfold dstOf at h
  split_ifs at h
  have := Dst.v.inj h
  omega

theorem dstOf_eq_q (h : dstOf b pd n g = .q m) : n = m + 14 ∧ m < 2 := by
  unfold dstOf at h
  split_ifs at h <;> have := Dst.q.inj h <;> omega

theorem dstOf_eq_lm {q v a : Nat} (h : dstOf b pd n g = .lm q v a) : n = 14 := by
  unfold dstOf at h
  split_ifs at h
  assumption

/-- Two selects that name one place are the same. -/
theorem dstOf_inj (hm : dstOf b pd m g = d) (hn : dstOf b pd n g = d) (hd : d ≠ .none) : m = n := by
  cases d with
  | none => exact absurd rfl hd
  | out p t => rw [(dstOf_eq_out.mp hm).2.1, (dstOf_eq_out.mp hn).2.1]
  | k z =>
    obtain ⟨y, rfl, hy⟩ := dstOf_eq_k hm
    obtain ⟨w, rfl, hw⟩ := dstOf_eq_k hn
    rw [kIdx_inj (hy.trans hw.symm)]
  | v z => rw [dstOf_eq_v hm, dstOf_eq_v hn]
  | q z => rw [(dstOf_eq_q hm).1, (dstOf_eq_q hn).1]
  | lm q v a => rw [dstOf_eq_lm hm, dstOf_eq_lm hn]

/-- DA and DB name different places, where they name any (R90). -/
theorem dsts_ne (h : (dsts b i g).1 = d) (hd : d ≠ .none) : (dsts b i g).2 ≠ d := by
  unfold dsts at h ⊢
  dsimp only at h ⊢
  split_ifs at h ⊢ with h1 h2
  · exact hd.symm
  · exact hd.symm
  · exact fun hu => h2 (BitVec.eq_of_toNat_eq (dstOf_inj hu h hd))

theorem dsts_q (h : (dsts b i g).1 = .q n ∨ (dsts b i g).2 = .q n) : n < 2 := by
  unfold dsts at h
  dsimp only at h
  split_ifs at h
  · simp at h
  · exact (dstOf_eq_q (h.resolve_right (by simp))).2
  · exact h.elim (fun h => (dstOf_eq_q h).2) fun h => (dstOf_eq_q h).2

/-! ### The places of the firing's job -/

/-- A position of the write stream is all that a reservation adds to a place (R223). -/
theorem reserveDst_fst (hd : ∀ q v a, d ≠ .lm q v a) : (reserveDst s n u).1 = d ↔ u = d := by
  cases u with
  | lm => exact ⟨fun h => absurd h.symm (hd _ _ _), fun h => absurd h.symm (hd _ _ _)⟩
  | _ => exact .rfl

/-- A place that a job keeps: a register only where the effect writes registers (R166). -/
def keptDst (e : Eff) (d : Dst) : Dst := if !e.regs && dstReg d then .none else d

theorem keptDst_eq (hd : d ≠ .none) (hr : e.regs = true ∨ dstReg d = false) : keptDst e u = d ↔ u = d := by
  unfold keptDst
  split
  · rename_i h
    rw [Bool.and_eq_true, Bool.not_eq_true'] at h
    refine ⟨fun hn => absurd hn.symm hd, fun hu => ?_⟩
    rw [hu] at h
    rcases hr with hr | hr
    · exact absurd h.1 (by simp [hr])
    · exact absurd h.2 (by simp [hr])
  · exact .rfl

section
variable (hl : ∀ q v a, d ≠ .lm q v a) (hd : d ≠ .none) (hr : e.regs = true ∨ dstReg d = false)
include hl hd hr

theorem doneJob_da : (doneJob s i f o e).da = d ↔ (completeDsts s i f o e).1 = d :=
  (keptDst_eq hd hr).trans (reserveDst_fst hl)

theorem doneJob_db : (doneJob s i f o e).db = d ↔ (completeDsts s i f o e).2 = d :=
  (keptDst_eq hd hr).trans (reserveDst_fst hl)

end

/-! ### Queue registers -/

theorem qGet_jobBank : qGet (jobBank j b) n = qGet (putBank (putBank b j.da j.r1) j.db j.r2) n := by
  unfold jobBank
  dsimp only
  split <;> rfl

theorem qGet_qSet_same {l : List W64} : qGet (qSet b n l) n = l := by
  unfold qSet qGet
  split <;> rfl

theorem qGet_qSet_other {l : List W64} (hm : m < 2) (hn : n < 2) (h : n ≠ m) : qGet (qSet b m l) n = qGet b n := by
  obtain ⟨rfl, rfl⟩ | ⟨rfl, rfl⟩ : m = 0 ∧ n = 1 ∨ m = 1 ∧ n = 0 := by omega
  · rfl
  · rfl

theorem qGet_putBank_same (hd : d = .q n) : qGet (putBank b d r) n = qGet b n ++ [r.2.setWidth 64] := by
  subst hd
  exact qGet_qSet_same

theorem qGet_putBank_other (hn : n < 2) (hd : d ≠ .q n) (hq : ∀ m, d = .q m → m < 2) : qGet (putBank b d r) n = qGet b n := by
  cases d with
  | q m => exact qGet_qSet_other (hq m rfl) hn fun h => hd (by rw [h])
  | _ => rfl

theorem qGet_afterBank : qGet (afterBank f i c b) n = qGet b n := by
  unfold afterBank
  dsimp only
  repeat' split
  all_goals rfl

/-! ### Results in registers -/

/-- The registers of the firing's bank at its end are those of `jobBank`. -/
theorem bankOf_finished (hw : e.wait = .none) (hl : e.lat ≤ 1) (hd : e.drop = false) (hb : s.cur.bank < 4) :
    bankOf (tileOf (finished i s e) s.cur.tile) s.cur.bank = jobBank (doneJob s i s.cur (operands i s) e)
      (afterBank s.cur i (curBank s) (bankOf (tileOf e.st s.cur.tile) s.cur.bank)) := bankOf_complete hw hl hd hb

theorem completeDsts_loud (hq : e.quiet = false) : completeDsts s i s.cur (operands i s) e = dsts (curBank s) i (operands i s).tag := by
  simp [completeDsts, hq, curBank]

/-- Where the effect writes registers, the job's registers are those that DA and DB name. -/
theorem doneJob_reg (hr : e.regs = true) (hq : e.quiet = false) (hd : dstReg d = true) :
    ((doneJob s i s.cur (operands i s) e).da = d ↔ (dsts (curBank s) i (operands i s).tag).1 = d) ∧
    ((doneJob s i s.cur (operands i s) e).db = d ↔ (dsts (curBank s) i (operands i s).tag).2 = d) := by
  have hl : ∀ q v a, d ≠ .lm q v a := by
    rintro q v a rfl
    cases hd
  have hn : d ≠ .none := by
    rintro rfl
    cases hd
  rw [← completeDsts_loud hq]
  exact ⟨doneJob_da hl hn (.inl hr), doneJob_db hl hn (.inl hr)⟩

/-- Settles O13: the results are put in the bank one after the other (`jobBank`), and DA and DB name different places (`dsts_ne`). -/
theorem resultWritten : Obligations.ResultWritten := by
  unfold Obligations.ResultWritten
  intro i s e b b0 hw hl hd hq hr hb hB hB0 _
  rw [bankOf_finished hw hl hd hb, ← hB0] at hB
  subst hB
  simp only [kGet_jobBank, vGet_jobBank, qGet_jobBank]
  have hj := fun d => doneJob_reg (s := s) (i := i) (d := d) hr hq
  refine ⟨fun n hn h => ?_, fun n hn h => ?_, fun n h => ?_, fun n hn h => ?_, fun n hn h => ?_, fun n h => ?_⟩
  · rw [kGet_putBank_other (mt (hj _ rfl).2.mp (dsts_ne h nofun)), kGet_putBank_same hn ((hj _ rfl).1.mpr h)]
    rfl
  · rw [vGet_putBank_other (mt (hj _ rfl).2.mp (dsts_ne h nofun)), vGet_putBank_same hn ((hj _ rfl).1.mpr h)]
    rfl
  · rw [qGet_putBank_other (dsts_q (.inl h)) (mt (hj _ rfl).2.mp (dsts_ne h nofun)) fun m hm => dsts_q (.inr ((hj _ rfl).2.mp hm)),
      qGet_putBank_same ((hj _ rfl).1.mpr h), qGet_afterBank]
    rfl
  · exact kGet_putBank_same hn ((hj _ rfl).2.mpr h)
  · exact vGet_putBank_same hn ((hj _ rfl).2.mpr h)
  · rw [qGet_putBank_same ((hj _ rfl).2.mpr h), qGet_putBank_other (dsts_q (.inr h)) (mt (hj _ rfl).1.mp fun ha => dsts_ne ha nofun h)
      fun m hm => dsts_q (.inl ((hj _ rfl).1.mp hm)), qGet_afterBank]
    rfl

/-! ### Predicates (R86, R135) -/

theorem trPsel_lt {t : BitVec 32} : trPsel t < 4 := Nat.mod_lt _ (by decide)

theorem afterBank_p_set (h : trPop f.trig = 1) : (afterBank f i c b).p = (setPred b (trPsel f.trig) true).p := by
  unfold afterBank
  simp only [h]
  split <;> rfl

theorem afterBank_p_clear (h : trPop f.trig = 2) : (afterBank f i c b).p = (setPred b (trPsel f.trig) false).p := by
  unfold afterBank
  simp only [h]
  split <;> rfl

theorem afterBank_p_keep (hs : trPop f.trig ≠ 1) (hc : trPop f.trig ≠ 2) : (afterBank f i c b).p = b.p := by
  unfold afterBank
  dsimp only
  split
  all_goals
    split
    · exact absurd ‹_› hs
    · exact absurd ‹_› hc
    · rfl

/-- Of the predicates, the end of a firing changes that of the trigger word alone. -/
theorem afterBank_p_other (h : n ≠ trPsel f.trig) : (afterBank f i c b).p.getLsbD n = b.p.getLsbD n := by
  by_cases hs : trPop f.trig = 1
  · rw [afterBank_p_set hs, setPred_p_other h]
  · by_cases hc : trPop f.trig = 2
    · rw [afterBank_p_clear hc, setPred_p_other h]
    · rw [afterBank_p_keep hs hc]

/-- Settles O17: the trigger word's update (`afterBank_p`), and with POP = 3 that of the job (`jobBank_p_some`). -/
theorem predicateUpdate : Obligations.PredicateUpdate := by
  unfold Obligations.PredicateUpdate
  intro i s e p q hw hl hd hb hp hq
  rw [bankOf_finished hw hl hd hb] at hq
  subst hp hq
  have hpred : (doneJob s i s.cur (operands i s) e).pred = if trPop s.cur.trig = 3 then some (trPsel s.cur.trig, e.flag) else none := rfl
  have hnone : trPop s.cur.trig ≠ 3 → ∀ n v, (doneJob s i s.cur (operands i s) e).pred ≠ some (n, v) := fun h n v => by
    rw [hpred, if_neg h]
    nofun
  have hother : ∀ n, n ≠ trPsel s.cur.trig → ∀ v, (doneJob s i s.cur (operands i s) e).pred ≠ some (n, v) := fun n hn v => by
    rw [hpred]
    split
    · exact fun h => hn (congrArg Prod.fst (Option.some.inj h)).symm
    · nofun
  refine ⟨fun h => BitVec.eq_of_getLsbD_eq fun n _ => ?_, fun h => ?_, fun h => ?_, fun h => ?_, fun n hn => ?_⟩
  · rw [jobBank_p_other (hnone (by omega) n), afterBank_p_keep (by omega) (by omega)]
  · rw [jobBank_p_other (hnone (by omega) _), afterBank_p_set h, setPred_p_same trPsel_lt]
  · rw [jobBank_p_other (hnone (by omega) _), afterBank_p_clear h, setPred_p_same trPsel_lt]
  · exact jobBank_p_some trPsel_lt (hpred.trans (if_pos h))
  · rw [jobBank_p_other (hother n hn), afterBank_p_other hn]

end Sys2Proof
end

section
/-! The tokens that a firing of latency 1 puts in line at its output ports (O18). -/
namespace Sys2Proof

open Machine

variable {s x : State} {b : Bank} {i : Instr} {f : Firing} {o : Opnd} {e : Eff} {g t : BitVec 4} {l : List Nat} {j n p ep : Nat}

/-! ### The output ports that DA and DB name (R89, R90) -/

theorem mem_outPorts (hn : (info i).dst ≠ .none) : p ∈ outPorts i ↔ p < 5 ∧ ((opnds i).d.toNat = p ∨ (opnds i).e.toNat = p) := by
  simp [outPorts, hn]

theorem outPorts_nodup (i : Instr) : (outPorts i).Nodup := by
  unfold outPorts
  dsimp only
  split
  · exact List.nodup_nil
  · exact List.nodup_range.filter _

theorem dsts_da_out (hn : (info i).dst ≠ .none) : (dsts b i g).1 = .out p t ↔ (opnds i).d.toNat < 5 ∧ (opnds i).d.toNat = p ∧ g = t := by
  simp only [dsts, hn, if_false]
  exact dstOf_eq_out

theorem dsts_db_out (hn : (info i).dst ≠ .none) : (dsts b i g).2 = .out p t ↔
    (opnds i).e ≠ (opnds i).d ∧ (opnds i).e.toNat < 5 ∧ (opnds i).e.toNat = p ∧ g = t := by
  simp only [dsts, hn, if_false]
  split
  · simp [*]
  · simp [*, dstOf_eq_out]

/-! ### A token put in line (R48, R133) -/

theorem outPortOf_congr (h : x.outPorts = s.outPorts) : outPortOf x ep = outPortOf s ep := by
  rw [outPortOf, outPortOf, h]

theorem outPorts_takeRequest : (takeRequest s ep).outPorts = s.outPorts := by
  unfold takeRequest
  repeat' split
  all_goals rfl

/-- An output port's request taken and a token put in line there, as `completePorts` does at each port. -/
def linePort (s : State) (i : Instr) (f : Firing) (x : State) (p : Nat) : State :=
  let x1 := queueOut (takeRequest x (tileEp f.tile p)) (tileEp f.tile p) (tileOf s f.tile).njob none
  setOutPort x1 (tileEp f.tile p) { outPortOf x1 (tileEp f.tile p) with last := lastArrival s f.tile (deqPorts i) }

theorem completePorts_loud (hq : e.quiet = false) : completePorts s i f e = (outPorts i).foldl (linePort s i f) e.st := by
  rw [completePorts, hq]
  rfl

theorem outq_linePort_same : ∃ m, (outPortOf (linePort s i f x p) (tileEp f.tile p)).outq =
    (outPortOf x (tileEp f.tile p)).outq ++ [⟨(tileOf s f.tile).njob, none, m⟩] := by
  refine ⟨outOrdOf (takeRequest x (tileEp f.tile p)) (tileEp f.tile p) (tileOf s f.tile).njob, ?_⟩
  rw [linePort, outPortOf_setOutPort_same, queueOut, outPortOf_setOutPort_same, outPortOf_congr outPorts_takeRequest]

theorem outPortOf_linePort_other (h : j ≠ p) :
    outPortOf (linePort s i f x p) (tileEp f.tile j) = outPortOf x (tileEp f.tile j) := by
  rw [linePort, outPortOf_setOutPort_other _ _ _ _ (tileEp_ne h), queueOut, outPortOf_setOutPort_other _ _ _ _ (tileEp_ne h),
    outPortOf_congr outPorts_takeRequest]

theorem outPortOf_lined_other (hp : p ∉ l) : outPortOf (l.foldl (linePort s i f) x) (tileEp f.tile p) = outPortOf x (tileEp f.tile p) := by
  induction l generalizing x with
  | nil => rfl
  | cons q l ih =>
    rw [List.mem_cons, not_or] at hp
    exact (ih hp.2).trans (outPortOf_linePort_other hp.1)

theorem outq_lined (hn : l.Nodup) (hp : p ∈ l) : ∃ m, (outPortOf (l.foldl (linePort s i f) x) (tileEp f.tile p)).outq =
    (outPortOf x (tileEp f.tile p)).outq ++ [⟨(tileOf s f.tile).njob, none, m⟩] := by
  induction l generalizing x with
  | nil => cases hp
  | cons q l ih =>
    obtain ⟨hq, hl⟩ := List.nodup_cons.mp hn
    rw [List.foldl_cons]
    rcases List.mem_cons.mp hp with rfl | hp
    · rw [outPortOf_lined_other hq]
      exact outq_linePort_same
    · have hne : p ≠ q := fun h => hq (h ▸ hp)
      rw [← outPortOf_linePort_other (s := s) (i := i) (x := x) hne]
      exact ih hl hp

/-! ### The output ports at the end of a firing -/

theorem outPorts_reserveDst {d : Dst} : (reserveDst s n d).2.outPorts = s.outPorts := by
  cases d <;> rfl

theorem outPorts_countBrk : (countBrk s f).outPorts = s.outPorts := by
  unfold countBrk
  repeat' split
  all_goals rfl

theorem outPorts_trapPE {c : Nat} {a : W64} : (trapPE s f c a).outPorts = s.outPorts := by
  unfold trapPE takeTrap
  dsimp only
  split
  · exact modRgn_outPorts _ _ _
  · rfl

/-- The state whose job a firing of latency 1 finishes. -/
def entered (s : State) (i : Instr) (f : Firing) (o : Opnd) (e : Eff) : State :=
  countBrk (enterJob s (placedDsts s i f o e).2 i f (doneJob s i f o e)) f

theorem outPortOf_entered : outPortOf (entered s i f o e) ep = outPortOf (completePorts s i f e) ep :=
  outPortOf_congr (outPorts_countBrk.trans (outPorts_reserveDst.trans outPorts_reserveDst))

theorem outPortOf_complete (hw : e.wait = .none) (hl : e.lat ≤ 1) (hd : e.drop = false) :
    outPortOf (complete s i f o e) ep = outPortOf (finishJob (entered s i f o e) f.tile (doneJob s i f o e)) ep := by
  rw [complete_eq, settled, settleJob_now hw hl hd]
  split
  · exact outPortOf_congr outPorts_trapPE
  · rfl

section
variable (hq : e.quiet = false) (hn : (info i).dst ≠ .none)
include hq hn

theorem doneJob_da_out : (doneJob s i s.cur (operands i s) e).da = .out p t ↔
    (opnds i).d.toNat < 5 ∧ (opnds i).d.toNat = p ∧ (operands i s).tag = t := by
  rw [doneJob_da (d := .out p t) nofun nofun (.inr rfl), completeDsts_loud hq, dsts_da_out hn]

theorem doneJob_db_out : (doneJob s i s.cur (operands i s) e).db = .out p t ↔
    (opnds i).e ≠ (opnds i).d ∧ (opnds i).e.toNat < 5 ∧ (opnds i).e.toNat = p ∧ (operands i s).tag = t := by
  rw [doneJob_db (d := .out p t) nofun nofun (.inr rfl), completeDsts_loud hq, dsts_db_out hn]

/-- The token that a firing writes to an output port becomes known there: the first result's where DA names the port. -/
theorem outq_finishJob_out (hp : p ∈ outPorts i) :
    (outPortOf (finishJob x s.cur.tile (doneJob s i s.cur (operands i s) e)) (tileEp s.cur.tile p)).outq =
      let r := if (opnds i).d.toNat = p then e.r1 else if (info i).dst = .pair then e.r2 else e.r1
      (outPortOf x (tileEp s.cur.tile p)).outq.map (fillTok (jobNo s) ⟨r.1, (operands i s).tag, r.2⟩) := by
  obtain ⟨h5, hde⟩ := (mem_outPorts hn).mp hp
  by_cases hd : (opnds i).d.toNat = p
  · rw [if_pos hd]
    exact outq_finishJob_da ((doneJob_da_out hq hn).mpr ⟨by omega, hd, rfl⟩)
  · rw [if_neg hd]
    have he := hde.resolve_left hd
    refine outq_finishJob_db ((doneJob_db_out hq hn).mpr ⟨?_, by omega, he, rfl⟩) fun q t hda => ?_
    · intro h
      exact hd (h ▸ he)
    · obtain ⟨-, rfl, -⟩ := (doneJob_da_out hq hn).mp hda
      exact tileEp_ne hd

theorem outPortOf_finishJob_other (h5 : p < 5) (hp : p ∉ outPorts i) :
    outPortOf (finishJob x s.cur.tile (doneJob s i s.cur (operands i s) e)) (tileEp s.cur.tile p) = outPortOf x (tileEp s.cur.tile p) := by
  rw [mem_outPorts hn, not_and, not_or] at hp
  obtain ⟨hd, he⟩ := hp h5
  rw [outPortOf_finishJob, outq_putDst_other fun q t h => ?_, outq_putDst_other fun q t h => ?_]
  · rfl
  · obtain ⟨-, rfl, -⟩ := (doneJob_da_out hq hn).mp h
    exact tileEp_ne hd
  · obtain ⟨-, -, rfl, -⟩ := (doneJob_db_out hq hn).mp h
    exact tileEp_ne he

end

theorem fillTok_job {u : Token} {y : OutTok} : (fillTok n u y).job = y.job := by
  unfold fillTok
  split <;> rfl

/-- Settles O18: the token put in line at a port that is written (`outq_lined`) becomes known there (`outq_finishJob_out`). -/
theorem tokensInLine : Obligations.TokensInLine := by
  unfold Obligations.TokensInLine
  intro i s e j h5 hq hd hw hl hn
  rw [finished, outPortOf_complete hw hl hd]
  refine ⟨fun hj => ?_, fun hj => ?_⟩
  · obtain ⟨m, hm⟩ := outq_lined (s := s) (i := i) (f := s.cur) (x := e.st) (outPorts_nodup i) hj
    have ho := outq_finishJob_out (s := s) (x := entered s i s.cur (operands i s) e) hq hn hj
    rw [outPortOf_entered, completePorts_loud hq, hm] at ho
    rw [ho]
    refine ⟨?_, ?_⟩
    · simp [fillTok_job, Function.comp_def, jobNo]
    · simp [fillTok, jobNo]
  · rw [outPortOf_finishJob_other hq hn h5 hj, outPortOf_entered, completePorts_loud hq, outPortOf_lined_other hj]

end Sys2Proof
end

section
/-! What a trap of the firing does (O11), and what a firing of a longer latency leaves to its job (O14). -/
namespace Sys2Proof

open Machine

variable {s x : State} {b c : Bank} {i : Instr} {f : Firing} {o : Opnd} {e : Eff} {d : Dst} {j : Job} {k n : Nat}

/-! ### Traps (R161 to R163) -/

/-- The region of a trap keeps a stop that it has, and is given one within 64 cycles where it has none (R162). -/
theorem rgnOf_stopRegion {r : Region} (h : rgnOf s k = some r) : ∃ r', rgnOf (stopRegion s k) k = some r' ∧
    (r.stopAt = none → ∃ c, r'.stopAt = some c ∧ s.cyc + 1 ≤ c ∧ c ≤ s.cyc + 64) ∧ ∀ c, r.stopAt = some c → r'.stopAt = some c := by
  refine ⟨_, (rgnOf_modRgn_same _ _ _).trans (congrArg _ h), fun hn => ?_, fun c hc => ?_⟩
  · simp only [hn]
    exact ⟨_, rfl, by omega, by omega⟩
  · simp only [hc]

/-- A PE that is stopped fires in no bank. -/
theorem peRuns_stopped (h : (tileOf s n).stopped = true) : peRuns s n = false := by
  simp [peRuns, h]

/-- Settles O11: the tile by `tileOf_takeTrap_same`, its region by `rgnOf_stopRegion`. -/
theorem trapEffect : Obligations.TrapEffect := by
  unfold Obligations.TrapEffect
  rintro s c d _ rfl
  have ht : tileOf (trapPE s s.cur c d) s.cur.tile = _ := tileOf_takeTrap_same s s.cur.tile (trapOf s s.cur c d)
  have hs : (tileOf (trapPE s s.cur c d) s.cur.tile).stopped = true := by rw [ht]
  refine ⟨hs, peRuns_stopped hs, banks_trapPE, ⟨trapOf s s.cur c d, by rw [ht], rfl, rfl, rfl, rfl, rfl, rfl, rfl, rfl, rfl, rfl, rfl⟩,
    fun n hn => tileOf_takeTrap_other s _ n _ hn, trapPE_mem s s.cur c d, fun k r hk hr => ?_⟩
  rw [trapPE, takeTrap, hk]
  exact rgnOf_stopRegion hr

/-! ### A firing of a longer latency (R131, R132) -/

/-- The results of a longer latency are left to come. -/
theorem settleJob_later (hl : 1 < e.lat) (hd : e.drop = false) : settleJob x f e j = x := by
  simp [settleJob, hd, Nat.not_le.mpr hl]

theorem complete_later (hl : 1 < e.lat) (hd : e.drop = false) (ha : e.after = none) :
    complete s i f o e = countBrk (enterJob s (placedDsts s i f o e).2 i f (doneJob s i f o e)) f := by
  rw [complete_eq, ha]
  exact settleJob_later hl hd

theorem tileOf_complete_later (hl : 1 < e.lat) (hd : e.drop = false) (ha : e.after = none) :
    tileOf (complete s i f o e) f.tile = tileOf (enterJob s (placedDsts s i f o e).2 i f (doneJob s i f o e)) f.tile := by
  rw [complete_later hl hd ha, tileOf_sameTiles (sameTiles_countBrk _ f)]

theorem jobs_enterJob : (tileOf (enterJob s x i f j) f.tile).jobs = (tileOf x f.tile).jobs ++ [j] := by
  rw [enterJob, tileOf_modTile_same]

theorem jobs_reserveDst : (tileOf (reserveDst s n d).2 n).jobs = (tileOf s n).jobs := by
  cases d with
  | lm =>
    simp only [reserveDst]
    rw [tileOf_setTile_same]
  | _ => rfl

theorem jobs_placedDsts : (tileOf (placedDsts s i f o e).2 f.tile).jobs = (tileOf e.st f.tile).jobs := by
  rw [placedDsts, jobs_reserveDst, jobs_reserveDst, tileOf_sameTiles (sameTiles_completePorts s i f e)]

theorem jobs_complete_later (hl : 1 < e.lat) (hd : e.drop = false) (ha : e.after = none) :
    (tileOf (complete s i f o e) f.tile).jobs = (tileOf e.st f.tile).jobs ++ [doneJob s i f o e] := by
  rw [tileOf_complete_later hl hd ha, jobs_enterJob, jobs_placedDsts]

/-- The bank of a firing whose results come later has the trigger word's update alone (R86, R155). -/
theorem bankOf_complete_later (hl : 1 < e.lat) (hd : e.drop = false) (ha : e.after = none) (h : f.bank < 4) :
    bankOf (tileOf (complete s i f o e) f.tile) f.bank =
      afterBank f i (bankOf (tileOf s f.tile) f.bank) (bankOf (tileOf e.st f.tile) f.bank) := by
  rw [tileOf_complete_later hl hd ha, bankOf_enterJob h, bankOf_banks banks_placedDsts]

theorem kGet_afterBank : kGet (afterBank f i c b) n = kGet b n := by
  unfold afterBank
  dsimp only
  repeat' split
  all_goals rfl

theorem vGet_afterBank : vGet (afterBank f i c b) n = vGet b n := by
  unfold afterBank
  dsimp only
  repeat' split
  all_goals rfl

/-! ### The places reserved for the results (R223) -/

/-- The place that a job keeps for what DA or DB names: a position of the write stream, reserved now (R223), a register only where the
effect writes registers (R166), and else the place itself. -/
def placeOf (wr : Stream) (e : Eff) (d : Dst) : Dst :=
  match d with
  | .lm _ _ _ => .lm (lmReserve wr).1 (lmReserve wr).2.gen (strAddr (lmReserve wr).2.a0 (lmReserve wr).2.a1 (lmReserve wr).1)
  | d => if e.regs = false ∧ dstReg d = true then .none else d

theorem keptDst_reserveDst : keptDst e (reserveDst s n d).1 = placeOf (tileOf s n).wr e d := by
  cases d <;> simp [keptDst, reserveDst, placeOf, dstReg]

/-- One of DA and DB at most takes a position of the write stream (R90). -/
theorem completeDsts_lm {p v a q w z : Nat} (h : (completeDsts s i f o e).1 = .lm p v a) : (completeDsts s i f o e).2 ≠ .lm q w z := by
  unfold completeDsts dsts at h ⊢
  dsimp only at h ⊢
  split_ifs at h ⊢ with h1 h2 h3
  · nofun
  · exact fun hu => h3 (BitVec.eq_of_toNat_eq ((dstOf_eq_lm hu).trans (dstOf_eq_lm h).symm))

theorem reserveDst_snd (h : ∀ q v a, d ≠ .lm q v a) : (reserveDst s n d).2 = s := by
  cases d with
  | lm q v a => exact absurd rfl (h q v a)
  | _ => rfl

/-- What is reserved for DB does not depend on what was reserved for DA. -/
theorem placeOf_reserveDst {u : Dst} (h : ∀ p v a q w z, u = .lm p v a → d ≠ .lm q w z) :
    placeOf (tileOf (reserveDst s n u).2 n).wr e d = placeOf (tileOf s n).wr e d := by
  cases d with
  | lm q w z => rw [reserveDst_snd fun p v a hu => h p v a q w z hu rfl]
  | _ => rfl

theorem doneJob_da_eq : (doneJob s i f o e).da = placeOf (tileOf e.st f.tile).wr e (completeDsts s i f o e).1 := by
  rw [← tileOf_sameTiles (sameTiles_completePorts s i f e)]
  exact keptDst_reserveDst

theorem doneJob_db_eq : (doneJob s i f o e).db = placeOf (tileOf e.st f.tile).wr e (completeDsts s i f o e).2 := by
  rw [← tileOf_sameTiles (sameTiles_completePorts s i f e)]
  exact keptDst_reserveDst.trans (placeOf_reserveDst fun _ _ _ _ _ _ => completeDsts_lm)

/-- A job whose latency is longer than 1 is not due in the cycle of its firing. -/
theorem resultDue_doneJob (hl : 1 < e.lat) : resultDue s (doneJob s i f o e) = false := by
  have hd : ¬ s.cyc + e.lat - 1 ≤ s.cyc := by omega
  rw [resultDue, doneJob, completeJob, decide_eq_false hd, Bool.and_false]

/-- Settles O14: the tile's jobs by `jobs_complete_later`, its bank by `bankOf_complete_later`. -/
theorem resultLater : Obligations.ResultLater := by
  unfold Obligations.ResultLater
  rintro i s e _ hw hl hd ha rfl hb
  dsimp only
  rw [finished, bankOf_complete_later hl hd ha hb]
  refine ⟨⟨doneJob s i s.cur (operands i s) e, jobs_complete_later hl hd ha, rfl, rfl, rfl, rfl, hw, rfl, rfl, doneJob_da_eq,
    doneJob_db_eq, rfl, resultDue_doneJob hl⟩, fun n => kGet_afterBank, fun n => vGet_afterBank, afterBank_mode⟩

end Sys2Proof
end

section
/-! The frame of the vector unit (O20): what a firing leaves in its tile when its results come later. -/
namespace Sys2Proof

open Machine

variable {s x y z : State} {b c : Bank} {i : Instr} {f : Firing} {o : Opnd} {e : Eff} {n : Nat}

/-! ### Local memory, accumulators and banks of a tile -/

/-- Tile `n` has the local memory, the accumulators and the banks in `y` that it has in `x`. -/
structure StoresKept (n : Nat) (x y : State) : Prop where
  lm : (tileOf y n).lm = (tileOf x n).lm
  acc : (tileOf y n).acc = (tileOf x n).acc
  banks : (tileOf y n).banks = (tileOf x n).banks

theorem StoresKept.refl : StoresKept n x x := ⟨rfl, rfl, rfl⟩

theorem StoresKept.trans (h : StoresKept n x y) (g : StoresKept n y z) : StoresKept n x z :=
  ⟨g.lm.trans h.lm, g.acc.trans h.acc, g.banks.trans h.banks⟩

/-- An operation on ports, channels, regions and partitions alone. -/
theorem SameTiles.stores (h : SameTiles x y) : StoresKept n x y := by
  constructor <;> rw [tileOf_sameTiles h]

theorem modTile_stores {g : Tile → Tile} (hl : ∀ t, (g t).lm = t.lm) (ha : ∀ t, (g t).acc = t.acc) (hb : ∀ t, (g t).banks = t.banks) :
    StoresKept n x (modTile x n g) := by
  constructor <;> rw [tileOf_modTile_same]
  · exact hl _
  · exact ha _
  · exact hb _

theorem takePacket_stores : StoresKept n x (takePacket x n) := by
  have hm : StoresKept n x (modTile x n fun t => { t with present := none }) := modTile_stores (fun _ => rfl) (fun _ => rfl) fun _ => rfl
  unfold takePacket
  split
  · exact .refl
  · dsimp only
    split
    · refine .trans ?_ (sameTiles_infAdd _ _ _ _ _ _).stores
      split
      · exact hm.trans (sameTiles_clkAcquire _ _ _ _ _ _ _).stores
      · exact hm
    · split
      · exact hm.trans (sameTiles_clkAcquire _ _ _ _ _ _ _).stores
      · exact hm

/-- A firing that names no queue register takes heads, a packet and an element of the read stream, and none of these stores. -/
theorem takeInputs_stores (hq : ∀ q, popsQ i q = false) : StoresKept f.tile x (takeInputs x i f) := by
  unfold takeInputs
  dsimp only
  simp only [hq, Bool.false_eq_true, if_false, List.foldl_fixed]
  have hp : StoresKept f.tile x (if trTch f.trig = 6 then takePacket x f.tile else x) := by
    split
    · exact takePacket_stores
    · exact .refl
  have hd := hp.trans (sameTiles_foldl (fun x p => deqHead x (tileEp f.tile p)) (deqPorts i) _ fun s _ => sameTiles_deqHead s _).stores
  split
  · exact hd.trans (modTile_stores (fun _ => rfl) (fun _ => rfl) fun _ => rfl)
  · exact hd

theorem takeTrap_stores {r : Trap} : StoresKept n x (takeTrap x n r) := by
  constructor <;> rw [tileOf_takeTrap_same]

theorem reserveDst_stores {d : Dst} : StoresKept n x (reserveDst x n d).2 := by
  cases d with
  | lm => constructor <;> simp only [reserveDst] <;> rw [tileOf_setTile_same]
  | _ => exact .refl

theorem placedDsts_stores : StoresKept f.tile e.st (placedDsts s i f o e).2 :=
  ((sameTiles_completePorts s i f e).stores.trans reserveDst_stores).trans reserveDst_stores

/-! ### The end of a firing whose results come later -/

theorem lm_complete_later (hl : 1 < e.lat) (hd : e.drop = false) (ha : e.after = none) :
    (tileOf (complete s i f o e) f.tile).lm = (tileOf e.st f.tile).lm := by
  rw [tileOf_complete_later hl hd ha, enterJob, tileOf_modTile_same]
  exact placedDsts_stores.lm

theorem acc_complete_later (hl : 1 < e.lat) (hd : e.drop = false) (ha : e.after = none) :
    (tileOf (complete s i f o e) f.tile).acc = (tileOf e.st f.tile).acc := by
  rw [tileOf_complete_later hl hd ha, enterJob, tileOf_modTile_same]
  exact placedDsts_stores.acc

theorem bankOf_complete_later_other (hl : 1 < e.lat) (hd : e.drop = false) (ha : e.after = none) (hn : n ≠ f.bank) :
    bankOf (tileOf (complete s i f o e) f.tile) n = bankOf (tileOf e.st f.tile) n := by
  rw [tileOf_complete_later hl hd ha, enterJob, tileOf_modTile_same]
  exact (bankOf_setBank_other _ _ _ _ hn).trans (bankOf_banks placedDsts_stores.banks)

theorem afterBank_lc (h : c.mlOn = false) : (afterBank f i c b).lc = b.lc := by
  unfold afterBank
  simp only [h, Bool.false_and, Bool.false_eq_true, if_false]
  split <;> rfl

/-- The end of a firing changes no more of its bank than a predicate and the loop counter (R86, R155). -/
theorem afterBank_eq : afterBank f i c b = { b with p := (afterBank f i c b).p, lc := (afterBank f i c b).lc } := by
  unfold afterBank
  dsimp only
  repeat' split
  all_goals rfl

/-- The bank `c` is `b` but for the predicate that the trigger word of the firing in `s` sets or clears and for the loop counter. -/
def TriggerFrame (s : State) (b c : Bank) : Prop := ∃ p l, c = { b with p := p, lc := l } ∧
  (trPop s.cur.trig = 0 ∨ trPop s.cur.trig = 3 → p = b.p) ∧ (∀ n, n ≠ trPsel s.cur.trig → p.getLsbD n = b.p.getLsbD n) ∧
  (b.mlOn = false → l = b.lc)

theorem TriggerFrame.refl : TriggerFrame s b b := ⟨b.p, b.lc, rfl, fun _ => rfl, fun _ _ => rfl, fun _ => rfl⟩

theorem afterBank_frame : TriggerFrame s b (afterBank s.cur i b b) :=
  ⟨_, _, afterBank_eq, fun h => afterBank_p_keep (by omega) (by omega), fun _ => afterBank_p_other, afterBank_lc⟩

/-! ### The firing of a vector instruction -/

/-- What the firing of a vector instruction leaves in its tile. -/
structure VectorKept (s t : State) : Prop where
  lm : (tileOf t s.cur.tile).lm = (tileOf s s.cur.tile).lm
  acc : (tileOf t s.cur.tile).acc = (tileOf s s.cur.tile).acc
  other : ∀ n, n ≠ s.cur.bank → bankOf (tileOf t s.cur.tile) n = bankOf (tileOf s s.cur.tile) n
  own : TriggerFrame s (curBank s) (bankOf (tileOf t s.cur.tile) s.cur.bank)

theorem StoresKept.vector (h : StoresKept s.cur.tile s x) : VectorKept s x :=
  ⟨h.lm, h.acc, fun _ _ => bankOf_banks h.banks, (bankOf_banks h.banks).symm ▸ .refl⟩

theorem finished_vector (hl : 1 < e.lat) (hd : e.drop = false) (ha : e.after = none) (hs : StoresKept s.cur.tile s e.st) :
    VectorKept s (finished i s e) := by
  refine ⟨(lm_complete_later hl hd ha).trans hs.lm, (acc_complete_later hl hd ha).trans hs.acc,
    fun n hn => (bankOf_complete_later_other hl hd ha hn).trans (bankOf_banks hs.banks), ?_⟩
  by_cases h4 : s.cur.bank < 4
  · rw [finished, bankOf_complete_later hl hd ha h4, bankOf_banks hs.banks]
    exact afterBank_frame
  · rw [curBank, bankOf_outside _ _ h4, bankOf_outside _ _ h4]
    exact .refl

/-- A vector effect is on its results alone, and they come at the instruction's latency (R165, R166). -/
theorem vecEff_go {r : Opnd → VecRes} {m : Nat} (h : vecEff i r x f o m = .go e) :
    e.st = x ∧ e.lat = (info i).lat ∧ e.drop = false ∧ e.after = none := by
  unfold vecEff at h
  split at h <;> cases h <;> exact ⟨rfl, rfl, rfl, rfl⟩

/-- The latencies of a square root and of a division, by format (R170). -/
theorem rootLat_gt (n : Nat) : 1 < (match n with | 0 => 28 | 1 => 16 | _ => 10 : Nat) := by
  split <;> decide

/-- The family takes its operands on the data plane, its results come later than the firing, and its effect is on them alone. -/
theorem onlyVector_fires (h : onlyVector i = true) (s : State) : (info i).pa = true ∧ (info i).pb = true ∧ 1 < (info i).lat ∧
    ∃ r, exec i s = pe s i (vecEff i r) := by
  cases i with
  | fadd | fsub | fmul | fma | fms | fnma | fmin | fmax | fabs | fneg | fcmpEq | fcmpLt | fcmpLe | fcmpUn | fclass | frcpe
  | vadd | vsub | vmul | vmulh | vmin | vmax | vshr | vcmpLt | vshl | vcmpEq | vabs | vand | vor | vxor | vnot
  | cvtF32F64 | cvtF64F32 | cvtBf16F32 | cvtF32Bf16 | cvtI32F32 | cvtF32I32 | cvtN32F32 | cvtF32N32 | cvtI64F64 | cvtF64I64
  | vperm | vshuf | vrot | vbcast | vredFaddF64 | vredFaddF32 | vredFaddBf16 | vredFmaxF32 | vredFminF32 | vredAddI32 | vredAddI64
  | vredMaxI32 =>
    exact ⟨rfl, rfl, Nat.le_of_ble_eq_true rfl, _, rfl⟩
  | fsqrt g | fdiv g => exact ⟨rfl, rfl, rootLat_gt g.toNat, _, rfl⟩
  | _ => cases h

theorem vector_kept {t : State} (hi : onlyVector i = true) (ht : exec i s = .next t) : VectorKept s t := by
  obtain ⟨hpa, hpb, hlat, r, hx⟩ := onlyVector_fires hi s
  rw [hx] at ht
  rcases pe_cases s i (vecEff i r) with h | ⟨c, d, h⟩ | ⟨l, c, d, h⟩ | ⟨e, -, he, h⟩ <;> (rw [h] at ht; cases ht)
  · exact StoresKept.refl.vector
  · exact takeTrap_stores.vector
  · exact ((sameTiles_errNote s l).stores.trans takeTrap_stores).vector
  · obtain ⟨hst, hl, hd, ha⟩ := vecEff_go he
    refine finished_vector (hl ▸ hlat) hd ha (hst ▸ takeInputs_stores fun q => ?_)
    simp [popsQ, hpa, hpb]

/-- Settles O20: the machine beyond the tile by `pe_beyond`, the tile and its bank by `vector_kept`; the memories then read as before. -/
theorem vectorFrame : Obligations.VectorFrame := by
  unfold Obligations.VectorFrame
  intro i s t hi ht
  obtain ⟨hlm, hacc, hother, hown⟩ := vector_kept hi ht
  obtain ⟨-, -, -, r, hx⟩ := onlyVector_fires hi s
  rw [hx] at ht
  have hb : SameBeyond s.cur.tile s t := pe_beyond s t i _ (fun e he => (vecEff_go he).1 ▸ sameBeyond_refl _ _) ht
  have hmem : t.mem = s.mem := congrArg Rest.mem hb.1
  have hmt : t.mtiles = s.mtiles := congrArg Rest.mtiles hb.1
  refine ⟨hb, ⟨fun a => by rw [hmem], fun n a => ?_, fun n a => by rw [mtileOf, mtileOf, hmt]⟩, hacc, hother, hown⟩
  by_cases hn : n = s.cur.tile
  · rw [hn, hlm]
  · rw [hb.2 n hn]

end Sys2Proof
end

section
/-! The instructions of group 1: compares, abs, neg and sel (O29), and logic, shifts and bits (O30). -/
namespace Sys2Proof

open Machine

variable {s : State} {i : Instr} {a b m : W64} {n k w : Nat}

/-- An instruction whose effect is `e` completes with it. -/
theorem completes_of {eff : State → Firing → Opnd → Nat → Effect} {e : Eff} (hx : exec i s = pe s i eff)
    (he : eff (started i s) s.cur (operands i s) (jobNo s) = .go e) : Completes i s e := fun hf => hx.trans (pe_go s i eff e hf he)

/-! ### Compares, abs, neg and sel (R137 to R139) -/

/-- The result of `abs` and of `neg`, with the greatest value of the type written out (R138). -/
theorem aluSigned_eq {w4 : BitVec 2} {t : Int} : aluSigned w4 m t =
    ⟨ext64 true (ires (modeSat m) t (8 * 2 ^ w4.toNat) true).1 (8 * 2 ^ w4.toNat), decide (2 ^ (8 * 2 ^ w4.toNat - 1) - 1 < t),
      (ires (modeSat m) t (8 * 2 ^ w4.toNat) true).2⟩ := by
  simp [aluSigned, w4Width, intHi]

theorem aluAbs_eq {w4 : BitVec 2} : aluAbs w4 m a = aluSigned w4 m |sxN a.toNat (8 * 2 ^ w4.toNat)| := by
  rw [aluAbs, Int.natCast_natAbs, w4Width]

/-- Settles O29: each instruction is `aluEff` of its value. -/
theorem compareNegateSelect : Obligations.CompareNegateSelect := by
  unfold Obligations.CompareNegateSelect
  intro s y a b d e g
  dsimp only
  exact ⟨aluGives_of rfl fun o => rfl, aluGives_of rfl fun o => rfl, aluGives_of rfl fun o => rfl, aluGives_of rfl fun o => rfl,
    aluGives_of rfl fun o => aluAbs_eq.trans aluSigned_eq, aluGives_of rfl fun o => aluSigned_eq, completes_of rfl rfl⟩

/-! ### Shifts and rotations (R140) -/

theorem shiftLeft_eq_ofNat : a <<< n = BitVec.ofNat 64 (a.toNat * 2 ^ n) := by
  refine BitVec.eq_of_toNat_eq ?_
  rw [BitVec.toNat_shiftLeft, Nat.shiftLeft_eq, BitVec.toNat_ofNat]

theorem ushiftRight_eq_ofNat : a >>> n = BitVec.ofNat 64 (a.toNat / 2 ^ n) := by
  refine BitVec.eq_of_toNat_eq ?_
  rw [BitVec.toNat_ushiftRight, Nat.shiftRight_eq_div_pow, BitVec.toNat_ofNat,
    Nat.mod_eq_of_lt ((Nat.div_le_self _ _).trans_lt a.isLt)]

theorem sshiftRight_eq_ofInt : a.sshiftRight n = BitVec.ofInt 64 (a.toInt / 2 ^ n) := by
  rw [BitVec.sshiftRight, Int.shiftRight_eq_div_pow]
  norm_cast

/-- The bits that leave a word at its top and those that stay do not overlap, so that their union is their sum. -/
theorem shiftLeft_or_ushiftRight (h : n ≤ 64) : a <<< n ||| a >>> (64 - n) = BitVec.ofNat 64 (a.toNat * 2 ^ n + a.toNat / 2 ^ (64 - n)) := by
  have hp : 2 ^ 64 = 2 ^ (64 - n) * 2 ^ n := by rw [← Nat.pow_add, Nat.sub_add_cancel h]
  have hlow : a.toNat / 2 ^ (64 - n) < 2 ^ n := Nat.div_lt_of_lt_mul (hp ▸ a.isLt)
  have hmod : a.toNat * 2 ^ n % 2 ^ 64 = (a.toNat % 2 ^ (64 - n)) <<< n := by rw [hp, Nat.mul_mod_mul_right, Nat.shiftLeft_eq]
  have hsum : (a <<< n ||| a >>> (64 - n)).toNat = (a.toNat % 2 ^ (64 - n)) <<< n + a.toNat / 2 ^ (64 - n) := by
    rw [BitVec.toNat_or, BitVec.toNat_shiftLeft, BitVec.toNat_ushiftRight, Nat.shiftLeft_eq, Nat.shiftRight_eq_div_pow, hmod,
      Nat.shiftLeft_add_eq_or_of_lt hlow]
  refine BitVec.eq_of_toNat_eq ?_
  rw [BitVec.toNat_ofNat, Nat.add_mod, hmod, Nat.mod_eq_of_lt ((Nat.div_le_self _ _).trans_lt a.isLt), ← hsum, Nat.mod_eq_of_lt (BitVec.isLt _)]

theorem rotateLeft_eq_ofNat (h : n < 64) : a.rotateLeft n = BitVec.ofNat 64 (a.toNat * 2 ^ n + a.toNat / 2 ^ (64 - n)) := by
  rw [BitVec.rotateLeft_def, Nat.mod_eq_of_lt h, shiftLeft_or_ushiftRight h.le]

theorem rotateRight_eq_ofNat (h : n < 64) : a.rotateRight n = BitVec.ofNat 64 (a.toNat / 2 ^ n + a.toNat * 2 ^ (64 - n)) := by
  have hs := shiftLeft_or_ushiftRight (a := a) (Nat.sub_le 64 n)
  rw [Nat.sub_sub_self h.le] at hs
  rw [BitVec.rotateRight_def, Nat.mod_eq_of_lt h, BitVec.or_comm, hs, Nat.add_comm]

/-! ### Bit fields (R140) -/

theorem bfWidth_eq : bfWidth a = min (a.toNat / 256 % 64 + 1) (64 - a.toNat % 64) := by
  rw [bfWidth, bfPos, Nat.shiftRight_eq_div_pow]

theorem bfWidth_le : bfPos a + bfWidth a ≤ 64 := by
  have : bfPos a < 64 := Nat.mod_lt _ (by decide)
  unfold bfWidth
  omega

/-- A field of w bits from bit k of a word replaced, as a number: the bits below it, its own, and those above it. -/
theorem testBit_field {x y j : Nat} : (x % 2 ^ k + y % 2 ^ w * 2 ^ k + x / 2 ^ (k + w) * 2 ^ (k + w)).testBit j =
    if j < k then x.testBit j else if j < k + w then y.testBit (j - k) else x.testBit j := by
  have hs : x % 2 ^ k + y % 2 ^ w * 2 ^ k + x / 2 ^ (k + w) * 2 ^ (k + w) =
      2 ^ k * (2 ^ w * (x / 2 ^ (k + w)) + y % 2 ^ w) + x % 2 ^ k := by
    rw [Nat.pow_add]
    ring
  rw [hs, Nat.testBit_two_pow_mul_add _ (Nat.mod_lt _ (Nat.two_pow_pos k)), Nat.testBit_mod_two_pow,
    Nat.testBit_two_pow_mul_add _ (Nat.mod_lt _ (Nat.two_pow_pos w)), Nat.testBit_mod_two_pow, Nat.testBit_div_two_pow]
  split_ifs with h1 h2 h3 h3
  · simp [h1]
  · simp [h2]
  · omega
  · omega
  · congr 1
    omega

theorem getLsbD_fieldMask {j : Nat} : (BitVec.ofNat 64 ((2 ^ w - 1) <<< k)).getLsbD j = decide (j < 64 ∧ k ≤ j ∧ j < k + w) := by
  rw [BitVec.getLsbD_ofNat, Nat.testBit_shiftLeft, Nat.testBit_two_pow_sub_one]
  by_cases hk : k ≤ j <;> by_cases hj : j < 64 <;> simp [hk, hj]
  omega

theorem aluIns_eq {l : W64} : aluIns a b l = aluLogic (BitVec.ofNat 64 (a.toNat % 2 ^ bfPos l + b.toNat % 2 ^ bfWidth l * 2 ^ bfPos l
    + a.toNat / 2 ^ (bfPos l + bfWidth l) * 2 ^ (bfPos l + bfWidth l))) := by
  refine congrArg aluLogic (BitVec.eq_of_getLsbD_eq fun j hj => ?_)
  rw [BitVec.getLsbD_ofNat, testBit_field, BitVec.getLsbD_or, BitVec.getLsbD_and, BitVec.getLsbD_and, BitVec.getLsbD_not,
    getLsbD_fieldMask, BitVec.getLsbD_shiftLeft]
  simp only [hj, decide_true, true_and, Bool.true_and, ← BitVec.testBit_toNat]
  split_ifs with h1 h2
  · simp [h1, Nat.not_le.mpr h1]
  · simp [h1, h2, Nat.not_lt.mp h1]
  · simp [h2]

/-! ### Counts and the bytes of a word (R140) -/

theorem countOnes_eq : countOnes a.toNat n = (List.range n).countP fun j => a.getLsbD j := by
  induction n with
  | zero => rfl
  | succ n ih => rw [countOnes, ih, List.range_succ, List.countP_append, List.countP_singleton, BitVec.testBit_toNat]

theorem trailZeros_eq : k + trailZeros a.toNat k n = ((List.range' k n).find? fun j => a.getLsbD j).getD (k + n) := by
  induction n generalizing k with
  | zero => rfl
  | succ n ih =>
    rw [trailZeros, List.range'_succ, List.find?_cons, BitVec.testBit_toNat]
    cases a.getLsbD k with
    | true => rfl
    | false =>
      rw [if_neg nofun, ← Nat.add_assoc, ih, Nat.add_right_comm, Nat.add_assoc]

theorem aluClz_eq : aluClz a = ⟨BitVec.ofNat 64 (63 - Nat.log2 a.toNat + if a = 0 then 1 else 0), a == 0, raiseNone⟩ := by
  by_cases h : a = 0
  · subst h
    rfl
  · have hn : a.toNat ≠ 0 := fun h0 => h (BitVec.eq_of_toNat_eq h0)
    rw [aluClz, if_neg hn, if_neg h, Nat.add_zero]

theorem aluCtz_eq : aluCtz a = ⟨BitVec.ofNat 64 (((List.range 64).find? fun j => a.getLsbD j).getD 64), a == 0, raiseNone⟩ := by
  have h := trailZeros_eq (a := a) (k := 0) (n := 64)
  rw [Nat.zero_add, Nat.zero_add, ← List.range_eq_range'] at h
  rw [aluCtz, h]

theorem eq_ofNat_of_toNat (h : a.toNat = n) : a = BitVec.ofNat 64 n := by
  rw [← h, BitVec.ofNat_toNat, BitVec.setWidth_eq]

/-- Two fields of a word side by side, as a number. -/
theorem toNat_append_eq {v u : Nat} {x : BitVec v} {y : BitVec u} : (x ++ y).toNat = x.toNat * 2 ^ u + y.toNat := by
  rw [BitVec.toNat_append, ← Nat.shiftLeft_add_eq_or_of_lt y.isLt, Nat.shiftLeft_eq]

theorem toNat_byte : (a.extractLsb' n 8).toNat = a.toNat / 2 ^ n % 256 := by
  rw [BitVec.extractLsb'_toNat, Nat.shiftRight_eq_div_pow]

theorem aluBswap_eq : aluBswap a = aluLogic (BitVec.ofNat 64 ((List.range 8).foldl (fun x j => x * 256 + a.toNat / 256 ^ j % 256) 0)) := by
  refine congrArg aluLogic (eq_ofNat_of_toNat ?_)
  simp only [toNat_append_eq, toNat_byte, List.range_succ, List.range_zero, List.foldl_append, List.foldl_cons, List.foldl_nil]
  norm_num

/-- Settles O30: each instruction is `aluEff` of its value, which is the number of its row of the table. -/
theorem logicAndBits : Obligations.LogicAndBits := by
  unfold Obligations.LogicAndBits
  intro s a b d e g
  dsimp only
  have hn : ∀ x : W64, x.toNat % 64 < 64 := fun x => Nat.mod_lt _ (by decide)
  refine ⟨aluGives_of rfl fun o => rfl, aluGives_of rfl fun o => rfl, aluGives_of rfl fun o => rfl, aluGives_of rfl fun o => rfl,
    aluGives_of rfl fun o => rfl, aluGives_of rfl fun o => congrArg aluLogic shiftLeft_eq_ofNat,
    aluGives_of rfl fun o => congrArg aluLogic ushiftRight_eq_ofNat, aluGives_of rfl fun o => congrArg aluLogic sshiftRight_eq_ofInt,
    aluGives_of rfl fun o => congrArg aluLogic (rotateLeft_eq_ofNat (hn _)),
    aluGives_of rfl fun o => congrArg aluLogic (rotateRight_eq_ofNat (hn _)), aluGives_of rfl fun o => ?_, aluGives_of rfl fun o => ?_,
    aluGives_of rfl fun o => ?_, aluGives_of rfl fun o => ?_, aluGives_of rfl fun o => aluClz_eq, aluGives_of rfl fun o => aluCtz_eq,
    aluGives_of rfl fun o => aluBswap_eq⟩
  · rw [← bfWidth_eq, aluExtr, Nat.shiftRight_eq_div_pow]
    rfl
  · rw [← bfWidth_eq, aluExtrS, Nat.shiftRight_eq_div_pow]
    rfl
  · rw [← bfWidth_eq]
    exact aluIns_eq
  · rw [← countOnes_eq]
    rfl

end Sys2Proof
end

section
/-! Predicates (O31), token instructions (O32), delay lines, queue registers and the mode word (O33), and the maintenance loop, the movers
between the planes and the system instructions (O34). -/
namespace Sys2Proof

open Machine

variable {s : State} {i : Instr} {o : Opnd} {c : Chan} {p : BitVec 4} {a b : W64} {k n : Nat}

/-! ### Predicates (R141, R142) -/

/-- A predicate that B marks becomes A's bit; every other stays (R141). -/
theorem getLsbD_psetP (h : n < 4) : (psetP p a b).getLsbD n = if b.getLsbD n then a.getLsbD n else p.getLsbD n := by
  simp only [psetP, BitVec.getLsbD_or, BitVec.getLsbD_and, BitVec.getLsbD_not, BitVec.getLsbD_extractLsb', Nat.zero_add, h, decide_true,
    Bool.true_and]
  cases b.getLsbD n <;> simp

theorem aluPget_eq : aluPget p = ⟨BitVec.ofNat 64 p.toNat, p != 0, raiseNone⟩ := by
  revert p
  decide

theorem litPY_eq : litPY p a = p.getLsbD (a.toNat / 256 % 4) := by
  rw [litPY, Nat.shiftRight_eq_div_pow]

/-- Settles O31: `pset` by `getLsbD_psetP`, the others by their effects. -/
theorem predicates : Obligations.Predicates := by
  unfold Obligations.Predicates
  intro s a b d e g
  dsimp only
  simp only [← litPY_eq]
  refine ⟨⟨psetP (operands (.pset a b g) s).p (operands (.pset a b g) s).ka (operands (.pset a b g) s).kb, completes_of rfl rfl,
    fun n hn => getLsbD_psetP hn⟩, completes_of (eff := aluEff (.pget d e g) fun o => aluPget o.p) rfl ?_, completes_of rfl rfl,
    completes_of rfl rfl, completes_of rfl rfl, completes_of rfl rfl⟩
  simp only [aluEff, aluPget_eq]
  rfl

/-! ### Token instructions (R145 to R147) -/

theorem dataFlag_eq_any {x : Option Token} : (x.map fun h => h.kind == .data).getD false = x.any fun h => h.kind == .data := by
  cases x <;> rfl

/-- `deq` and `peek` write A's payload as DATA (R145). -/
theorem takeEff_eq {f : Firing} {j : Nat} : takeEff s f o j = .go { st := s, r1 := (.data, o.a), flag := o.ha.any fun h => h.kind == .data } := by
  rw [takeEff, dataFlag_eq_any]

/-- `fwd` writes A's payload with its kind (R145). -/
theorem fwdEff_eq {f : Firing} {j : Nat} : fwdEff s f o j =
    .go { st := s, r1 := ((o.ha.map (·.kind)).getD .data, o.a), flag := o.ha.any fun h => h.kind == .data } := by
  rw [fwdEff, dataFlag_eq_any]

/-- Settles O32: each instruction has the effect of its entry, the same on both planes. -/
theorem tokenInstructions : Obligations.TokenInstructions := by
  unfold Obligations.TokenInstructions
  intro s a b d e g
  exact ⟨completes_of rfl takeEff_eq, completes_of rfl takeEff_eq, completes_of rfl fwdEff_eq, completes_of rfl rfl, completes_of rfl rfl,
    completes_of rfl rfl, completes_of rfl rfl, completes_of rfl rfl,
    completes_of rfl takeEff_eq, completes_of rfl takeEff_eq, completes_of rfl fwdEff_eq, completes_of rfl rfl, completes_of rfl rfl,
    completes_of rfl rfl, completes_of rfl rfl, completes_of rfl rfl⟩

/-! ### Delay lines, queue registers, mode word (R148 to R152) -/

/-- The values of the delay line that the firing names (R148). -/
def lineVals (s : State) (f : Firing) : List W512 := ((lineOf s f).map fun c => c.2.line).getD []

/-- `dl.get` reads the stage that A numbers, with flag 1 where it holds a value (R148). -/
theorem dlGetEff_eq {f : Firing} {j : Nat} : dlGetEff s f o j =
    .go { st := s, r1 := (.data, ((lineVals s f)[o.ka.toNat]?).getD 0), flag := decide (o.ka.toNat < (lineVals s f).length) } := by
  have hs : ((lineVals s f)[o.ka.toNat]?).isSome = decide (o.ka.toNat < (lineVals s f).length) :=
    Bool.eq_iff_iff.mpr (by simp)
  rw [← hs]
  rfl

/-- `dl.put` replaces the stage that B numbers (R148). -/
theorem dlPutEff_put {f : Firing} {j : Nat} (hl : lineOf s f = some (k, c)) (hn : o.kb.toNat < c.line.length) :
    dlPutEff s f o j = .go { st := setChan s k { c with line := c.line.set o.kb.toNat o.a }, flag := true } := by
  simp only [dlPutEff, hl, hn, if_true]

/-- Beyond the stages that hold a value, `dl.put` changes nothing (R148). -/
theorem dlPutEff_beyond {f : Firing} {j : Nat} (hn : (lineVals s f).length ≤ o.kb.toNat) : dlPutEff s f o j = .go { st := s, flag := false } := by
  unfold lineVals at hn
  unfold dlPutEff
  cases hl : lineOf s f with
  | none => rfl
  | some x =>
    rw [hl] at hn
    exact if_neg (Nat.not_lt.mpr hn)

/-- Settles O33: delay lines by `dlGetEff_eq` and the two cases of `dlPutEff`; `q.depth` by its range. -/
theorem linesQueuesMode : Obligations.LinesQueuesMode := by
  unfold Obligations.LinesQueuesMode
  intro s a b d e g
  dsimp only
  refine ⟨completes_of rfl dlGetEff_eq, completes_of rfl dlGetEff_eq,
    ⟨fun k c hl hn => completes_of rfl (dlPutEff_put hl hn), fun hn => completes_of rfl (dlPutEff_beyond hn)⟩,
    ⟨fun k c hl hn => completes_of rfl (dlPutEff_put hl hn), fun hn => completes_of rfl (dlPutEff_beyond hn)⟩,
    ?_, completes_of rfl rfl, fun h1 h16 => ?_, fun hn => ?_, completes_of rfl rfl, completes_of rfl rfl, completes_of rfl rfl,
    completes_of rfl rfl, completes_of rfl rfl⟩
  · generalize hq : qGet (bankOf (tileOf (started (.qCnt a d e g) s) s.cur.tile) s.cur.bank) (a.toNat - 14) = q
    refine completes_of rfl ?_
    show Effect.go _ = _
    simp only [qSel, hq]
    cases q <;> rfl
  · refine completes_of rfl ?_
    simp only [h1, h16, decide_true, Bool.and_self, if_true]
    rfl
  · refine completes_of rfl (if_neg ?_)
    simp only [Bool.and_eq_true, decide_eq_true_eq]
    omega

/-! ### The maintenance loop, the movers and the system instructions (R153 to R160, R423) -/

/-- The inputs of a firing are taken in its cycle. -/
theorem started_cyc : (started i s).cyc = s.cyc := congrArg Rest.cyc (sameBeyond_takeInputs s i s.cur).1

/-- A lane of 64 bits, as a word. -/
theorem ofNat_lane {x : W512} : BitVec.ofNat 64 (lane x 64 n) = x.extractLsb' (64 * n) 64 :=
  (eq_ofNat_of_toNat (BitVec.extractLsb'_toNat _ _ _)).symm

/-- Settles O34: each instruction has the effect of its entry; `ml.on` and `dbg.brk` by their cases. -/
theorem systemInstructions : Obligations.SystemInstructions := by
  unfold Obligations.SystemInstructions
  intro s a b d e g
  dsimp only
  refine ⟨⟨fun hm h1 h8 => completes_of rfl ?_, fun hm hn => completes_of rfl ?_, fun hm hf => ?_⟩, completes_of rfl rfl,
    completes_of rfl rfl, completes_of rfl rfl, completes_of rfl ?_, completes_of rfl rfl, completes_of rfl ?_, completes_of rfl ?_,
    completes_of rfl rfl, ⟨fun k r hr hb => completes_of rfl ?_, fun k r hr hb => completes_of rfl ?_⟩, completes_of rfl rfl⟩
  case refine_1 =>
    rw [if_pos hm]
    simp only [h1, h8, decide_true, Bool.and_self, if_true]
    rfl
  case refine_2 =>
    rw [if_pos hm, if_neg]
    simp only [Bool.and_eq_true, decide_eq_true_eq]
    omega
  case refine_3 => exact pe_stop s _ _ _ _ hf (if_neg (by rw [hm]; decide))
  case refine_4 => rw [ofNat_lane]
  case refine_5 => rw [started_cyc, tileDone]
  case refine_6 => rw [started_cyc, tileDone]
  case refine_7 => simp only [hr, hb, if_true]
  case refine_8 => simp only [hr, hb, Bool.false_eq_true, if_false]

end Sys2Proof
end

section
/-! A region resumed (R378, R164), and the commands of the debug port (O53). -/
namespace Sys2Proof

open Machine

variable {s x y z : State} {c : BitVec 512} {r : Region} {k m n : Nat}

/-! ### Operations on no tile and no region -/

/-- The tiles and the regions of `x` are those of `y`. -/
structure FabricKept (x y : State) : Prop where
  tiles : y.tiles = x.tiles
  rgns : y.rgns = x.rgns

theorem FabricKept.refl : FabricKept x x := ⟨rfl, rfl⟩

theorem FabricKept.trans (h : FabricKept x y) (g : FabricKept y z) : FabricKept x z := ⟨g.tiles.trans h.tiles, g.rgns.trans h.rgns⟩

theorem FabricKept.ofPair {α : Type} {p : State × α} {a : α} (h : FabricKept x p.1) (e : p = (y, a)) : FabricKept x y := by
  rwa [e] at h

theorem FabricKept.ofPair' {α : Type} {p : α × State} {a : α} (h : FabricKept x p.2) (e : p = (a, y)) : FabricKept x y := by
  rwa [e] at h

theorem FabricKept.tileOf (h : FabricKept x y) : Machine.tileOf y n = Machine.tileOf x n := by
  rw [Machine.tileOf, Machine.tileOf, h.tiles]

theorem FabricKept.rgnOf (h : FabricKept x y) : Machine.rgnOf y k = Machine.rgnOf x k := by
  rw [Machine.rgnOf, Machine.rgnOf, h.rgns]

theorem physSet_fabric {a v : Nat} : FabricKept x (physSet x a v n) := ⟨rfl, rfl⟩

theorem dieEnter_fabric {d : Nat} {e : TlbEnt} : FabricKept x (dieEnter x d e) := ⟨rfl, rfl⟩

theorem poolPage_fabric {pn pa : Nat} (e : poolPage x pn = some (pa, y)) : FabricKept x y := by
  simp only [poolPage] at e
  split at e
  · cases e
    exact ⟨rfl, rfl⟩
  · cases e

theorem walkAlloc_fabric {pn vp : Nat} {write : Bool} : FabricKept x (walkAlloc x pn vp write n).2 := by
  induction n generalizing x with
  | zero => exact .refl
  | succ n ih =>
    unfold walkAlloc
    split
    · exact .refl
    · split
      · split
        · rename_i hp
          exact ((poolPage_fabric hp).trans physSet_fabric).trans ih
        · exact .refl
      · exact .refl

theorem walkServed_fabric {pn vp : Nat} {write : Bool} : FabricKept x (walkServed x pn vp write).2 := by
  unfold walkServed
  split
  · exact walkAlloc_fabric
  · exact .refl

theorem walkNow_fabric {d pn vp : Nat} {write : Bool} : FabricKept x (walkNow x d pn vp write).1 := by
  unfold walkNow
  dsimp only
  split
  · split
    · exact walkServed_fabric.ofPair' ‹_›
    · exact (walkServed_fabric.ofPair' ‹_›).trans dieEnter_fabric
  · exact walkServed_fabric.ofPair' ‹_›

theorem xlateNow_fabric {d pn vp : Nat} {write : Bool} : FabricKept x (xlateNow x d pn vp write).1 := by
  unfold xlateNow
  split
  · split
    · exact walkNow_fabric
    · exact .refl
  · exact walkNow_fabric

theorem againAt_fabric {a : W64} : FabricKept x (againAt x n a).1 := by
  unfold againAt
  split
  · exact .refl
  · split
    · exact xlateNow_fabric.ofPair ‹_›
    · exact xlateNow_fabric.ofPair ‹_›
  · exact .refl

theorem powerTouch_fabric {pn : Nat} {l : Loc} : FabricKept x (powerTouch x pn l).2 := by
  unfold powerTouch stackWake
  dsimp only
  split
  · dsimp only
    split <;> exact ⟨rfl, rfl⟩
  · exact ⟨rfl, rfl⟩
  · exact .refl

theorem accDelay_fabric {pn : Nat} {l : Loc} : FabricKept x (accDelay x pn l).2 := by
  unfold accDelay
  split
  · exact .refl
  · split <;> exact ⟨rfl, rfl⟩
  · exact ⟨rfl, rfl⟩

theorem accIssue_fabric {a : Acc} {extra : Nat} : FabricKept x (accIssue x a extra).2 := by
  have hf : FabricKept x (freshId x).2 := ⟨rfl, rfl⟩
  have h := (hf.trans (powerTouch_fabric (pn := a.part) (l := a.loc))).trans (accDelay_fabric (pn := a.part) (l := a.loc))
  exact ⟨h.tiles, h.rgns⟩

theorem descIssue_fabric {f : Firing} {a : W64} {j : Nat} {b : Bool} {u v : Loc × Nat} : FabricKept x (descIssue x f a j b u v) := by
  unfold descIssue
  dsimp only
  split
  · exact accIssue_fabric
  · exact accIssue_fabric.trans accIssue_fabric

theorem accs_fabric {l : List Acc} : FabricKept x { x with accs := l } := ⟨rfl, rfl⟩

theorem clkRelease_fabric {pn h sc : Nat} {i : ObjId} {a : Place} : FabricKept x (clkRelease x pn h i sc a) := by
  unfold clkRelease
  dsimp only
  split <;> exact ⟨rfl, rfl⟩

theorem clkAcquire_fabric {pn h sc : Nat} {i : ObjId} {b : Place} {u : Option Place} : FabricKept x (clkAcquire x pn h i sc b u) := by
  unfold clkAcquire
  dsimp only
  repeat' split
  all_goals exact ⟨rfl, rfl⟩

/-- A walker that a race has stalled presents its access again (R324): no page is walked. -/
theorem agtResumeNow_fabric (h : (agtOf x n).raced.isSome = true) : FabricKept x (agtResumeNow x n) := by
  unfold agtResumeNow
  dsimp only
  rw [if_pos h]
  split <;> exact ⟨rfl, rfl⟩

/-! ### Operations on one tile -/

/-- Of the tiles, `y` differs from `x` in tile `m` alone; every region has the state that it has in `x`. -/
structure OnTile (m : Nat) (x y : State) : Prop where
  other : ∀ n, n ≠ m → tileOf y n = tileOf x n
  st : ∀ k, (rgnOf y k).map (·.st) = (rgnOf x k).map (·.st)

theorem OnTile.refl : OnTile m x x := ⟨fun _ _ => rfl, fun _ => rfl⟩

theorem OnTile.trans (h : OnTile m x y) (g : OnTile m y z) : OnTile m x z :=
  ⟨fun n hn => (g.other n hn).trans (h.other n hn), fun k => (g.st k).trans (h.st k)⟩

theorem FabricKept.onTile (h : FabricKept x y) : OnTile m x y := ⟨fun _ _ => h.tileOf, fun k => by rw [h.rgnOf]⟩

theorem modTile_onTile {f : Tile → Tile} : OnTile m x (modTile x m f) := ⟨fun n hn => tileOf_modTile_other x m n f hn, fun _ => rfl⟩

/-- An update of a region that keeps its state. -/
theorem map_st_modRgn {f : Region → Region} (hf : ∀ r, (f r).st = r.st) : (rgnOf (modRgn x m f) k).map (·.st) = (rgnOf x k).map (·.st) := by
  by_cases hk : k = m
  · rw [hk, rgnOf_modRgn_same, Option.map_map]
    exact Option.map_congr fun r _ => hf r
  · rw [rgnOf_modRgn_other x m k f hk]

theorem stopRegion_onTile : OnTile m x (stopRegion x k) :=
  ⟨fun n _ => tileOf_stopRegion x k n, fun _ => by
    rw [stopRegion, freeDelay]
    exact map_st_modRgn fun _ => rfl⟩

theorem takeTrap_onTile {r : Trap} : OnTile m x (takeTrap x m r) := by
  unfold takeTrap
  dsimp only
  split
  · exact modTile_onTile.trans stopRegion_onTile
  · exact modTile_onTile

theorem OnTile.foldl {α : Type} {f : State → α → State} {l : List α} (h : ∀ x, ∀ a ∈ l, OnTile m x (f x a)) : OnTile m x (l.foldl f x) := by
  induction l generalizing x with
  | nil => exact .refl
  | cons a l ih => exact (h x a List.mem_cons_self).trans (ih fun x b hb => h x b (List.mem_cons_of_mem _ hb))

/-! ### A tile and its region resumed (R164, R353, R378) -/

/-- The second part of a descriptor read again, where it has one. -/
theorem againPart_fabric {q : Prop} [Decidable q] {a : W64} {l : Loc} {v : Except W64 Loc}
    (e : (if q then (x, .ok l) else againAt x n a) = (y, v)) : FabricKept x y := by
  split at e
  · cases e
    exact .refl
  · exact againAt_fabric.ofPair e

/-- A trapped launch presented again touches its own tile at most: where its descriptor cannot be read, it traps again. -/
theorem launchAgain_onTile {t : Trap} : OnTile m x (launchAgain x m t) := by
  unfold launchAgain
  dsimp only
  split
  · exact .refl
  · split
    · exact (againAt_fabric.ofPair ‹_›).onTile.trans takeTrap_onTile
    · have h1 := againAt_fabric.ofPair ‹_›
      split
      · exact (h1.trans (againPart_fabric ‹_›)).onTile.trans takeTrap_onTile
      · exact ((h1.trans (againPart_fabric ‹_›)).trans descIssue_fabric).onTile

theorem resumeTile_onTile : OnTile m x (resumeTile x m) := by
  unfold resumeTile
  dsimp only
  exact .trans (.trans modTile_onTile accs_fabric.onTile) (.foldl fun _ _ _ => launchAgain_onTile)

/-- The tile `u` is resumed from `t`: its PE fires again on the bank of the last record, and no trap is left (R164). -/
structure TileResumed (t u : Tile) : Prop where
  stopped : u.stopped = false
  traps : u.traps = []
  bank : u.bank = (t.traps.getLast?.map (·.bank)).getD t.bank

/-- A tile none of whose traps is a launch to present again is resumed by its own step. -/
theorem tileOf_resumeTile (h : ∀ t ∈ (tileOf x m).traps, t.again = none) : TileResumed (tileOf x m) (tileOf (resumeTile x m) m) := by
  have hid : ∀ (l : List Trap) (w : State), (∀ t ∈ l, t.again = none) → l.foldl (fun x t => launchAgain x m t) w = w := by
    intro l
    induction l with
    | nil => exact fun _ _ => rfl
    | cons t l ih =>
      intro w hl
      have ht : launchAgain w m t = w := by rw [launchAgain, hl t List.mem_cons_self]
      rw [List.foldl_cons, ht, ih w fun u hu => hl u (List.mem_cons_of_mem _ hu)]
  unfold resumeTile
  dsimp only
  have ha : ∀ f l, tileOf { modTile x m f with accs := l } m = f (tileOf x m) := fun f _ => tileOf_modTile_same x m f
  rw [hid _ _ h, ha]
  exact ⟨rfl, rfl, rfl⟩

/-- A tile that is resumed stays so while tiles are resumed, itself again among them. -/
theorem TileResumed.again {t : Tile} (h : TileResumed t (tileOf x n)) : TileResumed t (tileOf (resumeTile x m) n) := by
  by_cases hm : n = m
  · subst hm
    have hr := tileOf_resumeTile (x := x) (m := n) (by simp [h.traps])
    refine ⟨hr.stopped, hr.traps, hr.bank.trans ?_⟩
    rw [h.traps]
    exact h.bank
  · rwa [resumeTile_onTile.other n hm]

theorem TileResumed.foldl {t : Tile} {l : List Nat} (h : TileResumed t (tileOf x n)) : TileResumed t (tileOf (l.foldl resumeTile x) n) := by
  induction l generalizing x with
  | nil => exact h
  | cons m l ih => exact ih h.again

theorem tileOf_foldl_resumeTile {l : List Nat} (hn : n ∈ l) (h : ∀ t ∈ (tileOf x n).traps, t.again = none) :
    TileResumed (tileOf x n) (tileOf (l.foldl resumeTile x) n) := by
  induction l generalizing x with
  | nil => cases hn
  | cons m l ih =>
    rw [List.foldl_cons]
    by_cases hm : n = m
    · subst hm
      exact (tileOf_resumeTile h).foldl
    · have hk := resumeTile_onTile (x := x).other n hm
      have hr := ih (x := resumeTile x m) ((List.mem_cons.mp hn).resolve_left hm) (by rwa [hk])
      rwa [hk] at hr

theorem map_st_foldl_resumeTile {l : List Nat} : (rgnOf (l.foldl resumeTile x) k).map (·.st) = (rgnOf x k).map (·.st) := by
  induction l generalizing x with
  | nil => rfl
  | cons m l ih => exact ih.trans (resumeTile_onTile.st k)

theorem resumeAgts_fabric {l : List Nat} : FabricKept x (l.foldl (fun x n => if (agtOf x n).raced.isSome then agtResumeNow x n else x) x) := by
  induction l generalizing x with
  | nil => exact .refl
  | cons m l ih =>
    refine .trans ?_ ih
    dsimp only
    split
    · exact agtResumeNow_fabric ‹_›
    · exact .refl

/-- The region that is resumed is live (R378). -/
theorem map_st_resumeRegion (h : rgnOf x k = some r) : (rgnOf (resumeRegion x k) k).map (·.st) = some .live := by
  unfold resumeRegion
  dsimp only
  rw [resumeAgts_fabric.rgnOf, map_st_foldl_resumeTile, rgnOf_modRgn_same, h]
  rfl

theorem tileOf_resumeRegion (hn : n ∈ rgnTiles x k) (h : ∀ t ∈ (tileOf x n).traps, t.again = none) :
    TileResumed (tileOf x n) (tileOf (resumeRegion x k) n) := by
  unfold resumeRegion rgnTiles
  dsimp only
  rw [resumeAgts_fabric.tileOf, modRgn_tiles]
  have ht := fun f => tileOf_modRgn x k f n
  rw [← ht fun r => { r with st := .live, stopAt := none, wasFrozen := false }] at h ⊢
  exact tileOf_foldl_resumeTile hn h

end Sys2Proof
end

section
/-! The commands of the debug port (O53). -/
namespace Sys2Proof

open Machine

variable {s : State} {c : BitVec 512} {r : Region} {n : Nat} {bad : Bool} {act : State} {go : Nat → Region → State}

/-! ### A command under way (R425, R426) -/

theorem dbgRun_refuses (ho : dbgOpen s c = true) (hb : bad = true) : dbgRun s c bad act = .next (dbgEnd s 0x133 none) := by
  simp [dbgRun, ho, hb]

theorem dbgRun_acts (ho : dbgOpen s c = true) (hp : dbgPart c < 16) (hb : bad = false) : dbgRun s c bad act = .next act := by
  simp [dbgRun, ho, hb, hp]

theorem dbgRgn_none (h : rgnOf s (dbgKey c) = none) : dbgRgn s c go = dbgEnd s 0x109 none := by
  rw [dbgRgn, h]

theorem dbgRgn_some (h : rgnOf s (dbgKey c) = some r) : dbgRgn s c go = go (dbgKey c) r := by
  rw [dbgRgn, h]

theorem dbgEnd_fabric {st : Nat} {v : Option (BitVec 512)} : FabricKept s (dbgEnd s st v) := ⟨rfl, rfl⟩

theorem rgnOf_dbgEnd {st k : Nat} {v : Option (BitVec 512)} : rgnOf (dbgEnd s st v) k = rgnOf s k := rfl

section
variable (ho : dbgOpen s c = true) (hp : dbgPart c < 16)
include ho hp

/-- A command on a region that the partition does not hold is refused (R374). -/
theorem dbgRun_noRgn (hn : rgnOf s (dbgKey c) = none) (hb : bad = false) : dbgRun s c bad (dbgRgn s c go) = .next (dbgEnd s 0x109 none) := by
  rw [dbgRun_acts ho hp hb, dbgRgn_none hn]

/-- A command on a region that the partition holds has its own meaning. -/
theorem dbgRun_rgn (hr : rgnOf s (dbgKey c) = some r) (hb : bad = false) : dbgRun s c bad (dbgRgn s c go) = .next (go (dbgKey c) r) := by
  rw [dbgRun_acts ho hp hb, dbgRgn_some hr]

/-! ### HALT and STEP (R421) -/

/-- The drain that a stop of the debug port begins. -/
def stopDrain (s : State) (r : Region) (kind k cause : Nat) : Drain :=
  { kind := kind, start := s.cyc, k := k, area := 0, keep := false, cause := cause, value := BitVec.ofNat 64 k, elem := 0,
    part := r.part, tag := 0, resp := false, left := [], gone := [] }

omit ho hp in
/-- A stop of a live region begins a drain, and the command waits for it. -/
theorem dbgStop_live {kind k cause : Nat} (hr : rgnOf s (dbgKey c) = some r) (hl : r.st = .live) (hd : r.drain = none) :
    dbgStop s c kind k cause = modHost (setRgn s (dbgKey c) { r with drain := some (stopDrain s r kind k cause) })
      fun h => { h with dbgHold := some (dbgKey c) } := by
  rw [dbgStop, dbgRgn_some hr]
  simp only [hl, hd, bne_self_eq_false, Bool.false_eq_true, if_false]
  rfl

omit ho hp in
theorem dbgStop_holds {kind k cause : Nat} (hr : rgnOf s (dbgKey c) = some r) (hl : r.st = .live) (hd : r.drain = none) :
    (dbgStop s c kind k cause).host.dbgHold = some (dbgKey c) ∧
    rgnOf (dbgStop s c kind k cause) (dbgKey c) = some { r with drain := some (stopDrain s r kind k cause) } := by
  rw [dbgStop_live hr hl hd]
  exact ⟨rfl, (rgnOf_modHost _ _ _).trans (rgnOf_setRgn_same _ _ _)⟩

theorem exec_halt_stopped (hr : rgnOf s (dbgKey c) = some r) (hl : r.st ≠ .live) : exec (.halt c) s = .next (dbgEnd s 0x131 none) :=
  (dbgRun_rgn ho hp hr rfl).trans (by rw [if_pos (bne_iff_ne.mpr hl)])

theorem exec_halt : exec (.halt c) s = .next (dbgStop s c 2 0 4) := dbgRun_acts ho hp rfl

theorem exec_step (h1 : 1 ≤ dbgFld c 8 8) (hk : dbgFld c 8 8 ≤ 2 ^ 32) : exec (.step c) s = .next (dbgStop s c 1 (dbgFld c 8 8) 3) :=
  dbgRun_acts ho hp (by simp only [Bool.or_eq_false_iff, decide_eq_false_iff_not]; omega)

/-! ### RESUME (R378, R427) -/

theorem exec_dbgResume_live (hr : rgnOf s (dbgKey c) = some r) (hl : r.st = .live) : exec (.dbgResume c) s = .next (dbgEnd s 0 none) :=
  (dbgRun_rgn ho hp hr rfl).trans (by simp only [hl, if_true])

theorem exec_dbgResume_other (hr : rgnOf s (dbgKey c) = some r) (hl : r.st ≠ .live) (hf : r.st ≠ .frozen) :
    exec (.dbgResume c) s = .next (dbgEnd s 0x111 none) :=
  (dbgRun_rgn ho hp hr rfl).trans (by simp only [hl, if_false, bne_iff_ne.mpr hf, if_true])

/-- A frozen region whose records are all written is resumed where every record is recoverable. -/
theorem exec_dbgResume_frozen (hr : rgnOf s (dbgKey c) = some r) (hf : r.st = .frozen) (hd : r.drain = none)
    (hw : recordsWritten s (dbgKey c) = true) (hc : clockRoom (partOf s r.part) (Config.holder 2 r.part 0).toNat = true) :
    exec (.dbgResume c) s = .next (if rgnRecovers s (dbgKey c) then
      dbgEnd (clkAcquire (clkRelease (resumeRegion s (dbgKey c)) r.part (Config.holder 2 r.part 0).toNat (.resume (dbgKey c)) 3 (diePlace 0))
        r.part r.holder (.resume (dbgKey c)) 3 (diePlace (rgnDie r)) none) 0 none
      else dbgEnd s 0x115 none) := by
  refine (dbgRun_rgn ho hp hr rfl).trans ?_
  have hl : r.st ≠ .live := by
    rw [hf]
    nofun
  rw [if_neg hl]
  simp only [hf, hd, hw, hc, if_false, bne_self_eq_false, Bool.false_eq_true, Option.isSome_none, Bool.not_true, Bool.or_self]

omit ho hp in
/-- The order that RESUME gives to the accesses before and after it is no matter of tiles and regions. -/
theorem dbgResume_fabric {x : State} {p h g d sc sd : Nat} {i j : ObjId} {a b : Place} :
    FabricKept x (dbgEnd (clkAcquire (clkRelease x p h i sc a) d g j sd b none) 0 none) :=
  (clkRelease_fabric.trans clkAcquire_fabric).trans dbgEnd_fabric

/-! ### Slot breakpoints (R424) -/

theorem exec_brkClr (hr : rgnOf s (dbgKey c) = some r) (hi : dbgFld c 8 1 ≤ 3) : exec (.brkClr c) s =
    .next (dbgEnd (setRgn s (dbgKey c) { r with brks := mapDel r.brks (dbgFld c 8 1) }) 0 none) :=
  dbgRun_rgn ho hp hr (decide_eq_false (Nat.not_lt.mpr hi))

/-- The breakpoint that a command sets. -/
def newBrk (c : BitVec 512) : Brk :=
  { tile := epTile (dbgFld c 12 4), ctx := dbgFld c 9 1, slot := dbgFld c 10 1, left := dbgFld c 16 2, hit := none }

theorem exec_brkSet (hr : rgnOf s (dbgKey c) = some r) (ht : dbgTileBad c = false) (hi : dbgFld c 8 1 ≤ 3) (hx : dbgFld c 9 1 ≤ 3)
    (hs : dbgFld c 10 1 ≤ 63) (hc : dbgFld c 16 2 ≠ 0) (hn : partTile (partOf s r.part) (epTile (dbgFld c 12 4)) = true) :
    exec (.brkSet c) s = .next (dbgEnd (setRgn s (dbgKey c) { r with brks := mapPut r.brks (dbgFld c 8 1) (newBrk c) }) 0 none) := by
  refine (dbgRun_rgn ho hp hr ?_).trans ?_
  · simp [ht, hi, hx, hs, hc]
  · simp only [hn, Bool.not_true, Bool.false_eq_true, if_false]
    rfl

/-! ### Registers -/

/-- A register command that names a tile of the region, by the state of the region (R426). -/
theorem dbgRun_tile {act : Nat → Region → Nat → State} (hb : bad = false) (hr : rgnOf s (dbgKey c) = some r)
    (hn : partTile (partOf s r.part) (epTile (dbgFld c 12 4)) = true ∧ (tileOf s (epTile (dbgFld c 12 4))).rgn = some (dbgKey c)) :
    dbgRun s c bad (dbgTile s c act) =
      .next (if r.st = .frozen then act (dbgKey c) r (epTile (dbgFld c 12 4)) else dbgEnd s 0x131 none) := by
  refine (dbgRun_rgn ho hp hr hb).trans ?_
  obtain ⟨hpt, hrg⟩ := hn
  by_cases hf : r.st = .frozen <;> simp [hpt, hrg, hf]

/-! ### Memory (R427) -/

/-- The accesses of MEM_RD, a piece after another: the state, the bytes read so far and whether all were given. -/
def dbgRead (c : BitVec 512) (a : State × Nat × Bool) (p : Nat × Loc × Nat) : State × Nat × Bool :=
  let r := homeAccess a.1 (dbgAcc (dbgPart c) .read (BitVec.ofNat 64 (dbgFld c 16 8) + BitVec.ofNat 64 p.1) p.2.1 p.2.2 0)
  (r.1, a.2.1 + r.2.val.toNat % 2 ^ (8 * p.2.2) * 2 ^ (8 * p.1), a.2.2 && r.2.ok)

/-- The access of MEM_WR to a piece. -/
def dbgWrite (c : BitVec 512) (a : State) (p : Nat × Loc × Nat) : State :=
  (homeAccess a (dbgAcc (dbgPart c) (.write (storeMask p.2.2)) (BitVec.ofNat 64 (dbgFld c 16 8) + BitVec.ofNat 64 p.1) p.2.1 p.2.2
    (dbgFld c (24 + p.1) p.2.2))).1

/-- The pieces of the command's address, or the status that refuses it. -/
def dbgSpan (s : State) (c : BitVec 512) (write : Bool) : State × Except Nat (List (Nat × Loc × Nat)) :=
  dbgPieces s (dbgPart c) (BitVec.ofNat 64 (dbgFld c 16 8)) write 3 0 (2 ^ dbgFld c 8 1)

theorem exec_memRd_error {st : Nat} {x : State} (hr : (rgnOf s (dbgKey c)).isSome = true) (hk : dbgFld c 8 1 ≤ 6)
    (hx : dbgSpan s c false = (x, .error st)) : exec (.memRd c) s = .next (dbgEnd s st none) := by
  obtain ⟨r, hr⟩ := Option.isSome_iff_exists.mp hr
  unfold dbgSpan at hx
  exact (dbgRun_rgn ho hp hr (decide_eq_false (Nat.not_lt.mpr hk))).trans (by rw [hx])

theorem exec_memRd_ok {x y : State} {l : List (Nat × Loc × Nat)} {v : Nat} (hr : (rgnOf s (dbgKey c)).isSome = true)
    (hk : dbgFld c 8 1 ≤ 6) (hx : dbgSpan s c false = (x, .ok l)) (hl : l.foldl (dbgRead c) (x, 0, true) = (y, v, true)) :
    exec (.memRd c) s = .next (dbgEnd y 0 (some (BitVec.ofNat 512 v))) := by
  obtain ⟨r, hr⟩ := Option.isSome_iff_exists.mp hr
  unfold dbgSpan at hx
  unfold dbgRead at hl
  exact (dbgRun_rgn ho hp hr (decide_eq_false (Nat.not_lt.mpr hk))).trans (by simp only [hx, hl, if_true])

theorem exec_memWr_error {st : Nat} {x : State} (hr : (rgnOf s (dbgKey c)).isSome = true) (hk : dbgFld c 8 1 ≤ 5)
    (hx : dbgSpan s c true = (x, .error st)) : exec (.memWr c) s = .next (dbgEnd s st none) := by
  obtain ⟨r, hr⟩ := Option.isSome_iff_exists.mp hr
  unfold dbgSpan at hx
  exact (dbgRun_rgn ho hp hr (decide_eq_false (Nat.not_lt.mpr hk))).trans (by rw [hx])

theorem exec_memWr_ok {x : State} {l : List (Nat × Loc × Nat)} (hr : (rgnOf s (dbgKey c)).isSome = true)
    (hk : dbgFld c 8 1 ≤ 5) (hx : dbgSpan s c true = (x, .ok l)) :
    exec (.memWr c) s = .next (dbgEnd (l.foldl (dbgWrite c) x) 0 none) := by
  obtain ⟨r, hr⟩ := Option.isSome_iff_exists.mp hr
  unfold dbgSpan at hx
  exact (dbgRun_rgn ho hp hr (decide_eq_false (Nat.not_lt.mpr hk))).trans (by simp only [hx]; rfl)

end

/-- Settles O53, clause by clause. -/
theorem debugCommands : Obligations.DebugCommands := by
  unfold Obligations.DebugCommands
  intro s c ho hp
  dsimp only
  refine ⟨fun hn => ?_, fun r hr => ⟨fun hl => ?_, fun hl hd => ?_, fun hl hd h1 hk => ?_, fun hl => ?_, fun hl hf => ?_,
    fun hf hd hw hc => ⟨fun hv => ?_, fun hv => ?_⟩⟩, fun h0 => ?_, fun r hr hi => ?_, fun r hr ht hi hx hs hc hn => ?_, fun hb => ?_,
    fun r hb hr => ⟨fun hn hf => ?_, fun hn hf ha => ?_, fun hn hf => ?_, fun b' hn hf ha hb' => ?_⟩, fun hk => ?_, fun hk => ?_,
    fun x l y v hr hk hx hl => ?_, fun x st hr hk hx => ?_, fun x st hr hk hx => ?_, fun x l hr hk hx => ?_⟩
  · exact ⟨dbgRun_noRgn ho hp hn rfl, dbgRun_noRgn ho hp hn rfl,
      fun hk => dbgRun_noRgn ho hp hn (decide_eq_false (Nat.not_lt.mpr hk)),
      fun hk => dbgRun_noRgn ho hp hn (decide_eq_false (Nat.not_lt.mpr hk))⟩
  · exact exec_halt_stopped ho hp hr hl
  · obtain ⟨hh, hg⟩ := dbgStop_holds (kind := 2) (k := 0) (cause := 4) hr hl hd
    exact ⟨_, exec_halt ho hp, hh, _, _, hg, rfl, rfl, rfl⟩
  · obtain ⟨hh, hg⟩ := dbgStop_holds (kind := 1) (k := dbgFld c 8 8) (cause := 3) hr hl hd
    exact ⟨_, exec_step ho hp h1 hk, hh, _, _, hg, rfl, rfl, rfl⟩
  · exact exec_dbgResume_live ho hp hr hl
  · exact exec_dbgResume_other ho hp hr hl hf
  · rw [exec_dbgResume_frozen ho hp hr hf hd hw hc, hv]
    rfl
  · refine ⟨by rw [exec_dbgResume_frozen ho hp hr hf hd hw hc, if_pos hv], rfl, rfl, ?_, fun n hn ha => ?_⟩
    · rw [dbgResume_fabric.rgnOf]
      exact map_st_resumeRegion hr
    · rw [dbgResume_fabric.tileOf]
      obtain ⟨hst, htr, hbk⟩ := tileOf_resumeRegion hn ha
      exact ⟨hst, htr, hbk⟩
  · exact dbgRun_refuses ho (by rw [h0]; rfl)
  · exact ⟨_, exec_brkClr ho hp hr hi, rfl, rfl, rgnOf_dbgEnd.trans (rgnOf_setRgn_same _ _ _)⟩
  · exact ⟨_, exec_brkSet ho hp hr ht hi hx hs hc hn, rfl, _, newBrk c, rgnOf_dbgEnd.trans (rgnOf_setRgn_same _ _ _),
      mapFind_put_same _ _ _, rfl, rfl, rfl, rfl, rfl⟩
  · exact ⟨dbgRun_refuses ho hb, dbgRun_refuses ho hb⟩
  · exact (dbgRun_tile ho hp hb hr hn).trans (by rw [if_pos hf])
  · exact (dbgRun_tile ho hp hb hr hn).trans (by rw [if_pos hf, ha]; rfl)
  · exact ⟨(dbgRun_tile ho hp hb hr hn).trans (by rw [if_neg hf]), (dbgRun_tile ho hp hb hr hn).trans (by rw [if_neg hf])⟩
  · exact (dbgRun_tile ho hp hb hr hn).trans (by rw [if_pos hf, ha, hb']; rfl)
  · exact dbgRun_refuses ho (decide_eq_true hk)
  · exact dbgRun_refuses ho (decide_eq_true hk)
  · exact exec_memRd_ok ho hp hr hk hx hl
  · exact exec_memRd_error ho hp hr hk hx
  · exact exec_memWr_error ho hp hr hk hx
  · exact exec_memWr_ok ho hp hr hk hx

end Sys2Proof
end

section
/-! Groups 4 to 8 on DATA heads (O36 to O38): each instruction is `vecEff` of its result. -/
namespace Sys2Proof

open Machine

variable {i : Instr} {s x : State} {f : Firing} {o : Opnd} {j : Nat}

/-! ### Vector results (R165 to R167) -/

/-- On heads that are all DATA a vector instruction has its result, flag and sticky flags at its latency. -/
theorem vecEff_data {r : Opnd → VecRes} (h : skipToken i o = none) : vecEff i r x f o j =
    .go { st := x, r1 := (.data, (r o).val), flag := (r o).flag, raise := (r o).raise, lat := (info i).lat } := by
  rw [vecEff, h]

/-- An instruction whose effect is a vector result gives it. -/
theorem vecGives_of {r : Opnd → VecRes} (hx : exec i s = pe s i (vecEff i r)) : VecGives i s r :=
  fun h => completes_of hx (vecEff_data h)

/-- Settles O36: each instruction is `vecEff` of its lanes' results; the fused ones read the v register that DA names (R173). -/
theorem floatInstructions : Obligations.FloatInstructions := by
  unfold Obligations.FloatInstructions
  intro s y a b d e g f c m
  and_intros <;> exact vecGives_of rfl

/-- Settles O37: each instruction is `vecEff` of its lanes' results. -/
theorem laneInstructions : Obligations.LaneInstructions := by
  unfold Obligations.LaneInstructions
  intro s y w a b d e g
  and_intros <;> exact vecGives_of rfl

/-! ### `compress.n32` (R191, R192) -/

theorem compressOk_iff {b : W512} : compressOk b = true ↔ 1 ≤ b.toNat % 32 ∧ b.toNat % 32 ≤ 16 := by
  rw [compressOk, Bool.and_eq_true, decide_eq_true_eq, decide_eq_true_eq, compressN]

/-- What a destination receives when N is out of range, with the detail written out: nine bits of B (R192). -/
theorem compressErr_eq {c : BitVec 4} {b : W512} : compressErr c b =
    if c.toNat < 5 then (.err, BitVec.ofNat 512 (5 + b.toNat % 512 * 2 ^ 16)) else (.data, 0) := by
  have : b.toNat % 512 % 2 ^ 48 = b.toNat % 512 := Nat.mod_eq_of_lt ((Nat.mod_lt _ (by decide)).trans (by decide))
  rw [compressErr, errPay, this]

/-- Settles O38: each instruction is `vecEff` of its result; `compress.n32` by the range of N. -/
theorem convertPermuteReduce : Obligations.ConvertPermuteReduce := by
  unfold Obligations.ConvertPermuteReduce
  intro s a b d e g m moved
  iterate 22 refine ⟨vecGives_of rfl, ?_⟩
  intro i o n r bad hdata
  refine ⟨fun h1 h16 => completes_of rfl ?_, fun hn => completes_of rfl ?_⟩
  · have hok : compressOk o.b = true := compressOk_iff.mpr ⟨h1, h16⟩
    simp only [hdata, hok, if_true, i, o, r]
  · have hbad : compressOk o.b = false := Bool.eq_false_iff.mpr fun h => by
      have := compressOk_iff.mp h
      omega
    simp only [hdata, hbad, Bool.false_eq_true, if_false, compressErr_eq, i, o, bad]

end Sys2Proof
end

section
/-! Heads that are not all DATA (R166, O35). -/
namespace Sys2Proof

open Machine

variable {i : Instr} {s x : State} {f : Firing} {o : Opnd} {t h : Token} {j : Nat}

/-! ### The token that stands for the heads (R166) -/

/-- The heads that A and B name, A's before B's. -/
def heads (o : Opnd) : List Token := [o.ha, o.hb].filterMap id

@[simp] theorem mem_heads : h ∈ heads o ↔ o.ha = some h ∨ o.hb = some h := by
  simp [heads, eq_comm]

/-- The highest of n and of the ranks of MARK tokens. -/
def topRank (n : Nat) (l : List Token) : Nat := l.foldl (fun m h => max m (markRank h)) n

/-- The highest rank is below 8, and at least its start and each rank. -/
theorem topRank_bounds {l : List Token} {n : Nat} (hn : n < 8) :
    topRank n l < 8 ∧ n ≤ topRank n l ∧ ∀ h ∈ l, markRank h ≤ topRank n l := by
  induction l generalizing n with
  | nil => simp [topRank, hn]
  | cons t l ih =>
    have ht : markRank t < 8 := Nat.mod_lt _ (by decide)
    obtain ⟨hlt, hle, hall⟩ := ih (max_lt hn ht)
    exact ⟨hlt, (le_max_left _ _).trans hle, List.forall_mem_cons.mpr ⟨(le_max_right _ _).trans hle, hall⟩⟩

theorem markRank_markTok {n : Nat} {tag : BitVec 4} (hn : n < 8) : markRank (markTok n tag) = n := by
  have hp : n < 2 ^ 512 := Nat.lt_of_lt_of_le (hn : n < 2 ^ 3) (Nat.pow_le_pow_right Nat.two_pos (by decide : 3 ≤ 512))
  rw [markRank, markTok, Nat.mod_eq_of_lt hn, BitVec.toNat_ofNat, Nat.mod_eq_of_lt hp, Nat.mod_eq_of_lt hn]

theorem skip_and_noDeq (i : Instr) : ((info i).skip && (info i).noDeq) = false := by
  cases i <;> rfl

/-- Every instruction that heads not all DATA make compute nothing dequeues its heads. -/
theorem noDeq_of_skip (hs : (info i).skip = true) : (info i).noDeq = false := by
  simpa [hs] using skip_and_noDeq i

/-- The priority of R166, for an instruction that dequeues its heads: nothing where all are DATA, the first ERR head, a MARK of the
highest rank, NULL. -/
theorem skipToken_eq (hn : (info i).noDeq = false) : skipToken i o =
    if (heads o).all (fun h => h.kind == .data) then none
    else match (heads o).find? fun h => h.kind == .err with
      | some h => some h
      | none =>
        if (heads o).any fun h => h.kind == .mark then some (markTok (topRank 0 ((heads o).filter fun h => h.kind == .mark)) o.tag)
        else some ⟨.null, o.tag, 0⟩ := by
  simp only [skipToken, hn, Bool.false_or] <;> rfl

theorem skipToken_eq_none_iff (hn : (info i).noDeq = false) : skipToken i o = none ↔ ∀ h ∈ heads o, h.kind = .data := by
  rw [skipToken_eq hn]
  split
  case isTrue hall => simpa using hall
  case isFalse hall =>
    refine iff_of_false ?_ (by simpa using hall)
    split
    · exact Option.some_ne_none _
    · split <;> exact Option.some_ne_none _

/-- The first ERR head stands for the heads. -/
theorem skipToken_of_err (hn : (info i).noDeq = false) (hf : (heads o).find? (fun h => h.kind == .err) = some h) :
    skipToken i o = some h := by
  have he : h.kind = .err := by simpa using List.find?_some hf
  have hall : ¬ (heads o).all (fun h => h.kind == .data) = true := fun hd => by
    have := List.all_eq_true.mp hd h (List.mem_of_find?_eq_some hf)
    simp [he] at this
  rw [skipToken_eq hn, if_neg hall, hf]

/-- The token that stands for the heads is an ERR, a MARK of a rank that no MARK head exceeds, or, where no head is a MARK, NULL. -/
theorem skipToken_kind (hn : (info i).noDeq = false) (ht : skipToken i o = some t) : t.kind = .err ∨
    (t.kind = .mark ∧ (∀ h ∈ heads o, h.kind = .mark → markRank h ≤ markRank t) ∧ ∃ h ∈ heads o, h.kind = .mark) ∨
    (t.kind = .null ∧ t.pay = 0 ∧ ∀ h ∈ heads o, h.kind ≠ .mark) := by
  rw [skipToken_eq hn] at ht
  split at ht
  case isTrue => cases ht
  case isFalse =>
    split at ht
    case h_1 h hf =>
      cases ht
      exact .inl (by simpa using List.find?_some hf)
    case h_2 =>
      split at ht
      case isTrue hm =>
        cases ht
        refine .inr (.inl ⟨rfl, fun h hh hk => ?_, by simpa using hm⟩)
        obtain ⟨hlt, -, hall⟩ := topRank_bounds (l := (heads o).filter fun h => h.kind == .mark) (n := 0) (by decide)
        rw [markRank_markTok hlt]
        exact hall h (List.mem_filter.mpr ⟨hh, by simp [hk]⟩)
      case isFalse hm =>
        cases ht
        exact .inr (.inr ⟨rfl, rfl, by simpa using hm⟩)

/-! ### The firing (R166, R191, R300, R342, R394) -/

/-- The effect of a firing that computes nothing: the token that stands for its heads, at the instruction's latency. -/
def skipDone (i : Instr) (s : State) (t : Token) : Eff :=
  { st := started i s, r1 := (t.kind, t.pay), r2 := (t.kind, t.pay), lat := (info i).lat, regs := false }

theorem vecEff_skip {r : Opnd → VecRes} (h : skipToken i o = some t) : vecEff i r x f o j = skipEff x t (info i).lat := by
  rw [vecEff, h]

theorem memEff_skip {op : Opnd → AccOp} (h : skipToken i o = some t) : memEff i op x f o j = skipEff x t 1 := by
  rw [memEff, h]

theorem launchEff_skip {b : Bool} (h : skipToken i o = some t) : launchEff i b x f o j = skipEff x t 1 := by
  rw [launchEff, h]

theorem onlyVector_imp_skip (i : Instr) : (!onlyVector i || ((info i).skip && !isMatrix i)) = true := by
  cases i <;> rfl

/-- The vector unit skips, and no matrix instruction is among its instructions. -/
theorem onlyVector_skips (hv : onlyVector i = true) : (info i).skip = true ∧ isMatrix i = false := by
  simpa [hv] using onlyVector_imp_skip i

/-- The instructions that skip but those of the vector unit and the matrix array: `compress.n32`, group 12, the launches and
`xd.dispatch`. -/
def skipsBeyondVector (i : Instr) : Bool := (info i).skip && !isMatrix i && !onlyVector i

theorem skipsBeyondVector_completes (hi : skipsBeyondVector i = true) (ht : skipToken i (operands i s) = some t) :
    Completes i s (skipDone i s t) := by
  cases i with
  | ld | st | ldAcq | stRel | amoAdd | amoFadd | amoMin | amoMax | amoAnd | amoOr | amoXor | amoExch | amoCas =>
    exact completes_of rfl (memEff_skip ht)
  | launch | launchTry => exact completes_of rfl (launchEff_skip ht)
  | compressN32 | xdDispatch =>
    refine completes_of rfl ?_
    simp only [ht]
    rfl
  | fence => cases ht
  | _ => cases hi

theorem skips_completes (hs : (info i).skip = true) (hm : isMatrix i = false) (ht : skipToken i (operands i s) = some t) :
    Completes i s (skipDone i s t) := by
  cases hv : onlyVector i with
  | true =>
    obtain ⟨-, -, -, r, hx⟩ := onlyVector_fires hv s
    exact completes_of hx (vecEff_skip ht)
  | false => exact skipsBeyondVector_completes (by rw [skipsBeyondVector, hs, hm, hv]; rfl) ht

/-- Settles O35: the firing by `skips_completes`, the token by the priority of `skipToken_eq`. -/
theorem vectorSkip : Obligations.VectorSkip := by
  unfold Obligations.VectorSkip
  refine ⟨fun i => onlyVector_skips, fun sc a b d e g => rfl, fun i s hs hm => ?_⟩
  have hn : (info i).noDeq = false := noDeq_of_skip hs
  simp only [← mem_heads]
  refine ⟨fun t => skips_completes hs hm, skipToken_eq_none_iff hn, fun h ha he => skipToken_of_err hn ?_,
    fun h hb he hna => skipToken_of_err hn ?_, fun t => skipToken_kind hn⟩
  · simp [heads, ha, he]
  · cases ha : (operands i s).ha with
    | none => simp [heads, ha, hb, he]
    | some g => simp [heads, ha, hb, he, hna g ha]

end Sys2Proof
end

section
/-! Lane-wise instructions (R165): each lane of a result is computed from that lane of the operands (O39). -/
namespace Sys2Proof

open Machine

variable {w i k : Nat} {x : W512} {l : List Nat}

/-! ### Lanes of a value (R65, R70) -/

theorem lane_eq_div : lane x w i = x.toNat / 2 ^ (w * i) % 2 ^ w := by
  rw [lane, Nat.shiftRight_eq_div_pow]

/-- A value packed from digits of base 2 ^ w, the first lowest, has each of them in its place. -/
theorem foldr_digits_div : l.foldr (fun x acc => acc * 2 ^ w + x % 2 ^ w) 0 / 2 ^ (w * i) % 2 ^ w = l.getD i 0 % 2 ^ w := by
  have hp := Nat.two_pow_pos w
  induction l generalizing i with
  | nil => simp
  | cons x l ih =>
    cases i with
    | zero => simp
    | succ i =>
      rw [List.foldr_cons, Nat.mul_succ, Nat.add_comm (w * i), Nat.pow_add, ← Nat.div_div_eq_div_mul, Nat.add_comm,
        Nat.add_mul_div_right _ _ hp, Nat.div_eq_of_lt (Nat.mod_lt _ hp), Nat.zero_add, ih, List.getD_cons_succ]

/-- The bits above a field of a number do not change it. -/
theorem mod_div_mod_two_pow {n m k : Nat} (h : m + w ≤ k) : n % 2 ^ k / 2 ^ m % 2 ^ w = n / 2 ^ m % 2 ^ w := by
  have hk : 2 ^ k = 2 ^ m * 2 ^ (k - m) := by rw [← Nat.pow_add, Nat.add_sub_cancel' (by omega)]
  rw [hk, Nat.mod_mul_right_div_self, Nat.mod_mod_of_dvd _ (pow_dvd_pow 2 (by omega))]

/-- A lane that lies in the 512 bits is the one that the value was built from. -/
theorem lane_ofLanes (h : w * (i + 1) ≤ 512) : lane (ofLanes w l) w i = l.getD i 0 % 2 ^ w := by
  rw [lane_eq_div, ofLanes, BitVec.toNat_ofNat, mod_div_mod_two_pow (k := 512) (Nat.mul_succ w i ▸ h), List.foldl_reverse, foldr_digits_div]

theorem mul_succ_le_of_lt_div (h : i < 512 / w) : w * (i + 1) ≤ 512 :=
  (Nat.mul_le_mul_left w h).trans (Nat.mul_div_le 512 w)

/-! ### Lane-wise instructions of two operands -/

variable {g : Nat → Nat → Nat × Bool × Raise} {a b : W512}

theorem lane_mapLanes2 (h : i < 512 / w) : lane (mapLanes2 w g a b).val w i = (g (lane a w i) (lane b w i)).1 % 2 ^ w := by
  simp [mapLanes2, joinLanes, lane_ofLanes (mul_succ_le_of_lt_div h), List.getD, h]

/-- The condition flag is that of some lane. -/
theorem flag_mapLanes2 : (mapLanes2 w g a b).flag = true ↔ ∃ i, i < 512 / w ∧ (g (lane a w i) (lane b w i)).2.1 = true := by
  simp [mapLanes2, joinLanes]

theorem getLsbD_foldl_or {α : Type} {r : α → Raise} {l : List α} {z : Raise} :
    (l.foldl (fun q x => q ||| r x) z).getLsbD k = true ↔ z.getLsbD k = true ∨ ∃ x ∈ l, (r x).getLsbD k = true := by
  induction l generalizing z with
  | nil => simp
  | cons x l ih => simp [ih, or_assoc]

/-- A sticky flag is raised where some lane raises it (R73). -/
theorem raise_mapLanes2 : (mapLanes2 w g a b).raise.getLsbD k = true ↔
    ∃ i, i < 512 / w ∧ (g (lane a w i) (lane b w i)).2.2.getLsbD k = true := by
  simp [mapLanes2, joinLanes, getLsbD_foldl_or]

/-! ### Floating-point and integer lanes (R172, R180) -/

/-- An exact lane result rounded to its format (R171, R172). -/
def roundedLane (m : FMode) (f : Fmt) (v : (FVal × Bool) × Raise) : Nat := (fout m.ftzo v.1.1 v.1.2 f m.rm).1 % 2 ^ fmtWidth f

/-- A lane of `fbin` is the exact operation on the decoded lanes, rounded. -/
theorem lane_fbin {op : FVal → FVal → (FVal × Bool) × Raise} {m : FMode} {f : Fmt} (h : i < 512 / fmtWidth f) :
    lane (fbin op m f a b).val (fmtWidth f) i =
      roundedLane m f (op (finF m.ftzi f (lane a (fmtWidth f) i)).1 (finF m.ftzi f (lane b (fmtWidth f) i)).1) :=
  lane_mapLanes2 h

/-- A lane of `vadd`, `vsub` and `vmul` is the exact operation on the lanes read in their type, wrapped or saturated. -/
theorem lane_vIntWrap {op : Int → Int → Int} {y : BitVec 3} {sat : Bool} (h : i < 512 / t8Width y) :
    lane (vIntWrap op y sat a b).val (t8Width y) i =
      (ires sat (op (intOf (t8Signed y) (lane a (t8Width y) i) (t8Width y)) (intOf (t8Signed y) (lane b (t8Width y) i) (t8Width y)))
        (t8Width y) (t8Signed y)).1 :=
  (lane_mapLanes2 h).trans (Nat.mod_eq_of_lt ires_lt)

/-- Settles O39: a lane by `lane_fbin` and `lane_vIntWrap`, the flag and the sticky flags as those of some lane. -/
theorem laneResults : Obligations.LaneResults := by
  unfold Obligations.LaneResults
  intro a b f m y sat
  exact ⟨fun i h => ⟨lane_fbin h, lane_fbin h, lane_fbin h, lane_fbin h⟩,
    fun i h => ⟨lane_vIntWrap h, lane_vIntWrap h, lane_vIntWrap h⟩, flag_mapLanes2, fun k _ => raise_mapLanes2⟩

end Sys2Proof
end

section
/-! The matrix instructions (R196, R199 to R206, O42). -/
namespace Sys2Proof

open Machine

variable {i : Instr} {s : State}

/-- The entry that the firing of a matrix instruction enters for a row or column: its operands, its spec, the mode-word fields of its
firing and the token that stands for heads that are not DATA (R196, R199). -/
def matEntry (i : Instr) (s : State) (op : Nat) (two : Bool) (row : Nat) : MatCmd :=
  let o := operands i s
  { op := op, spec := o.lit, row := row, two := two, a := o.a, b := o.b, ftzi := modeFtzi o.mode, ftzo := modeFtzo o.mode,
    skip := skipToken i o, job := jobNo s, bank := s.cur.bank, fon := none }

/-- The effect of a firing that enters an entry and waits for its done token. -/
def entersCmd (i : Instr) (s : State) (c : MatCmd) : Eff :=
  { st := tileDone i s fun u => { u with cmdq := u.cmdq ++ [c] }, wait := .matrix, lat := 2, regs := c.skip.isNone }

/-- A matrix instruction enters the entry of the row that its spec and HPOS give (R201). -/
theorem matrix_completes {op row : Nat} {two : Bool} {auto : Nat → W64 → Nat} (hx : exec i s = peMat s i op two auto)
    (hr : auto (trigPort s s.cur).hpos s.cur.lit = row) : Completes i s (entersCmd i s (matEntry i s op two row)) := by
  subst hr
  exact completes_of hx rfl

/-- The row of a spec is the one with one HPOS added under AUTO. -/
theorem rowAuto_eq {h : Nat} {x : W64} : rowAuto h x = (fld x 6 0 + (if x.getLsbD 9 then 1 * h else 0)) % 128 := by
  rw [Nat.one_mul, rowAuto]

/-- Settles O42: each instruction is `peMat` of its opcode, with the rule of its row. -/
theorem matrixInstructions : Obligations.MatrixInstructions := by
  unfold Obligations.MatrixInstructions
  intro s a b d e g h x row enters
  have enter {i op two r} (auto : Nat → W64 → Nat) (hx : exec i s = peMat s i op two auto) (hr : auto h x = r) : enters i op two r :=
    matrix_completes hx hr
  exact ⟨enter rowAuto rfl rowAuto_eq, enter rowAuto rfl rowAuto_eq, enter rowAuto rfl rowAuto_eq, enter rowAuto rfl rowAuto_eq,
    enter rowAuto2 rfl rfl, enter rowAuto rfl rowAuto_eq, enter colAuto rfl rfl, enter (fun _ _ => 0) rfl rfl,
    enter (fun _ x => fld x 6 0) rfl rfl, enter rowAuto rfl rowAuto_eq, enter rowAuto rfl rowAuto_eq,
    enter (fun _ x => fld x 14 8) rfl rfl, enter (fun _ x => fld x 6 0) rfl rfl⟩

end Sys2Proof
end

section
/-! The matrix array, streams, homes of accesses, race sweeps, FIFOs, rings and task packets (O55). -/
namespace Sys2Proof

open Machine

variable {s : State} {n port id : Nat}

/-! ### The matrix array (R196, R198, R212, R213) -/

/-- A step that the live state has something to do for is a step of the live state (R25, R381). -/
theorem arrayStep_live {f : State → Option State} {u : State} (h : f s = some u) : arrayStep s n f = u := by
  simp only [arrayStep, h]

theorem matStart_first {c : MatCmd} {q : List MatCmd} (hq : (tileOf s n).cmdq = c :: q)
    (hc : canStart s.cyc (tileOf s n).runs c = true) : ∃ bad ran, matStart n s = some (setTile s n { tileOf s n with
      cmdq := q, runs := (tileOf s n).runs ++ [⟨c, s.cyc, matTime (tileOf s n).mcbRan c, bad⟩], mcbRan := ran }) := by
  simp only [matStart, hq, hc, if_true]
  exact ⟨_, _, rfl⟩

/-- The entry at the head of the queue runs from this cycle on, and the accumulators are as before. -/
theorem exec_matrixEntryStart {c : MatCmd} {q : List MatCmd} (hq : (tileOf s n).cmdq = c :: q)
    (hc : canStart s.cyc (tileOf s n).runs c = true) : ∃ u x, exec (.matrixEntryStart n) s = .next u ∧ (tileOf u n).cmdq = q ∧
      (tileOf u n).runs = (tileOf s n).runs ++ [x] ∧ x.cmd = c ∧ x.start = s.cyc ∧ (tileOf u n).acc = (tileOf s n).acc := by
  obtain ⟨bad, ran, hu⟩ := matStart_first hq hc
  refine ⟨_, ⟨c, s.cyc, matTime (tileOf s n).mcbRan c, bad⟩, congrArg Host.Outcome.next (arrayStep_live hu), ?_⟩
  rw [tileOf_setTile_same]
  exact ⟨rfl, rfl, rfl, rfl, rfl⟩

/-- The tile with an entry no longer under way. -/
def runOut (t : Tile) (r : MatRun) : Tile := { t with runs := t.runs.erase r }

/-- What a follow-on does when it ends, on the tile without its run (R212). -/
def fonOut (s : State) (n : Nat) (r : MatRun) (d : BitVec 256) : Tile × Raise × FonFail :=
  fonEffect (runOut (tileOf s n) r) d r.cmd.ftzi r.cmd.ftzo

/-- The state once a follow-on has written its rows and has raised its flags in bank 0. -/
def fonWritten (s : State) (n : Nat) (e : Tile × Raise × FonFail) : State :=
  setTile s n (setBank e.1 0 { bankOf e.1 0 with mode := modeRaise (bankOf e.1 0).mode e.2.1 })

/-- A follow-on that fails the check of R213 only reports. -/
theorem matDone_bad {r : MatRun} {d : BitVec 256} {b ch q : Nat} (hr : matDue s (tileOf s n) = some r)
    (hf : r.cmd.fon = some (d, b, ch, q)) (hb : r.bad = true) :
    matDone n s = some (fonReport (setTile s n (runOut (tileOf s n) r)) n b ch q 0x901 0 0) := by
  simp only [matDone, hr, hf, hb, if_true]
  rfl

/-- A follow-on reports the status, detail and failing address of its effect. -/
theorem matDone_followOn {r : MatRun} {d : BitVec 256} {b ch q : Nat} (hr : matDue s (tileOf s n) = some r)
    (hf : r.cmd.fon = some (d, b, ch, q)) (hb : r.bad = false) :
    let e := fonOut s n r d
    matDone n s = some (fonReport (if e.2.2.1 = 0xA06 then errNote (fonWritten s n e) (.lm n e.2.2.2.2) else fonWritten s n e) n b ch q
      e.2.2.1 e.2.2.2.1 (if e.2.2.1 = 0xA06 then 14 * 2 ^ 60 + tileEp n 0 * 2 ^ 32 + e.2.2.2.2 else 0)) := by
  simp only [matDone, hr, hf, hb, Bool.false_eq_true, if_false]
  rfl

/-- An entry of a firing finishes the job that waits for it. -/
theorem matDone_firing {r : MatRun} {j : Job} (hr : matDue s (tileOf s n) = some r) (hf : r.cmd.fon = none)
    (hj : ((tileOf s n).jobs.find? fun j => j.id == r.cmd.job) = some j) :
    let o := matEffect (runOut (tileOf s n) r) r.cmd
    matDone n s = some
      (finishJob (setTile s n o.t) n { j with r1 := o.r1, r2 := if r.cmd.two then o.r2 else o.r1, raise := o.raise }) := by
  simp only [matDone, hr, hf, hj]
  rfl

theorem matDone_noJob {r : MatRun} (hr : matDue s (tileOf s n) = some r) (hf : r.cmd.fon = none)
    (hj : ((tileOf s n).jobs.find? fun j => j.id == r.cmd.job) = none) :
    matDone n s = some (setTile s n (matEffect (runOut (tileOf s n) r) r.cmd).t) := by
  simp only [matDone, hr, hf, hj]
  rfl

theorem exec_matrixEntryDone {u : State} (h : matDone n s = some u) : exec (.matrixEntryDone n) s = .next u :=
  congrArg Host.Outcome.next (arrayStep_live h)

theorem exec_followOnEnter {c : MatCmd} {l : List MatCmd} (hc : (tileOf s n).fons = c :: l) (hq : (tileOf s n).cmdq.length < 8) :
    exec (.followOnEnter n) s = .next (setTile s n { tileOf s n with fons := l, cmdq := (tileOf s n).cmdq ++
      [{ c with ftzi := modeFtzi (bankOf (tileOf s n) 0).mode, ftzo := modeFtzo (bankOf (tileOf s n) 0).mode }] }) :=
  congrArg Host.Outcome.next (arrayStep_live (by simp only [fonEnter, hc, hq, if_true]))

/-! ### Streams, rings and task packets (R222, R234 to R238, R331, R332) -/

theorem exec_streamFetch (h : fetchDue s (tileOf s n) = true) :
    exec (.streamFetch n) s = .next (setTile s n (fetchNext s (tileOf s n))) := if_pos h

theorem handles_setHandle_same {t : Tile} {h : Nat} {x : Handle} (hh : h < 8) : (setHandle t h x).handles.getD h handle0 = x :=
  vecGetD_set_same _ _ _ _ hh

theorem exec_handleViewUpdate {h c p q : Nat} {l : List (Nat × Nat × Nat)}
    (hu : ((tileOf s n).handles.getD h handle0).ups = (c, p, q) :: l) (hc : c ≤ s.cyc) (hh : h < 8) :
    ∃ u, exec (.handleViewUpdate n h) s = .next u ∧ ((tileOf u n).handles.getD h handle0).p = p ∧
      ((tileOf u n).handles.getD h handle0).c = q ∧ ((tileOf u n).handles.getD h handle0).ups = l := by
  have hx : exec (.handleViewUpdate n h) s = .next (modTile s n fun x => setHandle x h
      { (tileOf s n).handles.getD h handle0 with
        p := p, c := q, ups := l, busy := ((tileOf s n).handles.getD h handle0).busy && !((tileOf s n).handles.getD h handle0).binding,
        binding := false }) := by
    show execHandleViewUpdate n h s = _
    simp only [execHandleViewUpdate, hu, hc, if_true]
  refine ⟨_, hx, ?_⟩
  rw [tileOf_modTile_same, handles_setHandle_same hh]
  exact ⟨rfl, rfl, rfl⟩

theorem exec_packetPresent {l : Nat} {p : Packet} {rest : List Packet} (hp : (tileOf s n).present = none)
    (hl : nextLabel (tileOf s n) = some l) (ht : takeFirst (fun p => p.label == l) (tileOf s n).tbuf = some (p, rest)) :
    exec (.packetPresent n) s = .next (setTile s n { tileOf s n with present := some p, tbuf := rest, lastLabel := l }) := by
  show execPacketPresent n s = _
  simp only [execPacketPresent, hp, hl, Option.bind_some, ht, Option.map_some]

theorem exec_taskPacketArrival {x : NetPacket} (hx : (s.packets.find? fun x => x.id == id) = some x) (hd : packetDue s x = true) :
    exec (.taskPacketArrival id) s = .next ((packetIn s x).getD s) := by
  show execTaskPacketArrival id s = _
  simp only [execTaskPacketArrival, hx, hd, if_true]

theorem exec_ringAdvance {a : Acc} (ha : accOf s id = some a) (hd : advanceDue s a = true) :
    exec (.ringAdvance id) s = .next (ringAdvance s a) := by
  show execRingAdvance id s = _
  simp only [execRingAdvance, ha, hd, if_true]

/-- The answer of an advance releases its handle; a refused advance traps (R236, R238). -/
theorem exec_advanceAnswer {a : Acc} {t b h m x : Nat} (ha : accOf s id = some a) (hg : a.agent = .bank t b)
    (hr : a.ring = some (h, m, x)) (hd : advanceBack s a = true) :
    let s1 := modTile (accDel s id) t fun x => setHandle x h { x.handles.getD h handle0 with busy := false }
    exec (.advanceAnswer id) s =
      .next (if a.ok then s1 else takeTrap s1 t (answerTrap s t a.who a.cause (a.val.setWidth 64))) := by
  intro s1
  show execAdvanceAnswer id s = _
  simp only [execAdvanceAnswer, ha, hg, hr, hd, if_true]
  split <;> rfl

/-! ### The homes of accesses (R227, R295 to R301) -/

theorem exec_accessPerform {a : Acc} (ha : accOf s id = some a) (hd : accReady s a = true) :
    exec (.accessPerform id) s = .next (performAcc s a) := by
  show execAccessPerform id s = _
  simp only [execAccessPerform, ha, hd, if_true]

theorem exec_releasePerform {a : Acc} (ha : accOf s id = some a) (hd : accReady s a = true) :
    exec (.releasePerform id) s = .next (performAcc s a) := by
  show execReleasePerform id s = _
  simp only [execReleasePerform, ha, hd, if_true]

theorem exec_loadReturn {a : Acc} {t b : Nat} (ha : accOf s id = some a) (hg : a.agent = .bank t b) (hd : returns s a = true) :
    exec (.loadReturn id) s = .next (returnAcc s t a) := by
  show execLoadReturn id s = _
  simp only [execLoadReturn, ha, hd, hg, if_true]

theorem exec_mtRequest {a : Acc} (ha : mtHead s n port = some a) :
    let m := mtileOf s n
    exec (.mtRequest n port) s = .next (performAcc (setMTile s n { m with
        pq := mapSet m.pq port ((mapGet m.pq port []).drop 1) [],
        served := mtBank s a :: (16 + port) :: m.served, rot := mapPut m.rot (mtBank s a) port }) a) := by
  intro m
  show execMtRequest n port s = _
  simp only [execMtRequest, ha]
  rfl

/-! ### Token FIFOs (R230, R238, R307) -/

/-- The state once a FIFO's port has given its head, released to an inter-partition queue. -/
def fifoTaken (s : State) (n port : Nat) : State := gwRelease (deqHead s (mtEp n port)) n port

/-- The token joins the FIFO, unless it goes into an inter-partition queue whose release still waits. -/
theorem exec_fifoEnqueue {t : Token} (hf : fifoTakes s n port = true) (ht : headAt s (mtEp n port) = some t)
    (hw : (port = 0 && gwWaits s n) = false) :
    let u := mtileOf (fifoTaken s n port) n
    exec (.fifoEnqueue n port) s = .next (setMTile (fifoTaken s n port) n
      { u with fifo := u.fifo ++ [t], relAt := if port = 0 then none else u.relAt }) := by
  intro u
  show execFifoEnqueue n port s = _
  simp only [execFifoEnqueue, hf, ht, hw, if_true, Bool.false_eq_true, if_false]
  rfl

theorem exec_fifoEnqueue_waits {t : Token} (hf : fifoTakes s n 0 = true) (ht : headAt s (mtEp n 0) = some t)
    (hw : gwWaits s n = true) : exec (.fifoEnqueue n 0) s =
      .next (setMTile s n { mtileOf s n with relAt := some ((mtileOf s n).relAt.getD s.nid) }) := by
  show execFifoEnqueue n 0 s = _
  simp only [execFifoEnqueue, hf, ht, hw, decide_true, Bool.and_self, if_true]

theorem exec_fifoDequeue {t : Token} (hf : fifoGives s n port = true) (ht : fifoHead (mtileOf s n) = some t) :
    let s1 := gwAcquire (gatePass (setMTile (fifoNote s n) n (fifoPop (mtileOf (fifoNote s n) n))) n) n
    exec (.fifoDequeue n port) s = .next (queueOut (takeRequest s1 (mtEp n 1)) (mtEp n 1) 0 (some t)) := by
  intro s1
  show execFifoDequeue n port s = _
  simp only [execFifoDequeue, hf, ht, if_true]
  rfl

/-! ### Race sweeps and mode changes (R321, R323) -/

theorem exec_raceSweep_begins (h : (partOf s n).sweep = none) (hm : (partOf s n).raceMode ≠ 0) (ht : sweepTargets (partOf s n) ≠ []) :
    exec (.raceSweep n) s =
      .next (setPart s n { partOf s n with sweep := some (sweepTargets (partOf s n), sweepLines s (partOf s n)) }) := by
  show execRaceSweep n s = _
  have he : (sweepTargets (partOf s n)).isEmpty = false := by simpa using ht
  simp only [execRaceSweep, h, hm, he, decide_false, Bool.or_self, Bool.false_eq_true, if_false]

theorem exec_raceSweep_visits {t : SMap Nat} {l : Nat × Nat} {rest : List (Nat × Nat)}
    (h : (partOf s n).sweep = some (t, l :: rest)) : exec (.raceSweep n) s =
      .next (modPart (sweepAt s n (partOf s n) t l) n fun q => { q with sweep := some (t, rest) }) := by
  show execRaceSweep n s = _
  simp only [execRaceSweep, h]

theorem exec_raceSweep_ends {t : SMap Nat} (h : (partOf s n).sweep = some (t, [])) : exec (.raceSweep n) s = .next (setPart s n
    { partOf s n with floor := t.foldl (fun m e => mapPut m e.1 e.2) (partOf s n).floor, sweep := none }) := by
  show execRaceSweep n s = _
  simp only [execRaceSweep, h]

theorem exec_raceModeClear {k c : Nat} (h : (partOf s n).raceNext = some (k, c)) (hc : c ≤ s.cyc) : exec (.raceModeClear n) s =
    .next (modPart (dropSums (metaClear s n) n) n fun q => { q with raceMode := k, raceNext := none }) := by
  show execRaceModeClear n s = _
  simp only [execRaceModeClear, h, hc, if_true]

/-- Settles O55, clause by clause. -/
theorem matrixAndMemorySteps : Obligations.MatrixAndMemorySteps := by
  unfold Obligations.MatrixAndMemorySteps
  refine ⟨fun s n => ?_, fun s id a ha => ?_, fun s n port => ?_⟩
  · refine ⟨fun _ _ => exec_matrixEntryStart, fun r d b ch q hr hf => ⟨fun hb => exec_matrixEntryDone (matDone_bad hr hf hb),
      fun hb he => ?_, fun hb he => ?_⟩, fun r hr hf => ⟨fun j hj => exec_matrixEntryDone (matDone_firing hr hf hj),
      fun hj => exec_matrixEntryDone (matDone_noJob hr hf hj)⟩, fun _ _ => exec_followOnEnter, exec_streamFetch,
      fun _ _ _ _ _ => exec_handleViewUpdate, fun _ _ _ => exec_packetPresent, fun _ => exec_taskPacketArrival⟩
    · rw [exec_matrixEntryDone (matDone_followOn hr hf hb)]
      simp only [fonOut, runOut, he, if_true]
      rfl
    · rw [exec_matrixEntryDone (matDone_followOn hr hf hb)]
      simp only [fonOut, runOut, he, if_false]
      rfl
  · refine ⟨fun hd => ⟨exec_accessPerform ha hd, exec_releasePerform ha hd⟩, fun _ _ => exec_loadReturn ha, exec_ringAdvance ha,
      fun t b h m x hg hr hd => ⟨fun hok => ?_, fun hok => ?_⟩⟩
    · rw [exec_advanceAnswer ha hg hr hd, if_pos hok]
    · rw [exec_advanceAnswer ha hg hr hd, if_neg (by simp [hok])]
  · refine ⟨fun _ => exec_mtRequest, fun t hf ht => ⟨?_, ?_, ?_⟩, fun _ => exec_fifoDequeue,
      ⟨exec_raceSweep_begins, fun _ _ _ => exec_raceSweep_visits, fun _ => exec_raceSweep_ends⟩, fun _ _ => exec_raceModeClear⟩
    · rintro rfl
      exact exec_fifoEnqueue hf ht rfl
    · rintro rfl hw
      exact exec_fifoEnqueue hf ht hw
    · rintro rfl hw
      exact exec_fifoEnqueue_waits hf ht hw

end Sys2Proof
end

section
/-! The store of a word of local memory (O21): the firing of `lm.st`, and the stores of a tile performed at the passage. -/
namespace Sys2Proof

open Machine

variable {s t x y : State} {u w : Tile} {i : Instr} {a b : BitVec 5} {g : BitVec 4}

/-! ### The firing of `lm.st` (R225) -/

/-- The tile with the store of a firing entered behind those of earlier firings. -/
def enterStore (o : Opnd) (u : Tile) : Tile := { u with lmsts := u.lmsts ++ [(o.kb.toNat, o.ka)] }

/-- The state once the firing in `s` has taken its inputs and has entered its store. -/
def storeEntered (i : Instr) (s : State) : State := tileDone i s (enterStore (operands i s))

theorem tileOf_storeEntered :
    tileOf (storeEntered i s) s.cur.tile = enterStore (operands i s) (tileOf (started i s) s.cur.tile) := tileOf_modTile_same ..

theorem FiringKept.lm (h : FiringKept i s x y) : (tileOf y s.cur.tile).lm = (tileOf x s.cur.tile).lm := (TileKept.stores h).1

theorem FiringKept.lmsts (h : FiringKept i s x y) : (tileOf y s.cur.tile).lmsts = (tileOf x s.cur.tile).lmsts := by
  obtain ⟨-, h, -⟩ := TileKept.stores h
  exact h

/-- Where a firing leaves the machine beyond its tile and the tile's local memory alone, every byte of every memory reads as before. -/
theorem SameBeyond.sameMemory {n : Nat} (h : SameBeyond n s t) (hl : (tileOf t n).lm = (tileOf s n).lm) : SameMemory s t := by
  have hmem : t.mem = s.mem := congrArg Rest.mem h.1
  have hmt : t.mtiles = s.mtiles := congrArg Rest.mtiles h.1
  refine ⟨fun a => by rw [hmem], fun m a => ?_, fun m a => by rw [mtileOf, mtileOf, hmt]⟩
  by_cases hm : m = n
  · rw [hm, hl]
  · rw [h.2 m hm]

/-- `lm.st` is a firing whose effect is to enter its store. -/
theorem exec_lmSt : ∃ eff, exec (.lmSt a b g) s = pe s (.lmSt a b g) eff ∧
    eff (started (.lmSt a b g) s) s.cur (operands (.lmSt a b g) s) (jobNo s) = .go { st := storeEntered (.lmSt a b g) s } :=
  ⟨_, rfl, rfl⟩

theorem started_lmSt_kept : FiringKept (.lmSt a b g) s s (started (.lmSt a b g) s) := takeInputs_kept rfl

theorem finished_lmSt_kept {e : Eff} : FiringKept (.lmSt a b g) s e.st (finished (.lmSt a b g) s e) := complete_kept rfl

theorem lmsts_finished_lmSt : (tileOf (finished (.lmSt a b g) s { st := storeEntered (.lmSt a b g) s }) s.cur.tile).lmsts =
    (tileOf s s.cur.tile).lmsts ++ [((operands (.lmSt a b g) s).kb.toNat, (operands (.lmSt a b g) s).ka)] := by
  rw [finished_lmSt_kept.lmsts, tileOf_storeEntered, enterStore, started_lmSt_kept.lmsts]

theorem lm_finished_lmSt : (tileOf (finished (.lmSt a b g) s { st := storeEntered (.lmSt a b g) s }) s.cur.tile).lm =
    (tileOf s s.cur.tile).lm := by
  rw [finished_lmSt_kept.lm, tileOf_storeEntered, enterStore, started_lmSt_kept.lm]

/-- The firing of `lm.st` writes no byte, whether it is held, traps or enters its store. -/
theorem sameMemory_lmSt (h : exec (.lmSt a b g) s = .next t) : SameMemory s t := by
  obtain ⟨eff, hx, he⟩ := exec_lmSt (a := a) (b := b) (g := g) (s := s)
  rw [hx] at h
  have hb : SameBeyond s.cur.tile s t := pe_beyond s t (.lmSt a b g) eff (fun e h1 => by
    cases he.symm.trans h1
    exact sameBeyond_modTile _ _ _) h
  refine hb.sameMemory ?_
  rcases pe_cases s (.lmSt a b g) eff with h0 | ⟨c, d, h0⟩ | ⟨l, c, d, h0⟩ | ⟨e, -, h1, h0⟩ <;> (rw [h0] at h; cases h)
  · rfl
  · exact (trapPE_kept (i := .lmSt a b g)).lm
  · exact ((sameTiles_errNote s l).kept.trans (trapPE_kept (i := .lmSt a b g))).lm
  · cases he.symm.trans h1
    exact lm_finished_lmSt

/-! ### The stores of a tile performed (R217, R225, R226) -/

/-- Where a store of a tile stands in its local memory. -/
def storeAddr (u : Tile) (e : Nat × W64) : Nat := lmAddr u (lmWord8 (BitVec.ofNat 64 e.1))

/-- The tile with one store performed. -/
def performStore (u : Tile) (e : Nat × W64) : Tile := lmWrite u (lmWord8 (BitVec.ofNat 64 e.1)) e.2.toNat 8

theorem lmStores_eq : lmStores u = u.lmsts.foldl performStore { u with lmsts := [] } := rfl

theorem lmAddr_of_half {n : Nat} (h : w.half = u.half) : lmAddr w n = lmAddr u n := by rw [lmAddr, lmAddr, h]

theorem lm_performStore {e : Nat × W64} : (performStore u e).lm = bytesSet u.lm (storeAddr u e) e.2.toNat 8 := rfl

/-- What performing stores keeps: the live half of local memory, the stores still to perform, the memory's canonical form. -/
structure StoreFrame (u w : Tile) : Prop where
  half : w.half = u.half
  lmsts : w.lmsts = u.lmsts
  wf : memWf u.lm = true → memWf w.lm = true

theorem StoreFrame.refl : StoreFrame u u := ⟨rfl, rfl, id⟩

theorem performStore_frame {e : Nat × W64} (h : StoreFrame u w) : StoreFrame u (performStore w e) :=
  ⟨h.half, h.lmsts, fun hu => memWf_bytesSet _ _ _ _ (h.wf hu)⟩

theorem foldl_performStore_frame {l : List (Nat × W64)} (h : StoreFrame u w) : StoreFrame u (l.foldl performStore w) := by
  induction l generalizing w with
  | nil => exact h
  | cons e l ih => exact ih (performStore_frame h)

/-- The eight bytes of the last store of a list stand at its address. -/
theorem bytesGet_foldl_performStore {l : List (Nat × W64)} {e : Nat × W64} (hu : memWf u.lm = true) :
    bytesGet ((l ++ [e]).foldl performStore u).lm (storeAddr u e) 8 = e.2.toNat := by
  have hf : StoreFrame u (l.foldl performStore u) := foldl_performStore_frame .refl
  have ha : storeAddr (l.foldl performStore u) e = storeAddr u e := lmAddr_of_half hf.half
  rw [List.foldl_append, List.foldl_cons, List.foldl_nil, lm_performStore, ha, bytesGet_set _ _ _ _ (hf.wf hu),
    Nat.mod_eq_of_lt (Nat.lt_of_lt_of_eq e.2.isLt (by decide))]

/-- A byte outside the words stored reads as before. -/
theorem byteGet_foldl_performStore {l : List (Nat × W64)} {c : Nat} (hu : memWf u.lm = true)
    (hc : ∀ e ∈ l, c < storeAddr u e ∨ storeAddr u e + 8 ≤ c) : byteGet (l.foldl performStore u).lm c = byteGet u.lm c := by
  induction l generalizing u with
  | nil => rfl
  | cons e l ih =>
    have hf : StoreFrame u (performStore u e) := performStore_frame .refl
    have ha : ∀ d, storeAddr (performStore u e) d = storeAddr u d := fun _ => lmAddr_of_half hf.half
    rw [List.foldl_cons, ih (hf.wf hu) fun d hd => ha d ▸ hc d (List.mem_cons_of_mem _ hd), lm_performStore,
      byteGet_bytesSet_other _ _ _ _ _ (hc e List.mem_cons_self) hu]

theorem lmsts_lmStores : (lmStores u).lmsts = [] := by
  rw [lmStores_eq]
  exact (foldl_performStore_frame .refl).lmsts

theorem lm_tileTick {n : Nat} : (tileTick s n u).lm = (lmStores u).lm := rfl

theorem lmsts_tileTick {n : Nat} : (tileTick s n u).lmsts = (lmStores u).lmsts := rfl

/-- Settles O21: the firing by `exec_lmSt`, the passage by the fold of `performStore` over the tile's stores. -/
theorem localStore : Obligations.LocalStore := by
  unfold Obligations.LocalStore
  refine ⟨fun s a b g => ⟨fun hf => ?_, fun t => sameMemory_lmSt⟩, fun s n u l b v hu hl => ?_⟩
  · obtain ⟨eff, hx, he⟩ := exec_lmSt (a := a) (b := b) (g := g) (s := s)
    exact ⟨_, hx.trans (pe_go s (.lmSt a b g) eff _ hf he), lmsts_finished_lmSt⟩
  · have ha : lmAddr u (lmWord8 b) = storeAddr { u with lmsts := [] } (b.toNat, v) := by
      rw [storeAddr, BitVec.ofNat_toNat, BitVec.setWidth_eq]
      rfl
    rw [lmsts_tileTick, lm_tileTick, lmStores_eq]
    refine ⟨lmsts_lmStores, ?_, fun c hc => byteGet_foldl_performStore hu hc⟩
    rw [ha, hl]
    exact bytesGet_foldl_performStore hu

end Sys2Proof
end

section
/-! Launches: indices delivered and regions that report, acceptance, distribution, tile records, binding and completion (O56). -/
namespace Sys2Proof

open Machine

variable {s : State} {n m id : Nat}

/-! ### Indices and reports (R39, R60, R337) -/

theorem exec_indexDelivery {r r1 : Region} {c : Option Nat} {p : Nat} {t : Token} (hr : rgnOf s n = some r)
    (hf : feedNext s r = some (c, p, t, r1)) (ho : sourcesOpen s n r p = true) (hc : sourceReady s c p = true) :
    exec (.indexDelivery n) s = .next (sourceSend (setRgn s n (sourcePass r1 p)) c p t) := by
  show execIndexDelivery n s = _
  simp only [execIndexDelivery, hr, hf, ho, hc, Bool.and_self, if_true]

/-- A region that has reported, but runs for no launch of the queue, is only reusable. -/
theorem exec_regionCompletion_alone {r : Region} (hr : rgnOf s n = some r) (hc : completes s n r = true)
    (hl : (r.launch.bind fun l => launchOf s r.part l.1) = none) :
    exec (.regionCompletion n) s = .next (setRgn s n { r with reusable := true, feed := none }) := by
  show execRegionCompletion n s = _
  simp only [execRegionCompletion, hr, hc, hl, if_true]

/-- The launch of a region that has reported counts it, and the blocks of the region are no longer under way. -/
theorem exec_regionCompletion_launch {r : Region} {l : Launch} (hr : rgnOf s n = some r) (hc : completes s n r = true)
    (hl : (r.launch.bind fun l => launchOf s r.part l.1) = some l) :
    exec (.regionCompletion n) s = .next (setLaunch (setRgn s n { r with reusable := true, feed := none })
      { l with bound := l.bound.filter (· != n), reported := l.reported ++ [n], last := rgnDie r,
               given := l.given.filter fun g => g.2.2 != some n }) := by
  show execRegionCompletion n s = _
  simp only [execRegionCompletion, hr, hc, hl, if_true]

/-! ### Acceptance and the spill area (R341, R342) -/

/-- The descriptor read returns once every part of it is back and no earlier command of the bank waits (R23). -/
theorem exec_launchAccept {a : Acc} {t b j : Nat} (ha : accOf s id = some a) (hj : a.toward = .launch j) (hg : a.agent = .bank t b)
    (hb : (descParts s a).all (partBack s) = true)
    (he : dispEarlier s (((descParts s a).head?.map (·.id)).getD a.id) t b (tileDie t) = false) :
    exec (.launchAccept id) s = .next (launchReturn s (descParts s a)
      ((((descParts s a).find? fun b => !b.ok).or (descParts s a).head?).getD a) t j) := by
  show execLaunchAccept id s = _
  simp only [execLaunchAccept, ha, hj, hg, hb, he, Bool.not_false, Bool.and_self, if_true]

/-- A descriptor that was read whole, with an entry free: the launch is taken and its number answers the firing. -/
theorem launchReturn_accepted {l : List Acc} {a : Acc} {t j : Nat} {q : Bool} {k : Job} (ho : a.ok = true)
    (hq : launchRoom (partOf s a.part) = some q) (hk : jobOf (tileOf s t) j = some k) :
    let u := launchTake (l.foldl (fun x b => accDel x b.id) s) a.part (descValue l) a.holder a.agent q
    launchReturn s l a t j =
      answerJob (clkRename u.2 a.part (launchObj t j) (.launch u.1)) t k (BitVec.ofNat 512 u.1) true := by
  simp only [launchReturn, ho, hq, hk, Bool.not_true, Bool.false_eq_true, if_false]

theorem exec_spillMove {l : Launch} {rest : List Launch} (hp : (partOf s n).spill = l :: rest) (hq : queueUsed (partOf s n) < 1024) :
    exec (.spillMove n) s = .next (setPart s n { partOf s n with devq := (partOf s n).devq ++ [l], spill := rest }) := by
  show execSpillMove n s = _
  simp only [execSpillMove, hp, hq, if_true]

/-! ### Distribution (R336, R240, R409) -/

theorem exec_launchDistribution_fails {l : Launch} {r : Nat} (hd : distNext s n = some (.inl l))
    (hc : launchCheck s n l.desc = some r) : exec (.launchDistribution n) s = .next (launchFail s l r) := by
  show execLaunchDistribution n s = _
  simp only [execLaunchDistribution, hd, hc]

/-- A launch that passes its check has its dies and its number of blocks: one where its regions have no index source port. -/
theorem exec_launchDistribution_checked {l : Launch} (hd : distNext s n = some (.inl l)) (hc : launchCheck s n l.desc = none) :
    exec (.launchDistribution n) s = .next (setLaunch s
      { l with checked := true, whole := confWhole s n (ldConf l.desc), dies := confDies s n (ldConf l.desc),
               blocks := if confWhole s n (ldConf l.desc) then 1 else if ldTrl l.desc then ldCount l.desc
                 else (ldCount l.desc + ldGrain l.desc - 1) / ldGrain l.desc }) := by
  show execLaunchDistribution n s = _
  simp only [execLaunchDistribution, hd, hc]

theorem exec_launchDistribution_block {b d : Nat} {l : Launch} (hd : distNext s n = some (.inr (b, d, l))) :
    exec (.launchDistribution n) s = .next (setLaunch s (blockOut l b d)) := by
  show execLaunchDistribution n s = _
  simp only [execLaunchDistribution, hd]

/-! ### Tile records (R339) -/

/-- A launch whose record of a block yields no task: the block is no longer under way on the die. -/
def recordPassed (l : Launch) (b d : Nat) (rest : List (Nat × Nat)) : Launch :=
  { l with recs := rest, given := l.given.filter fun x => !(x.1 == b && x.2.1 == d && x.2.2.isNone) }

/-- A bad record is passed over, with its bit of the completion word and a LAUNCH_ERR record. -/
def recordBad (s : State) (n m : Nat) (l : Launch) (b d : Nat) (rest : List (Nat × Nat)) : State :=
  launchErr (setLaunch s { recordPassed l b d rest with flags := l.flags ||| 2 }) n 6 m b (ldConf l.desc)

section
variable {l : Launch} {b d x : Nat} {rest : List (Nat × Nat)}

theorem exec_tileRecordRead_unread (hl : launchOf s n m = some l) (hr : l.recs = (b, d) :: rest)
    (hx : (recordRead s l b d).2 = none) :
    exec (.tileRecordRead n m) s = .next (recordBad (recordRead s l b d).1 n m l b d rest) := by
  show execTileRecordRead n m s = _
  simp only [execTileRecordRead, hl, hr, hx]
  rfl

/-- A record whose ITEM or FLAGS exceeds 16 bits is bad. -/
theorem exec_tileRecordRead_bad (hl : launchOf s n m = some l) (hr : l.recs = (b, d) :: rest)
    (hx : (recordRead s l b d).2 = some x) (hb : 65535 < x % 2 ^ 32 ∨ 65535 < x / 2 ^ 96 % 2 ^ 32) :
    exec (.tileRecordRead n m) s = .next (recordBad (recordRead s l b d).1 n m l b d rest) := by
  have hc : (decide (65535 < x % 2 ^ 32) || decide (65535 < x / 2 ^ 96 % 2 ^ 32)) = true := by
    simpa only [Bool.or_eq_true, decide_eq_true_eq] using hb
  show execTileRecordRead n m s = _
  simp only [execTileRecordRead, hl, hr, hx, hc, if_true]
  rfl

/-- A record that is not bad yields the tasks of its rows, or none. -/
theorem exec_tileRecordRead_good (hl : launchOf s n m = some l) (hr : l.recs = (b, d) :: rest)
    (hx : (recordRead s l b d).2 = some x) (hi : x % 2 ^ 32 ≤ 65535) (hf : x / 2 ^ 96 % 2 ^ 32 ≤ 65535) :
    exec (.tileRecordRead n m) s = .next (setLaunch (recordRead s l b d).1
      (if x / 2 ^ 64 % 2 ^ 32 = 0 then recordPassed l b d rest
       else { l with recs := rest, ready := l.ready ++ (recordTasks l b (x % 2 ^ 32) (x / 2 ^ 32 % 2 ^ 32) (x / 2 ^ 64 % 2 ^ 32)
          (x / 2 ^ 96 % 2 ^ 32)).map fun t => (d, t) })) := by
  have hc : (decide (65535 < x % 2 ^ 32) || decide (65535 < x / 2 ^ 96 % 2 ^ 32)) = false := by
    simpa only [Bool.or_eq_false_iff, decide_eq_false_iff_not, Nat.not_lt] using And.intro hi hf
  show execTileRecordRead n m s = _
  simp only [execTileRecordRead, hl, hr, hx, hc, Bool.false_eq_true, if_false]
  split <;> rfl

end

/-! ### Binding (R337, R340, R343) and completion (R338) -/

/-- The region that takes a task is bound to the launch when it is reusable; otherwise the task's indices follow. -/
theorem exec_taskBind {k : Nat} {r : Region} {t : Task} (hb : bindNext s n m = some (k, r, t)) :
    exec (.taskBind n m) s = .next (if r.reusable then bindInstance (taskTaken s k m r t) k r t
      else modRgn (taskTaken s k m r t) k fun r => { r with feed := some (feedOf t true) }) := by
  show execTaskBind n m s = _
  simp only [execTaskBind, hb]
  split <;> rfl

/-- The region under which a launch's completion word is written: the one that reported last. -/
def doneRgn (n : Nat) (l : Launch) : Nat := (l.reported.getLast?).getD (n * 2 ^ 32)

/-- The holder whose release the completion word is. -/
def doneHolder (s : State) (n : Nat) (l : Launch) : Nat := ((rgnOf s (doneRgn n l)).map (·.holder)).getD l.holder

theorem exec_launchCompletion {l : Launch} (hl : launchOf s n m = some l) (hd : launchDone s l = true)
    (hc : clockRooms (partOf s n) (doneHolder s n l) 1 = true) :
    exec (.launchCompletion n m) s = .next (modPart (writeDone s n (if l.reported.isEmpty || dieFenced s l.last then lowDie s else l.last)
      (doneHolder s n l) (doneRgn n l) (ldDone l.desc) ((l.seq + l.flags * 2 ^ 61) % 2 ^ 64)) n
      fun p => { p with devq := p.devq.filter fun x => x.seq != m }) := by
  have hg : (launchDone s l && clockRooms (partOf s n) (doneHolder s n l) 1) = true := by rw [hd, hc, Bool.and_self]
  show execLaunchCompletion n m s = _
  simp only [execLaunchCompletion, hl]
  exact if_pos hg

/-- Settles O56, clause by clause. -/
theorem launchSteps : Obligations.LaunchSteps := by
  unfold Obligations.LaunchSteps
  refine ⟨fun s n r hr => ⟨fun _ _ _ _ => exec_indexDelivery hr, fun hc => ⟨exec_regionCompletion_alone hr hc,
    fun _ => exec_regionCompletion_launch hr hc⟩⟩, fun s id t b j a ha hj hg hb he => ?_, fun s n m => ?_,
    fun _ _ _ _ => exec_launchCompletion⟩
  · have hx := exec_launchAccept ha hj hg hb he
    exact ⟨hx, fun q k ho hq hk => hx.trans (congrArg Host.Outcome.next (launchReturn_accepted ho hq hk))⟩
  · refine ⟨fun _ _ => exec_spillMove, fun _ _ => exec_launchDistribution_fails, fun _ => exec_launchDistribution_checked,
      fun _ _ _ => exec_launchDistribution_block, fun l b d rest hl hr => ⟨exec_tileRecordRead_unread hl hr,
        fun x hx => ⟨exec_tileRecordRead_bad hl hr hx, fun h0 hi hf => ?_, fun h0 hi hf => ?_⟩⟩,
      fun k r t hb => ⟨fun hu => ?_, fun hu => ?_⟩⟩
    · rw [exec_tileRecordRead_good hl hr hx hi hf, if_pos h0]
      rfl
    · rw [exec_tileRecordRead_good hl hr hx hi hf, if_neg h0]
    · rw [exec_taskBind hb, if_pos hu]
    · rw [exec_taskBind hb, hu, if_neg Bool.false_ne_true]

end Sys2Proof
end

section
/-! The instructions of the address generators (R247, O44). -/
namespace Sys2Proof

open Machine

variable {s : State} {i : Instr} {k : Kind} {ok : Bool} {pay : W64}

/-- A firing whose effect is a command's token writes it with flag 1 where the operands are in range; else it writes nothing. -/
theorem agtTok_completes {eff : State → Firing → Opnd → Nat → Effect} (hx : exec i s = pe s i eff)
    (he : eff (started i s) s.cur (operands i s) (jobNo s) = agtTok k ok pay (started i s)) :
    (ok = true → Completes i s { st := started i s, r1 := (k, pay.setWidth 512), flag := true }) ∧
      (ok = false → Completes i s { st := started i s, r1 := (k, pay.setWidth 512), flag := false, quiet := true }) := by
  constructor <;> rintro rfl
  · exact completes_of hx he
  · exact completes_of hx he

/-- Settles O44: each instruction's effect is the token of its command. -/
theorem agtInstructions : Obligations.AgtInstructions := by
  unfold Obligations.AgtInstructions
  intro s a b d e g
  exact ⟨agtTok_completes rfl rfl, agtTok_completes rfl rfl, agtTok_completes rfl rfl, agtTok_completes rfl rfl,
    agtTok_completes rfl rfl, agtTok_completes rfl rfl, agtTok_completes rfl rfl, agtTok_completes rfl rfl, agtTok_completes rfl rfl⟩

end Sys2Proof
end

section
/-! The steps in which an address generator takes a command, and hands its section over (R244, R247 to R256, R263, O50). -/
namespace Sys2Proof

open Machine

variable {s x : State} {n : Nat}

/-! ### What a command leaves of the walker -/

/-- A dequeue leaves every walker as it is. -/
theorem agtOf_deqHead {ep : Nat} : agtOf (deqHead s ep) n = agtOf s n := by
  rw [agtOf, agtOf, show (deqHead s ep).agts = s.agts from congrArg Rest.agts (sameTiles_deqHead s ep).1]

/-- Pending changes are changes to the walker's words alone. -/
theorem cfgApply_words (a : Agt) (y : W64) : ∃ w, cfgApply a y = { a with w := w } := by
  unfold cfgApply
  dsimp only
  repeat' split
  all_goals exact ⟨_, rfl⟩

/-- At a boundary nothing of a walker changes but its words and its pending changes (R250). -/
theorem agtBoundary_words (a : Agt) : ∃ w, agtBoundary a = { a with w := w, cfgs := [] } := by
  have hl : ∀ l : List W64, ∃ w, l.foldl cfgApply a = { a with w := w } := fun l => by
    induction l using List.reverseRecOn with
    | nil => exact ⟨_, rfl⟩
    | append_singleton l y ih =>
      obtain ⟨w, hw⟩ := ih
      obtain ⟨v, hv⟩ := cfgApply_words { a with w := w } y
      exact ⟨v, by rw [List.foldl_append, hw, List.foldl_cons, List.foldl_nil, hv]⟩
  obtain ⟨w, hw⟩ := hl a.cfgs
  exact ⟨w, by rw [agtBoundary, hw]⟩

theorem agtBoundary_hand (a : Agt) : (agtBoundary a).hand = a.hand := by
  obtain ⟨w, h⟩ := agtBoundary_words a
  rw [h]

/-- The walker that has taken a token at port 0. -/
theorem agtOf_agtTake {f : Agt → Agt} :
    agtOf (agtTake s n f) n = if agtResting (agtOf s n) then agtBoundary (f (agtOf s n)) else f (agtOf s n) := by
  rw [agtTake, agtOf_setAgt_same, agtOf_deqHead]

theorem agtHold_agtSetHold (a : Agt) (h : Bool) : agtHold (agtSetHold a h) = h := by
  have hw : agtW (agtSetHold a h) 0 = if h then agtW a 0 ||| (1 : W64) <<< 40 else agtW a 0 &&& ~~~((1 : W64) <<< 40) :=
    vecGetD_set_same _ _ _ _ (by decide)
  cases h <;> simp [agtHold, hw]

/-! ### Commands (R247, R248, R249, R250, R263) -/

/-- Where no go waits implicitly, the go at port 0 is taken (R248). -/
theorem exec_agtTakeGo_head (hw : agtGoWaits s n = false) (h : agtCanTake s n 3 = true) : exec (.agtTakeGo n) s =
    .next (setAgt (deqHead s (agtEp n 0)) n (agtBegin (agtOf (deqHead s (agtEp n 0)) n))) :=
  (if_neg (by simp [hw])).trans (if_pos h)

/-- At rest, a stop is taken and nothing more. -/
theorem exec_agtTakeStop_rest (h : agtCanTake s n 4 = true) (hr : agtResting (agtOf s n) = true) :
    exec (.agtTakeStop n) s = .next (agtTake s n fun y => y) := by
  show execAgtTakeStop n s = _
  simp only [execAgtTakeStop, h, hr, if_true]

/-- A walk that is stopped is given up, its partial tokens with it. -/
theorem exec_agtTakeStop_walk (h : agtCanTake s n 4 = true) (hr : agtResting (agtOf s n) = false) :
    ∃ t, exec (.agtTakeStop n) s = .next t ∧ agtOf t n = agtGiveUp (agtOf s n) := by
  refine ⟨_, if_pos h, ?_⟩
  show agtOf (agtTake s n fun a => if agtResting (agtOf s n) then a else agtGiveUp a) n = _
  rw [agtOf_agtTake, hr, if_neg Bool.false_ne_true, if_neg Bool.false_ne_true]

/-! ### Hand-overs (R255) -/

theorem exec_agtTakeHand (h : agtCanTake s n 6 = true) :
    ∃ t, exec (.agtTakeHand n) s = .next t ∧ (agtOf t n).hand = agtHold (agtOf (coFlush s n) n) := by
  refine ⟨_, if_pos h, ?_⟩
  rw [agtOf_agtTake]
  split
  · rw [agtBoundary_hand]
  · rfl

/-- The token of a hand-over is written in the state that has cleared HOLD, where it can clear it (R255, steps 3 and 4). -/
theorem exec_handoverSend_token (h : handDue x n = true) (hx : (if handQuiet s n then setAgt s n (handClear (agtOf s n)) else s) = x) :
    exec (.handoverSend n) s =
      .next (agtOut (setAgt x n { agtOf x n with handTok := false }) n 4 ⟨.data, 0, BitVec.ofNat 512 (agtEp n 0)⟩) := by
  subst hx
  exact if_pos h

theorem exec_handoverSend_waits (h : handDue x n = false) (hx : (if handQuiet s n then setAgt s n (handClear (agtOf s n)) else s) = x) :
    exec (.handoverSend n) s = .next x := by
  subst hx
  exact if_neg (by simp [h])

/-- The AGT that receives the window holds it, and a walk that waits for it runs. -/
theorem exec_handoverReceive (h : handIn s n = true) : ∃ t, exec (.handoverReceive n) s = .next t ∧ agtHold (agtOf t n) = true ∧
    ((agtOf s n).st = .wait → (agtOf t n).st = .run) ∧ ((agtOf s n).st ≠ .wait → (agtOf t n).st = (agtOf s n).st) := by
  refine ⟨_, if_pos h, ?_⟩
  rw [agtOf_setAgt_same, agtOf_deqHead]
  have hh := agtHold_agtSetHold (agtOf s n) true
  split
  · rename_i hw
    exact ⟨hh, fun _ => rfl, fun hn => absurd hw hn⟩
  · rename_i hw
    exact ⟨hh, fun hn => absurd hn hw, fun _ => rfl⟩

/-- Settles O50, clause by clause. -/
theorem agtCommandSteps : Obligations.AgtCommandSteps := by
  unfold Obligations.AgtCommandSteps
  intro s n y a
  refine ⟨fun h => if_pos h, fun h => if_pos h, fun h => if_pos h, fun h => if_pos h, exec_agtTakeGo_head,
    exec_agtTakeStop_rest, fun h hr => ?_, exec_agtTakeHand, ⟨fun h => exec_handoverSend_token h rfl,
      fun h => exec_handoverSend_waits h rfl⟩, exec_handoverReceive,
    fun h => if_pos h, fun h => if_pos h, fun h => if_pos h, fun h => if_pos h, fun h => if_pos h, fun h => if_pos h⟩
  obtain ⟨t, ht, hg⟩ := exec_agtTakeStop_walk h hr
  refine ⟨t, ht, ?_⟩
  rw [hg]
  exact ⟨rfl, rfl, rfl, rfl⟩

end Sys2Proof
end

section
/-! What leaves the channels of the block-transfer engines as they are: translations, accesses made at once, and their records. -/
namespace Sys2Proof

open Machine

variable {s x : State} {n ch pn vp d pa line : Nat} {write : Bool} {loc : Loc} {a : Acc}

theorem btes_foldl {α : Type} {f : State → α → State} {l : List α} (hf : ∀ x a, (f x a).btes = x.btes) :
    (l.foldl f s).btes = s.btes := by
  induction l generalizing s with
  | nil => rfl
  | cons a l ih => exact ih.trans (hf s a)

@[simp] theorem btes_errNote : (errNote s loc).btes = s.btes := congrArg Rest.btes (sameTiles_errNote s loc).1

@[simp] theorem btes_clkAcquire {h sc : Nat} {i : ObjId} {b : Place} {u : Option Place} : (clkAcquire s pn h i sc b u).btes = s.btes :=
  congrArg Rest.btes (sameTiles_clkAcquire s pn h i sc b u).1

@[simp] theorem btes_clkRelease {h sc : Nat} {i : ObjId} {b : Place} : (clkRelease s pn h i sc b).btes = s.btes := by
  unfold clkRelease
  dsimp only
  split <;> rfl

@[simp] theorem btes_faultRecord {who : Agent} {r : BitVec 512} : (faultRecord s pn who r).btes = s.btes := by
  unfold faultRecord
  dsimp only
  split <;> rfl

@[simp] theorem btes_clkBare {i : ObjId} {sc : Nat} {b : Place} : (clkBare s pn i sc b).btes = s.btes := rfl

@[simp] theorem btes_raceRecord {r : BitVec 512} : (raceRecord s pn r).btes = s.btes := by
  unfold raceRecord
  dsimp only
  split <;> simp

theorem btes_raceCheck : (raceCheck s a).1.btes = s.btes := by
  unfold raceCheck
  dsimp only
  repeat' split
  all_goals simp

@[simp] theorem btes_metaSet {m : BitVec 64} : (metaSet s pn m loc).btes = s.btes := by
  unfold metaSet hbmMetaSet
  dsimp only
  repeat' split
  all_goals rfl

@[simp] theorem btes_raceNote : (raceNote s a).btes = s.btes := by
  unfold raceNote
  dsimp only
  repeat' split
  all_goals simp

@[simp] theorem btes_noteEvict : (noteEvict s pn line).btes = s.btes := by
  unfold noteEvict
  dsimp only
  repeat' split
  all_goals rfl

@[simp] theorem btes_cacheTouch : (cacheTouch s pn pa write).btes = s.btes := by
  unfold cacheTouch metaFill
  dsimp only
  split
  · rfl
  · rw [btes_foldl fun _ _ => btes_noteEvict]
    repeat' split
    all_goals rfl

@[simp] theorem btes_stackWake : (stackWake s pn pa).btes = s.btes := by
  unfold stackWake
  split <;> rfl

@[simp] theorem btes_clearBad {m k : Nat} : (clearBad s loc m k).btes = s.btes := by
  unfold clearBad
  dsimp only
  repeat' split
  all_goals rfl

@[simp] theorem btes_locSet {v m k : Nat} : (locSet s loc v m k).btes = s.btes := by
  unfold locSet
  dsimp only
  repeat' split
  all_goals rfl

theorem btes_homeAccess : (homeAccess s a).1.btes = s.btes := by
  unfold homeAccess
  extract_lets a pl s1
  have h1 : s1.btes = s.btes := by
    unfold s1
    split <;> simp
  have h2 : (raceCheck s1 a).1.btes = s.btes := btes_raceCheck.trans h1
  generalize raceCheck s1 a = r at h2
  split
  · exact h2
  · extract_lets s3 m s4 s5 s6
    have h3 : s3.btes = s.btes := by
      unfold s3
      split <;> simpa using h2
    split
    · simpa using h3
    · have h4 : s4.btes = s.btes := by
        unfold s4
        split <;> simpa using h3
      have h5 : s5.btes = s.btes := btes_raceNote.trans h4
      show s6.btes = s.btes
      unfold s6
      split
      · exact btes_clkRelease.trans h5
      · exact h5

theorem btes_poolPage (h : poolPage s pn = some (pa, x)) : x.btes = s.btes := by
  simp only [poolPage] at h
  split at h <;> cases h
  rfl

theorem btes_walkAlloc {k : Nat} : (walkAlloc s pn vp write k).2.btes = s.btes := by
  induction k generalizing s with
  | zero => rfl
  | succ k ih =>
    unfold walkAlloc
    split
    · rfl
    · split
      · split
        · rename_i h
          exact (ih.trans (physSet_btes ..)).trans (btes_poolPage h)
        · rfl
      · rfl

theorem btes_walkServed : (walkServed s pn vp write).2.btes = s.btes := by
  unfold walkServed
  split
  · exact btes_walkAlloc
  · rfl

theorem btes_walkNow : (walkNow s d pn vp write).1.btes = s.btes := by
  have h : (walkServed s pn vp write).2.btes = s.btes := btes_walkServed
  unfold walkNow
  generalize walkServed s pn vp write = r at h
  split
  · dsimp only
    split <;> exact h
  · exact h

theorem btes_xlateNow : (xlateNow s d pn vp write).1.btes = s.btes := by
  unfold xlateNow
  repeat' split
  all_goals simp [btes_walkNow]

theorem btes_bteAt {y : W64} : (bteAt s n pn y write).1.btes = s.btes := by
  unfold bteAt
  split
  · rfl
  · repeat' split
    all_goals rfl
  · repeat' split
    all_goals rfl
  · rename_i va _
    have h : (xlateNow s (n / 128) pn (va / 4096) write).1.btes = s.btes := btes_xlateNow
    generalize xlateNow s (n / 128) pn (va / 4096) write = r at h ⊢
    split
    · split <;> exact h
    · exact h

theorem btes_bteOwn {op : AccOp} {y : W64} {size data : Nat} : (bteOwn s n ch op y loc size data).1.btes = s.btes := btes_homeAccess

theorem btes_ownRace {r : State × Acc} : (ownRace r).btes = r.1.btes := by
  unfold ownRace
  split <;> simp

theorem btes_chainNext : (chainNext s n ch).1.btes = s.btes := by
  unfold chainNext
  dsimp only
  split
  · rfl
  · rfl
  · rename_i l _ _
    have h : (bteAt s n (btePart (bteOf s n ch)) (BitVec.ofNat 64 (l + 24)) false).1.btes = s.btes := btes_bteAt
    generalize bteAt s n (btePart (bteOf s n ch)) (BitVec.ofNat 64 (l + 24)) false = r at h ⊢
    split
    · split
      · exact btes_bteOwn.trans h
      · exact btes_ownRace.trans (btes_bteOwn.trans h)
    · exact h

/-- A channel by the map of channels. -/
theorem bteOf_of_btes (h : x.btes = s.btes) : bteOf x n ch = bteOf s n ch := by
  rw [bteOf, bteOf, h]

end Sys2Proof
end

section
/-! The steps of a walk (R244 to R246, R252, R257) and of a block-transfer channel (R269 to R290, O51). -/
namespace Sys2Proof

open Machine

variable {s x : State} {n ch id : Nat}

/-! ### Elements, tokens and reports of a walk (R245, R252, R254) -/

theorem exec_agtElement (h : agtElemDue s n = true) (hr : agtRace s n = none) : exec (.agtElement n) s = .next (agtStep s n) := by
  show execAgtElement n s = _
  simp only [execAgtElement, h, hr, if_true]

theorem exec_agtElement_raced {a : Acc} (h : agtElemDue s n = true) (hr : agtRace s n = some a) :
    exec (.agtElement n) s = .next (agtRaced s n a) := by
  show execAgtElement n s = _
  simp only [execAgtElement, h, hr, if_true]

/-- A token of a read walk goes to port 1 (R245). -/
theorem exec_agtTokenOut_walk {t : Token} {l : List Token} (ho : (agtOf s n).out1 = t :: l) (hm : rgnMoves s (agtOf s n).rgn = true)
    (hp : agtPasses (agtOf s n) = true) (hw : outWritable s (agtEp n 1) = true) (hk : t.kind ≠ .mark) : exec (.agtTokenOut n) s =
      .next (agtOut (setAgt s n { agtOf s n with out1 := l, leftTok := (agtOf s n).leftTok.map (· - 1) }) n 1 t) := by
  have hd : agtOutDue s n = true := by simp [agtOutDue, ho, hm, hp, hw]
  show execAgtTokenOut n s = _
  simp [execAgtTokenOut, hd, ho, hp, hw, hk]

/-- A status token goes to port 3 where no token of the walk waits (R249). -/
theorem exec_agtTokenOut_status {t : Token} {l : List Token} (h1 : (agtOf s n).out1 = []) (ho : (agtOf s n).out3 = t :: l)
    (hm : rgnMoves s (agtOf s n).rgn = true) (hw : outWritable s (agtEp n 3) = true) :
    exec (.agtTokenOut n) s = .next (agtOut (setAgt s n { agtOf s n with out3 := l }) n 3 t) := by
  have hd : agtOutDue s n = true := by simp [agtOutDue, h1, ho, hm, hw]
  show execAgtTokenOut n s = _
  simp [execAgtTokenOut, hd, h1, ho, hw]

/-- The lines left are sent before the walk reports. -/
theorem exec_agtWalkReport_flush (h : agtReportDue s n = true) (hb : (agtOf s n).buf.isEmpty = false) :
    exec (.agtWalkReport n) s = .next (coFlush s n) := by
  show execAgtWalkReport n s = _
  simp only [execAgtWalkReport, h, hb, Bool.not_false, if_true]

theorem exec_agtWalkReport_done (h : agtReportDue s n = true) (hb : (agtOf s n).buf.isEmpty = true) :
    ∃ t, exec (.agtWalkReport n) s = .next t ∧ (agtOf t n).reported = true ∧
      (agtOf t n).st = (if (agtOf s n).stopping then .idle else .done) ∧ (agtOf t n).stopping = false := by
  refine ⟨_, (if_pos h).trans (if_neg (by simp [hb])), ?_⟩
  rw [agtOf_setAgt_same]
  exact ⟨rfl, rfl, rfl⟩

/-! ### Page walks (R257) -/

theorem exec_pageWalk {w : Walk} (hw : (s.walks.find? fun w => w.id == id) = some w) (hd : w.due ≤ s.cyc) : exec (.pageWalk id) s =
    .next (w.who.foldl (fun st x => walkTell st w x) { s with walks := s.walks.filter fun x => x.id != id }) := by
  show execPageWalk id s = _
  simp only [execPageWalk, hw, hd, if_true]

section

variable {w : Walk} {t pp b e lv u : Nat} {wr r : Bool}

/-- A walk is its outcome and the state that it leaves. -/
theorem walkServed_pair {o : WalkRes} (h : (walkServed s w.part w.vp wr).1 = o) :
    walkServed s w.part w.vp wr = (o, (walkServed s w.part w.vp wr).2) := Prod.ext h rfl

/-- The page enters the die's TLB. -/
theorem walkTell_pe_ok (h : (walkServed s w.part w.vp wr).1 = .ok pp r) :
    walkTell s w (.pe t, wr) = dieEnter (walkServed s w.part w.vp wr).2 w.die ⟨w.part, w.vp, pp, r⟩ := by
  rw [walkTell, walkServed_pair h]

/-- The failure is remembered at the tile. -/
theorem walkTell_pe_fail (h : (walkServed s w.part w.vp wr).1 = .fail b e lv u) : walkTell s w (.pe t, wr) =
    modTile (walkServed s w.part w.vp wr).2 t fun u => { u with xfails := u.xfails ++ [⟨w.vp, wr, b, s.cyc⟩] } := by
  rw [walkTell, walkServed_pair h]

/-- A walker that waits for the page learns why it failed. -/
theorem walkTell_agt_fail (h : (walkServed s w.part w.vp wr).1 = .fail b e lv u)
    (hx : (agtOf (walkServed s w.part w.vp wr).2 t).xl = some (w.vp, none)) :
    walkTell s w (.agt t, wr) = setAgt (walkServed s w.part w.vp wr).2 t
      { agtOf (walkServed s w.part w.vp wr).2 t with xl := some (w.vp, some (b, e)) } := by
  rw [walkTell, walkServed_pair h]
  exact if_pos hx

/-- A walker that waits for the page waits no more. -/
theorem walkTell_agt_ok (h : (walkServed s w.part w.vp wr).1 = .ok pp r) (hp : linkPage pp = false)
    (hx : (agtOf (walkServed s w.part w.vp wr).2 t).xl = some (w.vp, none)) : (agtOf (walkTell s w (.agt t, wr)) t).xl = none := by
  rw [walkTell, walkServed_pair h]
  simp only [hp, Bool.false_eq_true, if_false]
  refine Eq.trans (congrArg (fun y => (agtOf y t).xl) (if_pos hx)) ?_
  rw [agtOf_setAgt_same]

end

/-! ### Commands begun (R270) -/

/-- What the checks of a command make of it is a run of that command, the one command it is about. -/
theorem bteCheck_cmd {pn : Nat} {c : BteCmd} : (bteCheck s n pn c).2.cmd = c := by
  unfold bteCheck
  dsimp only
  repeat' split
  all_goals rfl

theorem exec_bteCommandBegin {c : BteCmd} {q : List BteCmd} (hq : (bteOf s n ch).q = c :: q) (h : beginDue s n ch = true) :
    ∃ t, exec (.bteCommandBegin n ch) s = .next t ∧ (bteOf t n ch).q = q ∧ (bteOf t n ch).taken = c.seq ∧
      ∃ r, (bteOf t n ch).run = some r ∧ r.cmd = c := by
  show ∃ t, execBteCommandBegin n ch s = _ ∧ _
  simp only [execBteCommandBegin, hq, h, if_true]
  refine ⟨_, rfl, ?_⟩
  rw [bteOf_setBte_same]
  exact ⟨rfl, rfl, _, rfl, bteCheck_cmd⟩

/-! ### Chain entries taken (R279, R280) -/

/-- The channel of `t` holds behind the commands that it holds in `s` one more, whose number is `q`. -/
def Enqueued (s t : State) (n ch q : Nat) : Prop := ∃ c, (bteOf t n ch).q = (bteOf s n ch).q ++ [c] ∧ c.seq = q

theorem chainPut_enqueued {at_ : Nat} {c : BteCmd} {next : Option W64} (h : x.btes = s.btes) :
    Enqueued s (chainPut x n ch at_ c next) n ch c.seq := by
  refine ⟨c, ?_, rfl⟩
  rw [chainPut, bteOf_setBte_same, bteOf_of_btes h]
  rfl

/-- An entry that is read, and one that cannot be read, gives the command of the number after the last one taken. -/
theorem chainRead_enqueued {c : BteCh} {y : W64} (h : x.btes = s.btes) : Enqueued s (chainRead x n ch c y) n ch (c.taken + 1) := by
  unfold chainRead
  dsimp only
  split
  · have hb : (bteAt x n (btePart c) y false).1.btes = s.btes := btes_bteAt.trans h
    generalize bteAt x n (btePart c) y false = r at hb ⊢
    split
    · exact chainPut_enqueued hb
    · split
      · exact chainPut_enqueued (btes_bteOwn.trans hb)
      · exact chainPut_enqueued (btes_ownRace.trans (btes_bteOwn.trans hb))
  · exact chainPut_enqueued h

theorem exec_chainTake (h : chainDue s n ch = true) :
    ∃ t, exec (.chainTake n ch) s = .next t ∧ Enqueued s t n ch ((bteOf s n ch).taken + 1) := by
  show ∃ t, execChainTake n ch s = _ ∧ _
  simp only [execChainTake, h, if_true]
  have hs := btes_clkAcquire (s := s) (pn := btePart (bteOf s n ch)) (h := (bteOf s n ch).holder) (i := .issue n ch) (sc := 2)
    (b := btePlace n) (u := none)
  generalize clkAcquire s (btePart (bteOf s n ch)) (bteOf s n ch).holder (.issue n ch) 2 (btePlace n) none = s0 at hs ⊢
  have hc : (chainNext s0 n ch).1.btes = s.btes := btes_chainNext.trans hs
  generalize chainNext s0 n ch = r at hc ⊢
  split
  · split
    · exact ⟨_, rfl, chainPut_enqueued hs⟩
    · exact ⟨_, rfl, chainPut_enqueued hc⟩
    · exact ⟨_, rfl, chainRead_enqueued hc⟩
  · exact ⟨_, rfl, chainPut_enqueued rfl⟩

/-! ### Follow-ons handed over (R281) -/

/-- A target that gets its follow-on is counted among those that have it, and the channel's command is the same. -/
theorem bteOf_fonHand {t : Nat} {r : BteRun} (h : (bteOf s n ch).run = some r) :
    ∃ r', (bteOf (fonHand n ch s t) n ch).run = some r' ∧ r'.cmd = r.cmd ∧ r'.handed = r.handed ++ [t] := by
  unfold fonHand
  dsimp only
  rw [h]
  dsimp only
  split
  · rw [bteOf_modTile, bteOf_setBte_same]
    exact ⟨_, rfl, rfl, rfl⟩
  · rw [bteOf_of_btes btes_errNote, bteOf_setBte_same]
    exact ⟨_, rfl, rfl, rfl⟩

theorem bteOf_foldl_fonHand {l : List Nat} {r : BteRun} (h : (bteOf s n ch).run = some r) :
    ∃ r', (bteOf (l.foldl (fonHand n ch) s) n ch).run = some r' ∧ r'.cmd = r.cmd ∧ r'.handed = r.handed ++ l := by
  induction l generalizing s r with
  | nil => exact ⟨r, h, rfl, (List.append_nil _).symm⟩
  | cons t l ih =>
    obtain ⟨u, hu, hc, hh⟩ := bteOf_fonHand (t := t) h
    obtain ⟨v, hv, hd, hg⟩ := ih hu
    exact ⟨v, hv, hd.trans hc, by rw [hg, hh, List.append_assoc, List.singleton_append]⟩

/-- A target's array gets a descriptor that can be read. -/
theorem fons_fonHand {t : Nat} {r : BteRun} {d : BitVec 256} (h : (bteOf s n ch).run = some r)
    (hd : fonDesc (tileOf s t) r.cmd.fon = some d) :
    (tileOf (fonHand n ch s t) t).fons = (tileOf s t).fons ++ [fonCmd d n ch r.cmd.seq] := by
  simp only [fonHand, h, hd]
  rw [tileOf_modTile_same]
  rfl

/-! ### Reports and promises (R275, R276) -/

theorem exec_bteCommandReport {r : BteRun} (h : reportNext s n ch = some r) :
    ∃ t, exec (.bteCommandReport n ch) s = .next t ∧ (bteOf t n ch).done = r.cmd.seq := by
  show ∃ t, execBteCommandReport n ch s = _ ∧ _
  simp only [execBteCommandReport, h]
  refine ⟨_, rfl, ?_⟩
  rw [bteOf_setBte_same]
  rfl

/-- A promise missed traps the bank that issued the command (R275). -/
theorem exec_promiseMissed {seq t b sl cx : Nat} {c : BteCmd}
    (h : ((bteCmds (bteOf s n ch)).find? fun x => x.seq == seq && missDue s.cyc x) = some c) (hc : c.strict = some (t, b, sl, cx)) :
    ∃ u, exec (.promiseMissed n ch seq) s = .next u ∧ (tileOf u t).stopped = true ∧
      ∃ r, (tileOf u t).traps = (tileOf s t).traps ++ [r] ∧ r.cause = 0xD10 ∧ r.detail = BitVec.ofNat 64 seq ∧ r.bank = b := by
  show ∃ u, execPromiseMissed n ch seq s = _ ∧ _
  simp only [execPromiseMissed, h, hc]
  refine ⟨_, rfl, ?_⟩
  rw [tileOf_takeTrap_same]
  exact ⟨rfl, _, rfl, rfl, rfl, rfl⟩

/-- Settles O51, clause by clause. -/
theorem walkAndCopySteps : Obligations.WalkAndCopySteps := by
  unfold Obligations.WalkAndCopySteps
  intro s n ch a c
  refine ⟨exec_agtElement, fun _ => exec_agtElement_raced, fun _ _ => exec_agtTokenOut_walk, fun _ _ => exec_agtTokenOut_status,
    exec_agtWalkReport_flush, exec_agtWalkReport_done, fun _ _ => exec_pageWalk, fun st w t wr => ⟨fun _ _ => walkTell_pe_ok,
      fun _ _ _ _ => walkTell_pe_fail, fun _ _ _ _ => walkTell_agt_fail, fun _ _ => walkTell_agt_ok⟩,
    fun _ _ => exec_bteCommandBegin, fun h => ?_, fun r hr => ?_, fun _ => exec_bteCommandReport,
    fun _ _ _ _ _ _ => exec_promiseMissed⟩
  · obtain ⟨t, ht, y, hq, hy⟩ := exec_chainTake h
    exact ⟨t, y, ht, hq, hy⟩
  · refine ⟨_, rfl, bteOf_foldl_fonHand hr, fun k d hk hd => ?_⟩
    rw [hk]
    exact fons_fonHand hr hd

end Sys2Proof
end

section
/-! The instructions of the block-transfer engine (R274, R282 to R289, O45). -/
namespace Sys2Proof

open Machine

variable {s : State} {n ch : Nat}

/-! ### Releases towards a channel (R285, R290) -/

theorem btes_releaseLater {o : Owed} : (releaseLater s o).btes = s.btes := by
  unfold releaseLater
  split
  · exact btes_clkRelease
  · rfl

/-- A release towards an issue object leaves every channel as it is. -/
theorem bteOf_issueRel {f : Firing} {m k : Nat} : bteOf (issueRel s f m k) n ch = bteOf s n ch := bteOf_of_btes btes_releaseLater

/-! ### What `bte.seq` acquires (R288, R314) -/

/-- The state `s` with what a firing's bank acquires from the line of its channel's SEQADDR, where that page translates. -/
def seqAcquired (s : State) (f : Firing) : State :=
  let h := tileHolder s f.tile
  let va := fld (chanFor s f).w1 47 0
  match walkTables s h.2.1 (va / 4096) false with
  | .ok pp _ =>
    let loc := physLoc (pp * 4096 + va % 4096)
    clkAcquire s h.2.1 h.1 (lineObj loc) 2 (tilePlace f.tile) (some (locPlace loc))
  | _ => s

section

variable {f : Firing}

theorem seqAcquired_ok {pp : Nat} {r : Bool}
    (h : walkTables s (tileHolder s f.tile).2.1 (fld (chanFor s f).w1 47 0 / 4096) false = .ok pp r) :
    seqAcquired s f =
      let loc := physLoc (pp * 4096 + fld (chanFor s f).w1 47 0 % 4096)
      clkAcquire s (tileHolder s f.tile).2.1 (tileHolder s f.tile).1 (lineObj loc) 2 (tilePlace f.tile) (some (locPlace loc)) := by
  simp only [seqAcquired, h]

theorem seqAcquired_fails
    (h : ∀ pp r, walkTables s (tileHolder s f.tile).2.1 (fld (chanFor s f).w1 47 0 / 4096) false ≠ .ok pp r) :
    seqAcquired s f = s := by
  unfold seqAcquired
  dsimp only
  split
  · rename_i hw
    exact absurd hw (h _ _)
  · rfl

end

/-- A firing of `bte.seq` acquires, and gives DONE as the PEs see it. -/
theorem bteSeq_completes {a : BitVec 5} {d e g : BitVec 4} {x : State}
    (hx : seqAcquired (started (.bteSeq a d e g) s) s.cur = x) : Completes (.bteSeq a d e g) s
      { st := x, r1 := (.data, BitVec.ofNat 512 (chanFor (started (.bteSeq a d e g) s) s.cur).view.2), lat := 4 } := by
  subst hx
  exact completes_of rfl rfl

/-- Settles O45: both copies by the one effect that they share, each other instruction by its effect in the cases of its clause. -/
theorem bteInstructions : Obligations.BteInstructions := by
  unfold Obligations.BteInstructions
  intro s a b d e g n ch c copy
  have hcopy : ∀ i mx, (exec i s = pe s i fun st f o _ => bteCopyEff mx st f o) → copy i mx := fun i mx hx => by
    dsimp only [copy]
    rw [← started_cyc (i := i)]
    exact ⟨_, completes_of hx rfl, congrArg BteCh.issued (bteOf_setBte_same ..), congrArg BteCh.pprev (bteOf_setBte_same ..), _,
      congrArg BteCh.q (bteOf_setBte_same ..), rfl, rfl, rfl, rfl, rfl, rfl, rfl, Bool.eq_iff_iff.mpr Option.isSome_ite⟩
  exact ⟨hcopy _ _ rfl, hcopy _ _ rfl,
    ⟨fun h => completes_of rfl (if_pos h), fun h => completes_of rfl (if_neg (ne_true_of_eq_false h))⟩,
    ⟨_, completes_of rfl rfl, congrArg BteCh.tail (bteOf_issueRel.trans (bteOf_setBte_same ..))⟩,
    ⟨fun h => completes_of rfl (if_pos h), fun h => completes_of rfl (if_neg (ne_true_of_eq_false h))⟩,
    completes_of rfl rfl,
    ⟨fun _ _ h => bteSeq_completes (seqAcquired_ok h), fun h => bteSeq_completes (seqAcquired_fails h)⟩,
    completes_of rfl rfl⟩

end Sys2Proof
end

section
/-! What an access at its home leaves of memory (O22, O23): the operations that leave every home alone, those that write no more than
the race checker's carve-outs (R317), and the bytes that the access itself writes (R295, R305). -/
namespace Sys2Proof

open Machine

variable {s t u x y z : State} {a : Acc} {l : Loc} {pn pa k n c : Nat}

/-! ### Bytes written under a mask -/

theorem byteGet_bytesMask_other {m : SMap Byte} {v mask : Nat} (hm : memWf m = true) (hc : c < k ∨ k + n ≤ c) :
    byteGet (bytesMask m k v mask n) c = byteGet m c := by
  induction n generalizing m k v mask with
  | zero => rfl
  | succ n ih =>
    rw [bytesMask]
    split
    · rw [ih (memWf_byteSet m k _ hm) (by omega), byteGet_set_other m k c _ (by omega) hm]
    · exact ih hm (by omega)

/-- Byte `k` of what is written stands at address `c + k` where the mask marks it. -/
theorem byteGet_bytesMask {m : SMap Byte} {v mask : Nat} (hm : memWf m = true) (hk : k < n) :
    byteGet (bytesMask m c v mask n) (c + k) =
      if mask.testBit k then BitVec.ofNat 8 (v / 256 ^ k) else byteGet m (c + k) := by
  induction n generalizing m c v mask k with
  | zero => exact absurd hk (Nat.not_lt_zero k)
  | succ n ih =>
    have hw : memWf (if mask % 2 = 1 then byteSet m c (BitVec.ofNat 8 v) else m) = true := by
      split
      · exact memWf_byteSet m c _ hm
      · exact hm
    rw [bytesMask]
    cases k with
    | zero =>
      rw [Nat.add_zero, byteGet_bytesMask_other hw (by omega), Nat.testBit_zero, pow_zero, Nat.div_one]
      by_cases hb : mask % 2 = 1
      · simp only [hb, decide_true, if_true]
        exact byteGet_set_same m c _ hm
      · simp only [hb, decide_false, if_false, Bool.false_eq_true]
    | succ k =>
      have hr : byteGet (if mask % 2 = 1 then byteSet m c (BitVec.ofNat 8 v) else m) (c + (k + 1)) = byteGet m (c + (k + 1)) := by
        split
        · exact byteGet_set_other m c _ _ (by omega) hm
        · rfl
      rw [show c + (k + 1) = c + 1 + k by omega] at hr ⊢
      rw [ih hw (by omega), hr, Nat.testBit_succ, Nat.div_div_eq_div_mul, Nat.pow_succ']

/-! ### Operations that leave every home alone -/

/-- `y` keeps of `x` each tile's local memory and live half, each memory tile's memory and live half, the race mode of partition `pn`, and
the accesses under way. -/
structure HomesKept (pn : Nat) (x y : State) : Prop where
  lm : ∀ n, (tileOf y n).lm = (tileOf x n).lm
  half : ∀ n, (tileOf y n).half = (tileOf x n).half
  mtMem : ∀ n, (mtileOf y n).mem = (mtileOf x n).mem
  mtHalf : ∀ n, (mtileOf y n).half = (mtileOf x n).half
  mode : (partOf y pn).raceMode = (partOf x pn).raceMode
  accs : y.accs = x.accs

theorem HomesKept.refl : HomesKept pn x x := ⟨fun _ => rfl, fun _ => rfl, fun _ => rfl, fun _ => rfl, rfl, rfl⟩

theorem HomesKept.trans (h : HomesKept pn x y) (g : HomesKept pn y z) : HomesKept pn x z :=
  ⟨fun n => (g.lm n).trans (h.lm n), fun n => (g.half n).trans (h.half n), fun n => (g.mtMem n).trans (h.mtMem n),
    fun n => (g.mtHalf n).trans (h.mtHalf n), g.mode.trans h.mode, g.accs.trans h.accs⟩

theorem HomesKept.lmAddr (h : HomesKept pn x y) : lmAddr (tileOf y n) k = lmAddr (tileOf x n) k := lmAddr_of_half (h.half n)

theorem HomesKept.mtAddr (h : HomesKept pn x y) : mtAddr (mtileOf y n) k = mtAddr (mtileOf x n) k := by
  rw [Machine.mtAddr, Machine.mtAddr, h.mtHalf]

/-- A partition replaced by one of the same race mode. -/
theorem raceMode_setPart {p : Part} (h : p.raceMode = (partOf x n).raceMode) :
    (partOf (setPart x n p) pn).raceMode = (partOf x pn).raceMode := by
  by_cases hp : pn = n
  · subst hp
    by_cases hn : pn < 16
    · rw [partOf_setPart_same x pn p hn, h]
    · simp [partOf, setPart, Vector.getD, hn]
  · rw [partOf_setPart_other x n pn p hp]

theorem setPart_homes {p : Part} (h : p.raceMode = (partOf x n).raceMode) : HomesKept pn x (setPart x n p) :=
  ⟨fun _ => rfl, fun _ => rfl, fun _ => rfl, fun _ => rfl, raceMode_setPart h, rfl⟩

theorem physSet_homes {v : Nat} : HomesKept pn x (physSet x pa v n) := ⟨fun _ => rfl, fun _ => rfl, fun _ => rfl, fun _ => rfl, rfl, rfl⟩

theorem setMTile_homes {m : MTile} (hm : m.mem = (mtileOf x n).mem) (hh : m.half = (mtileOf x n).half) :
    HomesKept pn x (setMTile x n m) := by
  refine ⟨fun _ => rfl, fun _ => rfl, fun k => ?_, fun k => ?_, rfl, rfl⟩ <;> by_cases hk : k = n
  · rw [hk, mtileOf_setMTile_same, hm]
  · rw [mtileOf_setMTile_other x n k m hk]
  · rw [hk, mtileOf_setMTile_same, hh]
  · rw [mtileOf_setMTile_other x n k m hk]

theorem setTile_homes {w : Tile} (hm : w.lm = (tileOf x n).lm) (hh : w.half = (tileOf x n).half) : HomesKept pn x (setTile x n w) := by
  refine ⟨fun k => ?_, fun k => ?_, fun _ => rfl, fun _ => rfl, rfl, rfl⟩ <;> by_cases hk : k = n
  · rw [hk, tileOf_setTile_same, hm]
  · rw [tileOf_setTile_other x n k w hk]
  · rw [hk, tileOf_setTile_same, hh]
  · rw [tileOf_setTile_other x n k w hk]

theorem clkBare_homes {i : ObjId} {sc : Nat} {p : Place} : HomesKept pn x (clkBare x n i sc p) := by
  refine setPart_homes ?_
  dsimp only
  split <;> rfl

theorem raceRecord_homes {r : BitVec 512} : HomesKept pn x (raceRecord x n r) := by
  unfold raceRecord
  dsimp only
  split
  · exact setPart_homes rfl
  · exact (((physSet_homes.trans clkBare_homes).trans physSet_homes).trans clkBare_homes).trans (setPart_homes rfl)

/-- The check of an access leaves the state, or writes a record and lets the access go on. -/
theorem raceCheck_cases : (raceCheck x a).1 = x ∨ ∃ r, raceCheck x a = (raceRecord x a.part r, none) := by
  unfold raceCheck
  dsimp only
  split
  · exact .inl rfl
  · split
    · split
      · exact .inl rfl
      · generalize (decide ((partOf x a.part).raceMode = 1) && _) = c
        cases c
        · exact .inr ⟨_, rfl⟩
        · exact .inl rfl
    · split
      · split
        · split
          · split
            · exact .inr ⟨_, rfl⟩
            · exact .inl rfl
          · exact .inl rfl
        · exact .inl rfl
      · exact .inl rfl

theorem raceCheck_homes : HomesKept pn x (raceCheck x a).1 := by
  obtain h | ⟨r, h⟩ := raceCheck_cases (x := x) (a := a)
  · rw [h]
    exact .refl
  · rw [h]
    exact raceRecord_homes

/-- The check that stops an access leaves the state as it is: the record waits for the issuer (R324). -/
theorem raceCheck_stopped {r : BitVec 512} (h : (raceCheck x a).2 = some r) : (raceCheck x a).1 = x := by
  obtain hx | ⟨r', hx⟩ := raceCheck_cases (x := x) (a := a)
  · exact hx
  · rw [hx] at h
    cases h

/-! ### Operations that write no more than the carve-outs -/

/-- `y` keeps every home of `x`, and of the part's memory every byte that the carve-outs of partition `pn` do not hold. -/
structure CarveKept (pn : Nat) (x y : State) : Prop extends HomesKept pn x y where
  off : (partOf x pn).raceMode = 0 → y.mem = x.mem
  wf : memWf x.mem = true → memWf y.mem = true
  mem : memWf x.mem = true → ∀ c, offCarve x pn c → byteGet y.mem c = byteGet x.mem c

theorem HomesKept.offCarve (h : HomesKept pn x y) : Sys2Proof.offCarve y pn c ↔ Sys2Proof.offCarve x pn c := by
  rw [Sys2Proof.offCarve, Sys2Proof.offCarve, h.mode]

/-- What leaves the part's memory as it is. -/
theorem HomesKept.carve (h : HomesKept pn x y) (hm : y.mem = x.mem) : CarveKept pn x y :=
  { h with off := fun _ => hm, wf := fun hw => hm ▸ hw, mem := fun _ _ _ => by rw [hm] }

/-- What changes no tile, no memory tile, no partition, no access and no byte of the part's memory. -/
theorem CarveKept.congr (ht : y.tiles = x.tiles) (hn : y.mtiles = x.mtiles) (hp : y.parts = x.parts) (ha : y.accs = x.accs)
    (hm : y.mem = x.mem) : CarveKept pn x y :=
  HomesKept.carve ⟨fun _ => by rw [tileOf, tileOf, ht], fun _ => by rw [tileOf, tileOf, ht], fun _ => by rw [mtileOf, mtileOf, hn],
    fun _ => by rw [mtileOf, mtileOf, hn], by rw [partOf, partOf, hp], ha⟩ hm

theorem CarveKept.refl : CarveKept pn x x := HomesKept.refl.carve rfl

theorem setPart_carve {p : Part} (h : p.raceMode = (partOf x n).raceMode) : CarveKept pn x (setPart x n p) := (setPart_homes h).carve rfl

theorem setMTile_carve {m : MTile} (hm : m.mem = (mtileOf x n).mem) (hh : m.half = (mtileOf x n).half) :
    CarveKept pn x (setMTile x n m) := (setMTile_homes hm hh).carve rfl

theorem setTile_carve {w : Tile} (hm : w.lm = (tileOf x n).lm) (hh : w.half = (tileOf x n).half) : CarveKept pn x (setTile x n w) :=
  (setTile_homes hm hh).carve rfl

theorem CarveKept.trans (h : CarveKept pn x y) (g : CarveKept pn y z) : CarveKept pn x z :=
  { h.toHomesKept.trans g.toHomesKept with
    off := fun h0 => (g.off (h.mode.trans h0)).trans (h.off h0)
    wf := fun hw => g.wf (h.wf hw)
    mem := fun hw c hc => (g.mem (h.wf hw) c (h.offCarve.mpr hc)).trans (h.mem hw c hc) }

theorem CarveKept.foldl {α : Type} {f : State → α → State} {l : List α} (hf : ∀ x a, CarveKept pn x (f x a)) :
    CarveKept pn x (l.foldl f x) := by
  induction l generalizing x with
  | nil => exact .refl
  | cons a l ih => exact (hf x a).trans ih

/-- The word of a line's metadata lies in a carve-out (R317). -/
theorem offCarve_carveAddr {line : Nat} (hm : (partOf x pn).raceMode ≠ 0) (hc : offCarve x pn c) :
    c < carveAddr line ∨ carveAddr line + 8 ≤ c := by
  have hlt : c % 2 ^ 31 < 0x5A000000 := hc.resolve_left hm
  unfold carveAddr
  omega

/-- A line's metadata written to its carve-out while the checker runs. -/
theorem physSet_carve {line v : Nat} (hm : (partOf x pn).raceMode ≠ 0) : CarveKept pn x (physSet x (carveAddr line) v 8) :=
  { physSet_homes with
    off := fun h0 => absurd h0 hm
    wf := physSet_wf x _ _ _
    mem := fun hw _ hc => byteGet_bytesSet_other _ _ _ _ _ (offCarve_carveAddr hm hc) hw }

theorem noteEvict_carve {line : Nat} : CarveKept pn x (noteEvict x pn line) := by
  unfold noteEvict
  dsimp only
  split
  · have hd : CarveKept pn x { x with lmeta := mapDel x.lmeta line } := .congr rfl rfl rfl rfl rfl
    by_cases hm : (partOf x pn).raceMode = 0
    · rw [if_pos hm]
      exact hd
    · rw [if_neg hm]
      exact hd.trans (physSet_carve hm)
  · exact .congr rfl rfl rfl rfl rfl

theorem metaFill_carve {line : Nat} : CarveKept pn x (metaFill x n line) := by
  unfold metaFill
  split
  · exact .congr rfl rfl rfl rfl rfl
  · exact .refl

theorem cacheTouch_carve {write : Bool} : CarveKept pn x (cacheTouch x pn pa write) := by
  unfold cacheTouch
  split
  · exact .refl
  · have hf : CarveKept pn x (if cached x pn pa then x else metaFill x pn (pa / 128)) := by
      split
      · exact .refl
      · exact metaFill_carve
    refine .trans (.trans hf ?_) (.foldl fun _ _ => noteEvict_carve)
    exact setMTile_carve (hf.mtMem _).symm (hf.mtHalf _).symm

theorem stackWake_carve : CarveKept pn x (stackWake x n pa) := by
  unfold stackWake
  split
  · exact .congr rfl rfl rfl rfl rfl
  · exact .refl

theorem raceNote_carve : CarveKept a.part x (raceNote x a) := by
  unfold raceNote
  dsimp only
  split
  · exact .refl
  · rename_i hm
    split
    · unfold metaSet
      split
      · exact setMTile_carve rfl rfl
      · unfold hbmMetaSet
        split
        · exact .congr rfl rfl rfl rfl rfl
        · exact physSet_carve hm
      · exact .refl
    · exact .refl

theorem clkAcquire_carve {h sc : Nat} {i : ObjId} {b : Place} {o : Option Place} : CarveKept pn x (clkAcquire x n h i sc b o) := by
  unfold clkAcquire
  dsimp only
  split
  · exact .refl
  · split
    · split
      · exact setPart_carve rfl
      · exact .refl
    · exact .refl

theorem clkRelease_carve {h sc : Nat} {i : ObjId} {b : Place} : CarveKept pn x (clkRelease x n h i sc b) := by
  unfold clkRelease
  dsimp only
  split
  · exact .refl
  · exact setPart_carve rfl

theorem clearBad_carve {mask : Nat} : CarveKept pn x (clearBad x l mask n) := by
  unfold clearBad
  dsimp only
  split
  · exact .congr rfl rfl rfl rfl rfl
  · exact setMTile_carve rfl rfl
  · exact .refl
  · exact setTile_carve rfl rfl

/-! ### The bytes of a place -/

/-- The memory of a place is in canonical form. -/
def placeWf (s : State) : Loc → Prop
  | .phys _ => memWf s.mem = true
  | .mtile m _ => memWf (mtileOf s m).mem = true
  | .lm t _ => memWf (tileOf s t).lm = true
  | .remote _ _ => True

theorem placeWf_mem (h : placeWf s l) : ∀ pa, l = .phys pa → memWf s.mem = true := by
  rintro pa rfl
  exact h

theorem Legal.placeWf (h : Legal s) : Sys2Proof.placeWf s l := by
  cases l with
  | phys _ => exact h.memWf
  | mtile _ _ => exact mtileOf_legal h
  | lm _ _ => exact (tileOf_legal h).1
  | remote _ _ => trivial

/-- Off the carve-outs, a byte of a place reads as before. -/
theorem CarveKept.homeByte (h : CarveKept pn x y) (hw : ∀ pa, l = .phys pa → memWf x.mem = true) (hc : ∀ pa, l = .phys pa → offCarve x pn (pa + k)) :
    homeByte y l k = homeByte x l k := by
  cases l with
  | phys pa => exact h.mem (hw pa rfl) _ (hc pa rfl)
  | mtile m o => rw [Sys2Proof.homeByte, Sys2Proof.homeByte, h.mtMem, h.mtAddr]
  | lm t o => rw [Sys2Proof.homeByte, Sys2Proof.homeByte, h.lm, h.lmAddr]
  | remote _ _ => rfl

theorem CarveKept.placeWf (h : CarveKept pn x y) (hw : Sys2Proof.placeWf x l) : Sys2Proof.placeWf y l := by
  cases l with
  | phys pa => exact h.wf hw
  | mtile m o => rwa [Sys2Proof.placeWf, h.mtMem]
  | lm t o => rwa [Sys2Proof.placeWf, h.lm]
  | remote _ _ => trivial

/-- What stands at a place is made of its bytes. -/
theorem locGet_congr (h : ∀ k, k < n → homeByte y l k = homeByte x l k) : locGet y l n = locGet x l n := by
  have hb : ∀ (m m' : SMap Byte) (c c' : Nat), (∀ k, k < n → byteGet m' (c' + k) = byteGet m (c + k)) →
      bytesGet m' c' n = bytesGet m c n := by
    intro m m'
    clear h
    induction n with
    | zero => exact fun _ _ _ => rfl
    | succ n ih =>
      intro c c' h
      rw [bytesGet, bytesGet, ih (c + 1) (c' + 1) fun k hk => ?_, show byteGet m' c' = byteGet m c from h 0 (Nat.zero_lt_succ n)]
      rw [Nat.add_assoc, Nat.add_assoc, Nat.add_comm 1 k]
      exact h (k + 1) (Nat.succ_lt_succ hk)
  cases l with
  | remote _ _ => rfl
  | phys _ => exact hb _ _ _ _ h
  | mtile _ _ => exact hb _ _ _ _ h
  | lm _ _ => exact hb _ _ _ _ h

section

variable {v mask : Nat}

/-- A byte written at a place takes the value's byte where the mask marks it. -/
theorem homeByte_locSet (hw : placeWf x l) (hl : ∀ p o, l ≠ .remote p o) (hk : k < n) :
    homeByte (locSet x l v mask n) l k = if mask.testBit k then BitVec.ofNat 8 (v / 256 ^ k) else homeByte x l k := by
  cases l with
  | phys _ => exact byteGet_bytesMask hw hk
  | mtile m o =>
    simp only [homeByte, locSet, mtileOf_setMTile_same]
    exact byteGet_bytesMask hw hk
  | lm t o =>
    simp only [homeByte, locSet, tileOf_setTile_same]
    exact byteGet_bytesMask hw hk
  | remote p o => exact absurd rfl (hl p o)

theorem byteGet_mem_locSet (hw : placeWf x l) (hc : ∀ pa, l = .phys pa → c < pa ∨ pa + n ≤ c) :
    byteGet (locSet x l v mask n).mem c = byteGet x.mem c := by
  cases l with
  | phys pa => exact byteGet_bytesMask_other hw (hc pa rfl)
  | mtile _ _ => rfl
  | lm _ _ => rfl
  | remote _ _ => rfl

theorem byteGet_mtile_locSet {m : Nat} (hw : placeWf x l)
    (hc : ∀ o, l = .mtile m o → c < mtAddr (mtileOf x m) o ∨ mtAddr (mtileOf x m) o + n ≤ c) :
    byteGet (mtileOf (locSet x l v mask n) m).mem c = byteGet (mtileOf x m).mem c := by
  cases l with
  | mtile k o =>
    by_cases hm : m = k
    · subst hm
      simp only [locSet, mtileOf_setMTile_same]
      exact byteGet_bytesMask_other hw (hc o rfl)
    · simp only [locSet, mtileOf_setMTile_other x k m _ hm]
  | phys _ => rfl
  | lm _ _ => rfl
  | remote _ _ => rfl

theorem byteGet_lm_locSet {m : Nat} (hw : placeWf x l)
    (hc : ∀ o, l = .lm m o → c < lmAddr (tileOf x m) o ∨ lmAddr (tileOf x m) o + n ≤ c) :
    byteGet (tileOf (locSet x l v mask n) m).lm c = byteGet (tileOf x m).lm c := by
  cases l with
  | lm k o =>
    by_cases hm : m = k
    · subst hm
      simp only [locSet, tileOf_setTile_same]
      exact byteGet_bytesMask_other hw (hc o rfl)
    · simp only [locSet, tileOf_setTile_other x k m _ hm]
  | phys _ => rfl
  | mtile _ _ => rfl
  | remote _ _ => rfl

theorem locSet_placeWf (hw : placeWf x l) : placeWf (locSet x l v mask n) l := by
  cases l with
  | phys _ => exact memWf_bytesMask _ _ _ _ _ hw
  | mtile m o =>
    simp only [placeWf, locSet, mtileOf_setMTile_same]
    exact memWf_bytesMask _ _ _ _ _ hw
  | lm t o =>
    simp only [placeWf, locSet, tileOf_setTile_same]
    exact memWf_bytesMask _ _ _ _ _ hw
  | remote _ _ => trivial

end
end Sys2Proof
end

section
/-! Accesses performed at their homes: stores (O22) and loads (O23). -/
namespace Sys2Proof

open Machine

variable {s t u x y z : State} {a : Acc} {l : Loc} {pn pa k n c id : Nat}

/-! ### The parts of an access at its home (R295, R316) -/

/-- The state in which an access has acquired, where it is an acquire (R303). -/
def acquired (s : State) (a : Acc) : State :=
  match a.acq with
  | some sc => clkAcquire s a.part a.holder (lineObj a.loc) sc (agentPlace a.agent) (some (locPlace a.loc))
  | none => s

/-- The state in which the cache bank of an access's line has served it (R230). -/
def touched (x : State) (a : Acc) : State :=
  match a.loc with
  | .phys pa => cacheTouch (stackWake x a.part pa) a.part pa (accKind a.op != 0)
  | _ => x

/-- The state in which the new value of an access stands at its home (R305). -/
def stored (x : State) (a : Acc) (new : Option (Nat × Nat)) : State :=
  match new with
  | some (v, mask) => clearBad (locSet x a.loc v mask a.size) a.loc mask a.size
  | none => x

/-- The state in which an access that is a release has released (R302). -/
def released (x : State) (a : Acc) : State :=
  match if a.op = .read then none else a.rel with
  | some sc => clkRelease x a.part a.holder (lineObj a.loc) sc (agentPlace a.agent)
  | none => x

/-- The new value of an access at its home in `x`, if it writes one. -/
def newAt (x : State) (a : Acc) : Option (Nat × Nat) := accNew a.op a.size (locGet x a.loc a.size) a.data.toNat

theorem acquired_carve : CarveKept pn x (acquired x a) := by
  unfold acquired
  split
  · exact clkAcquire_carve
  · exact .refl

theorem touched_carve : CarveKept a.part x (touched x a) := by
  unfold touched
  split
  · exact stackWake_carve.trans cacheTouch_carve
  · exact .refl

theorem released_carve : CarveKept pn x (released x a) := by
  unfold released
  split
  · exact clkRelease_carve
  · exact .refl

/-- What follows the bytes of an access: its metadata and its release. -/
theorem noted_carve : CarveKept a.part x (released (raceNote x a) a) := raceNote_carve.trans released_carve

theorem accLoc_of_ring (hr : a.ring = none) : accLoc s a = a.loc := by rw [accLoc, hr]

/-- An access that a race stops (R323). -/
theorem homeAccess_stopped {r : BitVec 512} (hr : a.ring = none) (hc : (raceCheck (acquired s a) a).2 = some r) :
    homeAccess s a = (acquired s a, { a with done := true, ok := false, cause := 0xF01, race := some r }) := by
  have hp : raceCheck (acquired s a) a = (acquired s a, some r) := Prod.ext (raceCheck_stopped hc) hc
  unfold homeAccess
  simp only [accLoc_of_ring hr]
  unfold acquired at hp
  split
  · rename_i h
    cases h.symm.trans hp
    rfl
  · rename_i h
    cases h.symm.trans hp

/-- `y` keeps the words of `x` with an uncorrectable error. -/
structure BadKept (x y : State) : Prop where
  mem : y.memBad = x.memBad
  mtile : ∀ n, (mtileOf y n).bad = (mtileOf x n).bad
  tiles : y.tiles = x.tiles

theorem BadKept.congr (hb : y.memBad = x.memBad) (hm : y.mtiles = x.mtiles) (ht : y.tiles = x.tiles) : BadKept x y :=
  ⟨hb, fun _ => by rw [mtileOf, mtileOf, hm], ht⟩

theorem BadKept.refl : BadKept x x := ⟨rfl, fun _ => rfl, rfl⟩

theorem BadKept.trans (h : BadKept x y) (g : BadKept y z) : BadKept x z :=
  ⟨g.mem.trans h.mem, fun n => (g.mtile n).trans (h.mtile n), g.tiles.trans h.tiles⟩

theorem BadKept.foldl {α : Type} {f : State → α → State} {l : List α} (hf : ∀ x a, BadKept x (f x a)) : BadKept x (l.foldl f x) := by
  induction l generalizing x with
  | nil => exact .refl
  | cons a l ih => exact (hf x a).trans ih

theorem setMTile_bad {m : MTile} (hm : m.bad = (mtileOf x n).bad) : BadKept x (setMTile x n m) := by
  refine ⟨rfl, fun k => ?_, rfl⟩
  by_cases hk : k = n
  · rw [hk, mtileOf_setMTile_same, hm]
  · rw [mtileOf_setMTile_other x n k m hk]

theorem noteEvict_bad {line : Nat} : BadKept x (noteEvict x pn line) := by
  unfold noteEvict
  dsimp only
  split <;> exact .congr rfl rfl rfl

theorem metaFill_bad {line : Nat} : BadKept x (metaFill x pn line) := by
  unfold metaFill
  split <;> exact .congr rfl rfl rfl

theorem stackWake_bad : BadKept x (stackWake x pn pa) := by
  unfold stackWake
  split <;> exact .congr rfl rfl rfl

theorem cacheTouch_bad {write : Bool} : BadKept x (cacheTouch x pn pa write) := by
  unfold cacheTouch
  dsimp only
  split
  · exact .refl
  · have hf : BadKept x (if cached x pn pa then x else metaFill x pn (pa / 128)) := by
      split
      · exact .refl
      · exact metaFill_bad
    refine .trans (.trans hf ?_) (.foldl fun _ _ => noteEvict_bad)
    exact setMTile_bad (hf.mtile _).symm

theorem touched_bad : BadKept x (touched x a) := by
  unfold touched
  split
  · exact stackWake_bad.trans cacheTouch_bad
  · exact .refl

/-- The words with an error that an access touches are the same once its cache bank has served its line. -/
theorem badWords_touched : badWords (touched x a) l n = badWords x l n := by
  have hb : BadKept x (touched x a) := touched_bad
  have hh : HomesKept a.part x (touched x a) := touched_carve.toHomesKept
  have ht : ∀ n, tileOf (touched x a) n = tileOf x n := fun _ => by rw [tileOf, tileOf, hb.tiles]
  cases l with
  | phys _ => simp only [badWords, hb.mem]
  | mtile _ _ => simp only [badWords, hb.mtile, hh.mtAddr]
  | lm _ _ => simp only [badWords, ht]
  | remote _ _ => rfl

/-- An access that no race stops and that meets no word with an error. -/
theorem homeAccess_done (hr : a.ring = none) (hc : (raceCheck (acquired s a) a).2 = none) (hu : (raceCheck (acquired s a) a).1 = u)
    (hb : badWords u a.loc a.size = []) :
    homeAccess s a = (released (raceNote (stored (touched u a) a (newAt (touched u a) a)) a) a,
      { a with done := true, val := BitVec.ofNat 1024 (locGet (touched u a) a.loc a.size) }) := by
  have hp : raceCheck (acquired s a) a = (u, none) := Prod.ext hu hc
  have he : (errStops a && !(badWords (touched u a) a.loc a.size).isEmpty) = false := by
    rw [badWords_touched, hb]
    exact Bool.and_false _
  unfold homeAccess
  simp only [accLoc_of_ring hr]
  unfold acquired at hp
  split
  · rename_i h
    cases h.symm.trans hp
  · rename_i h
    cases h.symm.trans hp
    unfold touched at he ⊢
    exact (if_neg (ne_true_of_eq_false he)).trans rfl

end Sys2Proof
end

section
/-! Accesses performed: stores (O22) and loads (O23). -/
namespace Sys2Proof

open Machine

variable {s t u x y z : State} {a : Acc} {l : Loc} {pn pa k n c id v mask : Nat}

/-! ### What an access that is done leaves -/

/-- Off the carve-outs, what stands at a place is made of the same bytes. -/
theorem locGet_of_carve (h : CarveKept pn x y) (hw : ∀ pa, l = .phys pa → memWf x.mem = true)
    (hc : ∀ pa k, l = .phys pa → k < n → offCarve x pn (pa + k)) : locGet y l n = locGet x l n :=
  locGet_congr fun k hk => h.homeByte hw fun pa hl => hc pa k hl hk

/-- With the race checker off, what stands at a place is made of the same bytes. -/
theorem locGet_of_off (h : CarveKept pn x y) (h0 : (partOf x pn).raceMode = 0) : locGet y l n = locGet x l n :=
  locGet_congr fun k _ => by
    cases l with
    | phys pa => rw [homeByte, homeByte, h.off h0]
    | mtile m o => rw [homeByte, homeByte, h.mtMem, h.mtAddr]
    | lm t o => rw [homeByte, homeByte, h.lm, h.lmAddr]
    | remote _ _ => rfl

/-- The state after the bytes of an access, from the one that its cache bank leaves. -/
def accessDone (x : State) (a : Acc) (new : Option (Nat × Nat)) : State := released (raceNote (stored x a new) a) a

theorem accessDone_none : CarveKept a.part x (accessDone x a none) := noted_carve

theorem accessDone_some : CarveKept a.part (locSet x a.loc v mask a.size) (accessDone x a (some (v, mask))) :=
  clearBad_carve.trans noted_carve

theorem locSet_mode : (partOf (locSet x l v mask n) pn).raceMode = (partOf x pn).raceMode := by
  cases l <;> rfl

theorem offCarve_locSet : offCarve (locSet x l v mask n) pn c ↔ offCarve x pn c := by
  rw [offCarve, offCarve, locSet_mode]

section

variable (hw : placeWf x a.loc)
include hw

/-- A byte of the access's place takes the new value's byte where the mask marks it (R295). -/
theorem homeByte_accessDone (hl : ∀ p o, a.loc ≠ .remote p o) (hk : k < a.size)
    (hc : ∀ pa, a.loc = .phys pa → offCarve x a.part (pa + k)) :
    homeByte (accessDone x a (some (v, mask))) a.loc k =
      if mask.testBit k then BitVec.ofNat 8 (v / 256 ^ k) else homeByte x a.loc k := by
  rw [accessDone_some.homeByte (placeWf_mem (locSet_placeWf hw)) fun pa hp => offCarve_locSet.mpr (hc pa hp), homeByte_locSet hw hl hk]

/-- A byte of the part's memory off the carve-outs and outside the access's place. -/
theorem byteGet_mem_accessDone {new : Option (Nat × Nat)} (hm : memWf x.mem = true) (ho : offCarve x a.part c)
    (hc : ∀ pa, a.loc = .phys pa → c < pa ∨ pa + a.size ≤ c) : byteGet (accessDone x a new).mem c = byteGet x.mem c := by
  cases new with
  | none => exact accessDone_none.mem hm c ho
  | some p =>
    have hm' : memWf (locSet x a.loc p.1 p.2 a.size).mem = true := by
      cases hl : a.loc with
      | phys pa => exact memWf_bytesMask _ _ _ _ _ hm
      | mtile _ _ => exact hm
      | lm _ _ => exact hm
      | remote _ _ => exact hm
    rw [accessDone_some.mem hm' c (offCarve_locSet.mpr ho), byteGet_mem_locSet hw hc]

theorem byteGet_mtile_accessDone {new : Option (Nat × Nat)}
    (hc : ∀ o, a.loc = .mtile n o → c < mtAddr (mtileOf x n) o ∨ mtAddr (mtileOf x n) o + a.size ≤ c) :
    byteGet (mtileOf (accessDone x a new) n).mem c = byteGet (mtileOf x n).mem c := by
  cases new with
  | none => rw [accessDone_none.mtMem]
  | some p => rw [accessDone_some.mtMem, byteGet_mtile_locSet hw hc]

theorem byteGet_lm_accessDone {new : Option (Nat × Nat)}
    (hc : ∀ o, a.loc = .lm n o → c < lmAddr (tileOf x n) o ∨ lmAddr (tileOf x n) o + a.size ≤ c) :
    byteGet (tileOf (accessDone x a new) n).lm c = byteGet (tileOf x n).lm c := by
  cases new with
  | none => rw [accessDone_none.lm]
  | some p => rw [accessDone_some.lm, byteGet_lm_locSet hw hc]

end

/-- An access performed: the state and what it takes, by the bytes at its place in the state `u` that the check leaves. -/
theorem homeAccess_eq (hr : a.ring = none) (hc : (raceCheck (acquired s a) a).2 = none) (hu : (raceCheck (acquired s a) a).1 = u)
    (hb : badWords u a.loc a.size = []) (hl : locGet (touched u a) a.loc a.size = locGet u a.loc a.size) :
    homeAccess s a = (accessDone (touched u a) a (newAt u a),
      { a with done := true, val := BitVec.ofNat 1024 (locGet u a.loc a.size) }) := by
  rw [homeAccess_done hr hc hu hb, newAt, hl]
  rfl

/-! ### What follows at once (R301) -/

theorem launchRel_carve : CarveKept pn x (launchRel x a) := by
  unfold launchRel
  split
  · split
    · exact clkRelease_carve
    · exact .refl
  · exact .refl

/-- `y` keeps every byte of every memory of `x`. -/
theorem sameMemory_of (hm : y.mem = x.mem) (ht : ∀ n, (tileOf y n).lm = (tileOf x n).lm)
    (hn : ∀ n, (mtileOf y n).mem = (mtileOf x n).mem) : SameMemory x y :=
  ⟨fun _ => by rw [hm], fun n _ => by rw [ht], fun n _ => by rw [hn]⟩

theorem sameMemory_trans (h : SameMemory x y) (g : SameMemory y z) : SameMemory x z :=
  ⟨fun c => (g.1 c).trans (h.1 c), fun n c => (g.2.1 n c).trans (h.2.1 n c), fun n c => (g.2.2 n c).trans (h.2.2 n c)⟩

theorem sameMemory_acquired : SameMemory x (acquired x a) := by
  refine sameMemory_of ?_ (acquired_carve (pn := 0)).lm (acquired_carve (pn := 0)).mtMem
  unfold acquired
  split
  · exact congrArg Rest.mem (sameTiles_clkAcquire ..).1
  · rfl

theorem CarveKept.sameMemory (h : CarveKept pn x y) (h0 : (partOf x pn).raceMode = 0) : SameMemory x y :=
  sameMemory_of (h.off h0) h.lm h.mtMem

/-- The state once an access at its home has told its link and its launch. -/
def accessTold (s : State) (a : Acc) : State :=
  launchRel (match a.loc with
    | .remote p _ => setLink (homeAccess s a).1 (linkFor (homeAccess s a).1 p)
        { linkOf (homeAccess s a).1 (linkFor (homeAccess s a).1 p) with retries := 0, last := s.cyc }
    | _ => (homeAccess s a).1) (homeAccess s a).2

theorem homeAccess_toward : (homeAccess s a).2.toward = a.toward := by
  unfold homeAccess
  dsimp only
  split
  · rfl
  · split <;> rfl

/-- An access of no copy is answered where its issuer still needs it, and else removed. -/
theorem performAcc_eq (h : ∀ n ch, a.toward ≠ .bte n ch) : performAcc s a =
    if answered (homeAccess s a).2 then accPut (accessTold s a) { (homeAccess s a).2 with back := s.cyc + (homeAccess s a).2.back }
    else accDel (accessTold s a) (homeAccess s a).2.id := by
  show (match (homeAccess s a).2.toward with | .bte n ch => _ | _ => _) = _
  rw [homeAccess_toward]
  split
  · rename_i hb
    exact absurd hb (h _ _)
  · rfl

theorem launchRel_mem : (launchRel x a).mem = x.mem := by
  unfold launchRel clkRelease
  dsimp only
  repeat' split
  all_goals rfl

theorem setLink_carve {m : Nat} {b : Link} : CarveKept pn x (setLink x m b) := .congr rfl rfl rfl rfl rfl

theorem accessTold_homes : HomesKept pn (homeAccess s a).1 (accessTold s a) := by
  unfold accessTold
  split
  · exact setLink_carve.toHomesKept.trans launchRel_carve.toHomesKept
  · exact launchRel_carve.toHomesKept

theorem accessTold_mem : (accessTold s a).mem = (homeAccess s a).1.mem := by
  unfold accessTold
  rw [launchRel_mem]
  split <;> rfl

theorem sameMemory_accessTold : SameMemory (homeAccess s a).1 (accessTold s a) :=
  sameMemory_of accessTold_mem (accessTold_homes (pn := 0)).lm (accessTold_homes (pn := 0)).mtMem

/-- Performing an access writes no byte but those of the access at its home. -/
theorem sameMemory_performAcc (h : ∀ n ch, a.toward ≠ .bte n ch) : SameMemory (homeAccess s a).1 (performAcc s a) := by
  rw [performAcc_eq h]
  split
  · exact sameMemory_accessTold
  · exact sameMemory_accessTold

theorem accOf_id (h : accOf s id = some a) : a.id = id := by simpa using List.find?_some h

theorem accOf_accDel : accOf (accDel s id) id = none := by
  rw [accOf, accDel, List.find?_eq_none]
  intro b hb
  simpa using (List.mem_filter.mp hb).2

theorem accOf_accPut {b : Acc} (hb : b.id = id) (h : accOf s id = some a) : accOf (accPut s b) id = some b := by
  subst hb
  have hf : (fun c : Acc => c.id == b.id) ∘ (fun c : Acc => if c.id = b.id then b else c) = fun c => c.id == b.id := by
    funext c
    simp only [Function.comp]
    split
    · simp [*]
    · rfl
  rw [accOf, accPut, List.find?_map, hf]
  rw [accOf] at h
  rw [h, Option.map_some, if_pos (by simpa using List.find?_some h)]

/-! ### The obligations -/

theorem raceCheck_off (h : (partOf s a.part).raceMode = 0) : raceCheck s a = (s, none) := by
  unfold raceCheck
  dsimp only
  rw [if_pos h]

theorem acquired_off (h : (partOf s a.part).raceMode = 0) : acquired s a = s := by
  unfold acquired clkAcquire
  dsimp only
  split
  · rw [if_pos h]
  · rfl

theorem raceCheck_acquired_off (h : (partOf s a.part).raceMode = 0) : raceCheck (acquired s a) a = (s, none) := by
  rw [acquired_off h, raceCheck_off h]

/-- A PE's store in the part's memory, with the race checker off. -/
theorem storeAtHome {m : BitVec 128} (hw : memWf s.mem = true) (hop : a.op = .write m) (hl : a.loc = .phys pa) (hr : a.ring = none)
    (h0 : (partOf s a.part).raceMode = 0) (hb : badWords s a.loc a.size = []) :
    ∃ t, homeAccess s a = (t, { a with done := true, val := BitVec.ofNat 1024 (locGet s a.loc a.size) }) ∧
      (∀ k, k < a.size → byteGet t.mem (pa + k) =
        if m.getLsbD k then BitVec.ofNat 8 (a.data.toNat / 256 ^ k) else byteGet s.mem (pa + k)) ∧
      (∀ c, c < pa ∨ pa + a.size ≤ c → byteGet t.mem c = byteGet s.mem c) ∧
      (∀ n c, byteGet (tileOf t n).lm c = byteGet (tileOf s n).lm c) ∧
      ∀ n c, byteGet (mtileOf t n).mem c = byteGet (mtileOf s n).mem c := by
  have hp := raceCheck_acquired_off h0
  have hpl : placeWf s a.loc := by rwa [hl]
  have ht : CarveKept a.part s (touched s a) := touched_carve
  have htw : placeWf (touched s a) a.loc := ht.placeWf hpl
  have h0' : (partOf (touched s a) a.part).raceMode = 0 := ht.mode.trans h0
  have hne : newAt s a = some (a.data.toNat, m.toNat) := by rw [newAt, hop]; rfl
  refine ⟨_, homeAccess_eq hr (by rw [hp]) (by rw [hp]) hb (locGet_of_off ht h0), fun k hk => ?_, fun c hc => ?_, fun n c => ?_,
    fun n c => ?_⟩
  · have hby := homeByte_accessDone (v := a.data.toNat) (mask := m.toNat) htw (by simp [hl]) hk fun _ _ => .inl h0'
    simp only [hl, homeByte, ht.off h0] at hby
    rw [hne, hby, BitVec.testBit_toNat]
  · rw [byteGet_mem_accessDone htw (ht.wf hw) (.inl h0') fun p hp => (by rw [hl] at hp; cases hp; exact hc), ht.off h0]
  · rw [byteGet_lm_accessDone htw fun o ho => (by rw [hl] at ho; cases ho), ht.lm]
  · rw [byteGet_mtile_accessDone htw fun o ho => (by rw [hl] at ho; cases ho), ht.mtMem]

/-- What an access that no race stops leaves, at its place and beyond it, by the state `u` that the check leaves. -/
theorem homeAccess_bytes (hr : a.ring = none) (hc : (raceCheck (acquired s a) a).2 = none) (hu : (raceCheck (acquired s a) a).1 = u)
    (hg : Legal u) (hb : badWords u a.loc a.size = []) (ho : ∀ pa k, a.loc = .phys pa → k < a.size → offCarve s a.part (pa + k)) :
    let t := (homeAccess s a).1
    let new := accNew a.op a.size (locGet u a.loc a.size) a.data.toNat
    (homeAccess s a).2.done = true ∧ (homeAccess s a).2.ok = a.ok ∧
    (∀ x m k, new = some (x, m) → (∀ p y, a.loc ≠ .remote p y) → k < a.size →
      homeByte t a.loc k = if m.testBit k then BitVec.ofNat 8 (x / 256 ^ k) else homeByte u a.loc k) ∧
    (∀ k, new = none → k < a.size → homeByte t a.loc k = homeByte u a.loc k) ∧
    (∀ c, offCarve s a.part c → (∀ pa, a.loc = .phys pa → c < pa ∨ pa + a.size ≤ c) → byteGet t.mem c = byteGet u.mem c) ∧
    (∀ n c, (∀ o, a.loc = .mtile n o → c < mtAddr (mtileOf s n) o ∨ mtAddr (mtileOf s n) o + a.size ≤ c) →
      byteGet (mtileOf t n).mem c = byteGet (mtileOf u n).mem c) ∧
    ∀ n c, (∀ o, a.loc = .lm n o → c < lmAddr (tileOf s n) o ∨ lmAddr (tileOf s n) o + a.size ≤ c) →
      byteGet (tileOf t n).lm c = byteGet (tileOf u n).lm c := by
  have hs : HomesKept a.part s u := acquired_carve.toHomesKept.trans (hu ▸ raceCheck_homes)
  have hpl : placeWf u a.loc := hg.placeWf
  have ht : CarveKept a.part u (touched u a) := touched_carve
  have htw : placeWf (touched u a) a.loc := ht.placeWf hpl
  have hou : ∀ c, offCarve s a.part c → offCarve u a.part c := fun c => hs.offCarve.mpr
  have hot : ∀ c, offCarve s a.part c → offCarve (touched u a) a.part c := fun c h => ht.offCarve.mpr (hou c h)
  have hkt : ∀ k, k < a.size → homeByte (touched u a) a.loc k = homeByte u a.loc k := fun k hk =>
    ht.homeByte (placeWf_mem hpl) fun pa hl => hou _ (ho pa k hl hk)
  intro t new
  have he := homeAccess_eq hr hc hu hb
    (locGet_of_carve ht (placeWf_mem hpl) fun pa k hl hk => hou _ (ho pa k hl hk))
  have ht1 : t = accessDone (touched u a) a new := congrArg Prod.fst he
  have h2 : (homeAccess s a).2 = _ := congrArg Prod.snd he
  rw [ht1]
  refine ⟨by rw [h2], by rw [h2], fun x m k hn hl hk => ?_, fun k hn hk => ?_, fun c hc ha => ?_, fun n c ha => ?_,
    fun n c ha => ?_⟩
  · rw [hn, homeByte_accessDone htw hl hk fun pa hl => hot _ (ho pa k hl hk), hkt k hk]
  · rw [hn, accessDone_none.homeByte (placeWf_mem htw) fun pa hl => hot _ (ho pa k hl hk), hkt k hk]
  · rw [byteGet_mem_accessDone htw (ht.wf hg.memWf) (hot c hc) ha, ht.mem hg.memWf c (hou c hc)]
  · rw [byteGet_mtile_accessDone htw fun o h => (hs.trans ht.toHomesKept).mtAddr ▸ ha o h, ht.mtMem]
  · rw [byteGet_lm_accessDone htw fun o h => (hs.trans ht.toHomesKept).lmAddr ▸ ha o h, ht.lm]

/-- Settles O22: the access by `homeAccess_eq`, what follows at once by `sameMemory_performAcc`. -/
theorem storePerformed : Obligations.StorePerformed := by
  unfold Obligations.StorePerformed
  refine ⟨fun s id tile bank pa m a hw ha hd hop hl hr htw _ hok h0 hb => ?_, fun s a => sameMemory_performAcc, fun s a hr => ?_⟩
  · obtain ⟨t, ht, hby, hout, hlm, hmt⟩ := storeAtHome hw hop hl hr h0 hb
    have hn : ∀ n ch, a.toward ≠ .bte n ch := fun n ch h => by rw [htw] at h; cases h
    obtain ⟨hmem, hlms, hmts⟩ := sameMemory_performAcc (s := s) hn
    rw [ht] at hmem hlms hmts
    have hans : answered (homeAccess s a).2 = false := by
      rw [ht, answered, htw, hok]
      rfl
    have hid : (homeAccess s a).2.id = id := by
      rw [ht]
      exact (accOf_id ha : a.id = id)
    refine ⟨_, exec_accessPerform ha hd, ?_, fun k hk => (hmem _).trans (hby k hk), fun c hc => (hmem c).trans (hout c hc),
      fun n c => (hlms n c).trans (hlm n c), fun n c => (hmts n c).trans (hmt n c)⟩
    rw [performAcc_eq hn, hans, hid]
    exact accOf_accDel
  · refine ⟨fun r hc => ?_, fun hc hg hb ho => homeAccess_bytes hr hc rfl hg hb ho⟩
    have he := homeAccess_stopped hr hc
    exact ⟨by rw [he], by rw [he], by rw [he]; exact sameMemory_acquired⟩

/-- A load with the race checker off takes what stands at its home and changes no byte. -/
theorem loadAtHome (hop : a.op = .read) (hr : a.ring = none) (h0 : (partOf s a.part).raceMode = 0) (hb : badWords s a.loc a.size = []) :
    homeAccess s a = (accessDone (touched s a) a none, { a with done := true, val := BitVec.ofNat 1024 (locGet s a.loc a.size) }) := by
  have hp := raceCheck_acquired_off h0
  have hn : newAt s a = none := by rw [newAt, hop]; rfl
  rw [homeAccess_eq hr (by rw [hp]) (by rw [hp]) hb (locGet_of_off touched_carve h0), hn]

/-- Settles O23: the access by `homeAccess_eq`, what follows at once by `sameMemory_performAcc`. -/
theorem loadPerformed : Obligations.LoadPerformed := by
  unfold Obligations.LoadPerformed
  refine ⟨fun s id tile bank pa job a ha hd hop hl hr htw _ hok h0 hb => ?_, fun s a hr hq hc hu hb hw ho => ?_⟩
  · have he := loadAtHome hop hr h0 hb
    have hn : ∀ n ch, a.toward ≠ .bte n ch := fun n ch h => by rw [htw] at h; cases h
    have hk : CarveKept a.part s (accessDone (touched s a) a none) := touched_carve.trans accessDone_none
    have hm : SameMemory s (homeAccess s a).1 := by
      rw [he]
      exact hk.sameMemory h0
    have hacc : accOf (accessTold s a) id = some a := by
      rw [accOf, (accessTold_homes (pn := a.part)).accs, he, hk.accs]
      exact ha
    have hans : answered (homeAccess s a).2 = true := by
      rw [he, answered, htw]
      rfl
    have hid : (homeAccess s a).2.id = id := by
      rw [he]
      exact (accOf_id ha : a.id = id)
    have hput : accOf (performAcc s a) id = some { (homeAccess s a).2 with back := s.cyc + (homeAccess s a).2.back } := by
      rw [performAcc_eq hn, hans, if_pos rfl]
      exact accOf_accPut hid hacc
    refine ⟨_, _, exec_accessPerform ha hd, hput, ?_, ?_, ?_, sameMemory_trans hm (sameMemory_performAcc hn)⟩
    · rw [he]
    · rw [he]
      exact hok
    · rw [he, hl]
      rfl
  · have hs : acquired s a = s := by rw [acquired, hq]
    have he := homeAccess_eq (s := s) (u := s) hr (by rw [hs, hc]) (by rw [hs, hu]) hb (locGet_of_carve touched_carve (fun _ _ => hw) ho)
    rw [he]
    exact ⟨rfl, rfl, rfl, fun pa hl => by rw [hl]; rfl, fun m o hl => by rw [hl]; rfl, fun n o hl => by rw [hl]; rfl⟩
end Sys2Proof
end

section
/-! The new memory value of each atomic (R305, R306, O24). -/
namespace Sys2Proof

open Machine

variable {op n m b : Nat} {sg : Bool}

theorem amoNew_min : amoNew 2 sg n m b = if (if sg then decide (sxN m (8 * n) < sxN b (8 * n)) else decide (m < b)) then m else b := rfl

theorem amoNew_max : amoNew 3 sg n m b = if (if sg then decide (sxN m (8 * n) < sxN b (8 * n)) else decide (m < b)) then b else m := rfl

theorem amoNew_min_unsigned : amoNew 2 false n m b = min m b := by
  rw [amoNew_min]
  by_cases h : m < b
  · simp [h, Nat.min_eq_left (Nat.le_of_lt h)]
  · simp [h, Nat.min_eq_right (Nat.le_of_not_lt h)]

theorem amoNew_max_unsigned : amoNew 3 false n m b = max m b := by
  rw [amoNew_max]
  by_cases h : m < b
  · simp [h, Nat.max_eq_right (Nat.le_of_lt h)]
  · simp [h, Nat.max_eq_left (Nat.le_of_not_lt h)]

theorem sxN_amoNew_min : sxN (amoNew 2 true n m b) (8 * n) = min (sxN m (8 * n)) (sxN b (8 * n)) := by
  rw [amoNew_min]
  by_cases h : sxN m (8 * n) < sxN b (8 * n)
  · simp [h, min_eq_left h.le]
  · simp [h, min_eq_right (not_lt.mp h)]

theorem sxN_amoNew_max : sxN (amoNew 3 true n m b) (8 * n) = max (sxN m (8 * n)) (sxN b (8 * n)) := by
  rw [amoNew_max]
  by_cases h : sxN m (8 * n) < sxN b (8 * n)
  · simp [h, max_eq_right h.le]
  · simp [h, max_eq_left (not_lt.mp h)]

/-- `amo.cas` writes the operand where the old value is the expected one (R306). -/
theorem accNew_cas {e : W64} (he : e.toNat < 2 ^ (8 * n)) (hb : b < 2 ^ (8 * n)) :
    accNew (.cas e) n m b = if m = e.toNat then some (b, 2 ^ n - 1) else none := by
  rw [accNew, Nat.mod_eq_of_lt he, Nat.mod_eq_of_lt hb]

theorem accNew_amo (hb : b < 2 ^ (8 * n)) : accNew (.amo op sg) n m b = some (amoNew op sg n m b, 2 ^ n - 1) := by
  rw [accNew, Nat.mod_eq_of_lt hb]

/-- Settles O24: `amo.cas` by its two cases, minimum and maximum by the comparison of the operands, the others by `amoNew`. -/
theorem atomicValues : Obligations.AtomicValues := by
  unfold Obligations.AtomicValues
  intro n m b _ _ hb
  refine ⟨fun _ => rfl, fun _ => rfl, fun e he => ⟨fun hm => ?_, fun hm => ?_⟩, fun _ _ => accNew_amo hb, amoNew_min_unsigned,
    amoNew_max_unsigned, sxN_amoNew_min, sxN_amoNew_max,
    fun _ _ => ⟨Nat.testBit_and .., Nat.testBit_or .., Nat.testBit_xor ..⟩, fun _ => rfl⟩
  · rw [accNew_cas he hb, if_pos hm]
  · rw [accNew_cas he hb, if_neg hm]

end Sys2Proof
end

section
/-! The memory instructions (R299 to R306, O46): the access that a form sends where its checks pass, and its traps. -/
namespace Sys2Proof

open Machine

variable {s : State} {i : Instr} {f : Firing} {o : Opnd} {m : MemForm} {op : Opnd → AccOp} {loc : Loc} {extra c j : Nat} {d : W64}

/-- An instruction whose effect is to stop traps, with none of its effect. -/
theorem traps_of {eff : State → Firing → Opnd → Nat → Effect} (hx : exec i s = pe s i eff)
    (he : eff (started i s) s.cur (operands i s) (jobNo s) = .stop c d) : TrapsWith i s c d := fun hf => hx.trans (pe_stop s i eff c d hf he)

/-- The access of a memory instruction that passes its checks. -/
def formAcc (s : State) (f : Firing) (o : Opnd) (j : Nat) (m : MemForm) (op : Opnd → AccOp) (loc : Loc) : Acc :=
  { peAcc s f (op o) (memAddr m o) loc m.size (memData m o) with
      rel := m.rel, acq := m.acq, signed := f.lit.getLsbD 4, toward := if m.store then .none else .job f.tile j }

/-- The state once the access of a form is issued. -/
def formIssued (s : State) (f : Firing) (o : Opnd) (j : Nat) (m : MemForm) (op : Opnd → AccOp) (loc : Loc) (extra : Nat) : State :=
  (accIssue s (formAcc s f o j m op loc) extra).2

/-- A store whose checks pass sends its access and is done (R301). -/
theorem memEff_store (hs : skipToken i o = none) (hm : memForm i f.lit = some m) (ht : m.store = true)
    (hc : memCheck s f.tile (memAddr m o) m.size m.write m.link = .ok loc extra) :
    memEff i op s f o j = .go { st := formIssued s f o j m op loc extra } := by
  simp only [memEff, hs, hm, hc, formIssued, formAcc, ht, if_true]

/-- Any other form whose checks pass sends its access and waits for the answer (R301). -/
theorem memEff_answer (hs : skipToken i o = none) (hm : memForm i f.lit = some m) (ht : m.store = false)
    (hc : memCheck s f.tile (memAddr m o) m.size m.write m.link = .ok loc extra) : memEff i op s f o j =
      .go { st := formIssued s f o j m op loc extra, wait := .answer, mem := true, acq := m.acq.isSome } := by
  simp only [memEff, hs, hm, hc, formIssued, formAcc, ht, Bool.false_eq_true, if_false]

/-- A form that a check fails has no effect but its trap (R300). -/
theorem memEff_trap (hs : skipToken i o = none) (hm : memForm i f.lit = some m)
    (hc : memCheck s f.tile (memAddr m o) m.size m.write m.link = .trap c d) : memEff i op s f o j = .stop c d := by
  simp only [memEff, hs, hm, hc]

section

variable (m : MemForm) (op : Opnd → AccOp) {eff : State → Firing → Opnd → Nat → Effect} (hx : exec i s = pe s i eff)
  (he : eff (started i s) s.cur (operands i s) (jobNo s) = memEff i op (started i s) s.cur (operands i s) (jobNo s))
  (hm : memForm i s.cur.lit = some m) (hs : skipToken i (operands i s) = none)
include hx he hm hs

/-- The traps of a memory instruction of form `m` whose heads are all DATA; `op` is what its access does. -/
theorem memInstr_traps (c : Nat) (v : W64)
    (hc : memCheck (started i s) s.cur.tile (memAddr m (operands i s)) m.size m.write m.link = .trap c v) : TrapsWith i s c v :=
  traps_of hx (he.trans (memEff_trap hs hm hc))

/-- The outcomes of a store. -/
theorem memInstr_store (ht : m.store = true) :
    (∀ loc extra, memCheck (started i s) s.cur.tile (memAddr m (operands i s)) m.size m.write m.link = .ok loc extra →
      Changes i s (formIssued (started i s) s.cur (operands i s) (jobNo s) m op loc extra) false) ∧
    ∀ c v, memCheck (started i s) s.cur.tile (memAddr m (operands i s)) m.size m.write m.link = .trap c v → TrapsWith i s c v :=
  ⟨fun _ _ hc => completes_of hx (he.trans (memEff_store hs hm ht hc)), memInstr_traps m op hx he hm hs⟩

/-- The outcomes of a load or an atomic. -/
theorem memInstr_answer (ht : m.store = false) :
    (∀ loc extra, memCheck (started i s) s.cur.tile (memAddr m (operands i s)) m.size m.write m.link = .ok loc extra →
      Completes i s { st := formIssued (started i s) s.cur (operands i s) (jobNo s) m op loc extra, wait := .answer, mem := true,
                      acq := m.acq.isSome }) ∧
    ∀ c v, memCheck (started i s) s.cur.tile (memAddr m (operands i s)) m.size m.write m.link = .trap c v → TrapsWith i s c v :=
  ⟨fun _ _ hc => completes_of hx (he.trans (memEff_answer hs hm ht hc)), memInstr_traps m op hx he hm hs⟩

end

/-- A form that fixes what its access does. -/
theorem memEff0_eq {st : State} (hm : memForm i f.lit = some m) : memEff0 i st f o j = memEff i m.op st f o j := by
  simp only [memEff0, hm]

/-- Settles O46: each form by `memInstr_store` or `memInstr_answer`, `fence` by its effect. -/
theorem memoryInstructions : Obligations.MemoryInstructions := by
  unfold Obligations.MemoryInstructions
  intro s sc a b d e g lit n h access checked answer store load amo
  have loads : ∀ (i : Instr) (acq : Option Nat), exec i s = pe s i (memEff0 i) → memForm i lit = some { size := memSize lit, acq := acq } →
      load i acq := fun i acq hx hm hs => memInstr_answer _ _ hx (memEff0_eq hm) hm hs rfl
  have stores : ∀ (i : Instr) (rel : Option Nat) (link : Nat), exec i s = pe s i (memEff0 i) →
      memForm i lit = some (storeForm lit rel link) → store i rel link := fun i rel link hx hm hs =>
    memInstr_store _ _ hx (memEff0_eq hm) hm hs rfl
  have amos : ∀ (i : Instr) (k : Nat), exec i s = pe s i (memEff0 i) → memForm i lit = some (amoForm k sc lit) →
      amo i (.amo k (lit.getLsbD 4)) := fun i k hx hm hs => memInstr_answer _ _ hx (memEff0_eq hm) hm hs rfl
  have hlink : (if sc == 3 then 1 else 0) = if sc = 3 then 1 else 0 := by simp only [beq_iff_eq]
  refine ⟨loads _ _ rfl rfl, loads _ _ rfl rfl, stores _ _ _ rfl rfl,
    stores _ _ _ rfl (congrArg (fun k => some (storeForm lit (some sc.toNat) k)) hlink),
    amos _ 0 rfl rfl, amos _ 1 rfl rfl, amos _ 2 rfl rfl, amos _ 3 rfl rfl, amos _ 4 rfl rfl, amos _ 5 rfl rfl,
    amos _ 6 rfl rfl, amos _ 7 rfl rfl, fun hs => ?_, completes_of rfl rfl⟩
  exact memInstr_answer { amoForm 7 sc lit with op := fun _ => .cas 0 }
    (fun _ => .cas (casExpect (started (.amoCas sc a b d e g) s) s.cur d)) rfl rfl rfl hs rfl

end Sys2Proof
end

section
/-! Task packets, bindings, futures and launches (R331 to R334, R341 to R347, O47). -/
namespace Sys2Proof

open Machine

variable {s x y : State} {i : Instr} {f : Firing} {o : Opnd} {a b : BitVec 5} {d e g : BitVec 4} {n k : Nat}

theorem started_packets : (started i s).packets = s.packets := congrArg Rest.packets (sameBeyond_takeInputs s i s.cur).1

/-! ### Task packets (R331, R334) -/

theorem infAdd_fabric {pn tab e r : Nat} {up : Bool} : FabricKept x (infAdd x pn tab e r up) := ⟨rfl, rfl⟩

theorem faultRecord_fabric {pn : Nat} {who : Agent} {r : BitVec 512} : FabricKept x (faultRecord x pn who r) := by
  unfold faultRecord
  dsimp only
  split <;> exact ⟨rfl, rfl⟩

/-- A packet dropped leaves every tile as it is: its record goes to memory. -/
theorem dropPacket_fabric {r : Nat} {p : Packet} : FabricKept x (dropPacket x n r p) := by
  unfold dropPacket dropFrom
  dsimp only
  split
  · exact infAdd_fabric.trans faultRecord_fabric
  · exact faultRecord_fabric

theorem FabricKept.foldl {α : Type} {f : State → α → State} {l : List α} (hf : ∀ x a, FabricKept x (f x a)) :
    FabricKept x (l.foldl f x) := by
  induction l generalizing x with
  | nil => exact .refl
  | cons a l ih => exact (hf x a).trans ih

/-- The packet that a firing of `tsend` sends by its route value `r`. -/
def tsendPacket (f : Firing) (o : Opnd) (r : W64) : Packet :=
  { label := fld r 6 0, two := f.lit.getLsbD 31, w0 := o.ka, w1 := if f.lit.getLsbD 31 then o.kb else 0, acq := none, slot := none }

/-- Whether a route value names a live tile of the partition. -/
def routeLive (s : State) (f : Firing) : Bool := liveTileEp s (partOf s (tilePart s f.tile)) (fld (routeValue s f) 25 7)

theorem tsend_sends (h : routeLive (started (.tsend a b g) s) s.cur = true) :
    Changes (.tsend a b g) s (sendPacket (started (.tsend a b g) s) (s.cur.tile * 4 + s.cur.bank) (tileCluster s.cur.tile)
      (epTile (fld (routeValue (started (.tsend a b g) s) s.cur) 25 7))
      (tsendPacket s.cur (operands (.tsend a b g) s) (routeValue (started (.tsend a b g) s) s.cur))) false :=
  completes_of rfl (if_pos h)

theorem tsend_traps (h : routeLive (started (.tsend a b g) s) s.cur = false) :
    TrapsWith (.tsend a b g) s 0xE01 (routeValue (started (.tsend a b g) s) s.cur) :=
  traps_of rfl (if_neg (ne_true_of_eq_false h))

/-! ### Bindings (R333, R334) -/

/-- The tile with the binding of a label ended, and the packets that wait for it gone. -/
def unboundTile (u : Tile) (l : Nat) : Tile :=
  { u with bind := mapDel u.bind l, tbuf := u.tbuf.filter (fun p => p.label != l), present := u.present.filter fun p => p.label != l }

/-- The state once a label's binding has ended and its packets are dropped, each with a record. -/
def unbound (s : State) (n l : Nat) : State :=
  (waiting (tileOf s n) l).foldl (fun x p => dropPacket x n 2 p) (setTile s n (unboundTile (tileOf s n) l))

theorem tileOf_unbound {l : Nat} : tileOf (unbound s n l) n = unboundTile (tileOf s n) l := by
  rw [unbound, (FabricKept.foldl fun _ _ => dropPacket_fabric).tileOf, tileOf_setTile_same]

/-! ### Watches (R347, R348) -/

/-- The state once a firing of `fut.wait` has taken the report of its watch. -/
def watchTaken (s : State) (f : Firing) (id : W64) : State :=
  clkAcquire (modTile s f.tile fun u => { u with watches := u.watches.filter fun x => x.fut != id.toNat })
    (tileHolder s f.tile).2.1 (tileHolder s f.tile).1 (.future id.toNat) 2 (tilePlace f.tile) none

theorem watches_watchTaken {id : W64} : ∀ w ∈ (tileOf (watchTaken s f id) f.tile).watches, w.fut ≠ id.toNat := by
  rw [watchTaken, clkAcquire_fabric.tileOf, tileOf_modTile_same]
  intro w hw
  simpa using (List.mem_filter.mp hw).2

theorem futWait_traps {w : W64} (hw : watchSeen (started (.futWait a d e g) s) s.cur.tile (operands (.futWait a d e g) s).ka = some w)
    (h : fld w 63 62 = 3) : TrapsWith (.futWait a d e g) s 0xE02 (operands (.futWait a d e g) s).ka := by
  refine traps_of rfl ?_
  dsimp only
  rw [hw]
  exact if_pos h

theorem futWait_gives {w : W64} (hw : watchSeen (started (.futWait a d e g) s) s.cur.tile (operands (.futWait a d e g) s).ka = some w)
    (h : fld w 63 62 ≠ 3) : Completes (.futWait a d e g) s
      { st := watchTaken (started (.futWait a d e g) s) s.cur (operands (.futWait a d e g) s).ka, r1 := dataR w } := by
  refine completes_of rfl ?_
  dsimp only
  rw [hw]
  exact if_neg h

/-! ### Launches (R342, R343) -/

theorem accs_powerTouch {pn : Nat} {l : Loc} : (powerTouch x pn l).2.accs = x.accs := by
  unfold powerTouch stackWake
  dsimp only
  split
  · dsimp only
    split <;> rfl
  · rfl
  · rfl

theorem accs_accDelay {pn : Nat} {l : Loc} : (accDelay x pn l).2.accs = x.accs := by
  unfold accDelay
  repeat' split
  all_goals rfl

/-- An access issued stands behind those under way, with a number, a time and a way back of its own. -/
theorem accs_accIssue {c : Acc} {extra : Nat} : ∃ id due back, (accIssue x c extra).2.accs =
    x.accs ++ [{ c with id := id, due := due, back := back }] :=
  ⟨_, _, _, congrArg (· ++ _) (accs_accDelay.trans accs_powerTouch)⟩

/-- The read of a launch descriptor, up to the next address that is a multiple of 64 (R342). -/
def descAcc (s : State) (f : Firing) (v : W64) (j : Nat) (try_ : Bool) (loc : Loc) : Acc :=
  { peAcc s f .read v loc (descHead v) 0 with rel := some 2, toward := .launch j, signed := try_ }

theorem mem_accs_descIssue {v : W64} {j : Nat} {try_ : Bool} {p q : Loc × Nat} : ∃ id due back,
    { descAcc s f v j try_ p.1 with id := id, due := due, back := back } ∈ (descIssue s f v j try_ p q).accs := by
  obtain ⟨id, due, back, h⟩ := accs_accIssue (x := s) (c := descAcc s f v j try_ p.1) (extra := p.2)
  have hm : { descAcc s f v j try_ p.1 with id := id, due := due, back := back } ∈ (accIssue s (descAcc s f v j try_ p.1) p.2).2.accs := by
    rw [h]
    exact List.mem_append_right _ (List.mem_singleton_self _)
  refine ⟨id, due, back, ?_⟩
  unfold descIssue
  dsimp only
  split
  · exact hm
  · obtain ⟨_, _, _, h2⟩ := accs_accIssue (x := (accIssue s (descAcc s f v j try_ p.1) p.2).2)
      (c := { descAcc s f v j try_ p.1 with addr := descNext v, loc := q.1, size := 64 - descHead v }) (extra := q.2)
    exact h2 ▸ List.mem_append_left _ hm

/-- A launch whose descriptor's address passes its checks reads it. -/
theorem launchEff_ok {j : Nat} {try_ : Bool} {loc : Loc} {extra : Nat} (hs : skipToken i o = none)
    (hc : descCheck s f.tile o.ka = .ok loc extra) : ∃ q,
      launchEff i try_ s f o j = .go { st := descIssue s f o.ka j try_ (loc, extra) q, wait := .answer, mem := true } := by
  simp only [launchEff, hs, hc]
  exact ⟨_, rfl⟩

theorem launchEff_trap {j c : Nat} {v : W64} {try_ : Bool} (hs : skipToken i o = none) (hc : descCheck s f.tile o.ka = .trap c v) :
    launchEff i try_ s f o j = .stop c v := by
  simp only [launchEff, hs, hc]

theorem launch_reads {try_ : Bool} {loc : Loc} {extra : Nat} (hx : exec i s = pe s i (launchEff i try_))
    (hs : skipToken i (operands i s) = none) (hc : descCheck (started i s) s.cur.tile (operands i s).ka = .ok loc extra) :
    ∃ st, Completes i s { st := st, wait := .answer, mem := true } ∧ ∃ x ∈ st.accs, x.op = .read ∧ x.loc = loc ∧
      x.addr = (operands i s).ka ∧ x.size = 64 - (operands i s).ka.toNat % 64 ∧ x.rel = some 2 ∧ x.signed = try_ ∧
      x.toward = .launch (jobNo s) ∧ x.agent = .bank s.cur.tile s.cur.bank := by
  obtain ⟨q, hq⟩ := launchEff_ok (j := jobNo s) (try_ := try_) hs hc
  obtain ⟨id, due, back, hm⟩ := mem_accs_descIssue (s := started i s) (f := s.cur) (v := (operands i s).ka) (j := jobNo s)
    (try_ := try_) (p := (loc, extra)) (q := q)
  exact ⟨_, completes_of hx hq, _, hm, rfl, rfl, rfl, rfl, rfl, rfl, rfl, rfl⟩

/-- Settles O47, clause by clause: the futures' operations by the one effect that they share. -/
theorem taskAndFutureInstructions : Obligations.TaskAndFutureInstructions := by
  unfold Obligations.TaskAndFutureInstructions
  refine ⟨fun s a b g => ⟨⟨fun h => ⟨_, tsend_sends h, _, congrArg (· ++ _) started_packets, rfl, rfl, rfl, rfl, rfl⟩, tsend_traps⟩,
    ⟨fun h => completes_of rfl (if_pos h), fun h => completes_of rfl (if_neg (ne_true_of_eq_false h))⟩,
    ⟨unbound (started (.hunbind g) s) s.cur.tile (fld s.cur.lit 6 0), completes_of rfl rfl, congrArg Tile.tbuf tileOf_unbound,
      congrArg Tile.bind tileOf_unbound⟩⟩, fun s a b d e g => ?_⟩
  intro asks tells starts
  have launches : ∀ (i : Instr) (try_ : Bool), exec i s = pe s i (launchEff i try_) → starts i try_ := fun i try_ hx hs =>
    ⟨fun _ _ hc => launch_reads hx hs hc, fun _ _ hc => traps_of hx (launchEff_trap hs hc)⟩
  exact ⟨completes_of rfl rfl, completes_of rfl rfl, completes_of rfl rfl, completes_of rfl rfl, completes_of rfl rfl,
    fun w hw => ⟨futWait_traps hw, fun h => ⟨_, futWait_gives hw h, watches_watchTaken⟩⟩, launches _ _ rfl, launches _ _ rfl⟩

end Sys2Proof
end

section
/-! Groups, collectives and the dispatcher's operations (R345 to R352, O48). -/
namespace Sys2Proof

open Machine

variable {s : State} {i : Instr} {o : FutOp} {a : Arrival} {gr : Grp} {n id dd ix : Nat}

theorem started_arrivals : (started i s).arrivals = s.arrivals := congrArg Rest.arrivals (sameBeyond_takeInputs s i s.cur).1

/-! ### Operations on groups (R349) -/

section

/-- The context that issues an operation. -/
def opContext (o : FutOp) : Nat := o.tile * 4 + o.who.1

theorem futPerform_group (h : 5 ≤ o.op) : futPerform s o = grpPerform s o := if_pos h

theorem join_missing (ho : o.op = 5) (hl : grpLive s o.part o.fut = none) :
    futPerform s o = { st := s, val := BitVec.allOnes 64, flag := false } := by
  rw [futPerform_group (by omega)]
  simp only [grpPerform, ho, hl, Nat.reduceEqDiff, if_false]

/-- `join` of a member gives its rank. -/
theorem join_member {r : Nat} (ho : o.op = 5) (hl : grpLive s o.part o.fut = some (dd, ix, gr))
    (hr : rankOf (opContext o) gr.members = some r) : futPerform s o = { st := s, val := BitVec.ofNat 64 r, flag := false } := by
  rw [futPerform_group (by omega)]
  rw [opContext] at hr
  simp only [grpPerform, ho, hl, hr, Nat.reduceEqDiff, if_false]

/-- `join` of a context that is no member gives all ones where the group is full, and else makes it the last member. -/
theorem join_other (ho : o.op = 5) (hl : grpLive s o.part o.fut = some (dd, ix, gr)) (hr : rankOf (opContext o) gr.members = none) :
    futPerform s o = if 65536 ≤ gr.members.length then { st := s, val := BitVec.allOnes 64, flag := false }
      else { st := setGrp s dd ix { gr with members := gr.members ++ [opContext o] }, val := BitVec.ofNat 64 gr.members.length,
             flag := true } := by
  rw [futPerform_group (by omega)]
  rw [opContext] at hr
  simp only [grpPerform, ho, hl, hr, Nat.reduceEqDiff, if_false]
  rfl

theorem leave_missing (ho : o.op = 6) (hl : grpLive s o.part o.fut = none) : futPerform s o = { st := s, val := 0, flag := false } := by
  rw [futPerform_group (by omega)]
  simp only [grpPerform, ho, hl, Nat.reduceEqDiff, if_false]

theorem leave_live (ho : o.op = 6) (hl : grpLive s o.part o.fut = some (dd, ix, gr)) : futPerform s o =
    if opContext o ∈ gr.members then
      { st := setGrp s dd ix (dissolve { gr with members := gr.members.filter (· != opContext o) }), val := 0, flag := true }
    else { st := s, val := 0, flag := false } := by
  rw [futPerform_group (by omega)]
  simp only [grpPerform, ho, hl, Nat.reduceEqDiff, if_false, List.contains_iff_mem]
  rfl

theorem grpNew_none (ho : o.op = 7) (h : dieFenced s (o.fut / 2 ^ 12 % 4) = true ∨ grpPick s o.part (o.fut / 2 ^ 12 % 4) = none) :
    futPerform s o = { st := s, val := 0, flag := false } := by
  have hp : (if dieFenced s (o.fut / 2 ^ 12 % 4) then none else grpPick s o.part (o.fut / 2 ^ 12 % 4)) = none := by
    rcases h with h | h
    · rw [if_pos h]
    · rw [h, ite_self]
  rw [futPerform_group (by omega)]
  simp only [grpPerform, ho, hp, if_true]

theorem grpNew_picks (ho : o.op = 7) (hd : dieFenced s (o.fut / 2 ^ 12 % 4) = false)
    (h : grpPick s o.part (o.fut / 2 ^ 12 % 4) = some ix) :
    let d := o.fut / 2 ^ 12 % 4
    futPerform s o = { st := setGrp s d ix { grp0 with gen := (grpAt s d ix).gen, live := true, part := o.part },
                       val := BitVec.ofNat 64 (futId d ix (grpAt s d ix).gen), flag := true } := by
  rw [futPerform_group (by omega)]
  simp only [grpPerform, ho, hd, h, if_true, Bool.false_eq_true, if_false]

theorem grpSize_missing (ho : o.op = 8) (hl : grpLive s o.part o.fut = none) : futPerform s o = { st := s, val := 0, flag := false } := by
  rw [futPerform_group (by omega)]
  simp only [grpPerform, ho, hl, Nat.reduceEqDiff, if_false]

theorem grpSize_live (ho : o.op = 8) (hl : grpLive s o.part o.fut = some (dd, ix, gr)) :
    futPerform s o = { st := s, val := BitVec.ofNat 64 gr.members.length, flag := true } := by
  rw [futPerform_group (by omega)]
  simp only [grpPerform, ho, hl, Nat.reduceEqDiff, if_false]

end

/-! ### Operations performed and answered (R346, R347, R353) -/

section

variable (hf : (s.futOps.find? fun o => o.id == id) = some o)
include hf

/-- A resolution or a fault that traps nothing has no answer. -/
theorem exec_futureOperation_told (hd : futDue s o = true) (ht : (decide (o.op = 2) || decide (o.op = 3)) = true)
    (hr : (futPerform s o).trap = 0) : exec (.futureOperation id) s =
      .next { (futPerform s o).st with futOps := (futPerform s o).st.futOps.filter fun x => x.id != id } := by
  show execFutureOperation id s = _
  simp only [execFutureOperation, hf, hd, ht, hr, decide_true, Bool.and_self, if_true]

/-- Any other operation waits for the way back with its answer. -/
theorem exec_futureOperation_answered (hd : futDue s o = true)
    (ht : (decide (o.op = 2) || decide (o.op = 3)) = false ∨ (futPerform s o).trap ≠ 0) :
    let r := futPerform s o
    exec (.futureOperation id) s = .next { r.st with futOps := r.st.futOps.map fun x =>
      if x.id = id then { o with done := true, val := r.val, flag := r.flag, trap := r.trap,
                                 back := s.cyc + max 1 (roundTrip s (tileCluster o.tile) (o.fut / 2 ^ 12 % 4 * 128) / 2) }
      else x } := by
  have hn : ((decide (o.op = 2) || decide (o.op = 3)) && decide ((futPerform s o).trap = 0)) = false := by
    rcases ht with ht | ht
    · rw [ht, Bool.false_and]
    · rw [decide_eq_false ht, Bool.and_false]
  show execFutureOperation id s = _
  simp only [execFutureOperation, hf, hd, hn, if_true, Bool.false_eq_true, if_false]

/-- The job that an operation's answer ends. -/
def answeredJob (s : State) (o : FutOp) : Option Job :=
  if decide (o.op = 2) || decide (o.op = 3) then none else jobOf (tileOf s o.tile) o.job

/-- The state without an operation that is answered. -/
def operationGone (s : State) (id : Nat) : State := { s with futOps := s.futOps.filter fun x => x.id != id }

section

variable (hd : o.done = true) (hb : o.back ≤ s.cyc) {j : Job}
include hd hb

theorem exec_futureAnswer_ends (ht : o.trap = 0) (hj : answeredJob s o = some j) :
    exec (.futureAnswer id) s = .next (answerJob (operationGone s id) o.tile j (o.val.setWidth 512) o.flag) := by
  rw [answeredJob] at hj
  show execFutureAnswer id s = _
  simp only [execFutureAnswer, hf, hd, hb, ht, hj, decide_true, Bool.and_self, if_true, operationGone]

theorem exec_futureAnswer_noJob (ht : o.trap = 0) (hj : answeredJob s o = none) :
    exec (.futureAnswer id) s = .next (operationGone s id) := by
  rw [answeredJob] at hj
  show execFutureAnswer id s = _
  simp only [execFutureAnswer, hf, hd, hb, ht, hj, decide_true, Bool.and_self, if_true, operationGone]

/-- The trap that the answer of an operation reports. -/
def operationTrap (s : State) (o : FutOp) : Trap := answerTrap s o.tile o.who o.trap (BitVec.ofNat 64 o.fut)

theorem exec_futureAnswer_trap (ht : o.trap ≠ 0) (hj : answeredJob s o = some j) :
    exec (.futureAnswer id) s = .next (takeTrap (dropJob (operationGone s id) o.tile j) o.tile (operationTrap s o)) := by
  rw [answeredJob] at hj
  show execFutureAnswer id s = _
  simp only [execFutureAnswer, hf, hd, hb, ht, hj, decide_true, Bool.and_self, if_true, if_false, operationGone, operationTrap]

theorem exec_futureAnswer_trap_noJob (ht : o.trap ≠ 0) (hj : answeredJob s o = none) :
    exec (.futureAnswer id) s = .next (takeTrap (operationGone s id) o.tile (operationTrap s o)) := by
  rw [answeredJob] at hj
  show execFutureAnswer id s = _
  simp only [execFutureAnswer, hf, hd, hb, ht, hj, decide_true, Bool.and_self, if_true, if_false, operationGone, operationTrap]

end

end

/-- A watch whose future has left PENDING reports it, and the PE sees the report after the way back (R347). -/
theorem exec_watchReport {f : Nat} {w : Watch} {x : W64} (hw : w ∈ (tileOf s n).watches) (hf : w.fut = f) (hd : watchDue s n w = some x) :
    ∃ t, exec (.watchReport n f) s = .next t ∧ (∃ c, { w with seen := some x, due := c } ∈ (tileOf t n).watches ∧ s.cyc < c) ∧
      ∀ v, v ∈ (tileOf s n).watches → v.fut ≠ f → v ∈ (tileOf t n).watches := by
  refine ⟨_, rfl, ?_⟩
  rw [tileOf_setTile_same]
  refine ⟨⟨s.cyc + max 1 (roundTrip s (tileCluster n) (f / 2 ^ 12 % 4 * 128) / 2), List.mem_map.mpr ⟨w, hw, ?_⟩,
    Nat.lt_add_of_pos_right (Nat.lt_of_lt_of_le Nat.zero_lt_one (Nat.le_max_left ..))⟩,
    fun v hv hne => List.mem_map.mpr ⟨v, hv, if_neg hne⟩⟩
  simp only [hf, hd, if_true]

/-! ### Collectives (R350, R351) -/

section

variable (hf : (s.arrivals.find? fun a => a.id == id) = some a) (hd : a.due ≤ s.cyc)
  (he : dispEarlier s a.id a.tile a.bank (a.grp / 2 ^ 12 % 4) = false) (hn : dieFenced s (a.grp / 2 ^ 12 % 4) = false)
include hf hd he hn

/-- The state with an arrival that its dispatcher has taken gone. -/
def arrivalGone (s : State) (id : Nat) : State := { s with arrivals := s.arrivals.filter fun x => x.id != id }

omit hn in
theorem exec_collectiveArrival : exec (.collectiveArrival id) s = .next ((collTake s a).getD s) := by
  show execCollectiveArrival id s = _
  simp only [execCollectiveArrival, hf, hd, he, decide_true, Bool.not_false, Bool.and_self, if_true]

theorem collectiveArrival_missing (hl : grpLive s a.part a.grp = none) :
    exec (.collectiveArrival id) s = .next (collAnswer (arrivalGone s id) a 0 0xE13) := by
  have hid : a.id = id := by simpa using List.find?_some hf
  subst hid
  rw [exec_collectiveArrival hf hd he]
  simp only [collTake, hn, hl, Bool.false_eq_true, if_false, Option.getD_some]
  rfl

/-- Whether an instance waits for the arrival of the context that an arrival comes from. -/
def opensFor (a : Arrival) (i : Inst) : Bool := i.snap.contains (a.tile * 4 + a.bank) && !Machine.entered i (a.tile * 4 + a.bank)

theorem collectiveArrival_enters (hl : grpLive s a.part a.grp = some (dd, ix, gr)) (ho : gr.insts.any (opensFor a) = true) :
    exec (.collectiveArrival id) s =
      .next (setGrp (arrivalGone s id) dd ix { gr with insts := enterInst (opensFor a) a gr.insts }) := by
  have hid : a.id = id := by simpa using List.find?_some hf
  subst hid
  rw [exec_collectiveArrival hf hd he]
  unfold opensFor at *
  simp only [collTake, hn, hl, ho, Bool.false_eq_true, if_false, if_true, Option.getD_some]
  rfl

/-- The arrival of a member that no instance waits for opens an instance, while fewer than four are open. -/
theorem collectiveArrival_opens (hl : grpLive s a.part a.grp = some (dd, ix, gr)) (ho : gr.insts.any (opensFor a) = false)
    (hm : a.tile * 4 + a.bank ∈ gr.members) (h4 : gr.insts.length < 4) :
    exec (.collectiveArrival id) s =
      .next (setGrp (arrivalGone s id) dd ix { gr with insts := gr.insts ++ [⟨gr.next, gr.members, [a]⟩], next := gr.next + 1 }) := by
  have hid : a.id = id := by simpa using List.find?_some hf
  subst hid
  have hc : gr.members.contains (a.tile * 4 + a.bank) = true := List.contains_iff_mem.mpr hm
  rw [exec_collectiveArrival hf hd he]
  unfold opensFor at *
  simp only [collTake, hn, hl, ho, hc, h4, Bool.true_or, Bool.false_eq_true, if_false, if_true, Option.getD_some]
  rfl

end

theorem grpAt_setGrp_same (h : dd < 4) : grpAt (setGrp s dd ix gr) dd ix = gr := by
  rw [grpAt, setGrp, dieOf_modDie_same _ _ _ h, mapGet_put_same]

/-- The first instance of a group that is complete ends, and the group dissolves where nothing keeps it. -/
theorem exec_collectiveComplete {j : Inst} {l : List Inst} (hg : (grpAt s (n / 1024 % 4) (n % 1024)).insts = j :: l)
    (hr : collReady s j = true) : ∃ t, exec (.collectiveComplete n) s = .next t ∧
      grpAt t (n / 1024 % 4) (n % 1024) = dissolve { grpAt s (n / 1024 % 4) (n % 1024) with insts := l } := by
  show ∃ t, execCollectiveComplete n s = _ ∧ _
  simp only [execCollectiveComplete, hg, hr, if_true]
  exact ⟨_, rfl, grpAt_setGrp_same (Nat.mod_lt _ (by decide))⟩

/-- Settles O48, clause by clause. -/
theorem groupInstructions : Obligations.GroupInstructions := by
  unfold Obligations.GroupInstructions
  refine ⟨fun s a b d e g => ?_, fun s o => ?_, fun s id o hf => ?_, fun s n f w x => exec_watchReport,
    fun s id a hf hd he hn => ⟨collectiveArrival_missing hf hd he hn, fun dd ix gr hl => ⟨collectiveArrival_enters hf hd he hn hl,
      fun ho hm h4 => collectiveArrival_opens hf hd he hn hl ho hm h4⟩⟩, fun s n i l => exec_collectiveComplete⟩
  · intro asks arrives
    have coll : ∀ (i : Instr) (op : Nat), exec i s = pe s i (collEff i op) → arrives i op := fun i op hx =>
      ⟨_, completes_of hx rfl, _, congrArg (· ++ _) started_arrivals, rfl, rfl, rfl, rfl, rfl, rfl, rfl⟩
    exact ⟨completes_of rfl rfl, completes_of rfl rfl, completes_of rfl rfl, completes_of rfl rfl, coll _ _ rfl, coll _ _ rfl,
      coll _ _ rfl, coll _ _ rfl⟩
  · refine ⟨fun ho => ⟨join_missing ho, fun dd ix gr hl => ⟨fun r => join_member ho hl, fun hr h => ?_, fun hr h => ?_⟩⟩,
      fun ho => ⟨leave_missing ho, fun dd ix gr hl => ⟨fun h => ?_, fun h => ?_⟩⟩,
      fun ho => ⟨grpNew_none ho, fun ix => grpNew_picks ho⟩, fun ho => ⟨grpSize_missing ho, fun dd ix gr => grpSize_live ho⟩⟩
    · exact (join_other ho hl hr).trans (if_neg (Nat.not_le_of_lt h))
    · exact (join_other ho hl hr).trans (if_pos h)
    · exact (leave_live ho hl).trans (if_pos h)
    · exact (leave_live ho hl).trans (if_neg h)
  · exact ⟨exec_futureOperation_told hf, exec_futureOperation_answered hf, fun hd hb ht => ⟨fun _ =>
      exec_futureAnswer_ends hf hd hb ht, exec_futureAnswer_noJob hf hd hb ht⟩, fun hd hb ht => ⟨fun _ =>
      exec_futureAnswer_trap hf hd hb ht, exec_futureAnswer_trap_noJob hf hd hb ht⟩⟩

end Sys2Proof
end

section
/-! Expert placement and the race checker: the instructions (R327 to R330, R394 to R397, R400, O49). -/
namespace Sys2Proof

open Machine

variable {s : State} {i : Instr} {a b : BitVec 5} {d e g : BitVec 4}

theorem dataR_zero : dataR (BitVec.ofNat 64 0) = (.data, 0) := by
  rw [dataR, BitVec.ofNat_eq_ofNat, BitVec.setWidth_zero]

/-! ### `xd.dispatch` (R394, R395) -/

section

/-- The table that the die of a firing in `s` has adopted, of those that its literal names. -/
def firingTable (s : State) (f : Firing) : Option Adopted := adoptedOf s (tileDie f.tile) (tileHolder s f.tile).2.1 (fld f.lit 5 0)

/-- The state in which a firing has acquired from the table that its die has adopted. -/
def tableAcquired (s : State) (f : Firing) : State :=
  clkAcquire s (tileHolder s f.tile).2.1 (tileHolder s f.tile).1 (.table (fld f.lit 5 0)) 2 (tilePlace f.tile) none

variable (hs : skipToken (.xdDispatch a b d e g) (operands (.xdDispatch a b d e g) s) = none)
include hs

theorem xdDispatch_unadopted (hx : firingTable (started (.xdDispatch a b d e g) s) s.cur = none) :
    Completes (.xdDispatch a b d e g) s
      { st := started (.xdDispatch a b d e g) s, lat := dieTrip (started (.xdDispatch a b d e g) s) s.cur.tile } := by
  rw [firingTable] at hx
  refine completes_of rfl ?_
  simp only [hs, hx]

/-- Whether the engine has no slot for a dispatch: the expert is beyond the table, or has no LIVE slot. -/
def slotless (x : Adopted) (ex : Nat) : Bool := decide (x.nexp ≤ ex) || (liveSlots x ex).isEmpty

omit hs in
theorem slotless_eq_true {x : Adopted} {ex : Nat} : slotless x ex = true ↔ x.nexp ≤ ex ∨ liveSlots x ex = [] := by
  simp only [slotless, Bool.or_eq_true, decide_eq_true_eq, List.isEmpty_iff]

omit hs in
theorem slotless_eq_false {x : Adopted} {ex : Nat} (hn : ex < x.nexp) (hl : liveSlots x ex ≠ []) : slotless x ex = false :=
  Bool.eq_false_iff.2 fun h => (slotless_eq_true.1 h).elim (Nat.not_le.2 hn) hl

theorem xdDispatch_nowhere {x : Adopted} (hx : firingTable (started (.xdDispatch a b d e g) s) s.cur = some x)
    (h : x.nexp ≤ fld (operands (.xdDispatch a b d e g) s).kb 41 32 ∨
      liveSlots x (fld (operands (.xdDispatch a b d e g) s).kb 41 32) = []) :
    Completes (.xdDispatch a b d e g) s
      { st := tableAcquired (started (.xdDispatch a b d e g) s) s.cur,
        lat := dieTrip (started (.xdDispatch a b d e g) s) s.cur.tile } := by
  have hc := slotless_eq_true.2 h
  rw [firingTable] at hx
  rw [slotless] at hc
  refine completes_of rfl ?_
  simp only [hs, hx]
  exact if_pos hc

/-- The slot of an expert that the hash of a key picks among the LIVE ones (R395). -/
def pickedSlot (x : Adopted) (ex : Nat) (key : W64) : Nat :=
  (liveSlots x ex).getD (keyHash key.toNat % (liveSlots x ex).length) 0

/-- The endpoint word of the picked slot. -/
def pickedWord (x : Adopted) (ex : Nat) (key : W64) : W64 := mapGet x.slots (8 * ex + pickedSlot x ex key) 0

/-- The packet that a dispatch sends to the picked slot. -/
def dispatchPacket (f : Firing) (o : Opnd) (x : Adopted) : Packet :=
  let ex := fld o.kb 41 32
  { label := fld (pickedWord x ex o.ka) 38 32, two := true, w0 := o.ka,
    w1 := tkw1 x.ver (fld f.lit 5 0) ex (pickedSlot x ex o.ka) o.kb,
    acq := some (.table (fld f.lit 5 0)), slot := some (fld f.lit 5 0, ex, pickedSlot x ex o.ka) }

/-- The state in which the packet of a dispatch is sent, and counted in flight and in its die's counts. -/
def dispatched (s : State) (f : Firing) (o : Opnd) (x : Adopted) : State :=
  let ex := fld o.kb 41 32
  let s2 := sendPacket (tableAcquired s f) (f.tile * 4 + f.bank) (tileCluster f.tile) (epTile (fld (pickedWord x ex o.ka) 57 39))
    (dispatchPacket f o x)
  modDie (infAdd s2 (tileHolder s f.tile).2.1 (fld f.lit 5 0) ex (pickedSlot x ex o.ka) true) (tileDie f.tile) fun y =>
    { y with counts := countIn y.counts (tileHolder s f.tile).2.1 (fld f.lit 5 0) ex }

omit hs in
theorem dispatched_packets {f : Firing} {o : Opnd} {x : Adopted} :
    ∃ m, (dispatched s f o x).packets = s.packets ++ [m] ∧ m.dst = epTile (fld (pickedWord x (fld o.kb 41 32) o.ka) 57 39) ∧
      m.pkt = dispatchPacket f o x :=
  have hp : (tableAcquired s f).packets = s.packets := congrArg Rest.packets (sameTiles_clkAcquire ..).1
  ⟨_, congrArg (· ++ _) hp, rfl, rfl⟩

theorem xdDispatch_sends {x : Adopted} (hx : firingTable (started (.xdDispatch a b d e g) s) s.cur = some x)
    (hn : fld (operands (.xdDispatch a b d e g) s).kb 41 32 < x.nexp)
    (hl : liveSlots x (fld (operands (.xdDispatch a b d e g) s).kb 41 32) ≠ []) :
    Completes (.xdDispatch a b d e g) s
      { st := dispatched (started (.xdDispatch a b d e g) s) s.cur (operands (.xdDispatch a b d e g) s) x,
        r1 := dataR (dispatchPacket s.cur (operands (.xdDispatch a b d e g) s) x).w1, flag := true,
        lat := dieTrip (started (.xdDispatch a b d e g) s) s.cur.tile } := by
  have hc := slotless_eq_false hn hl
  rw [firingTable] at hx
  rw [slotless] at hc
  refine completes_of rfl ?_
  simp only [hs, hx]
  exact if_neg (ne_true_of_eq_false hc)

end

/-! ### `xd.load`, `xd.tab`, `xd.ver` and `xd.stat` (R400) -/

/-- The table of a firing's partition that its literal names. -/
def firingTab (s : State) (f : Firing) : Option XTab := tabOf s (tileHolder s f.tile).2.1 (fld f.lit 5 0)

section

variable {x : XTab}

theorem xdLoad_missing (hx : firingTab (started (.xdLoad a d e g) s) s.cur = none) :
    Completes (.xdLoad a d e g) s
      { st := started (.xdLoad a d e g) s, lat := engineTrip (started (.xdLoad a d e g) s) s.cur.tile } := by
  rw [firingTab] at hx
  refine completes_of rfl ?_
  simp only [hx]

theorem xdLoad_interval (hx : firingTab (started (.xdLoad a d e g) s) s.cur = some x) (hb : s.cur.lit.getLsbD 8 = true) :
    Completes (.xdLoad a d e g) s
      { st := started (.xdLoad a d e g) s, r1 := dataR (BitVec.ofNat 64 x.interval), flag := true,
        lat := engineTrip (started (.xdLoad a d e g) s) s.cur.tile } := by
  rw [firingTab] at hx
  refine completes_of rfl ?_
  simp only [hx, hb, if_true]

theorem xdLoad_count (hx : firingTab (started (.xdLoad a d e g) s) s.cur = some x) (hb : s.cur.lit.getLsbD 8 = false)
    (hn : (operands (.xdLoad a d e g) s).ka.toNat < tabNexp x) :
    Completes (.xdLoad a d e g) s
      { st := started (.xdLoad a d e g) s,
        r1 := dataR (BitVec.ofNat 64 (mapGet x.lastCounts (operands (.xdLoad a d e g) s).ka.toNat 0)), flag := true,
        lat := engineTrip (started (.xdLoad a d e g) s) s.cur.tile } := by
  rw [firingTab] at hx
  refine completes_of rfl ?_
  simp only [hx, hb, Bool.false_eq_true, if_false, if_pos hn]

theorem xdLoad_beyond (hx : firingTab (started (.xdLoad a d e g) s) s.cur = some x) (hb : s.cur.lit.getLsbD 8 = false)
    (hn : tabNexp x ≤ (operands (.xdLoad a d e g) s).ka.toNat) :
    Completes (.xdLoad a d e g) s
      { st := started (.xdLoad a d e g) s, lat := engineTrip (started (.xdLoad a d e g) s) s.cur.tile } := by
  rw [firingTab] at hx
  refine completes_of rfl ?_
  simp only [hx, hb, Bool.false_eq_true, if_false, if_neg (Nat.not_lt.2 hn)]

theorem xdTab_missing (hx : firingTab (started (.xdTab a d e g) s) s.cur = none) :
    Completes (.xdTab a d e g) s
      { st := started (.xdTab a d e g) s, lat := engineTrip (started (.xdTab a d e g) s) s.cur.tile } := by
  rw [firingTab] at hx
  refine completes_of rfl ?_
  simp only [hx]

theorem xdTab_header (hx : firingTab (started (.xdTab a d e g) s) s.cur = some x) (hk : fld s.cur.lit 13 12 = 2) :
    Completes (.xdTab a d e g) s
      { st := started (.xdTab a d e g) s, r1 := dataR (hdrW x (fld s.cur.lit 11 8)), flag := true,
        lat := engineTrip (started (.xdTab a d e g) s) s.cur.tile } := by
  rw [firingTab] at hx
  refine completes_of rfl ?_
  simp only [hx, if_pos hk]

theorem xdTab_word (hx : firingTab (started (.xdTab a d e g) s) s.cur = some x) (hk : fld s.cur.lit 13 12 = 0)
    (hn : (operands (.xdTab a d e g) s).ka.toNat < tabNexp x) :
    Completes (.xdTab a d e g) s
      { st := started (.xdTab a d e g) s,
        r1 := dataR (tabWord x (operands (.xdTab a d e g) s).ka.toNat (fld s.cur.lit 11 8)), flag := true,
        lat := engineTrip (started (.xdTab a d e g) s) s.cur.tile } := by
  rw [firingTab] at hx
  refine completes_of rfl ?_
  simp only [hx, hk, OfNat.zero_ne_ofNat, if_false, if_pos hn, if_true]

theorem xdTab_inFlight (hx : firingTab (started (.xdTab a d e g) s) s.cur = some x) (hk0 : fld s.cur.lit 13 12 ≠ 0)
    (hk2 : fld s.cur.lit 13 12 ≠ 2) (hn : (operands (.xdTab a d e g) s).ka.toNat < tabNexp x) :
    Completes (.xdTab a d e g) s
      { st := started (.xdTab a d e g) s,
        r1 := dataR (BitVec.ofNat 64
          (mapGet x.inf (8 * (operands (.xdTab a d e g) s).ka.toNat + fld s.cur.lit 11 8 % 8) 0)),
        flag := true, lat := engineTrip (started (.xdTab a d e g) s) s.cur.tile } := by
  rw [firingTab] at hx
  refine completes_of rfl ?_
  simp only [hx, if_neg hk2, if_pos hn, if_neg hk0]

theorem xdTab_beyond (hx : firingTab (started (.xdTab a d e g) s) s.cur = some x) (hk : fld s.cur.lit 13 12 ≠ 2)
    (hn : tabNexp x ≤ (operands (.xdTab a d e g) s).ka.toNat) :
    Completes (.xdTab a d e g) s
      { st := started (.xdTab a d e g) s, lat := engineTrip (started (.xdTab a d e g) s) s.cur.tile } := by
  rw [firingTab] at hx
  refine completes_of rfl ?_
  simp only [hx, if_neg hk, if_neg (Nat.not_lt.2 hn)]

theorem xdVer_adopted {y : Adopted} (hk : fld s.cur.lit 9 8 = 0)
    (hx : firingTable (started (.xdVer a d e g) s) s.cur = some y) :
    Completes (.xdVer a d e g) s
      { st := started (.xdVer a d e g) s, r1 := dataR (BitVec.ofNat 64 y.ver), flag := true,
        lat := engineTrip (started (.xdVer a d e g) s) s.cur.tile } := by
  rw [firingTable] at hx
  refine completes_of rfl ?_
  simp only [hk, hx]

theorem xdVer_unadopted (hk : fld s.cur.lit 9 8 = 0) (hx : firingTable (started (.xdVer a d e g) s) s.cur = none) :
    Completes (.xdVer a d e g) s
      { st := started (.xdVer a d e g) s, lat := engineTrip (started (.xdVer a d e g) s) s.cur.tile } := by
  rw [firingTable] at hx
  refine completes_of rfl ?_
  simp only [hk, hx]

theorem xdVer_missing (hk : fld s.cur.lit 9 8 ≠ 0) (hx : firingTab (started (.xdVer a d e g) s) s.cur = none) :
    Completes (.xdVer a d e g) s
      { st := started (.xdVer a d e g) s, lat := engineTrip (started (.xdVer a d e g) s) s.cur.tile } := by
  rw [firingTab] at hx
  obtain ⟨k, hk⟩ := Nat.exists_eq_succ_of_ne_zero hk
  refine completes_of rfl ?_
  simp only [hk, hx]

/-- Form 1 ends a step of the table (R396). -/
theorem xdVer_step (hk : fld s.cur.lit 9 8 = 1) (hx : firingTab (started (.xdVer a d e g) s) s.cur = some x) :
    let st := started (.xdVer a d e g) s
    let h := tileHolder st s.cur.tile
    Completes (.xdVer a d e g) s
      { st := releaseLater (stepEnd st x (s.cur.tile * 4 + s.cur.bank) st.nid)
          { agent := .bank s.cur.tile s.cur.bank, before := st.nid, part := h.2.1, holder := h.1, obj := .step (fld s.cur.lit 5 0),
            scope := 2 },
        r1 := dataR (BitVec.ofNat 64 (x.step + 1)), flag := true, lat := engineTrip st s.cur.tile } := by
  intro st h
  rw [firingTab] at hx
  refine completes_of rfl ?_
  simp only [hk, hx]
  rfl

/-- The state in which a firing that reads the merge word of a table has acquired from the line of the word, where its page is
mapped. -/
def mergeAcquired (s : State) (f : Firing) (x : XTab) : State :=
  let h := tileHolder s f.tile
  match walkTables s h.2.1 ((x.va + 48) / 4096) false with
  | .ok pp _ =>
    let loc := physLoc (pp * 4096 + (x.va + 48) % 4096)
    clkAcquire s h.2.1 h.1 (lineObj loc) 2 (tilePlace f.tile) (some (locPlace loc))
  | _ => s

theorem mergeAcquired_mapped {f : Firing} {pp : Nat} {r : Bool}
    (h : walkTables s (tileHolder s f.tile).2.1 ((x.va + 48) / 4096) false = .ok pp r) :
    mergeAcquired s f x = clkAcquire s (tileHolder s f.tile).2.1 (tileHolder s f.tile).1
      (lineObj (physLoc (pp * 4096 + (x.va + 48) % 4096))) 2 (tilePlace f.tile)
      (some (locPlace (physLoc (pp * 4096 + (x.va + 48) % 4096)))) := by
  simp only [mergeAcquired, h]

theorem mergeAcquired_unmapped {f : Firing}
    (h : ∀ pp r, walkTables s (tileHolder s f.tile).2.1 ((x.va + 48) / 4096) false ≠ .ok pp r) : mergeAcquired s f x = s := by
  cases hw : walkTables s (tileHolder s f.tile).2.1 ((x.va + 48) / 4096) false with
  | ok pp r => exact absurd hw (h pp r)
  | fail => simp only [mergeAcquired, hw]

/-- The forms above 1 give the last step merged. -/
theorem xdVer_merged (hk : 2 ≤ fld s.cur.lit 9 8) (hx : firingTab (started (.xdVer a d e g) s) s.cur = some x) :
    Completes (.xdVer a d e g) s
      { st := mergeAcquired (started (.xdVer a d e g) s) s.cur x, r1 := dataR (BitVec.ofNat 64 x.merged), flag := true,
        lat := engineTrip (started (.xdVer a d e g) s) s.cur.tile } := by
  rw [firingTab] at hx
  obtain ⟨k, hk⟩ := Nat.exists_eq_add_of_le' hk
  refine completes_of rfl ?_
  simp only [hk, hx]
  rfl

end

/-- The lowest-numbered table of a partition that has an operation. -/
def busyTab (s : State) (pn : Nat) : Option XTab :=
  (List.range 64).findSome? fun n => (tabOf s pn n).bind fun x => if x.op = 0 then none else some x

theorem xdStat_busy {x : XTab}
    (hx : busyTab (started (.xdStat d e g) s) (tileHolder (started (.xdStat d e g) s) s.cur.tile).2.1 = some x) :
    Completes (.xdStat d e g) s
      { st := started (.xdStat d e g) s,
        r1 := dataR (statWord x
          (partOf (started (.xdStat d e g) s) (tileHolder (started (.xdStat d e g) s) s.cur.tile).2.1).rollbacks),
        lat := engineTrip (started (.xdStat d e g) s) s.cur.tile } := by
  rw [busyTab] at hx
  refine completes_of rfl ?_
  simp only [hx]

theorem xdStat_idle
    (hx : busyTab (started (.xdStat d e g) s) (tileHolder (started (.xdStat d e g) s) s.cur.tile).2.1 = none) :
    Completes (.xdStat d e g) s
      { st := started (.xdStat d e g) s,
        r1 := dataR (BitVec.ofNat 64
          ((partOf (started (.xdStat d e g) s) (tileHolder (started (.xdStat d e g) s) s.cur.tile).2.1).rollbacks % 2 ^ 28)),
        flag := true, lat := engineTrip (started (.xdStat d e g) s) s.cur.tile } := by
  rw [busyTab] at hx
  refine completes_of rfl ?_
  simp only [hx]

/-! ### The race checker's instructions (R327 to R330) -/

/-- The partition of the tile that is firing. -/
def firingPart (s : State) (f : Firing) : Part := partOf s (tileHolder s f.tile).2.1

/-- The mode word that `race.mode` reads: the mode, and whether a change is pending. -/
def modeRead (s : State) (f : Firing) : Nat := (firingPart s f).raceMode + (if (firingPart s f).raceNext.isSome then 4 else 0)

/-- What makes `race.mode` refuse an operand (R328). -/
def modeBad (s : State) (f : Firing) (v : W64) : Bool :=
  fld v 63 3 != 0 || (v.getLsbD 2 && (fld v 1 0 == 3 || !partRaceProg (firingPart s f)))

theorem raceMode_refused (h : modeBad (started (.raceMode a d e g) s) s.cur (operands (.raceMode a d e g) s).ka = true) :
    Completes (.raceMode a d e g) s
      { st := started (.raceMode a d e g) s, r1 := dataR (BitVec.ofNat 64 (modeRead (started (.raceMode a d e g) s) s.cur)), lat := 4 } :=
  completes_of rfl (if_pos h)

theorem raceMode_reads (h : modeBad (started (.raceMode a d e g) s) s.cur (operands (.raceMode a d e g) s).ka = false)
    (hb : (operands (.raceMode a d e g) s).ka.getLsbD 2 = false) :
    Completes (.raceMode a d e g) s
      { st := started (.raceMode a d e g) s, r1 := dataR (BitVec.ofNat 64 (modeRead (started (.raceMode a d e g) s) s.cur)),
        flag := true, lat := 4 } := by
  refine completes_of rfl ((if_neg (ne_true_of_eq_false h)).trans ?_)
  simp only [hb, Bool.false_eq_true, if_false]
  rfl

theorem raceMode_sets (h : modeBad (started (.raceMode a d e g) s) s.cur (operands (.raceMode a d e g) s).ka = false)
    (hb : (operands (.raceMode a d e g) s).ka.getLsbD 2 = true) :
    Completes (.raceMode a d e g) s
      { st := setRaceMode (started (.raceMode a d e g) s) (tileHolder (started (.raceMode a d e g) s) s.cur.tile).2.1
          (fld (operands (.raceMode a d e g) s).ka 1 0),
        r1 := dataR (BitVec.ofNat 64 (modeRead (started (.raceMode a d e g) s) s.cur)), flag := true, lat := 4 } := by
  refine completes_of rfl ((if_neg (ne_true_of_eq_false h)).trans ?_)
  simp only [hb, if_true]
  rfl

/-- The word of a partition's descriptor that gives its race log ring. -/
def raceRing (s : State) (f : Firing) : W64 := BitVec.ofNat 64 (partFld (firingPart s f) 168 8)

/-- Of the words that `race.log` reads, the one that its operand selects. -/
def raceLogWord (s : State) (f : Firing) : Nat → Option Nat
  | 0 => some (firingPart s f).racePI
  | 1 => some (firingPart s f).raceDropped
  | 2 => some (ringBase (raceRing s f))
  | 3 => some ((raceRing s f).toNat % 16)
  | _ => none

theorem raceLog_completes :
    let v := raceLogWord (started (.raceLog a d e g) s) s.cur (operands (.raceLog a d e g) s).ka.toNat
    Completes (.raceLog a d e g) s
      { st := started (.raceLog a d e g) s, r1 := dataR (BitVec.ofNat 64 (v.getD 0)), flag := v.isSome, lat := 4 } :=
  completes_of rfl rfl

theorem raceLog_gives {v : Nat}
    (h : raceLogWord (started (.raceLog a d e g) s) s.cur (operands (.raceLog a d e g) s).ka.toNat = some v) :
    Completes (.raceLog a d e g) s
      { st := started (.raceLog a d e g) s, r1 := dataR (BitVec.ofNat 64 v), flag := true, lat := 4 } := by
  have hc := raceLog_completes (a := a) (d := d) (e := e) (g := g) (s := s)
  simpa only [h, Option.getD_some, Option.isSome_some] using hc

theorem raceLogWord_beyond {f : Firing} {n : Nat} (h : 4 ≤ n) : raceLogWord s f n = none := by
  obtain ⟨k, rfl⟩ := Nat.exists_eq_add_of_le' h
  rfl

theorem raceLog_beyond (h : 4 ≤ (operands (.raceLog a d e g) s).ka.toNat) :
    Completes (.raceLog a d e g) s { st := started (.raceLog a d e g) s, lat := 4 } := by
  have hc := raceLog_completes (a := a) (d := d) (e := e) (g := g) (s := s)
  simpa only [raceLogWord_beyond h, Option.getD_none, Option.isSome_none, dataR_zero] using hc

/-- The generation that `race.gen` reads, of the kind that its literal names. -/
def genRead (s : State) (f : Firing) : Nat := genOf (firingPart s f) (instKey (fld f.lit 1 0) (tilePlace f.tile))

theorem raceGen_reads (hb : s.cur.lit.getLsbD 8 = false) :
    Completes (.raceGen a d e g) s
      { st := started (.raceGen a d e g) s, r1 := dataR (BitVec.ofNat 64 (genRead (started (.raceGen a d e g) s) s.cur)), flag := true,
        lat := 16 } := by
  refine completes_of rfl ?_
  simp only [hb, Bool.false_eq_true, if_false]
  rfl

section

variable (hb : s.cur.lit.getLsbD 8 = true)
include hb

theorem raceGen_missing
    (h : grpLive (started (.raceGen a d e g) s) (tileHolder (started (.raceGen a d e g) s) s.cur.tile).2.1
      (operands (.raceGen a d e g) s).ka.toNat = none) :
    Completes (.raceGen a d e g) s
      { st := started (.raceGen a d e g) s, r1 := dataR (BitVec.ofNat 64 (genRead (started (.raceGen a d e g) s) s.cur)),
        lat := 16 } := by
  refine completes_of rfl ?_
  simp only [hb, if_true, h, Option.isSome_none, Bool.false_eq_true, if_false]
  rfl

theorem raceGen_sets
    (h : grpLive (started (.raceGen a d e g) s) (tileHolder (started (.raceGen a d e g) s) s.cur.tile).2.1
      (operands (.raceGen a d e g) s).ka.toNat ≠ none) :
    Completes (.raceGen a d e g) s
      { st := modPart (started (.raceGen a d e g) s) (tileHolder (started (.raceGen a d e g) s) s.cur.tile).2.1 fun q =>
          { q with
            genGrp := mapPut q.genGrp (instKey (fld s.cur.lit 1 0) (tilePlace s.cur.tile)) (operands (.raceGen a d e g) s).ka.toNat },
        r1 := dataR (BitVec.ofNat 64 (genRead (started (.raceGen a d e g) s) s.cur)), flag := true, lat := 16 } := by
  refine completes_of rfl ?_
  simp only [hb, if_true, Option.isSome_iff_ne_none.2 h]
  rfl

end

/-- Settles O49: each case of the instructions' tables. -/
theorem expertAndRaceInstructions : Obligations.ExpertAndRaceInstructions := by
  unfold Obligations.ExpertAndRaceInstructions
  refine ⟨fun s a b d e g => ⟨?dispatch, ?load, ?tab, ?ver, ?stat⟩, fun s a d e g => ⟨?clk, ?mode, ?log, ?gen⟩⟩
  case dispatch =>
    refine fun hs => ⟨xdDispatch_unadopted hs, fun _ => xdDispatch_nowhere hs, fun x hx hn hl => ?_⟩
    obtain ⟨m, hm, hd, hp⟩ := dispatched_packets (s := started (.xdDispatch a b d e g) s) (f := s.cur)
      (o := operands (.xdDispatch a b d e g) s) (x := x)
    exact ⟨_, xdDispatch_sends hs hx hn hl, m, hm.trans (congrArg (· ++ [m]) started_packets), hd, congrArg Packet.label hp,
      congrArg Packet.w0 hp, congrArg Packet.w1 hp, congrArg Packet.two hp⟩
  case load => exact ⟨xdLoad_missing, fun _ hx => ⟨xdLoad_interval hx, xdLoad_count hx, xdLoad_beyond hx⟩⟩
  case tab => exact ⟨xdTab_missing, fun _ hx => ⟨xdTab_header hx, xdTab_word hx, xdTab_inFlight hx, xdTab_beyond hx⟩⟩
  case ver =>
    refine ⟨fun hk _ => xdVer_adopted hk, xdVer_unadopted, xdVer_missing, fun hk _ => xdVer_step hk, fun hk x hx => ⟨?_, ?_⟩⟩
    · exact fun pp r hw => by
        have hm := xdVer_merged hk hx
        rwa [mergeAcquired_mapped hw] at hm
    · exact fun hw => by
        have hm := xdVer_merged hk hx
        rwa [mergeAcquired_unmapped hw] at hm
  case stat => exact ⟨fun _ => xdStat_busy, xdStat_idle⟩
  case clk => exact completes_of rfl rfl
  case mode => exact ⟨raceMode_refused, raceMode_reads, raceMode_sets⟩
  case log =>
    have hg {n v : Nat} (hn : (operands (.raceLog a d e g) s).ka.toNat = n)
        (hv : raceLogWord (started (.raceLog a d e g) s) s.cur n = some v) := raceLog_gives (hn.symm ▸ hv)
    exact ⟨(hg · rfl), (hg · rfl), (hg · rfl), (hg · rfl), raceLog_beyond⟩
  case gen => exact ⟨raceGen_reads, raceGen_missing, raceGen_sets⟩

end Sys2Proof
end

section
/-! Expert placement: the steps of counts, replications, rollbacks, adoptions, redirections and merges (R386 to R399, O57). -/
namespace Sys2Proof

open Machine

variable {s : State} {n d : Nat}

/-- The state in which a die's counts have been sent to the tables (R389). -/
def countsSent (s : State) (d : Nat) : State :=
  let s1 := modDie s d fun x => { x with counts := [] }
  { s1 with xtabs := s1.xtabs.map fun x => countsIn x (dieOf s d).counts }

theorem exec_loadSend (h : sendDue s d = true) :
    exec (.loadSend d) s = .next
      (((countsSent s d).xtabs.filter (intervalOver (countsSent s d))).foldl (fun y x => intervalEnd y (tabKey x))
        (countsSent s d)) :=
  if_pos h

section Replication

variable {x : XTab} {e r sp : Nat}

/-- The LIVE word of a slot that takes a spare's endpoint (R391). -/
def liveWord (x : XTab) (sp : Nat) : W64 :=
  let w := spareW x sp 0
  BitVec.ofNat 64 (2 ^ 62 + sp * 2 ^ 58 + fld w 57 39 * 2 ^ 39 + fld w 38 32 * 2 ^ 32)

theorem exec_replicationCopyDone (hx : tabAt s n = some x) (hc : copyOver s x = some (e, r, sp)) :
    exec (.replicationCopyDone n) s = .next
      (if (putSlot s x e r (liveWord x sp)).2 = .raced then opRaced (putSlot s x e r (liveWord x sp)).1 n (slotVa x e r)
       else publish (putSlot s x e r (liveWord x sp)).1 n) := by
  show execReplicationCopyDone n s = _
  simp only [execReplicationCopyDone, hx, Option.bind_some, hc, Option.map_some]
  rfl

theorem exec_rollback {st a : Nat} (hx : tabAt s n = some x) (hr : rollNow x = some ((e, r, sp), st, a)) :
    let s2 := releaseOwn (putSst (setTab s (opEnd x)) n sp 2).1 x.part (fld (spareW x sp 0) 31 0)
    exec (.rollback n) s = .next (mgmtRecord (modPart s2 x.part fun p => { p with rollbacks := p.rollbacks + 1 })
      .place (placeRec s x 0x90 e r 1 st sp a 0)) := by
  show execRollback n s = _
  simp only [execRollback, hx, Option.bind_some, hr, Option.map_some]

end Replication

section Adoption

variable {x : XTab}

theorem exec_versionAdopt (h : adoptDue s n d false = some x) : exec (.versionAdopt n d) s = .next (adoptAt s n d x) := by
  show execVersionAdopt n d s = _
  simp only [execVersionAdopt, h]

theorem exec_tableAdopt (h : adoptDue s n d true = some x) : exec (.tableAdopt n d) s = .next (adoptAt s n d x) := by
  show execTableAdopt n d s = _
  simp only [execTableAdopt, h]

end Adoption

section Merge

variable {x : XTab} {k : Nat}

/-! A merge runs through the gradients, the retired slots and MERGED, and ends with the first fault (R397). -/

section

variable {s1 s2 : State} {f : Nat × Nat × Nat × Nat} {o : Option (Nat × Nat × Nat × Nat)}

theorem mergeRun_of_gradients (h : mergeAll s x = (s1, some f)) : mergeRun s n x k = (s1, some f) := by
  simp only [mergeRun, h]

theorem mergeRun_of_retired (h : mergeAll s x = (s1, none)) (hf : freeRetired s1 n x = (s2, some f)) :
    mergeRun s n x k = (s2, some f) := by
  simp only [mergeRun, h, hf]

theorem mergeRun_of_merged (h : mergeAll s x = (s1, none)) (hf : freeRetired s1 n x = (s2, none)) :
    mergeRun s n x k = mergedPut s2 n k := by
  simp only [mergeRun, h, hf]

end

/-- The state in which a merge has acquired from the release of its step. -/
def stepAcquired (s : State) (x : XTab) : State :=
  clkAcquire s x.part (Config.holder 1 x.part 0).toNat (.step x.tab) 2 (diePlace 0) none

/-- The state in which the first step of a table has no merge to wait for. -/
def mergeEnded (s : State) (n : Nat) : State :=
  match tabAt s n with
  | some z => setTab s (opEnd { z with steps := z.steps.drop 1 })
  | none => s

section

variable (h : mergeDue s n = some (x, k)) {s1 : State}
include h

theorem exec_gradientMerge_done (hm : mergeRun (stepAcquired s x) n x k = (s1, none)) :
    exec (.gradientMerge n) s = .next (mergeEnded s1 n) := by
  rw [stepAcquired] at hm
  show execGradientMerge n s = _
  simp only [execGradientMerge, h, hm]
  rfl

theorem exec_gradientMerge_fault {e r st a : Nat} (hm : mergeRun (stepAcquired s x) n x k = (s1, some (e, r, st, a))) :
    exec (.gradientMerge n) s =
      .next (mgmtRecord (mergeEnded s1 n) .place (placeRec s x 0x90 e r 3 st 0xFFFF a 0)) := by
  rw [stepAcquired] at hm
  show execGradientMerge n s = _
  simp only [execGradientMerge, h, hm]
  rfl

end

end Merge

/-- Settles O57: each step of the engine does its part where it is due. -/
theorem expertSteps : Obligations.ExpertSteps := by
  unfold Obligations.ExpertSteps
  refine fun s n d => ⟨exec_loadSend, ?copy, fun _ _ _ _ _ _ => exec_rollback, fun _ => exec_versionAdopt,
    fun _ => exec_tableAdopt, rfl, ?merge⟩
  case copy =>
    exact fun x e r sp hx hc => ⟨fun hr => (exec_replicationCopyDone hx hc).trans (congrArg _ (if_neg hr)),
      fun hr => (exec_replicationCopyDone hx hc).trans (congrArg _ (if_pos hr))⟩
  case merge =>
    refine fun x k h => ⟨?gradients, ?retired, ?faulted, ?done⟩
    case gradients => exact fun _ _ _ _ _ hm => exec_gradientMerge_fault h (mergeRun_of_gradients hm)
    case retired => exact fun _ _ _ _ _ _ hm hf => exec_gradientMerge_fault h (mergeRun_of_retired hm hf)
    case faulted => exact fun _ _ _ _ _ _ _ hm hf hp => exec_gradientMerge_fault h ((mergeRun_of_merged hm hf).trans hp)
    case done => exact fun _ _ _ hm hf hp => exec_gradientMerge_done h ((mergeRun_of_merged hm hf).trans hp)

end Sys2Proof
end

section
/-! Host requests (R407): those that are answered at once (O59), and those that take more than one step (O60). -/
namespace Sys2Proof

open Machine

variable {s t : State} {e : BitVec 512} {bad : Bool}

/-! ### The shape of a request -/

/-- A request that is answered at once, with the status and the value that its action gives. -/
theorem reqOnce_answers {act : State → State × Nat × Nat} {st v : Nat} (hb : reqBusy s e = false) (hn : reqBar s e bad = none)
    (ha : act s = (t, st, v)) : reqOnce s e bad act = .next (respond t (reqTag e) st v) := by
  simp only [reqOnce, hb, Bool.false_eq_true, if_false, hn, ha]

section

variable {first : State → State × (Nat ⊕ List Nat)} {more : State → List Nat → State}

/-- A request that is refused, or answered, when it begins. -/
theorem reqLong_answers {st : Nat} (ht : reqTodo s e = none) (hb : reqBusy s e = false) (hn : reqBar s e bad = none)
    (hf : first s = (t, .inl st)) : reqLong s e bad first more = .next (respond t (reqTag e) st 0) := by
  simp only [reqLong, ht, hb, Bool.false_eq_true, if_false, hn, hf]

theorem reqLong_begins {l : List Nat} (ht : reqTodo s e = none) (hb : reqBusy s e = false) (hn : reqBar s e bad = none)
    (hf : first s = (t, .inr l)) : reqLong s e bad first more = .next (reqBegin t e l) := by
  simp only [reqLong, ht, hb, Bool.false_eq_true, if_false, hn, hf]

theorem reqLong_goesOn {l : List Nat} (ht : reqTodo s e = some l) (hm : more s l = t) : reqLong s e bad first more = .next t := by
  simp only [reqLong, ht, hm]

end

/-! ### Partitions and installs (R410, R411) -/

section PartSet

variable (hb : reqBusy s e = false) (hn : reqBar s e (reqReserved e [(8, 8)]) = none)
include hb hn

theorem partSet_held (hr : partRgns s (reqPart e) ≠ []) : exec (.partSet e) s = .next (respond s (reqTag e) 0x11A 0) := by
  show execPartSet e s = _
  rw [execPartSet]
  refine reqOnce_answers hb hn (if_pos ?_)
  simpa only [Bool.not_eq_true', List.isEmpty_eq_false_iff] using hr

variable (hr : partRgns s (reqPart e) = [])
include hr

/-- The descriptor that a PART_SET names. -/
def newDesc (s : State) (e : BitVec 512) : BitVec 2048 := BitVec.ofNat 2048 (physGet s (reqFld e 8 8) 256)

/-- Whether a resource of a descriptor belongs to another partition. -/
def descTaken (s : State) (pn : Nat) (d : BitVec 2048) : Bool :=
  (List.range 16).any fun q => q != pn && (partOf s q).isSet && descsMeet d (partOf s q).desc

theorem partSet_bad (hd : descBad (newDesc s e) = true) : exec (.partSet e) s = .next (respond s (reqTag e) 0x117 0) := by
  rw [newDesc] at hd
  show execPartSet e s = _
  rw [execPartSet]
  refine reqOnce_answers hb hn ?_
  simp only [hr, List.isEmpty_nil, Bool.not_true, Bool.false_eq_true, if_false, hd, if_true]

variable (hd : descBad (newDesc s e) = false)
include hd

theorem partSet_beyond (hm : (descPast (newDesc s e) || descTaken s (reqPart e) (newDesc s e)) = true) :
    exec (.partSet e) s = .next (respond s (reqTag e) 0x109 0) := by
  rw [newDesc] at hd hm
  rw [descTaken] at hm
  show execPartSet e s = _
  rw [execPartSet]
  refine reqOnce_answers hb hn ?_
  simp only [hr, List.isEmpty_nil, Bool.not_true, Bool.false_eq_true, if_false, hd, hm, if_true]

variable (hm : (descPast (newDesc s e) || descTaken s (reqPart e) (newDesc s e)) = false)
include hm

theorem partSet_short (hs : descShort (newDesc s e) = true) :
    exec (.partSet e) s = .next (respond (useFree s) (reqTag e) (openStatus s) 0) := by
  rw [newDesc] at hd hm hs
  rw [descTaken] at hm
  show execPartSet e s = _
  rw [execPartSet]
  refine reqOnce_answers hb hn ?_
  simp only [hr, List.isEmpty_nil, Bool.not_true, Bool.false_eq_true, if_false, hd, hm, hs, if_true]

theorem partSet_writes (hs : descShort (newDesc s e) = false) :
    exec (.partSet e) s = .next (respond (partWrite s (reqPart e) (newDesc s e)) (reqTag e) 0 0) := by
  rw [newDesc] at hd hm hs
  rw [descTaken] at hm
  show execPartSet e s = _
  rw [execPartSet]
  refine reqOnce_answers hb hn ?_
  simp only [hr, List.isEmpty_nil, Bool.not_true, Bool.false_eq_true, if_false, hd, hm, hs]
  rfl

end PartSet

theorem exec_install (hb : reqBusy s e = false) (hn : reqBar s e false = none) :
    exec (.install e) s = .next (respond (installDo s e).1 (reqTag e) (installDo s e).2 0) := by
  show execInstall e s = _
  rw [execInstall]
  exact reqOnce_answers hb hn rfl

/-! ### RESTORE (R380) -/

/-- The save that a RESTORE takes is of its region, and its image stands at the address as it was stored. -/
theorem snapAt_stands {pn id va : Nat} {y : Snap} (h : snapAt s pn id va = some y) :
    y.rgn.part = pn ∧ y.rgn.id = id ∧ imageStands s pn va y = true := by
  have hf : (y.rgn.part == pn && y.rgn.id == id && imageStands s pn va y) = true := by
    obtain h | ⟨-, h⟩ := Option.or_eq_some_iff.1 (Option.orElse_eq_or.symm.trans h)
    · exact (Option.filter_eq_some_iff.1 h).2
    · obtain ⟨x, hx, rfl⟩ := Option.map_eq_some_iff.1 h
      exact List.find?_some (p := fun z : Nat × Snap => z.2.rgn.part == pn && z.2.rgn.id == id && imageStands s pn va z.2) hx
  simpa only [Bool.and_eq_true, beq_iff_eq, and_assoc] using hf

section Restore

variable (hb : reqBusy s e = false) (hn : reqBar s e (reqReserved e [(8, 4), (16, 8), (24, 2)]) = none)
include hb hn

theorem restore_refused {st : Nat} (h : reqRgn s e 8 (· == .saved) = .error st) :
    exec (.restore e) s = .next (respond s (reqTag e) st 0) := by
  show execRestore e s = _
  rw [execRestore]
  exact reqOnce_answers hb hn (by simp only [h])

variable {k : Nat} {r : Region} (h : reqRgn s e 8 (· == .saved) = .ok (k, r))
include h

theorem restore_unsaved (hx : snapAt s r.part r.id (reqFld e 16 8) = none) :
    exec (.restore e) s = .next (respond (useFree s) (reqTag e) (openStatus s) 0) := by
  show execRestore e s = _
  rw [execRestore]
  exact reqOnce_answers hb hn (by simp only [h, hx])

variable {y : Snap} (hx : snapAt s r.part r.id (reqFld e 16 8) = some y)
include hx

theorem restore_fails {er : CfgErr} {l : List CfgErr}
    (he : errSort (restoreErrs s y (reqFld e 24 1) (reqFld e 25 1)) = er :: l) :
    exec (.restore e) s = .next (respond (cfgRecords s r.part r.id (er :: l)) (reqTag e) er.st 0) := by
  show execRestore e s = _
  rw [execRestore]
  exact reqOnce_answers hb hn (by simp only [h, hx, he])

theorem restore_restores (he : errSort (restoreErrs s y (reqFld e 24 1) (reqFld e 25 1)) = []) :
    exec (.restore e) s = .next (respond
      (writeDesc (banksChanged s (putSnap s k y (reqFld e 24 1) (reqFld e 25 1)) r.part) k) (reqTag e) 0 0) := by
  show execRestore e s = _
  rw [execRestore]
  exact reqOnce_answers hb hn (by simp only [h, hx, he])

end Restore

/-! ### APPROVE and PLAN (R377, R382) -/

section Approve

variable (hb : reqBusy s e = false) (hn : reqBar s e (reqReserved e [(8, 6)]) = none)
include hb hn

theorem approve_refused {st : Nat} (h : reqRgn s e 8 (· == .live) = .error st) :
    exec (.approve e) s = .next (respond s (reqTag e) st 0) := by
  show execApprove e s = _
  rw [execApprove]
  exact reqOnce_answers hb hn (by simp only [h])

/-- The proposal that an APPROVE names, of a window that has not ended since. -/
def approvedPlan (e : BitVec 512) (r : Region) : Option Plan :=
  r.proposals.find? fun p => p.num == reqFld e 12 2 && p.window == r.win

variable {k : Nat} {r : Region} (h : reqRgn s e 8 (· == .live) = .ok (k, r))
include h

theorem approve_lapsed (hp : approvedPlan e r = none ∨ r.rewire.isSome = true ∨ r.plans ≠ []) :
    exec (.approve e) s = .next (respond (useFree s) (reqTag e) (openStatus s) 0) := by
  show execApprove e s = _
  rw [execApprove]
  refine reqOnce_answers hb hn ?_
  rw [approvedPlan] at hp
  cases hf : r.proposals.find? fun p => p.num == reqFld e 12 2 && p.window == r.win with
  | none => simp only [h, hf]
  | some p =>
    have hc : (r.rewire.isSome || !r.plans.isEmpty) = true := by
      simpa only [hf, reduceCtorEq, false_or, Bool.or_eq_true, Bool.not_eq_true', List.isEmpty_eq_false_iff] using hp
    simp only [h, hf, hc, if_true]

theorem approve_starts {p : Plan} (hp : approvedPlan e r = some p) (hw : r.rewire = none) (hl : r.plans = []) :
    exec (.approve e) s = .next (respond
      (setRgn s k { r with rewire := some (rewireNew s r p), proposals := r.proposals.filter fun q => q.num != p.num })
      (reqTag e) 0 0) := by
  rw [approvedPlan] at hp
  show execApprove e s = _
  rw [execApprove]
  refine reqOnce_answers hb hn ?_
  simp only [h, hp, hw, hl, Option.isSome_none, List.isEmpty_nil, Bool.not_true, Bool.or_self, Bool.false_eq_true, if_false]

end Approve

section Plan

variable (hb : reqBusy s e = false) (hn : reqBar s e (reqReserved e [(8, 32)]) = none)
include hb hn

theorem plan_refused {st : Nat} (h : reqRgn s e 12 (· == .live) = .error st) :
    exec (.plan e) s = .next (respond s (reqTag e) st 0) := by
  show execPlan e s = _
  rw [execPlan]
  exact reqOnce_answers hb hn (by simp only [h])

variable {k : Nat} {r : Region} (h : reqRgn s e 12 (· == .live) = .ok (k, r))
include h

theorem plan_bad (hp : planBad s e r = true) : exec (.plan e) s = .next (respond s (reqTag e) 0x116 0) := by
  show execPlan e s = _
  rw [execPlan]
  exact reqOnce_answers hb hn (by simp only [h, hp, if_true])

/-- The plan that a PLAN gives a region. -/
def askedPlan (e : BitVec 512) (r : Region) : Plan :=
  { action := reqFld e 8 2, op := reqFld e 16 4, target := reqFld e 20 4, cut := some (reqFld e 24 8), num := 0, armed := false,
    held := false, window := r.win }

theorem plan_joins (hp : planBad s e r = false) :
    exec (.plan e) s = .next (respond (planArm (setRgn s k { r with plans := r.plans ++ [askedPlan e r] }) k) (reqTag e) 0 0) := by
  show execPlan e s = _
  rw [execPlan]
  refine reqOnce_answers hb hn ?_
  simp only [h, hp, Bool.false_eq_true, if_false]
  rfl

end Plan

/-! ### ARM and AGT_RESUME (R263, R379, R381) -/

section Arm

/-- The pages of the area that an ARM names, translated for writing. -/
def armedPages (s : State) (e : BitVec 512) : State × Bool :=
  armPages s (lowDie s) (reqPart e) (reqFld e 16 8 / 4096) (reqFld e 24 8)

variable (hb : reqBusy s e = false) (hn : reqBar s e (reqReserved e [(16, 16)]) = none)
include hb hn

theorem arm_unmapped (h : (armedPages s e).2 = false) :
    exec (.arm e) s = .next (respond (armedPages s e).1 (reqTag e) 0x113 0) := by
  rw [armedPages] at h ⊢
  show execArm e s = _
  rw [execArm]
  refine reqOnce_answers hb hn ?_
  dsimp only
  split
  · next heq => simp only [heq, Bool.true_eq_false] at h
  · next heq => rw [heq]

theorem arm_arms (h : (armedPages s e).2 = true) :
    exec (.arm e) s = .next (respond (armTiles (modPart (armedPages s e).1 (reqPart e) fun p =>
      { p with armed := some (reqFld e 16 8 / 4096 * 4096, reqFld e 24 8), isArmed := true }) (reqPart e)) (reqTag e) 0 0) := by
  rw [armedPages] at h ⊢
  show execArm e s = _
  rw [execArm]
  refine reqOnce_answers hb hn ?_
  dsimp only
  split
  · next heq => rw [heq]
  · next heq => simp only [heq, Bool.false_eq_true] at h

end Arm

section AgtResume

/-- Whether an AGT_RESUME names no walker of its partition. -/
def agtBad (s : State) (e : BitVec 512) : Bool :=
  let x := reqFld e 8 4
  decide (2 ^ 19 ≤ x) || epEk x != 2 || epPort x != 0 || decide (64 ≤ epEn x) || !partPchan (partOf s (reqPart e)) (epAgt x)

theorem agtBad_iff : agtBad s e = true ↔ 2 ^ 19 ≤ reqFld e 8 4 ∨ epEk (reqFld e 8 4) ≠ 2 ∨ epPort (reqFld e 8 4) ≠ 0 ∨
    64 ≤ epEn (reqFld e 8 4) ∨ partPchan (partOf s (reqPart e)) (epAgt (reqFld e 8 4)) = false := by
  simp only [agtBad, Bool.or_eq_true, decide_eq_true_eq, bne_iff_ne, Bool.not_eq_true', or_assoc]

/-- Whether a walker is stalled at a program of a LIVE region. -/
def agtStalled (s : State) (n : Nat) : Bool :=
  decide ((agtOf s n).st = .stalled) && ((agtOf s n).rgn.bind (rgnOf s)).any fun r => r.st == .live

theorem agtStalled_iff {n : Nat} : agtStalled s n = true ↔
    (agtOf s n).st = .stalled ∧ ∃ r, (agtOf s n).rgn.bind (rgnOf s) = some r ∧ r.st = .live := by
  simp only [agtStalled, Bool.and_eq_true, decide_eq_true_eq, Option.any_eq_true, beq_iff_eq]

variable (hb : reqBusy s e = false) (hn : reqBar s e (reqReserved e [(8, 4)]) = none)
include hb hn

theorem agtResumeRequest_bad (h : agtBad s e = true) :
    exec (.agtResumeRequest e) s = .next (respond s (reqTag e) 0x109 0) := by
  show execAgtResumeRequest e s = _
  rw [execAgtResumeRequest]
  exact reqOnce_answers hb hn (if_pos h)

variable (h : agtBad s e = false)
include h

theorem agtResumeRequest_resumes (hl : agtStalled s (epAgt (reqFld e 8 4)) = true) :
    exec (.agtResumeRequest e) s = .next (respond (agtResumeNow s (epAgt (reqFld e 8 4))) (reqTag e) 0 0) := by
  show execAgtResumeRequest e s = _
  rw [execAgtResumeRequest]
  exact reqOnce_answers hb hn ((if_neg (ne_true_of_eq_false h)).trans (if_pos hl))

theorem agtResumeRequest_idle (hl : agtStalled s (epAgt (reqFld e 8 4)) = false) :
    exec (.agtResumeRequest e) s = .next (respond s (reqTag e) 0 0) := by
  show execAgtResumeRequest e s = _
  rw [execAgtResumeRequest]
  exact reqOnce_answers hb hn ((if_neg (ne_true_of_eq_false h)).trans (if_neg (ne_true_of_eq_false hl)))

end AgtResume

/-! ### QLINK and XD_STEP (R396, R412) -/

section Qlink

variable (hb : reqBusy s e = false) (hn : reqBar s e (qlinkReserved e) = none)
include hb hn

theorem qlink_refused {st : Nat} (h : qlinkBad s e = some st) : exec (.qlink e) s = .next (respond s (reqTag e) st 0) := by
  show execQlink e s = _
  rw [execQlink]
  exact reqOnce_answers hb hn (by simp only [h])

variable (h : qlinkBad s e = none)
include h

theorem qlink_taken (ht : qlinkTaken s (epMt (reqFld e 8 4)) (epMt (reqFld e 12 4)) = true) :
    exec (.qlink e) s = .next (respond (useFree s) (reqTag e) (openStatus s) 0) := by
  show execQlink e s = _
  rw [execQlink]
  exact reqOnce_answers hb hn (by simp only [h, ht, if_true])

/-- Two memory tiles linked. -/
def linked (s : State) (a b : Nat) : State :=
  let s1 := setMTile s a { mtileOf s a with link := some b, unlinking := false }
  setMTile s1 b { mtileOf s1 b with feeder := some a }

theorem qlink_links (ht : qlinkTaken s (epMt (reqFld e 8 4)) (epMt (reqFld e 12 4)) = false) :
    exec (.qlink e) s = .next (respond (linked s (epMt (reqFld e 8 4)) (epMt (reqFld e 12 4))) (reqTag e) 0 0) := by
  show execQlink e s = _
  rw [execQlink]
  refine reqOnce_answers hb hn ?_
  simp only [h, ht, Bool.false_eq_true, if_false]
  rfl

end Qlink

section XdStep

variable (hb : reqBusy s e = false) (hn : reqBar s e (reqReserved e [(8, 1)] || decide (64 ≤ reqFld e 8 1)) = none)
include hb hn

theorem xdStep_missing (h : tabAt s (xdKey e) = none) :
    exec (.xdStep e) s = .next (respond (useFree s) (reqTag e) (openStatus s) 0) := by
  show execXdStep e s = _
  rw [execXdStep]
  exact reqOnce_answers hb hn (by simp only [h])

variable {x : XTab} (h : tabAt s (xdKey e) = some x)
include h

theorem xdStep_alone (hd : doorOf s reqRingNo (s.host.reqCI - 1) = none) :
    exec (.xdStep e) s = .next (respond (stepEnd s x (2 ^ 30) 0) (reqTag e) 0 (x.step + 1)) := by
  show execXdStep e s = _
  rw [execXdStep]
  exact reqOnce_answers hb hn (by simp only [h, hd])

theorem xdStep_released {pi : Nat} (hd : doorOf s reqRingNo (s.host.reqCI - 1) = some pi) :
    exec (.xdStep e) s = .next (respond
      (stepEnd (clkJoin s x.part (.door reqRingNo pi) (.step x.tab) (diePlace 0)) x (2 ^ 30) 0) (reqTag e) 0 (x.step + 1)) := by
  show execXdStep e s = _
  rw [execXdStep]
  exact reqOnce_answers hb hn (by simp only [h, hd])

end XdStep

/-! ### ATTEST (R416) -/

/-- Bytes written to memory one after the other from an address. -/
def bytesWritten (m : SMap Byte) (a : Nat) (l : List Byte) : SMap Byte := l.zipIdx.foldl (fun m x => byteSet m (a + x.2) x.1) m

theorem byteGet_foldl_byteSet_other {l : List Byte} {m : SMap Byte} {a k c : Nat} (hm : memWf m = true)
    (hc : c < a + k ∨ a + k + l.length ≤ c) :
    byteGet ((l.zipIdx k).foldl (fun m x => byteSet m (a + x.2) x.1) m) c = byteGet m c := by
  induction l generalizing m k with
  | nil => rfl
  | cons b l ih =>
    rw [List.length_cons] at hc
    rw [List.zipIdx_cons, List.foldl_cons, ih (memWf_byteSet m (a + k) b hm) (by omega),
      byteGet_set_other m (a + k) c b (by omega) hm]

theorem byteGet_bytesWritten_other {l : List Byte} {m : SMap Byte} {a c : Nat} (hm : memWf m = true)
    (hc : c < a ∨ a + l.length ≤ c) : byteGet (bytesWritten m a l) c = byteGet m c :=
  byteGet_foldl_byteSet_other (k := 0) hm hc

theorem length_attestSigned_report {nonce leaf : Nat} : (attestSigned (attestReport s nonce) leaf).length = attestBytes := by
  simp only [attestSigned, attestReport, List.length_append, List.length_map, List.length_range, attestBytes]

section Attest

/-- The state in which the leaf counter has advanced and the signed report stands in memory. -/
def attestDone (s : State) (e : BitVec 512) : State :=
  { modHost s fun h => { h with leaf := s.host.leaf + 1, attested := true } with
    mem := bytesWritten s.mem (reqFld e 24 8) (attestSigned (attestReport s (reqFld e 16 8)) s.host.leaf) }

theorem attestDone_mem : (attestDone s e).mem =
    bytesWritten s.mem (reqFld e 24 8) (attestSigned (attestReport s (reqFld e 16 8)) s.host.leaf) := by
  simp only [attestDone]

theorem byteGet_attestDone_other {c : Nat} (hm : memWf s.mem = true)
    (hc : c < reqFld e 24 8 ∨ reqFld e 24 8 + attestBytes ≤ c) : byteGet (attestDone s e).mem c = byteGet s.mem c := by
  rw [← length_attestSigned_report (s := s) (nonce := reqFld e 16 8) (leaf := s.host.leaf)] at hc
  rw [attestDone_mem, byteGet_bytesWritten_other hm hc]

variable (hb : reqBusy s e = false) (hn : reqBar s e (reqReserved e [(16, 8), (24, 8)]) = none)
include hb hn

theorem attest_spent (h : 2 ^ 20 ≤ s.host.leaf) : exec (.attest e) s = .next (respond s (reqTag e) 0x119 0) := by
  show execAttest e s = _
  rw [execAttest]
  exact reqOnce_answers hb hn (if_pos h)

theorem attest_reports (h : s.host.leaf < 2 ^ 20) :
    exec (.attest e) s = .next (respond (attestDone s e) (reqTag e) 0 attestBytes) := by
  show execAttest e s = _
  rw [execAttest]
  exact reqOnce_answers hb hn (if_neg (Nat.not_le.2 h))

end Attest

/-- Settles O59: each request that is answered at once. -/
theorem requestsAtOnce : Obligations.RequestsAtOnce := by
  unfold Obligations.RequestsAtOnce
  refine fun s e hb => ⟨?partSet, exec_install hb, ?restore, ?approve, ?plan, ?arm, ?agt, ?qlink, ?step, ?attest⟩
  case partSet =>
    exact fun hn => ⟨partSet_held hb hn, partSet_bad hb hn, partSet_beyond hb hn, partSet_short hb hn, partSet_writes hb hn⟩
  case restore =>
    exact fun hn => ⟨fun _ => restore_refused hb hn, fun k r h => ⟨restore_unsaved hb hn h, fun _ => snapAt_stands,
      fun _ _ _ hx => restore_fails hb hn h hx, fun _ => restore_restores hb hn h⟩⟩
  case approve =>
    exact fun hn => ⟨fun _ => approve_refused hb hn, fun k r h => ⟨approve_lapsed hb hn h, fun _ => approve_starts hb hn h⟩⟩
  case plan =>
    exact fun hn => ⟨fun _ => plan_refused hb hn, fun k r h => ⟨plan_bad hb hn h, plan_joins hb hn h⟩⟩
  case arm => exact fun hn => ⟨arm_unmapped hb hn, arm_arms hb hn⟩
  case agt =>
    refine fun hn => ⟨fun h => agtResumeRequest_bad hb hn (agtBad_iff.2 h), fun h hl => ?_, fun h hl => ?_⟩
    · exact agtResumeRequest_resumes hb hn (Bool.eq_false_iff.2 (mt agtBad_iff.1 h)) (agtStalled_iff.2 hl)
    · exact agtResumeRequest_idle hb hn (Bool.eq_false_iff.2 (mt agtBad_iff.1 h)) (Bool.eq_false_iff.2 (mt agtStalled_iff.1 hl))
  case qlink => exact fun hn => ⟨fun _ => qlink_refused hb hn, qlink_taken hb hn, qlink_links hb hn⟩
  case step =>
    exact fun hn => ⟨fun x h => ⟨xdStep_alone hb hn h, fun _ => xdStep_released hb hn h⟩, xdStep_missing hb hn⟩
  case attest =>
    exact fun hn => ⟨attest_spent hb hn, fun h => ⟨attestDone s e, attest_reports hb hn h, rfl, rfl, rfl,
      fun _ hc hm => byteGet_attestDone_other hm hc⟩⟩

end Sys2Proof
end

section
/-! Host requests that take more than one step (R374 to R376, R378, R379, R381, R386, R390, R407, R412, O60). -/
namespace Sys2Proof

open Machine

variable {s : State} {e : BitVec 512} {k : Nat} {r : Region}

/-! ### Requests that begin -/

section Begins

variable (ht : reqTodo s e = none) (hb : reqBusy s e = false)
include ht hb

section Regions

variable (hn : reqBar s e (reqReserved e [(8, 4)]) = none)
include hn

/-! RELEASE (R374) -/

theorem release_refused {st : Nat} (h : reqRgn s e 8 (fun _ => true) = .error st) :
    exec (.release e) s = .next (respond s (reqTag e) st 0) := by
  show execRelease e s = _
  rw [execRelease]
  exact reqLong_answers ht hb hn (by simp only [h])

theorem release_begins (h : reqRgn s e 8 (fun _ => true) = .ok (k, r)) (hr : r.st ≠ .saved) :
    exec (.release e) s = .next (reqBegin (releaseStart (stopOvertaken s k r) k) e [0]) := by
  show execRelease e s = _
  rw [execRelease]
  exact reqLong_begins ht hb hn (by simp only [h, if_neg hr])

theorem release_saved (h : reqRgn s e 8 (fun _ => true) = .ok (k, r)) (hr : r.st = .saved) :
    exec (.release e) s = .next (respond (savedEnd s k r) (reqTag e) 0 0) := by
  show execRelease e s = _
  rw [execRelease]
  exact reqLong_answers ht hb hn (by simp only [h, if_pos hr])

/-! SWAP (R381) -/

theorem swap_refused {st : Nat} (h : reqRgn s e 8 (· != .saved) = .error st) :
    exec (.swap e) s = .next (respond s (reqTag e) st 0) := by
  show execSwap e s = _
  rw [execSwap]
  exact reqLong_answers ht hb hn (by simp only [h])

theorem swap_begins {x : Nat × Region} (h : reqRgn s e 8 (· != .saved) = .ok x) (ha : (partOf s (reqPart e)).isArmed = true) :
    exec (.swap e) s = .next (reqBegin s e [0]) := by
  show execSwap e s = _
  rw [execSwap]
  exact reqLong_begins ht hb hn (by simp only [h, ha, if_true])

theorem swap_unarmed {x : Nat × Region} (h : reqRgn s e 8 (· != .saved) = .ok x) (ha : (partOf s (reqPart e)).isArmed = false) :
    exec (.swap e) s = .next (respond (useFree s) (reqTag e) (openStatus s) 0) := by
  show execSwap e s = _
  rw [execSwap]
  exact reqLong_answers ht hb hn (by simp only [h, ha, Bool.false_eq_true, if_false])

/-! RESUME (R378) -/

theorem resume_refused {st : Nat} (h : reqRgn s e 8 stLiveFrozen = .error st) :
    exec (.resume e) s = .next (respond s (reqTag e) st 0) := by
  show execResume e s = _
  rw [execResume]
  exact reqLong_answers ht hb hn (by simp only [h])

theorem resume_live (h : reqRgn s e 8 stLiveFrozen = .ok (k, r)) (hl : r.st = .live) (hp : r.stopAt = none) :
    exec (.resume e) s = .next (respond s (reqTag e) 0 0) := by
  show execResume e s = _
  rw [execResume]
  exact reqLong_answers ht hb hn (by simp only [h, hl, hp, decide_true, Option.isNone_none, Bool.and_self, if_true])

theorem resume_begins (h : reqRgn s e 8 stLiveFrozen = .ok (k, r)) (hr : r.st = .frozen ∨ r.stopAt ≠ none) :
    exec (.resume e) s = .next (reqBegin s e [0]) := by
  have hc : (decide (r.st = .live) && r.stopAt.isNone) = false := by
    obtain hr | hr := hr
    · simp only [hr, reduceCtorEq, decide_false, Bool.false_and]
    · rw [Option.isNone_eq_false_iff.2 (Option.isSome_iff_ne_none.2 hr), Bool.and_false]
  show execResume e s = _
  rw [execResume]
  exact reqLong_begins ht hb hn (by simp only [h, hc, Bool.false_eq_true, if_false])

end Regions

/-! SHRINK (R375) -/

section Shrink

variable (hn : reqBar s e (reqReserved e [(8, 4), (16, 8)]) = none)
include hn

theorem shrink_refused {st : Nat} (h : reqRgn s e 8 (· == .live) = .error st) :
    exec (.shrink e) s = .next (respond s (reqTag e) st 0) := by
  show execShrink e s = _
  rw [execShrink]
  exact reqLong_answers ht hb hn (by simp only [h])

variable {ts : List Nat} (h : reqRgn s e 8 (· == .live) = .ok (k, r)) (hs : shrinkSet s e k = .ok ts)
include h hs

theorem shrink_begins (hc : shrinkCovers s r ts = true) :
    exec (.shrink e) s = .next (reqBegin (preempt s k) e (0 :: 0 :: ts)) := by
  show execShrink e s = _
  rw [execShrink]
  exact reqLong_begins ht hb hn (by simp only [h, hs, hc, if_true])

theorem shrink_uncovered (hc : shrinkCovers s r ts = false) :
    exec (.shrink e) s = .next (respond s (reqTag e) 0x112 0) := by
  show execShrink e s = _
  rw [execShrink]
  exact reqLong_answers ht hb hn (by simp only [h, hs, hc, Bool.false_eq_true, if_false])

end Shrink

/-! DRAIN_SAVE and FULL_SAVE (R376, R379) -/

section Saves

variable (hn : reqBar s e (saveReserved e) = none)
include hn

theorem drainSave_refused {st : Nat} (h : reqRgn s e 8 stLiveFrozen = .error st) :
    exec (.drainSave e) s = .next (respond s (reqTag e) st 0) := by
  show execDrainSave e s = _
  rw [execDrainSave]
  exact reqLong_answers ht hb hn (by simp only [h])

theorem fullSave_refused {st : Nat} (h : reqRgn s e 8 stLiveFrozen = .error st) :
    exec (.fullSave e) s = .next (respond s (reqTag e) st 0) := by
  show execFullSave e s = _
  rw [execFullSave]
  exact reqLong_answers ht hb hn (by simp only [h])

variable (h : reqRgn s e 8 stLiveFrozen = .ok (k, r))
include h

section

variable (hp : areaPinned (partOf s (reqPart e)) (reqFld e 16 8) = false)
include hp

theorem drainSave_unpinned : exec (.drainSave e) s = .next (respond s (reqTag e) 0x113 0) := by
  show execDrainSave e s = _
  rw [execDrainSave]
  exact reqLong_answers ht hb hn (by simp only [h, hp, Bool.not_false, if_true])

theorem fullSave_unpinned : exec (.fullSave e) s = .next (respond s (reqTag e) 0x113 0) := by
  show execFullSave e s = _
  rw [execFullSave]
  exact reqLong_answers ht hb hn (by simp only [h, hp, Bool.not_false, if_true])

end

variable (hp : areaPinned (partOf s (reqPart e)) (reqFld e 16 8) = true)
include hp

theorem fullSave_begins : exec (.fullSave e) s = .next (reqBegin (saveBegin s k r).1 e (saveBegin s k r).2) := by
  show execFullSave e s = _
  rw [execFullSave]
  exact reqLong_begins ht hb hn (by simp only [h, hp, Bool.not_true, Bool.false_eq_true, if_false])

theorem drainSave_begins_save (hr : r.st = .frozen) :
    exec (.drainSave e) s = .next (reqBegin (saveBegin s k r).1 e (saveBegin s k r).2) := by
  show execDrainSave e s = _
  rw [execDrainSave]
  exact reqLong_begins ht hb hn (by simp only [h, hp, Bool.not_true, Bool.false_eq_true, if_false, if_pos hr])

theorem drainSave_begins_drain (hr : r.st ≠ .frozen) : exec (.drainSave e) s = .next (reqBegin s e [0]) := by
  show execDrainSave e s = _
  rw [execDrainSave]
  exact reqLong_begins ht hb hn (by simp only [h, hp, Bool.not_true, Bool.false_eq_true, if_false, if_neg hr])

end Saves

/-! INVAL and the unlink of a QLINK (R257, R412) -/

theorem inval_begins (hn : reqBar s e (reqReserved e [(16, 16)]) = none) :
    exec (.inval e) s = .next (reqBegin (dropTlbs s (reqPart e) (reqFld e 16 8 / 4096) (reqFld e 24 8)) e
      ((s.walks.filter fun w => w.part == reqPart e).map (·.id))) := by
  show execInval e s = _
  rw [execInval]
  exact reqLong_begins ht hb hn rfl

section Unlink

variable (hn : reqBar s e (qlinkReserved e) = none)
include hn

theorem qlinkUnlink_refused {st : Nat} (h : qlinkBad s e = some st) :
    exec (.qlinkUnlink e) s = .next (respond s (reqTag e) st 0) := by
  show execQlinkUnlink e s = _
  rw [execQlinkUnlink]
  exact reqLong_answers ht hb hn (by simp only [h])

variable (h : qlinkBad s e = none)
include h

theorem qlinkUnlink_unlinked (hl : (mtileOf s (epMt (reqFld e 8 4))).link = none) :
    exec (.qlinkUnlink e) s = .next (respond s (reqTag e) 0 0) := by
  show execQlinkUnlink e s = _
  rw [execQlinkUnlink]
  exact reqLong_answers ht hb hn (by simp only [h, hl])

theorem qlinkUnlink_begins (hl : (mtileOf s (epMt (reqFld e 8 4))).link = some (epMt (reqFld e 12 4))) :
    exec (.qlinkUnlink e) s = .next (reqBegin
      (setMTile s (epMt (reqFld e 8 4)) { mtileOf s (epMt (reqFld e 8 4)) with unlinking := true }) e [0]) := by
  show execQlinkUnlink e s = _
  rw [execQlinkUnlink]
  exact reqLong_begins ht hb hn (by simp only [h, hl, if_true])

end Unlink

/-! XD_TABLE (R386) -/

section XdTable

variable (hn : reqBar s e (xdReserved e) = none)
include hn

theorem xdTable_refused (h : (tabAt s (xdKey e)).isSome = true ∨ reqFld e 16 8 % 4096 ≠ 0 ∨
    tabRead s (reqPart e) (reqFld e 16 8) = none) : exec (.xdTable e) s = .next (respond s (reqTag e) 0x120 0) := by
  show execXdTable e s = _
  rw [execXdTable]
  refine reqLong_answers ht hb hn ?_
  dsimp only
  split
  · rfl
  · next hc =>
    have hm : tabRead s (reqPart e) (reqFld e 16 8) = none := by
      obtain h | h | h := h
      · simp only [h, Bool.true_or, not_true] at hc
      · simp only [bne_iff_ne.2 h, Bool.or_true, Bool.true_or, not_true] at hc
      · exact h
    simp only [hm]

/-- The table that an XD_TABLE names, as its header and records stand in memory. -/
def askedTable (s : State) (e : BitVec 512) (h w : SMap W64) : XTab :=
  tabNew s (reqPart e) (reqFld e 8 1) (reqFld e 16 8) h w

section

variable {h w : SMap W64} (hk : tabAt s (xdKey e) = none) (ha : reqFld e 16 8 % 4096 = 0) (hv : reqFld e 16 8 < 2 ^ 48)
  (hm : tabRead s (reqPart e) (reqFld e 16 8) = some (h, w))
include hk ha hv hm

theorem xdTable_bad (hx : tabBad s (reqPart e) (askedTable s e h w) = true) :
    exec (.xdTable e) s = .next (respond s (reqTag e) 0x120 0) := by
  rw [askedTable] at hx
  show execXdTable e s = _
  rw [execXdTable]
  refine reqLong_answers ht hb hn ?_
  simp only [hk, ha, Option.isSome_none, bne_self_eq_false, Bool.or_self, decide_eq_false (Nat.not_le.2 hv), Bool.false_eq_true,
    if_false, hm, hx, if_true]

theorem xdTable_begins (hx : tabBad s (reqPart e) (askedTable s e h w) = false) :
    exec (.xdTable e) s = .next (reqBegin
      { (toDies s).1 with
        xtabs := (toDies s).1.xtabs ++ [{ askedTable s e h w with adopting := (toDies s).2, regOf := some (reqPart e, reqTag e) }] }
      e [0]) := by
  rw [askedTable] at hx ⊢
  show execXdTable e s = _
  rw [execXdTable]
  refine reqLong_begins ht hb hn ?_
  simp only [hk, ha, Option.isSome_none, bne_self_eq_false, Bool.or_self, decide_eq_false (Nat.not_le.2 hv), Bool.false_eq_true,
    if_false, hm, hx]

end

theorem xdTableRemove_begins (h : (tabAt s (xdKey e)).isSome = true) :
    exec (.xdTableRemove e) s = .next (reqBegin s e [0]) := by
  show execXdTableRemove e s = _
  rw [execXdTableRemove]
  exact reqLong_begins ht hb hn (if_pos h)

end XdTable

/-! XD_PUBLISH (R390) -/

section XdPublish

variable (hn : reqBar s e (reqReserved e [(8, 1)] || decide (64 ≤ reqFld e 8 1)) = none)
include hn

theorem xdPublish_begins {x : XTab} (h : tabAt s (xdKey e) = some x) (hx : tabHost x = true) :
    exec (.xdPublish e) s = .next (reqBegin s e [0]) := by
  show execXdPublish e s = _
  rw [execXdPublish]
  exact reqLong_begins ht hb hn (by simp only [h, hx, if_true])

theorem xdPublish_refused (h : ∀ x, tabAt s (xdKey e) = some x → tabHost x = false) :
    exec (.xdPublish e) s = .next (respond s (reqTag e) 0x120 0) := by
  show execXdPublish e s = _
  rw [execXdPublish]
  refine reqLong_answers ht hb hn ?_
  cases hx : tabAt s (xdKey e) with
  | none => rfl
  | some x => simp only [h x hx, Bool.false_eq_true, if_false]

end XdPublish

end Begins

/-- What the release of a SAVED region leaves: without its save, and without the packets that waited at the tiles of the save
(R393). -/
theorem savedEnd_of_image {va : Nat} (h : r.image = some va) :
    savedEnd s k r =
      let a := r.part * 2 ^ 52 + va
      let s1 := (((mapFind s.saves a).map fun x => x.tiles).getD []).foldl (dropAll r.part r.id) s
      { s1 with rgns := mapDel s1.rgns k, saves := mapDel s1.saves a } := by
  simp only [savedEnd, h, Option.map_some]

/-! ### Requests under way -/

section GoesOn

variable {l : List Nat} (ht : reqTodo s e = some l)
include ht

section

variable (hr : rgnOf s (reqKey e) = some r) (hq : releaseReady s (reqKey e) = true)
include hr hq

theorem release_ends (hl : l ≠ [1]) : exec (.release e) s = .next (reqEnd (releaseEnd s (reqKey e) r) e 0 0) := by
  show execRelease e s = _
  rw [execRelease]
  exact reqLong_goesOn ht (by simp only [hr, hq, if_true, beq_eq_false_iff_ne.2 hl, Bool.false_eq_true, if_false])

/-- A release that the placement engine has asked for ends without a response (R398). -/
theorem release_ends_own (hl : l = [1]) : exec (.release e) s = .next (reqDrop (releaseEnd s (reqKey e) r) e) := by
  show execRelease e s = _
  rw [execRelease]
  exact reqLong_goesOn ht (by simp only [hr, hq, if_true, hl, beq_self_eq_true])

end

section

variable (hr : rgnOf s (reqKey e) = some r) (hf : r.st = .frozen) (hd : r.drain = none) (hw : recordsWritten s (reqKey e) = true)
include hr hf hd hw

theorem resume_ends (hv : rgnRecovers s (reqKey e) = true) :
    exec (.resume e) s = .next (reqEnd (resumeRegion s (reqKey e)) e 0 0) := by
  show execResume e s = _
  rw [execResume]
  exact reqLong_goesOn ht (by
    simp only [hr, hf, hd, hw, hv, reduceCtorEq, decide_false, Option.isSome_none, Bool.not_true, Bool.or_self, Bool.false_eq_true,
      if_false, if_true])

theorem resume_fails (hv : rgnRecovers s (reqKey e) = false) : exec (.resume e) s = .next (reqEnd s e 0x115 0) := by
  show execResume e s = _
  rw [execResume]
  exact reqLong_goesOn ht (by
    simp only [hr, hf, hd, hw, hv, reduceCtorEq, decide_false, Option.isSome_none, Bool.not_true, Bool.or_self, Bool.false_eq_true,
      if_false])

end

theorem shrink_ends (hr : rgnOf s (reqKey e) = some r) (hl : r.st = .live) (hw : r.rewire = none) (hp : r.plans = [])
    (hd : r.drain = none) (hs : r.stopAt = none) (hn : shrinkNext r (l.drop 2) = none) :
    exec (.shrink e) s = .next (reqEnd s e (if (shrinkOps r (l.drop 2)).isEmpty then 0 else 0x112) 0) := by
  show execShrink e s = _
  rw [execShrink]
  exact reqLong_goesOn ht (by
    simp only [hr, hl, hw, hp, hd, hs, hn, bne_self_eq_false, Option.isSome_none, List.isEmpty_nil, Bool.not_true, Bool.or_self,
      Bool.false_eq_true, if_false])

theorem swap_stops {m : List Nat} (hl : l = 0 :: m)
    (h : ∀ x, x ∈ partRgns s (reqPart e) → x.2.drain = none ∧ x.2.releasing = none ∧ rewireEnds x.2 = false) :
    exec (.swap e) s = .next
      (reqSet (swapStops (modPart s (reqPart e) fun p => { p with swap := some (s.cyc, reqTag e) }) (reqPart e)) e [1]) := by
  have hc : ((partRgns s (reqPart e)).any fun x => x.2.drain.isSome || x.2.releasing.isSome || rewireEnds x.2) = false := by
    refine List.any_eq_false.2 fun x hx => ?_
    obtain ⟨hd, hr, hw⟩ := h x hx
    simp only [hd, hr, hw, Option.isSome_none, Bool.or_self, Bool.false_eq_true, not_false_eq_true]
  show execSwap e s = _
  rw [execSwap]
  exact reqLong_goesOn ht (by simp only [hl, hc, Bool.false_eq_true, if_false])

theorem drainSave_drains {m : List Nat} (hl : l = 0 :: m) (hr : rgnOf s (reqKey e) = some r) (hs : r.st = .live)
    (hd : r.drain = none) (hw : rewireEnds r = false) :
    exec (.drainSave e) s =
      .next (reqSet (setRgn s (reqKey e) { r with drain := some (saveDrain s e) }) e [2]) := by
  show execDrainSave e s = _
  rw [execDrainSave]
  exact reqLong_goesOn ht (by
    simp only [hl, hr, hs, hd, hw, reduceCtorEq, if_false, Option.isSome_none, Bool.or_self, Bool.false_eq_true])

section FullSave

theorem fullSave_goesOn : exec (.fullSave e) s = .next (fullMore s e) := by
  show execFullSave e s = _
  rw [execFullSave]
  exact reqLong_goesOn ht rfl

/-- A DRAIN_SAVE whose drain is over, or was not needed, goes on as a full save. -/
theorem drainSave_goesOn {c : Nat} {m : List Nat} (hl : l = c :: m) (h0 : c ≠ 0) (h2 : c ≠ 2) :
    exec (.drainSave e) s = .next (fullMore s e) := by
  show execDrainSave e s = _
  rw [execDrainSave]
  refine reqLong_goesOn ht ?_
  subst hl
  dsimp only
  split
  · next heq => exact absurd (List.cons.inj heq).1 h0
  · next heq => exact absurd (List.cons.inj heq).1 h2
  · rfl

variable (hr : rgnOf s (reqKey e) = some r)
include hr

/-- A full save is taken once nothing that the region has issued is under way. -/
theorem fullMore_saves (hl : l ≠ [3]) (hd : r.drain = none) (ho : opsSettled s (reqKey e) = true) :
    let x := saveMake s (reqKey e) (reqFld e 16 8) true false ((reqFld e 24 1).testBit 0)
    fullMore s e = saveAnswer x.1 (reqPart e) (reqTag e) x.2 := by
  intro x
  have h3 : reqTodo s e ≠ some [3] := fun h => hl (Option.some.inj (ht.symm.trans h))
  simp only [fullMore, hr, if_neg h3, hd, ho, Option.isNone_none, Bool.and_self, if_true]
  rfl

/-- A full save that waited for a rewire begins once the rewire is complete. -/
theorem fullMore_begins (hl : l = [3]) (hw : rewireEnds r = false) :
    fullMore s e = reqSet (saveBegin s (reqKey e) r).1 e (saveBegin s (reqKey e) r).2 := by
  have h3 : reqTodo s e = some [3] := hl ▸ ht
  simp only [fullMore, hr, if_pos h3, hw, Bool.false_eq_true, if_false]

end FullSave

theorem inval_ends (h : ∀ w, w ∈ s.walks → w.id ∉ l) :
    exec (.inval e) s = .next (reqEnd (dropTlbs s (reqPart e) (reqFld e 16 8 / 4096) (reqFld e 24 8)) e 0 0) := by
  have hc : (s.walks.any fun w => l.contains w.id) = false :=
    List.any_eq_false.2 fun w hw => by simpa only [List.contains_iff_mem] using h w hw
  show execInval e s = _
  rw [execInval]
  exact reqLong_goesOn ht (if_neg (ne_true_of_eq_false hc))

theorem qlinkUnlink_ends (h : (mtileOf s (epMt (reqFld e 8 4))).crossing = []) :
    exec (.qlinkUnlink e) s = .next (reqEnd (setMTile s (epMt (reqFld e 8 4))
      { mtileOf s (epMt (reqFld e 8 4)) with link := none, unlinking := false }) e 0 0) := by
  show execQlinkUnlink e s = _
  rw [execQlinkUnlink]
  exact reqLong_goesOn ht (by simp only [h, List.isEmpty_nil, if_true])

/-- The state in which a table is gone from the engine and from every die. -/
def tableGone (s : State) (k : Nat) : State :=
  { s with
    xtabs := s.xtabs.filter (fun x => tabKey x != k),
    dies := s.dies.map fun d =>
      { d with tabs := d.tabs.filter (fun a => !(a.part * 64 + a.tab == k)), counts := d.counts.filter fun c => !(c.1 * 64 + c.2.1 == k) } }

omit ht in
theorem tabAt_tableGone : tabAt (tableGone s k) k = none := by
  simp only [tabAt, tableGone, List.find?_eq_none, List.mem_filter, bne_iff_ne, beq_iff_eq]
  exact fun _ h => h.2

theorem xdTableRemove_ends {c : Nat} {m : List Nat} (hl : l = c :: m) (h0 : c ≠ 0) (hc : c ≤ s.cyc) :
    exec (.xdTableRemove e) s = .next (reqEnd (tableGone s (xdKey e)) e 0 0) := by
  obtain ⟨c, rfl⟩ := Nat.exists_eq_succ_of_ne_zero h0
  show execXdTableRemove e s = _
  rw [execXdTableRemove]
  refine reqLong_goesOn ht ?_
  simp only [hl, hc, if_true]
  rfl

section Publish

/-- Whether a publish waits: an operation runs on the table, or the engine has no room for the publish. -/
def publishHeld (s : State) (x : XTab) : Bool :=
  x.op != 0 || !x.adopting.isEmpty || !placeRoom s x.part 1 || recWaits s .place

omit ht in
theorem publishHeld_eq_false {x : XTab} (hp : x.op = 0) (ha : x.adopting = []) (hm : placeRoom s x.part 1 = true)
    (hw : recWaits s .place = false) : publishHeld s x = false := by
  simp only [publishHeld, hp, ha, hm, hw, bne_self_eq_false, List.isEmpty_nil, Bool.not_true, Bool.or_self]

variable {m : List Nat} {x : XTab} (hl : l = 0 :: m) (hx : tabAt s (xdKey e) = some x) (hc : publishHeld s x = false)
include hl hx hc

theorem xdPublish_unreadable (h : tabRead s x.part x.va = none) : exec (.xdPublish e) s = .next (reqEnd s e 0x120 0) := by
  rw [publishHeld] at hc
  show execXdPublish e s = _
  rw [execXdPublish]
  exact reqLong_goesOn ht (by simp only [hl, hx, hc, h, Bool.false_eq_true, if_false])

variable {h w : SMap W64} (hv : tabRead s x.part x.va = some (h, w))
include hv

theorem xdPublish_bad (hk : publishOk x { x with hdr := h, recs := w } = false) :
    exec (.xdPublish e) s = .next (reqEnd s e 0x120 0) := by
  rw [publishHeld] at hc
  show execXdPublish e s = _
  rw [execXdPublish]
  exact reqLong_goesOn ht (by simp only [hl, hx, hc, hv, hk, Bool.false_eq_true, if_false])

variable (hk : publishOk x { x with hdr := h, recs := w } = true)
include hk

/-- The changed records of a table written as they stand in memory. -/
def recsPublished (s : State) (x : XTab) (h w : SMap W64) : State × Bool :=
  publishRecs s { x with hdr := h, recs := w } (changedRecs x { x with hdr := h, recs := w })

theorem xdPublish_raced (hr : (recsPublished s x h w).2 = false) :
    exec (.xdPublish e) s = .next (reqEnd (recsPublished s x h w).1 e 0x120 0) := by
  rw [recsPublished] at hr
  rw [publishHeld] at hc
  show execXdPublish e s = _
  rw [execXdPublish]
  refine reqLong_goesOn ht ?_
  simp only [hl, hx, hc, hv, hk, hr, Bool.false_eq_true, if_false, if_true]
  rfl

/-- The spares of the slots that a publish makes LIVE. -/
def sparesTaken (x : XTab) (h w : SMap W64) : List Nat :=
  (newSlots x { x with hdr := h, recs := w }).map fun i => fld (slotW { x with hdr := h, recs := w } (i / 8) (i % 8)) 61 58

theorem xdPublish_publishes (hr : (recsPublished s x h w).2 = true) :
    exec (.xdPublish e) s = .next (publishBack (reqSet (publish (publishSpares
      (setTab (recsPublished s x h w).1 { x with recs := w, pubs := some (x.part, reqTag e) }) (xdKey e) (sparesTaken x h w))
        (xdKey e)) e [1]) (xdKey e) x.recs) := by
  rw [recsPublished] at hr
  rw [publishHeld] at hc
  show execXdPublish e s = _
  rw [execXdPublish]
  refine reqLong_goesOn ht ?_
  simp only [hl, hx, hc, hv, hk, hr, Bool.false_eq_true, if_false, if_true]
  rfl

end Publish

end GoesOn

/-- Settles O60: each request that takes more than one step begins, is refused, goes on or ends. -/
theorem requestsThatWait : Obligations.RequestsThatWait := by
  unfold Obligations.RequestsThatWait
  refine ⟨fun s e ht hb => ⟨?regions, ?shrink, ?save, inval_begins ht hb, ?unlink, ?table, ?publish⟩,
    fun s e l ht => ⟨?release, ?resume, fun r hr hl hw hp hd hs => shrink_ends ht hr hl hw hp hd hs, fun m hl => swap_stops ht hl,
      fun r m hl hr => drainSave_drains ht hl hr, ?saves, ?waited, inval_ends ht, qlinkUnlink_ends ht, ?removed, ?published⟩⟩
  case regions =>
    exact fun hn => ⟨fun _ => release_refused ht hb hn, fun _ _ => release_begins ht hb hn,
      fun _ _ h hr => ⟨release_saved ht hb hn h hr, fun _ => savedEnd_of_image⟩, fun _ => swap_refused ht hb hn,
      fun _ => swap_begins ht hb hn, fun _ => swap_unarmed ht hb hn, fun _ => resume_refused ht hb hn,
      fun _ _ h => ⟨resume_live ht hb hn h, resume_begins ht hb hn h⟩⟩
  case shrink =>
    exact fun hn => ⟨fun _ => shrink_refused ht hb hn,
      fun _ _ _ h hs => ⟨shrink_begins ht hb hn h hs, shrink_uncovered ht hb hn h hs⟩⟩
  case save =>
    exact fun hn => ⟨fun _ h => ⟨drainSave_refused ht hb hn h, fullSave_refused ht hb hn h⟩,
      fun _ _ h => ⟨fun hp => ⟨drainSave_unpinned ht hb hn h hp, fullSave_unpinned ht hb hn h hp⟩, fullSave_begins ht hb hn h,
        drainSave_begins_save ht hb hn h, drainSave_begins_drain ht hb hn h⟩⟩
  case unlink =>
    exact fun hn => ⟨fun _ => qlinkUnlink_refused ht hb hn,
      fun h => ⟨qlinkUnlink_unlinked ht hb hn h, qlinkUnlink_begins ht hb hn h⟩⟩
  case table =>
    exact fun hn => ⟨xdTable_refused ht hb hn,
      fun h w hk ha hv hm => ⟨xdTable_bad ht hb hn hk ha hv hm, xdTable_begins ht hb hn hk ha hv hm⟩, xdTableRemove_begins ht hb hn⟩
  case publish => exact fun hn => ⟨fun _ => xdPublish_begins ht hb hn, xdPublish_refused ht hb hn⟩
  case release => exact fun r hr hq => ⟨release_ends ht hr hq, release_ends_own ht hr hq⟩
  case resume => exact fun r hr hf hd hw => ⟨resume_ends ht hr hf hd hw, resume_fails ht hr hf hd hw⟩
  case saves =>
    refine fun r hl hr hd ho => ⟨fun m h1 => ?_, ?_⟩
    · exact (drainSave_goesOn ht h1 (by decide) (by decide)).trans (congrArg _ (fullMore_saves ht hr hl hd ho))
    · exact (fullSave_goesOn ht).trans (congrArg _ (fullMore_saves ht hr hl hd ho))
  case waited =>
    refine fun r hl hr hw => ⟨?_, ?_⟩
    · exact (drainSave_goesOn ht hl (by decide) (by decide)).trans (congrArg _ (fullMore_begins ht hr hl hw))
    · exact (fullSave_goesOn ht).trans (congrArg _ (fullMore_begins ht hr hl hw))
  case removed =>
    exact fun c m hl h0 hc => ⟨tableGone s (xdKey e), xdTableRemove_ends ht hl h0 hc, tabAt_tableGone⟩
  case published =>
    refine fun m x hl hx hp ha hm hw => ?_
    have hc := publishHeld_eq_false hp ha hm hw
    exact ⟨xdPublish_unreadable ht hl hx hc, fun h w hv =>
      ⟨xdPublish_bad ht hl hx hc hv, xdPublish_raced ht hl hx hc hv, xdPublish_publishes ht hl hx hc hv⟩⟩

end Sys2Proof
end
